-- ==== Sys2Proof/Word.lean ====
section
/-! DEFINITION. The word types of the block and their plainest arithmetic. -/

namespace Sys2Proof

/-- Eight bits: the smallest addressable unit of every storage of the block. -/
abbrev Byte := BitVec 8
/-- A 16-bit field. -/
abbrev Half := BitVec 16
/-- A register word (R577). -/
abbrev Word := BitVec 32
/-- A 64-bit field, scalar register or flag word (R93, R224). -/
abbrev DWord := BitVec 64
/-- A 64-byte descriptor, fabric cell or CXL line, byte `k` in bits `8k+7 .. 8k` (R10). -/
abbrev Bits512 := BitVec 512
/-- A 2,048-byte scratchpad line, byte `k` in bits `8k+7 .. 8k` (R200). -/
abbrev Line := BitVec 16384
/-- A digest, key or fingerprint. -/
abbrev Bits256 := BitVec 256

/-- `width` bits of `x` from bit `lo` up. -/
abbrev field {n : Nat} (x : BitVec n) (lo width : Nat) : BitVec width := x.extractLsb' lo width

/-- `ceil (a / b)` on naturals; 0 when `b` is 0. -/
def ceilDiv (a b : Nat) : Nat := (a + b - 1) / b

/-- The least multiple of `b` at or above `a`. -/
def alignUp (a b : Nat) : Nat := ceilDiv a b * b

/-- The bytes of a bit vector, byte 0 first. -/
def bytesOf {n : Nat} (x : BitVec n) (count : Nat) : List Byte :=
  (List.range count).map fun k => x.extractLsb' (8 * k) 8

/-- The natural number that a little-endian byte list spells (R25, R577). -/
def natOfBytes : List Byte → Nat
  | [] => 0
  | b :: bs => b.toNat + 256 * natOfBytes bs

/-- `count` little-endian bytes of a natural number. -/
def bytesOfNat : Nat → Nat → List Byte
  | 0, _ => []
  | count + 1, n => BitVec.ofNat 8 n :: bytesOfNat count (n / 256)

/-- The numbers of the set bits of a mask, ascending. -/
def bitsSet {n : Nat} (x : BitVec n) : List Nat := (List.range n).filter fun i => x.getLsbD i

end Sys2Proof
end

