-- ==== Sys2Proof/Syntax.lean ====
section
/-! DEFINITION. The commands of the block: one constructor per row of spec/opcode_table.json, with the
operands a sender gives. An operand that is not a field of a descriptor, register or bundle slot is what the
block's surroundings return in that event (a host read's data, a sensor's reading, a condition of a stack word):
the block itself does not decide it. -/

namespace Sys2Proof

/-- The functions of R49. -/
inductive Fn where
  | pf
  | vf (n : Fin 16)
deriving DecidableEq, Repr

/-- One of the 8 ring pairs of a VF (R68). Partition `vf` is driven through VF `vf + 1` (R49). -/
structure RingRef where
  vf : Fin 16
  ring : Fin 8
deriving DecidableEq, Repr

/-- What the device's configuration is compared by (R19 and the settling section of chapter 01): the parts of a
configuration record that the device itself holds. The byte form of a fingerprint's input is not given. -/
structure DeviceConfig where
  islands : BitVec 64
  stackSet : BitVec 8
  /-- window order: region number and whether it is guarded -/
  regions : List (Nat × Bool)
  firmwareMajor : Half
  lcEnable : Bool
  portSet : BitVec 16
  /-- the route tables of the partition's ports, by port and entry, entries that are zero left out (R422, R427) -/
  routes : List (Nat × List (Nat × BitVec 128))
  saveBase : BitVec 27
  saveStride : BitVec 11
deriving DecidableEq, Repr

/-- A tensor that a LAUNCH must bind (R87). -/
structure ArgSpec where
  tensor : Word
  size : Nat
deriving DecidableEq, Repr

/-- One RENNET tensor of a step program (R179, R348). -/
structure RennetSpec where
  tensor : Word
  /-- number of tiles of the whole unsplit tensor (R180) -/
  tiles : Nat
deriving DecidableEq, Repr

/-- The decode attention of one layer in a settled program (R37, R300, R372, R377): SCALE, the query format, query heads
per key head, and whether it is placed on the near-bank engines. -/
structure AttnSite where
  layer : Nat
  scale : Word
  qfmt : BitVec 6
  heads : Nat
  onNbe : Bool
deriving DecidableEq, Repr

/-- The shape of srv.kv on this device (R370, R371) and the srv. tensors' extents (R334). -/
structure ServingShape where
  layers : Nat
  kvhLocal : Nat
  pageTokens : Nat
  headWidth : Nat
  kvFormat : BitVec 6
  exact : Bool
  budgetBeats : Nat
  tokensMax : Nat
  sMax : Nat
  vocab : Nat
  rennet : List RennetSpec
  attn : List AttnSite
deriving DecidableEq, Repr

/-- What the device reads in a settled program's header (R610, R19, R460). Its byte layout is not given, so the
header is an operand of the commands that read it. -/
structure ProgHeader where
  fingerprint : Bits256
  imageDigest : Bits256
  config : DeviceConfig
  latencyCritical : Bool
  serving : Bool
  /-- devices that the program spans, and this device's position among them -/
  devices : Nat
  position : Nat
  /-- bytes of the settled program from PROGRAM on -/
  size : Nat
  /-- offset of the code area from PROGRAM, and its length (R220) -/
  codeOff : Nat
  codeSize : Nat
  /-- footprint (R460) -/
  vats : BitVec 128
  stackSet : BitVec 8
  portSet : BitVec 16
  /-- input, output and state tensors to bind, with their settled sizes (R87) -/
  args : List ArgSpec
  /-- state tensors it writes and parameters it updates (R46, R47) -/
  exclusive : List Word
  /-- per yield point: step id, and per vat number the scratchpad lines of the live set (R213) -/
  yields : List (Nat × List (Nat × List Nat))
  shape : ServingShape
deriving DecidableEq, Repr

/-- Condition of one check word that a stack read meets (R259, R260): the named word has a single-bit error, or an
uncorrectable or parity error. Words not named are good. -/
inductive WordCond where
  | single
  | bad
deriving DecidableEq, Repr

/-- Conditions by 32-bit word number within the access. -/
abbrev Conds := List (Nat × WordCond)

/-- What a read by the device finds in a 32-bit stack word, its re-reads included (R259 to R261, R608): a single-bit
error, which only a guarded region corrects; an error that a re-read finds gone; or one that outlasts the budget. -/
inductive WordErr where
  | single
  | recovered
  | lost
deriving DecidableEq, Repr

/-- Words of the stacks that the reads of one command find with an error, by device physical address / 4. The words
not named are good. -/
abbrev Errs := List (Nat × WordErr)

/-- Whose read a controller re-reads (R261, R511, R618). -/
inductive Consumer where
  | host
  | sld (vat : Fin 128)
  | fetch (vat : Fin 128)
  | nbe (job : Nat)
  | expander (vat : Fin 128)
  | copy (r : RingRef) (id : Nat) (channel : Fin 32)
  | descriptor (r : RingRef) (id : Nat) (path : BitVec 8)
  | prefixLookup (part : Fin 16)
  | patrol
  | save (job : Nat) (vat : Fin 128)
  | restore (job : Nat) (vat : Fin 128)
deriving DecidableEq, Repr

/-- A read of host memory by the device (R506, R508). -/
inductive HostReq where
  | doorbell (r : RingRef)
  | descriptor (r : RingRef)
  | flagWord (r : RingRef)
  | cocoon (part : Fin 16) (tag : DWord)
deriving DecidableEq, Repr

/-- The transport of an SPDM or PLDM message (R64, R546, R554). -/
inductive Transport where
  | doe
  | vdm
  | i3c
deriving DecidableEq, Repr

/-- PORT slot fields (R235) but for OP. -/
structure PortArgs where
  amask : BitVec 8
  reg : Fin 32
  base : Fin 32
  inc : Fin 32
  sel : Bool
  count : BitVec 4
  msel : BitVec 2
  vm : Fin 32
  offset : BitVec 24
deriving DecidableEq, Repr

/-- ARR slot fields (R238). -/
structure ArrArgs where
  amask : BitVec 8
  row : BitVec 6
  sel : Bool
  index : BitVec 6
  last : Bool
  lx : Bool
deriving DecidableEq, Repr

/-- CFG fields of the WGT slot (R239). -/
structure CfgArgs where
  wfmt : BitVec 6
  afmt : BitVec 6
  exact : Bool
  quad : Bool
  raw : Bool
  rmode : Bool
deriving DecidableEq, Repr

/-- DRN slot fields (R240) but for OP. -/
structure DrnArgs where
  amask : BitVec 8
  row : BitVec 6
  reg : Fin 32
  raw : Bool
  qsel : Bool
deriving DecidableEq, Repr

/-- VEC slot fields (R241) but for OP. -/
structure VecArgs where
  vd : Fin 32
  va : Fin 32
  vb : Fin 32
  vc : Fin 32
  fmt : BitVec 6
  rnd : BitVec 2
  gmask : BitVec 8
  sb : Bool
deriving DecidableEq, Repr

/-- XCH slot fields (R243) but for OP. -/
structure XchArgs where
  ra : Fin 32
  rb : Fin 32
  rf : Fin 32
  fbit : BitVec 5
  flag : Bool
  atbeat : Bool
  rt : Fin 32
  lines : BitVec 11
deriving DecidableEq, Repr

/-- A received codeword (R411, R412): `corrected` is none when it is uncorrectable, else the symbols corrected;
`bits` are the 5,140 message bits, the first transmitted in bit 5139. -/
structure Codeword where
  corrected : Option Nat
  bits : BitVec 5140
deriving DecidableEq, Repr

/-- The structure that an uncorrectable SRAM word belongs to (R504): one partition's, or shared state. -/
inductive SramOwner where
  | part (n : Fin 16)
  | device
deriving DecidableEq, Repr

/-- What a REGISTER_WRITE addresses: an offset of the PF's or a VF's BAR0 (R587, R593), or one of the
configuration-space controls of the PF that chapters 02, 14 and 16 name. -/
inductive RegTarget where
  | bar (f : Fn) (offset : BitVec 25)
  /-- SR-IOV: VF Enable with this NumVFs (R454, R456) -/
  | sriov (numVfs : Fin 17)
  /-- Viral enable of CXL 2.0 (R525) -/
  | viralEnable (on : Bool)
  /-- Bus Master Enable (R542) -/
  | busMaster (on : Bool)
  /-- ATS enable of a function (R53) -/
  | ats (f : Fn) (on : Bool)
  /-- an IDE stream is switched on or off (R549) -/
  | ideStream (stream : Fin 3) (on : Bool)
  /-- CXL IDE runs in skid mode or in containment mode (R66) -/
  | ideSkid (on : Bool)
  /-- MSI-X Enable and Function Mask of a function -/
  | msix (f : Fn) (enable mask : Bool)
  /-- an offset of a function's BAR2: its MSI-X table (R51) -/
  | bar2 (f : Fn) (offset : BitVec 16)
deriving DecidableEq, Repr

/-- One request's part of a step plan, as a member that is not the lead receives it (R329, R337, R350). -/
structure PlanEntry where
  entry : Nat
  /-- the 128 bytes of its request-table entry, which the member's replica takes over -/
  row : BitVec 1024
  variant : Half
  /-- the list of page numbers (R378) -/
  pages : List Word
  /-- accepted draft moves: source and destination slot positions (R396) -/
  moves : List (Nat × Nat)
  /-- its entry of the length table, where it is placed (R359) -/
  length : Option (BitVec 128)
  /-- committed tokens that no plan has carried yet, by sequence position -/
  committed : List (Nat × Nat)
  /-- nodes of its draft tree: token, parent and depth (R392), and its mask row (R395) -/
  draft : List (Nat × Nat × Nat)
  maskRow : Option Nat
deriving DecidableEq, Repr

/-- A step plan (R329). -/
structure StepPlan where
  entries : List PlanEntry
  /-- page numbers taken and released at the boundary -/
  taken : List Nat
  released : List Nat
  /-- requests to pause with the numbers of their cocoon buffers and the list indices to save, and to resume with their new
  pages, by table index (R402, R404) -/
  pauses : List (Nat × List Nat × List Nat)
  resumes : List (Nat × List Nat)
  /-- pages that are sealed or that a node names: SEALED and NODE (R374) -/
  pageStates : List (Nat × Bool × Bool)
  /-- token ids of the step's token slots (R334) -/
  tokens : List Nat
  /-- the engine stops at this boundary (R337) -/
  stop : Bool
deriving DecidableEq, Repr

/-- What one KV_APPEND of a step program is given (R376): its layer, the formats of keys and values, and by token slot and
local head the codes of a vector's elements. -/
structure KvAppend where
  layer : Nat
  keyFmt : BitVec 6
  valFmt : BitVec 6
  keys : List (List (List Nat))
  vals : List (List (List Nat))
deriving DecidableEq, Repr

/-- The commands: one constructor per row of spec/opcode_table.json, in the table's order. What a command's reads meet in
the stacks, a scratchpad or a cache may be left out where they meet nothing. -/
inductive Instr where
  -- ring descriptors (02, 03): the next unstarted descriptor of the ring starts
  | nop (r : RingRef)
  | launch (r : RingRef) (hdr : Option ProgHeader) (errs : Errs := [])
  | fence (r : RingRef)
  | flagSet (r : RingRef) (old : Option DWord) (written : Bool) (errs : Errs := [])
  | flagWait (r : RingRef) (word : Option DWord) (errs : Errs := [])
  | biasSet (r : RingRef)
  | undefinedOpcode (r : RingRef)
  | copy (r : RingRef) (errs : Errs := [])
  | fill (r : RingRef) (errs : Errs := [])
  | relayout (r : RingRef) (errs : Errs := [])
  | gather (r : RingRef) (errs : Errs := [])
  | scatter (r : RingRef) (errs : Errs := [])
  -- serving descriptors (11, 12)
  | reqSubmit (r : RingRef) (errs : Errs := [])
  | reqCancel (r : RingRef)
  | reqControlPause (r : RingRef)
  | reqControlResume (r : RingRef)
  | reqControlPriority (r : RingRef)
  | reqControlDeadline (r : RingRef)
  | reqRead (r : RingRef)
  | variantReg (r : RingRef) (errs : Errs := [])
  | variantUnreg (r : RingRef)
  | serveStart (r : RingRef) (hdr : Option ProgHeader) (errs : Errs := [])
  | serveStop (r : RingRef)
  | pageUpdate (r : RingRef)
  | cocoonSupply (r : RingRef) (addrs : Option (List DWord))
  | cocoonReclaim (r : RingRef)
  -- rings and host link (02, 08, 14, 16)
  | ringEvent (r : RingRef) (line : Option Bits512)
  | descriptorFetch (r : RingRef) (d : Option Bits512)
  | completionRecordWrite (r : RingRef) (ok : Bool)
  | irqTimeExpiry (r : RingRef)
  | ringEnable (r : RingRef)
  | ringDisable (r : RingRef)
  | restart (r : RingRef) (line : Option Bits512)
  | flagLineLoss (r : RingRef) (word : Option DWord) (errs : Errs := [])
  | flagWaitTimeout (r : RingRef)
  | hostCompletionTimeout (q : HostReq)
  | hostMemRead (hpa : DWord) (conds : Conds)
  | hostMemWrite (hpa : DWord) (data : Bits512) (be : BitVec 64) (poison : Bool) (errs : Errs)
  | hdmDecoderCommit (d : Fin 4) (base size : DWord) (ew gb : Nat) (skip : DWord) (pos : Nat)
  | vfFlr (n : Fin 16)
  | vfEnableClear
  | ideFail (stream : Fin 3)
  -- DOE, SPDM, IDE (02, 17)
  | doeDiscovery (index : Byte)
  | cdatTableAccess (entry : Half)
  | getVersion (p : Transport)
  | getCapabilities (p : Transport)
  | negotiateAlgorithms (p : Transport)
  | getDigests (p : Transport)
  | getCertificate (p : Transport) (offset length : Half)
  | challenge (p : Transport) (nonce : Bits256)
  | getMeasurements (p : Transport) (index : Byte) (signed : Bool) (nonce : Bits256)
  | keyExchange (p : Transport) (exchange : Bits512)
  | finish (p : Transport) (verified : Bool)
  | heartbeat (p : Transport)
  | keyUpdate (p : Transport)
  | endSession (p : Transport)
  | ideKmKeyProg (stream : Fin 3) (dir : Fin 2) (keySet : Fin 2) (key : Bits256)
  | keySetGo (stream : Fin 3) (dir : Fin 2) (keySet : Fin 2)
  -- bundles (07)
  | bundle (v : Fin 128) (parity : Bool) (cacheParity : Bool := false)
  | jmp (v : Fin 128) (imm : Word)
  | brz (v : Fin 128) (ra : Fin 32) (imm : Word)
  | brnz (v : Fin 128) (ra : Fin 32) (imm : Word)
  | brlt (v : Fin 128) (ra rb : Fin 32) (imm : Word)
  | loop (v : Fin 128) (ra : Fin 32) (imm : Word)
  | bsync (v : Fin 128) (ra : Fin 32) (imm : Word)
  | bsyncRelease (v : Fin 128)
  | waitf (v : Fin 128) (ra rb : Fin 32) (cond : Bool) (imm : Word) (parity : Bool := false)
  | yield (v : Fin 128) (imm : Word)
  | trap (v : Fin 128) (imm : Word)
  | endJob (v : Fin 128)
  | add (v : Fin 128) (rd ra rb : Fin 32)
  | sub (v : Fin 128) (rd ra rb : Fin 32)
  | and (v : Fin 128) (rd ra rb : Fin 32)
  | or (v : Fin 128) (rd ra rb : Fin 32)
  | xor (v : Fin 128) (rd ra rb : Fin 32)
  | shl (v : Fin 128) (rd ra rb : Fin 32)
  | shr (v : Fin 128) (rd ra rb : Fin 32)
  | sra (v : Fin 128) (rd ra rb : Fin 32)
  | mul (v : Fin 128) (rd ra rb : Fin 32)
  | slt (v : Fin 128) (rd ra rb : Fin 32)
  | addi (v : Fin 128) (rd ra : Fin 32) (imm : Half)
  | shli16 (v : Fin 128) (rd ra : Fin 32) (imm : Half)
  | andi (v : Fin 128) (rd ra : Fin 32) (imm : Half)
  | shli (v : Fin 128) (rd ra : Fin 32) (imm : Half)
  | shri (v : Fin 128) (rd ra : Fin 32) (imm : Half)
  | rdb (v : Fin 128) (rd : Fin 32)
  | rdl (v : Fin 128) (rd : Fin 32) (imm : Half)
  | rdid (v : Fin 128) (rd : Fin 32)
  | lda (v : Fin 128) (a : PortArgs) (parity : Bool)
  | ldw (v : Fin 128) (a : PortArgs) (parity : Bool)
  | ldv (v : Fin 128) (a : PortArgs) (parity : Bool)
  | stv (v : Fin 128) (a : PortArgs)
  | lds (v : Fin 128) (a : PortArgs) (parity : Bool)
  | sts (v : Fin 128) (a : PortArgs)
  | ldd (v : Fin 128) (a : PortArgs) (parity : Bool)
  | ldt (v : Fin 128) (a : PortArgs) (parity : Bool)
  | arrIssue (v : Fin 128) (a : ArrArgs)
  | swap (v : Fin 128) (amask : BitVec 8)
  | cfg (v : Fin 128) (amask : BitVec 8) (c : CfgArgs)
  | ceil (v : Fin 128) (amask : BitVec 8) (reg : Fin 32)
  | ovl (v : Fin 128) (amask : BitVec 8) (start count : BitVec 10)
  | ovlu (v : Fin 128) (amask : BitVec 8) (start count : BitVec 10)
  | ovlc (v : Fin 128) (amask : BitVec 8)
  | drain (v : Fin 128) (a : DrnArgs)
  | preload (v : Fin 128) (a : DrnArgs)
  | setrc (v : Fin 128) (a : DrnArgs)
  | fadd (v : Fin 128) (a : VecArgs)
  | fsub (v : Fin 128) (a : VecArgs)
  | fmul (v : Fin 128) (a : VecArgs)
  | fmax (v : Fin 128) (a : VecArgs)
  | fmin (v : Fin 128) (a : VecArgs)
  | fma (v : Fin 128) (a : VecArgs)
  | fcmplt (v : Fin 128) (a : VecArgs)
  | fcmpeq (v : Fin 128) (a : VecArgs)
  | iadd (v : Fin 128) (a : VecArgs)
  | isub (v : Fin 128) (a : VecArgs)
  | iand (v : Fin 128) (a : VecArgs)
  | ior (v : Fin 128) (a : VecArgs)
  | ixor (v : Fin 128) (a : VecArgs)
  | ishl (v : Fin 128) (a : VecArgs)
  | ishr (v : Fin 128) (a : VecArgs)
  | islt (v : Fin 128) (a : VecArgs)
  | cvtf (v : Fin 128) (a : VecArgs)
  | cvti (v : Fin 128) (a : VecArgs)
  | mxq (v : Fin 128) (a : VecArgs)
  | exp2 (v : Fin 128) (a : VecArgs)
  | rcp (v : Fin 128) (a : VecArgs)
  | log (v : Fin 128) (a : VecArgs)
  | rsqrt (v : Fin 128) (a : VecArgs)
  | xadd (v : Fin 128) (a : VecArgs)
  | xcvt (v : Fin 128) (a : VecArgs)
  | rmax (v : Fin 128) (a : VecArgs)
  | rsum (v : Fin 128) (a : VecArgs)
  | sld (v : Fin 128) (x : XchArgs)
  | sst (v : Fin 128) (x : XchArgs) (parity : Bool)
  | put (v : Fin 128) (x : XchArgs) (parity : Bool)
  | send (v : Fin 128) (x : XchArgs) (parity : Bool)
  | nbj (v : Fin 128) (x : XchArgs)
  -- vat events (06, 07, 13)
  | sendDepart (v : Fin 128) (slot : Fin 8)
  | inboundWrite (v : Fin 128) (errs : Errs := [])
  | sstComplete (v : Fin 128) (slot : Fin 8) (errs : Errs)
  | icacheFill (v : Fin 128) (errs : Errs := [])
  | yieldBarrier (job : Nat)
  | saveComplete (job : Nat) (failed : Option (Fin 128))
  | restore (job : Nat)
  | restoreComplete (job : Nat) (failed : Option (Fin 128))
  | vatClear (v : Fin 128)
  | jobStart (job : Nat)
  -- near-bank engines (09)
  | nbeJobAccept (job : Nat) (errs : Errs := [])
  | matvec (job : Nat) (parity : Bool := false) (errs : Errs := [])
  | attnScore (job : Nat) (parity : Bool := false) (errs : Errs := [])
  | attnValue (job : Nat) (parity : Bool := false) (errs : Errs := [])
  | move (job : Nat) (errs : Errs := [])
  | nbeJobComplete (job : Nat)
  -- copy channels and stacks (03, 08)
  | copyPieceComplete (r : RingRef) (id piece : Nat) (channel : Fin 32) (errs : Errs)
  | granuleReread (dpa : DWord) (consumer : Consumer) (conds : Conds)
  | ceLeakPeriod (s : Fin 8)
  | patrolScrub (dpa : DWord) (conds : Conds)
  | refresh (s : Fin 8) (pc : Fin 64) (bank : Fin 32)
  | refreshNormalRate (s : Fin 8)
  -- serving events (11, 12)
  | stepBoundary (n : Fin 16) (errs : Errs := [])
  | stepPlan (n : Fin 16) (plan : StepPlan) (errs : Errs := [])
  | stepProgramEnd (n : Fin 16) (logits : Option (List (List Word))) (appends : List KvAppend := []) (errs : Errs := [])
  | cocoonWriteComplete (n : Fin 16) (tag : DWord) (ok : Bool) (errs : Errs := [])
  | cocoonReadComplete (n : Fin 16) (tag : DWord) (readable : Bool) (stream : List Byte)
  -- fabric and timebase (13)
  | frameReceive (p : Fin 16) (c : Codeword)
  | replayTimeout (p : Fin 16)
  | beacon (p : Fin 16) (errorPs : Nat)
  | holdReq (p : Fin 16)
  | announce (p : Fin 16)
  | abort (p : Fin 16)
  | train (p : Fin 16)
  | trainingComplete (p : Fin 16)
  | trainingTimeout (p : Fin 16) (tooLong : Bool)
  | lightLoss (p : Fin 16)
  | transferReceive (p : Fin 16)
  | transferAck (p : Fin 16)
  | fabTimeout (v : Fin 128) (slot : Fin 8)
  | quantumBoundary
  | beaconLoss
  | holdStart (s : Fin 16)
  | holdEnd (s : Fin 16)
  | portEnable (p : Fin 16)
  | portDisable (p : Fin 16)
  | forceDown (p : Fin 16)
  | fabRtSel (n : Fin 16) (w : Word)
  | fabRtDataWrite (n : Fin 16) (w : Word)
  -- partitions and errors (14, 16)
  | partitionEnable (n : Fin 16)
  | partitionTeardown (n : Fin 16)
  | teardownComplete (n : Fin 16)
  | sramUncorrectable (o : SramOwner)
  | slowdownUpdate (n : Fin 16) (busy wait stk net host srv : Nat)
  -- power and temperature (15)
  | throttleUpdate (p10us : Half)
  | powerTrim (p1ms : Half) (energyMj : Nat)
  | capUnmet
  | divReqChange (up : Bool)
  | vpointIdle (i : Fin 96)
  | voltageRiseComplete (i : Fin 96)
  | sensorConversion (k : Fin 416)
  | conversionResult (k : Fin 416) (raw : BitVec 12) (rateLow : Bool)
  | conversionTimeout (k : Fin 416)
  | thermalLimitClear
  -- registers (16, 18, 19)
  | errConsumeWrite (w : Word)
  | errVfRecRead (n : Fin 16)
  | evcClaimRead (t : Fin 3)
  | evcCompleteWrite (t : Fin 3) (w : Word)
  | evcSrcClear (j : Fin 256)
  | evcQHeadWrite (f : Fn) (w : Word)
  | extInAssert (j : Fin 2)
  | hifRingStatusRead (r : RingRef)
  | fabPortStatusRead (p : Fin 16)
  | fabRtStatusRead (n : Fin 16)
  | pwrStatusRead
  | errStatusRead
  | evcQLostRead (f : Fn)
  | genStatusRead
  | genUnlock (w : Word)
  | tstMuxCtlWrite (w : Word)
  | registerWrite (t : RegTarget) (w : Word)
  -- management, boot and pins (17, 18, 20)
  | setEndpointId (p : Transport) (eid : Byte)
  | getSensorReading (p : Transport) (id : Byte)
  | setNumericEffecterValue (p : Transport) (id : Byte) (value : Half)
  | setEventReceiver (p : Transport) (eid : Byte)
  | requestUpdate (p : Transport)
  | verifyComplete (image : List Byte)
  | applyComplete (ok : Bool)
  | activateFirmware (p : Transport)
  | restoreFactory (p : Transport)
  | eventClaim (p : Transport)
  | eventComplete (p : Transport) (source : Byte)
  | readError (p : Transport) (seq : Word)
  | setSensorOffset (p : Transport) (sensor : Half) (offset : Byte)
  | secRcvGo
  | recoveryUploadComplete (image : Option (List Byte)) (flashOk : Bool) (second : Option (List Byte))
  | entropyFail
  | perstAssert
  | perstRelease (entropyOk : Bool)
  | vinBrownout
  | vinGood (entropyOk : Bool)
  | vauxLoss
  | lateStart (job : Nat)
  | extInDeassert (j : Fin 2)
  | laserInputChange (e : Fin 8) (ok : Bool)
  | vauxGood (entropyOk : Bool)
  | refclkStable (entropyOk : Bool)
  | tapInstruction (boundaryScan : Bool) (code : Half)
deriving DecidableEq, Repr

end Sys2Proof
end

