-- ==== Sys2Proof/WellFormed.lean ====
section
/-! DEFINITION. Which commands are well formed: the operands that a sender gives but the types of Syntax.lean do not
bound. An ill-formed command spells nothing that the block's surroundings can send. -/

namespace Sys2Proof

/-- Word numbers in range and named once. -/
def condsOk (words : Nat) (c : Conds) : Bool :=
  c.all (fun x => decide (x.1 < words)) && decide ((c.map (·.1)).Nodup)

/-- The errors that a command's reads find name each word once. -/
def errsOk (e : Errs) : Bool := decide ((e.map (·.1)).Nodup)

/-- A codeword that the decoder corrected has at most 15 symbol errors (R411). -/
def codewordOk (c : Codeword) : Bool := match c.corrected with
  | some n => decide (n ≤ 15)
  | none => true

/-- The saved lines of a yield point: each vat once, with its lines 0 to 2,047 in rising order (R213). -/
def savesOk (y : Nat × List (Nat × List Nat)) : Bool :=
  decide ((y.2.map (·.1)).Nodup) && y.2.all fun (v, ls) =>
    decide (v < 128) && ls.all (fun l => decide (l < 2048)) && decide (ls.Pairwise (· < ·))

/-- A step program's header: a rennet list and yield list that name each item once. -/
def headerOk (h : ProgHeader) : Bool :=
  decide (1 ≤ h.devices) && decide (h.position < h.devices) && decide ((h.yields.map (·.1)).Nodup) && h.yields.all savesOk &&
    decide ((h.args.map (·.tensor)).Nodup) && decide ((h.shape.rennet.map (·.tensor)).Nodup)

/-- The words of a 64-byte access and of a 32-byte granule. -/
def accessWords : Nat := 16
def granuleWords : Nat := 8

/-- Well-formed commands. -/
def Instr.wf (i : Instr) : Bool :=
  match i with
  | .launch _ (some h) e => headerOk h && errsOk e
  | .launch _ _ e => errsOk e
  | .flagSet _ _ _ e => errsOk e
  | .flagWait _ _ e => errsOk e
  | .copy _ e => errsOk e
  | .fill _ e => errsOk e
  | .relayout _ e => errsOk e
  | .gather _ e => errsOk e
  | .scatter _ e => errsOk e
  | .reqSubmit _ e => errsOk e
  | .variantReg _ e => errsOk e
  | .serveStart _ (some h) e => headerOk h && errsOk e
  | .serveStart _ _ e => errsOk e
  | .flagLineLoss _ _ e => errsOk e
  | .hostMemWrite _ _ _ _ e => errsOk e
  | .inboundWrite _ e => errsOk e
  | .sstComplete _ _ e => errsOk e
  | .icacheFill _ e => errsOk e
  | .nbeJobAccept _ e => errsOk e
  | .matvec _ _ e => errsOk e
  | .attnScore _ _ e => errsOk e
  | .attnValue _ _ e => errsOk e
  | .move _ e => errsOk e
  | .copyPieceComplete _ _ _ _ e => errsOk e
  | .stepBoundary _ e => errsOk e
  | .stepPlan _ _ e => errsOk e
  | .stepProgramEnd _ _ _ e => errsOk e
  | .cocoonWriteComplete _ _ _ e => errsOk e
  | .hostMemRead _ c => condsOk accessWords c
  | .granuleReread _ _ c => condsOk granuleWords c
  | .patrolScrub _ c => condsOk granuleWords c
  | .frameReceive _ c => codewordOk c
  | _ => true

end Sys2Proof
end

