-- ==== Sys2Proof/Decode.lean ====
section
/-! DEFINITION. The command that a word of spec/opcode_table.json spells. The table gives no row any bits, so no word
spells a command. -/

namespace Sys2Proof

/-- The rows of the table that give bits: none. -/
def tableBits : List (Nat × Nat × Instr) := []

/-- The command that the low `nbits` bits of `w` spell by the table's bits. -/
def decodeTableWord (nbits w : Nat) : Option Instr :=
  (tableBits.find? fun r => r.1 == nbits && r.2.1 == w % 2 ^ nbits).map fun r => r.2.2

end Sys2Proof
end

