-- ==== Sys2Proof/Config.lean ====
section
/-! DEFINITION. What the spec leaves open: free values (opaque constants without a body, so that no proof can see
what they are) and functions that the spec takes from other standards without restating them. A free value is
applied to State.freshCount, which the meaning that draws it advances, or to the operands it depends on. -/

namespace Sys2Proof.Config

/-- An unspecified byte of stack memory, by draw and device physical address (R264, R265; log 6). -/
opaque freeByte : Nat → Nat → Byte

/-- An unspecified value of `w` bits, by draw (log 9). -/
opaque freeBits : Nat → (w : Nat) → BitVec w

/-- SHA-256 of the signing keys that OTP holds from manufacture, by KEY_INDEX (R537). -/
opaque otpKeyHash : Nat → Bits256

/-- The random number that an ECDSA signature uses, by draw (R546). -/
opaque signNonce : Nat → Nat

/-- Whether a debug token verifies under an OTP key of R537 and names this SHA-256 of a DeviceID public key: the layout
of a token is not given (R551). -/
opaque tokenValid : Bits256 → List Byte → Bool

/-- The device's unique secret (R544), as its bytes; no rule exposes it. -/
opaque uds : List Byte

/-- The DER bytes of the four certificates of slot 0 for an image digest, an SVN and the six version bytes (R545). -/
opaque certChain : Bits256 → Nat → Nat → List Byte

/-- SHA-256 of the boot ROM (R547, measurement 1). -/
opaque romDigest : Bits256

/-- The bytes that measurement 5 hashes, made from the partition set-up registers and HDM decoders: no rule gives their
order and form (R547). -/
opaque setupBytes : List Nat → List Byte

/-- The exchange data that the DRBG draws for a KEY_EXCHANGE (R546, R550), by draw. -/
opaque keyExchangeDraw : Nat → Bits512

/-- An unspecified value of `w` bits in a numbered place, by draw and place (log 9). -/
opaque freeAt : Nat → Nat → (w : Nat) → BitVec w

/-- The Microscaling scale that accompanies the activation vector or a weight of an array issue: no rule of chapters
06 and 07 says how it reaches the array (R191; log 14). Draw, array, 0 activation or 1 weight, row, column. -/
opaque arrayScale : Nat → Nat → Nat → Nat → Nat → Byte

/-- The code table that an NBE's expander holds for an identifier: no rule says how it gets there (R177, R293; log 27).
Draw and identifier. -/
opaque nbeTable : Nat → Nat → BitVec 1024

/-- The 256-bit prefix key that the DRBG draws at a SERVE_START (R550), by draw. -/
opaque prefixKeyDraw : Nat → Bits256

/-- What a check of R43 that depends on tile shapes, placement and routes reports: no rule fixes those (R42; log 107).
The check's number, the image and the numbers of the configuration record. -/
opaque settleCheck : Nat → List Byte → List Nat → Option Nat

/-- Where a settled program keeps the query rows and takes the outputs of a decode attention job on the near-bank engines:
ACT, DST and DST_STRIDE (R288, R302; log 123). By the program's window offset, its layer, and the job's number and KIND. -/
opaque attnPlace : Nat → Nat → Nat → Nat → Word × DWord × Word

/-- What the host's caches return when the device takes a line of a host-bias page over CXL.cache: its 64 bytes where
the host held it modified (R60, R62). By the number of outputs made before, and the line's device physical address. -/
opaque hostLine : Nat → Nat → Option Bits512

/-- The host physical address that the host's translation agent returns to a function for one of its addresses (R53). By
the number of outputs made before. -/
opaque translated : Nat → Nat → DWord → DWord

/-- Width and rate at which the host link trains, as indices into the three of R48. By the number of outputs made
before. -/
opaque linkWidth : Nat → Fin 3
opaque linkRate : Nat → Fin 3

/-- The gradients that an ATTN_BWD step computes, before their format: R36 names them, and no rule gives its operands'
order or the rounding of its sums (log 105). By the weights formed again, the operands' elements, the output and the
element. -/
opaque gradient : List (List (BitVec 32)) → List (List Nat) → Nat → Nat → BitVec 32

/-- Scale bytes of a curd tensor of a Microscaling format: R174 and R175 place its elements alone (log 106). By tensor
and vector. -/
opaque curdScale : Nat → Nat → Byte

/-- Cells that a port's receiver can hold (R413 gives no size). -/
opaque recvCells : Nat

/-- Whether, at a beat, the partner of a port takes its beat from that port, so that the port leads down the tree (R414,
R430): the partner's TMB_CTL says so, which this device does not see. -/
opaque downPort : Nat → Nat → Bool

/-- TDO data of a TAP instruction in debug state (R551), by draw and instruction. -/
opaque tapData : Nat → Half → List Byte

end Sys2Proof.Config
end

