-- ==== Sys2Proof/Machine/Num.lean ====
section
/-! DEFINITION. Number formats, exact values and rounding (chapter 04, R141 to R146). -/

namespace Sys2Proof.Machine

/-- An exact value: `fin neg m e` stands for `m × 2^e` with that sign, so that −0 keeps its sign. -/
inductive Val where
  | nan
  | inf (neg : Bool)
  | fin (neg : Bool) (m : Nat) (e : Int)
deriving DecidableEq, Repr

/-- The rounding modes of R145. -/
inductive Rnd where
  | rne
  | zero
  | odd
deriving DecidableEq, Repr

/-- RND of a VEC slot and ROUNDING of a CONVERT (R241); 3 names no mode. -/
def rndOf (x : Nat) : Option Rnd :=
  match x with
  | 0 => some .rne
  | 1 => some .zero
  | 2 => some .odd
  | _ => none

/-- The kinds of element (R141). -/
inductive ElemKind where
  /-- mantissa bits, bias, code of the largest finite, code of infinity, code of the canonical NaN -/
  | float (mbits : Nat) (bias : Nat) (maxCode : Nat) (infCode nanCode : Option Nat)
  /-- two's complement integers, each counting `2^(-frac)` -/
  | int (frac : Nat)
deriving DecidableEq, Repr

/-- An element format: its width and kind, its c_max, and for a Microscaling format the element's emax (R141, R143). -/
structure Fmt where
  width : Nat
  kind : ElemKind
  cmax : Int
  /-- `some emax_elem` for a Microscaling format -/
  mx : Option Int
deriving DecidableEq, Repr

def fmtE2M1 : Fmt := { width := 4, kind := .float 1 1 7 none none, cmax := 3, mx := none }
def fmtE3M2 : Fmt := { width := 6, kind := .float 2 3 31 none none, cmax := 5, mx := none }
def fmtE2M3 : Fmt := { width := 6, kind := .float 3 1 31 none none, cmax := 3, mx := none }
def fmtE4M3 : Fmt := { width := 8, kind := .float 3 7 0x7E none (some 0x7F), cmax := 9, mx := none }
def fmtE5M2 : Fmt := { width := 8, kind := .float 2 15 0x7B (some 0x7C) (some 0x7E), cmax := 16, mx := none }
def fmtInt8 : Fmt := { width := 8, kind := .int 0, cmax := 8, mx := none }
def fmtInt4 : Fmt := { width := 4, kind := .int 0, cmax := 4, mx := none }
def fmtBf16 : Fmt := { width := 16, kind := .float 7 127 0x7F7F (some 0x7F80) (some 0x7FC0), cmax := 128, mx := none }
def fmtFp16 : Fmt := { width := 16, kind := .float 10 15 0x7BFF (some 0x7C00) (some 0x7E00), cmax := 16, mx := none }
def fmtFp32 : Fmt :=
  { width := 32, kind := .float 23 127 0x7F7FFFFF (some 0x7F800000) (some 0x7FC00000), cmax := 128, mx := none }
def fmtInt32 : Fmt := { width := 32, kind := .int 0, cmax := 32, mx := none }

/-- The format of a code of R33, EXACT80 (0x0C) apart; `none` for EXACT80 and for a code that R33 does not list. -/
def fmtOf (code : Nat) : Option Fmt :=
  match code with
  | 0x01 => some fmtE2M1
  | 0x02 => some fmtE3M2
  | 0x03 => some fmtE2M3
  | 0x04 => some fmtE4M3
  | 0x05 => some fmtE5M2
  | 0x06 => some fmtInt8
  | 0x07 => some fmtInt4
  | 0x08 => some fmtBf16
  | 0x09 => some fmtFp16
  | 0x0A => some fmtFp32
  | 0x0B => some fmtInt32
  | 0x10 => some { fmtE4M3 with mx := some 8 }
  | 0x11 => some { fmtE5M2 with mx := some 15 }
  | 0x12 => some { fmtE3M2 with mx := some 4 }
  | 0x13 => some { fmtE2M3 with mx := some 2 }
  | 0x14 => some { fmtE2M1 with mx := some 2 }
  | 0x15 => some { width := 8, kind := .int 6, cmax := 2, mx := some 0 }
  | _ => none

/-- EXACT80's code (R33). -/
def codeExact80 : Nat := 0x0C

/-- Width in bits by format code (R106); 0 for a code that R33 does not list. -/
def fmtWidth (code : Nat) : Nat :=
  if code = codeExact80 then 80 else match fmtOf code with | some f => f.width | none => 0

/-- A code that R33 lists. -/
def fmtKnown (code : Nat) : Bool := decide (code = codeExact80) || (fmtOf code).isSome

/-- A Microscaling code. -/
def fmtIsMx (code : Nat) : Bool := match fmtOf code with | some f => f.mx.isSome | none => false

/-- An integer format: INT4, INT8, INT32. MXINT8 is a Microscaling format (R143). -/
def fmtIsInt (code : Nat) : Bool :=
  match fmtOf code with | some { kind := .int _, mx := none, .. } => true | _ => false

/-- A floating-point format, Microscaling ones included, EXACT80 not. -/
def fmtIsFloat (code : Nat) : Bool := (fmtOf code).isSome && !fmtIsInt code

/-- Two's complement reading of the low `w` bits of `x`. -/
def signedOf (w x : Nat) : Int :=
  let y := x % 2 ^ w
  if y < 2 ^ (w - 1) then (y : Int) else (y : Int) - (2 ^ w : Nat)

/-- The value that the low bits of `x` have as an unscaled element (R141, R143). -/
def elemVal (f : Fmt) (x : Nat) : Val :=
  match f.kind with
  | .int frac => let n := signedOf f.width x; .fin (decide (n < 0)) n.natAbs (-(frac : Int))
  | .float mb bias maxCode infCode _ =>
    let neg := x.testBit (f.width - 1)
    let mag := x % 2 ^ (f.width - 1)
    if mag ≤ maxCode then
      let ex := mag / 2 ^ mb
      let m := mag % 2 ^ mb
      if ex = 0 then .fin neg m (1 - (bias : Int) - mb)
      else .fin neg (m + 2 ^ mb) ((ex : Int) - bias - mb)
    else if infCode = some mag then .inf neg else .nan

/-- Multiply by `2^k`. -/
def Val.scale (v : Val) (k : Int) : Val :=
  match v with
  | .fin n m e => .fin n m (e + k)
  | v => v

/-- The value of a Microscaling element under scale byte `x` (R143). -/
def mxVal (f : Fmt) (scale : Nat) (x : Nat) : Val :=
  if scale = 0xFF then .nan else (elemVal f x).scale ((scale : Int) - 127)

def Val.neg (v : Val) : Val :=
  match v with
  | .nan => .nan
  | .inf n => .inf !n
  | .fin n m e => .fin (!n) m e

def Val.abs (v : Val) : Val :=
  match v with
  | .nan => .nan
  | .inf _ => .inf false
  | .fin _ m e => .fin false m e

def Val.isNan (v : Val) : Bool := match v with | .nan => true | _ => false
def Val.isInf (v : Val) : Bool := match v with | .inf _ => true | _ => false
def Val.isFin (v : Val) : Bool := match v with | .fin .. => true | _ => false
def Val.isZero (v : Val) : Bool := match v with | .fin _ m _ => decide (m = 0) | _ => false
def Val.isNeg (v : Val) : Bool := match v with | .nan => false | .inf n => n | .fin n _ _ => n

/-- The sign applied to a magnitude. -/
def signedMag (neg : Bool) (m : Nat) : Int := if neg then -(m : Int) else (m : Int)

/-- Exact addition; an exact zero is −0 only where both operands are negative (IEEE 754 under RNE, R155). -/
def Val.add (a b : Val) : Val :=
  match a, b with
  | .nan, _ => .nan
  | _, .nan => .nan
  | .inf n, .inf k => if n = k then .inf n else .nan
  | .inf n, .fin .. => .inf n
  | .fin .., .inf n => .inf n
  | .fin n1 m1 e1, .fin n2 m2 e2 =>
    let e := min e1 e2
    let t := signedMag n1 (m1 <<< (e1 - e).toNat) + signedMag n2 (m2 <<< (e2 - e).toNat)
    if t = 0 then .fin (n1 && n2) 0 e else .fin (decide (t < 0)) t.natAbs e

/-- Exact multiplication; `0 × ∞` is NaN. -/
def Val.mul (a b : Val) : Val :=
  match a, b with
  | .nan, _ => .nan
  | _, .nan => .nan
  | .inf n, .inf k => .inf (n != k)
  | .inf n, .fin k m _ => if m = 0 then .nan else .inf (n != k)
  | .fin n m _, .inf k => if m = 0 then .nan else .inf (n != k)
  | .fin n1 m1 e1, .fin n2 m2 e2 => .fin (n1 != n2) (m1 * m2) (e1 + e2)

/-- Exact comparison; false with a NaN, and −0 is not less than +0 (IEEE 754). -/
def Val.lt (a b : Val) : Bool :=
  match a, b with
  | .nan, _ => false
  | _, .nan => false
  | .inf n, .inf k => n && !k
  | .inf n, .fin .. => n
  | .fin .., .inf n => !n
  | .fin n1 m1 e1, .fin n2 m2 e2 =>
    let e := min e1 e2
    decide (signedMag n1 (m1 <<< (e1 - e).toNat) < signedMag n2 (m2 <<< (e2 - e).toNat))

/-- Exact equality; false with a NaN, true of −0 and +0 (IEEE 754). -/
def Val.eqv (a b : Val) : Bool := !a.isNan && !b.isNan && !a.lt b && !b.lt a

/-- The larger value with −0 below +0 and any NaN making NaN (R122). -/
def Val.max (a b : Val) : Val :=
  if a.isNan || b.isNan then .nan
  else if a.lt b then b else if b.lt a then a else if a.isNeg then b else a

/-- The smaller value, likewise (R122). -/
def Val.min (a b : Val) : Val :=
  if a.isNan || b.isNan then .nan
  else if a.lt b then a else if b.lt a then b else if a.isNeg then a else b

/-- The ceiling of a non-zero finite value: the smallest `e` with `|x| < 2^e`; `none` is the −∞ of zero, and
NaN and infinities have none. -/
def Val.ceiling (v : Val) : Option Int :=
  match v with
  | .fin _ m e => if m = 0 then none else some ((Nat.log2 m : Nat) + 1 + e)
  | _ => none

/-- The magnitude `m × 2^k` rounded to an integer (R145). -/
def roundMag (r : Rnd) (m : Nat) (k : Int) : Nat :=
  if 0 ≤ k then m <<< k.toNat
  else
    let sh := (-k).toNat
    let q := m >>> sh
    let rest := m % 2 ^ sh
    match r with
    | .zero => q
    | .odd => if rest = 0 then q else q ||| 1
    | .rne => if 2 ^ sh < 2 * rest || (decide (2 * rest = 2 ^ sh) && decide (q % 2 = 1)) then q + 1 else q

/-- The code of the magnitude `m × 2^e` on a float's grid before the largest finite is applied. -/
def floatCode (mb bias : Nat) (r : Rnd) (m : Nat) (e : Int) : Nat :=
  if m = 0 then 0
  else
    let top : Int := (Nat.log2 m : Nat) + e
    let ex := max top (1 - (bias : Int))
    let n := roundMag r m (e - (ex - mb))
    ((ex + bias - 1) * (2 ^ mb : Nat) + n).toNat

/-- Conversion into an element format (R146). `asMx` makes the destination one without infinity (R143). -/
def encodeElem (f : Fmt) (r : Rnd) (asMx : Bool) (v : Val) : Nat :=
  match f.kind with
  | .int frac =>
    let hi : Int := 2 ^ (f.width - 1) - 1
    let lo : Int := -(2 ^ (f.width - 1))
    let n : Int :=
      match v with
      | .nan => 0
      | .inf neg => if neg then lo else hi
      | .fin neg m e => signedMag neg (roundMag r m (e + frac))
    let c := if n < lo then lo else if hi < n then hi else n
    (c % (2 ^ f.width : Nat)).toNat
  | .float mb bias maxCode infCode nanCode =>
    let sgn (neg : Bool) : Nat := if neg then 2 ^ (f.width - 1) else 0
    match v with
    | .nan => if asMx then 0 else nanCode.getD 0
    | .inf neg =>
      match asMx, infCode with
      | false, some c => sgn neg + c
      | _, _ => sgn neg + maxCode
    | .fin neg m e =>
      let c := floatCode mb bias r m e
      if c ≤ maxCode then sgn neg + c
      else match asMx, infCode, r with
        | false, some ic, .rne => sgn neg + ic
        | _, _, _ => sgn neg + maxCode

/-- Conversion of one value into a non-Microscaling format (R146). -/
def encodeVal (f : Fmt) (r : Rnd) (v : Val) : Nat := encodeElem f r false v

/-- The largest magnitude of a list, by exact comparison. -/
def maxMag : List Val → Val
  | [] => .fin false 0 0
  | v :: vs => let w := maxMag vs; if w.lt v.abs then v.abs else w

/-- Conversion of one block of 32 values into a Microscaling format: the scale and the elements (R144). -/
def mxBlock (f : Fmt) (r : Rnd) (vs : List Val) : Nat × List Nat :=
  if vs.any (fun v => !v.isFin) then (0xFF, vs.map fun _ => 0)
  else match (maxMag vs).ceiling with
    | none => (0, vs.map fun _ => 0)
    | some c =>
      let x := max 0 (min 254 (c - 1 - (f.mx.getD 0) + 127))
      (x.toNat, vs.map fun v => encodeElem f r true (v.scale (127 - x)))

/-- The value of element bits `x` of a format code under scale byte `scale` (ignored unless Microscaling). -/
def codeVal (f : Fmt) (scale x : Nat) : Val := if f.mx.isSome then mxVal f scale x else elemVal f x

/-- Element `k` of a packed run of elements of `w` bits (R105). -/
def elemAt {n : Nat} (x : BitVec n) (w k : Nat) : Nat := (x.toNat >>> (w * k)) % 2 ^ w

/-- Pack elements of `w` bits, the first in the lowest bits (R105). -/
def packElems (w : Nat) : List Nat → Nat
  | [] => 0
  | x :: xs => x % 2 ^ w + 2 ^ w * packElems w xs

end Sys2Proof.Machine
end

