-- ==== Sys2Proof/Machine/Fp32.lean ====
section
/-! DEFINITION. FP32 arithmetic and the special functions (R142, R157 to R160, R165, R166). -/

namespace Sys2Proof.Machine

/-- The exact value of an FP32 word. -/
def fVal (w : Word) : Val := elemVal fmtFp32 w.toNat

/-- `rn`: round the exact value to FP32 to nearest, ties to even; NaN becomes QNAN (R142, R158). -/
def fRn (v : Val) : Word := BitVec.ofNat 32 (encodeVal fmtFp32 .rne v)

def qnan : Word := 0x7FC00000
def fInf : Word := 0x7F800000
def fNegInf : Word := 0xFF800000
def fOne : Word := 0x3F800000
def fLn2 : Word := 0x3F317218
def fLog2e : Word := 0x3FB8AA3B

def fAdd (a b : Word) : Word := fRn ((fVal a).add (fVal b))
def fSub (a b : Word) : Word := fRn ((fVal a).add (fVal b).neg)
def fMul (a b : Word) : Word := fRn ((fVal a).mul (fVal b))
/-- `rn(a × b + c)` with a single rounding. -/
def fFma (a b c : Word) : Word := fRn (((fVal a).mul (fVal b)).add (fVal c))
/-- Maximum with the NaN and signed-zero rule of R122 (R157). -/
def fMax (a b : Word) : Word := fRn ((fVal a).max (fVal b))
/-- Minimum likewise. -/
def fMin (a b : Word) : Word := fRn ((fVal a).min (fVal b))
def fLt (a b : Word) : Bool := (fVal a).lt (fVal b)
def fEq (a b : Word) : Bool := (fVal a).eqv (fVal b)
def fNeg (a : Word) : Word := a ^^^ 0x80000000
def fAbs (a : Word) : Word := a &&& 0x7FFFFFFF
def fIsNan (a : Word) : Bool := (fVal a).isNan
/-- `rn(y × 2^n)`. -/
def fScale (y : Word) (n : Int) : Word := fRn ((fVal y).scale n)
/-- The FP32 value of an integer, rounded to nearest even. -/
def fOfInt (k : Int) : Word := fRn (.fin (decide (k < 0)) k.natAbs 0)
/-- The magnitude of `a` with the sign of `x`. -/
def fCopysign (a x : Word) : Word := fAbs a ||| (x &&& 0x80000000)

/-- The exact pair `x = m × 2^e`, `1 ≤ m < 2`, of a finite non-zero magnitude: `m` as FP32, and `e`. -/
def fDecompose (x : Word) : Word × Int :=
  match (fVal x).abs with
  | .fin _ m e => (fRn (.fin false m (-(Nat.log2 m : Nat))), (Nat.log2 m : Nat) + e)
  | _ => (fOne, 0)

/-- TE[j] = 2^(j/64) to the nearest FP32 (R158). -/
def tabTE : List Word :=
  [0x3F800000, 0x3F8164D2, 0x3F82CD87, 0x3F843A29, 0x3F85AAC3, 0x3F871F62, 0x3F88980F, 0x3F8A14D5,
   0x3F8B95C2, 0x3F8D1ADF, 0x3F8EA43A, 0x3F9031DC, 0x3F91C3D3, 0x3F935A2B, 0x3F94F4F0, 0x3F96942D,
   0x3F9837F0, 0x3F99E046, 0x3F9B8D3A, 0x3F9D3EDA, 0x3F9EF532, 0x3FA0B051, 0x3FA27043, 0x3FA43516,
   0x3FA5FED7, 0x3FA7CD94, 0x3FA9A15B, 0x3FAB7A3A, 0x3FAD583F, 0x3FAF3B79, 0x3FB123F6, 0x3FB311C4,
   0x3FB504F3, 0x3FB6FD92, 0x3FB8FBAF, 0x3FBAFF5B, 0x3FBD08A4, 0x3FBF179A, 0x3FC12C4D, 0x3FC346CD,
   0x3FC5672A, 0x3FC78D75, 0x3FC9B9BE, 0x3FCBEC15, 0x3FCE248C, 0x3FD06334, 0x3FD2A81E, 0x3FD4F35B,
   0x3FD744FD, 0x3FD99D16, 0x3FDBFBB8, 0x3FDE60F5, 0x3FE0CCDF, 0x3FE33F89, 0x3FE5B907, 0x3FE8396A,
   0x3FEAC0C7, 0x3FED4F30, 0x3FEFE4BA, 0x3FF28177, 0x3FF5257D, 0x3FF7D0DF, 0x3FFA83B3, 0x3FFD3E0C]

/-- RL[j] = 1 / (1 + j/64) to the nearest FP32 (R158). -/
def tabRL : List Word :=
  [0x3F800000, 0x3F7C0FC1, 0x3F783E10, 0x3F74898D, 0x3F70F0F1, 0x3F6D7304, 0x3F6A0EA1, 0x3F66C2B4,
   0x3F638E39, 0x3F607038, 0x3F5D67C9, 0x3F5A740E, 0x3F579436, 0x3F54C77B, 0x3F520D21, 0x3F4F6475,
   0x3F4CCCCD, 0x3F4A4588, 0x3F47CE0C, 0x3F4565C8, 0x3F430C31, 0x3F40C0C1, 0x3F3E82FA, 0x3F3C5264,
   0x3F3A2E8C, 0x3F381703, 0x3F360B61, 0x3F340B41, 0x3F321643, 0x3F302C0B, 0x3F2E4C41, 0x3F2C7692,
   0x3F2AAAAB, 0x3F28E83F, 0x3F272F05, 0x3F257EB5, 0x3F23D70A, 0x3F2237C3, 0x3F20A0A1, 0x3F1F1166,
   0x3F1D89D9, 0x3F1C09C1, 0x3F1A90E8, 0x3F191F1A, 0x3F17B426, 0x3F164FDA, 0x3F14F209, 0x3F139A86,
   0x3F124925, 0x3F10FDBC, 0x3F0FB824, 0x3F0E7835, 0x3F0D3DCB, 0x3F0C08C1, 0x3F0AD8F3, 0x3F09AE41,
   0x3F088889, 0x3F0767AB, 0x3F064B8A, 0x3F053408, 0x3F042108, 0x3F03126F, 0x3F020821, 0x3F010204]

/-- TL[j] = ln(1 + j/64) to the nearest FP32 (R158). -/
def tabTL : List Word :=
  [0x00000000, 0x3C7E0546, 0x3CFC14D8, 0x3D3BA2C8, 0x3D785186, 0x3D9A0EBD, 0x3DB78694, 0x3DD4936A,
   0x3DF1383B, 0x3E06BBF4, 0x3E14AA98, 0x3E22695B, 0x3E2FF984, 0x3E3D5C48, 0x3E4A92D5, 0x3E579E4A,
   0x3E647FBE, 0x3E71383B, 0x3E7DC8C3, 0x3E851927, 0x3E8B3AE5, 0x3E914A10, 0x3E974716, 0x3E9D3263,
   0x3EA30C5E, 0x3EA8D56C, 0x3EAE8DEE, 0x3EB43641, 0x3EB9CEC0, 0x3EBF57C2, 0x3EC4D19C, 0x3ECA3CA1,
   0x3ECF991F, 0x3ED4E765, 0x3EDA27BC, 0x3EDF5A6D, 0x3EE47FBE, 0x3EE997F4, 0x3EEEA350, 0x3EF3A213,
   0x3EF8947B, 0x3EFD7AC4, 0x3F012A95, 0x3F0391F3, 0x3F05F397, 0x3F084F9D, 0x3F0AA61F, 0x3F0CF736,
   0x3F0F42FB, 0x3F118987, 0x3F13CAF1, 0x3F16074F, 0x3F183EBA, 0x3F1A7145, 0x3F1C9F07, 0x3F1EC813,
   0x3F20EC7F, 0x3F230C5E, 0x3F2527C3, 0x3F273EC1, 0x3F295169, 0x3F2B5FCF, 0x3F2D6A02, 0x3F2F7015]

/-- TR[j] = 1 / (1 + (j + 0.5)/128) to the nearest FP32 (R158). Part 0. -/
def tabTR0 : List Word :=
  [0x3F7F00FF, 0x3F7D08E5, 0x3F7B1885, 0x3F792FB2, 0x3F774E40, 0x3F757404, 0x3F73A0D5, 0x3F71D48C,
   0x3F700F01, 0x3F6E500F, 0x3F6C9791, 0x3F6AE564, 0x3F693965, 0x3F679373, 0x3F65F36D, 0x3F645933,
   0x3F62C4A7, 0x3F6135AA, 0x3F5FAC1F, 0x3F5E27EB, 0x3F5CA8F1, 0x3F5B2F17, 0x3F59BA42, 0x3F584A5A,
   0x3F56DF44, 0x3F5578E9, 0x3F541733, 0x3F52BA08, 0x3F516154, 0x3F500D01, 0x3F4EBCF9, 0x3F4D7127,
   0x3F4C2978, 0x3F4AE5D8, 0x3F49A634, 0x3F486A79, 0x3F473294, 0x3F45FE74, 0x3F44CE08, 0x3F43A13E,
   0x3F427806, 0x3F415250, 0x3F40300C, 0x3F3F112B, 0x3F3DF59D, 0x3F3CDD53, 0x3F3BC841, 0x3F3AB656,
   0x3F39A786, 0x3F389BC3, 0x3F379301, 0x3F368D31, 0x3F358A48, 0x3F348A3A, 0x3F338CFA, 0x3F32927C,
   0x3F319AB6, 0x3F30A59B, 0x3F2FB322, 0x3F2EC33E, 0x3F2DD5E6, 0x3F2CEB10, 0x3F2C02B0, 0x3F2B1CBE]

/-- TR[j] = 1 / (1 + (j + 0.5)/128) to the nearest FP32 (R158). Part 1. -/
def tabTR1 : List Word :=
  [0x3F2A392F, 0x3F2957FB, 0x3F287917, 0x3F279C7B, 0x3F26C21E, 0x3F25E9F7, 0x3F2513FD, 0x3F244029,
   0x3F236E72, 0x3F229ECF, 0x3F21D13A, 0x3F2105A9, 0x3F203C17, 0x3F1F747A, 0x3F1EAECD, 0x3F1DEB07,
   0x3F1D2922, 0x3F1C6917, 0x3F1BAADF, 0x3F1AEE73, 0x3F1A33CD, 0x3F197AE7, 0x3F18C3BB, 0x3F180E41,
   0x3F175A75, 0x3F16A850, 0x3F15F7CC, 0x3F1548E5, 0x3F149B93, 0x3F13EFD2, 0x3F13459C, 0x3F129CEC,
   0x3F11F5BD, 0x3F115009, 0x3F10ABCC, 0x3F100901, 0x3F0F67A2, 0x3F0EC7AB, 0x3F0E2918, 0x3F0D8BE3,
   0x3F0CF009, 0x3F0C5584, 0x3F0BBC51, 0x3F0B246B, 0x3F0A8DCD, 0x3F09F874, 0x3F09645C, 0x3F08D181,
   0x3F083FDE, 0x3F07AF70, 0x3F072033, 0x3F069223, 0x3F06053C, 0x3F05797C, 0x3F04EEDD, 0x3F04655E,
   0x3F03DCF9, 0x3F0355AD, 0x3F02CF75, 0x3F024A4E, 0x3F01C636, 0x3F014328, 0x3F00C122, 0x3F004020]

/-- TR[j] = 1 / (1 + (j + 0.5)/128) to the nearest FP32 (R158). -/
def tabTR : List Word := tabTR0 ++ tabTR1

/-- TS[j] = 1 / sqrt(1 + (j + 0.5)/64) to the nearest FP32 (R158). Part 0. -/
def tabTS0 : List Word :=
  [0x3F7F017E, 0x3F7D0D3E, 0x3F7B2452, 0x3F79464E, 0x3F7772CB, 0x3F75A969, 0x3F73E9CB, 0x3F723399,
   0x3F708681, 0x3F6EE232, 0x3F6D4660, 0x3F6BB2C5, 0x3F6A271A, 0x3F68A31D, 0x3F672691, 0x3F65B139,
   0x3F6442DB, 0x3F62DB41, 0x3F617A36, 0x3F601F87, 0x3F5ECB04, 0x3F5D7C7F, 0x3F5C33CC, 0x3F5AF0BF,
   0x3F59B330, 0x3F587AF7, 0x3F5747EE, 0x3F5619F2, 0x3F54F0DF, 0x3F53CC93, 0x3F52ACEE, 0x3F5191D1,
   0x3F507B1D, 0x3F4F68B6, 0x3F4E5A7F, 0x3F4D505E, 0x3F4C4A38, 0x3F4B47F4, 0x3F4A497A, 0x3F494EB3,
   0x3F485787, 0x3F4763E2, 0x3F4673AC, 0x3F4586D3, 0x3F449D42, 0x3F43B6E6, 0x3F42D3AD, 0x3F41F383,
   0x3F411659, 0x3F403C1C, 0x3F3F64BD, 0x3F3E902C, 0x3F3DBE58, 0x3F3CEF34, 0x3F3C22B1, 0x3F3B58C0,
   0x3F3A9154, 0x3F39CC60, 0x3F3909D6, 0x3F3849AA, 0x3F378BD0, 0x3F36D03D, 0x3F3616E4, 0x3F355FBA]

/-- TS[j] = 1 / sqrt(1 + (j + 0.5)/64) to the nearest FP32 (R158). Part 1. -/
def tabTS1 : List Word :=
  [0x3F34AAB4, 0x3F33F7C9, 0x3F3346ED, 0x3F329816, 0x3F31EB3B, 0x3F314052, 0x3F309752, 0x3F2FF032,
   0x3F2F4AE9, 0x3F2EA76E, 0x3F2E05BA, 0x3F2D65C3, 0x3F2CC782, 0x3F2C2AF0, 0x3F2B9004, 0x3F2AF6B7,
   0x3F2A5F03, 0x3F29C8E0, 0x3F293446, 0x3F28A131, 0x3F280F98, 0x3F277F76, 0x3F26F0C4, 0x3F26637D,
   0x3F25D79A, 0x3F254D15, 0x3F24C3EA, 0x3F243C11, 0x3F23B587, 0x3F233045, 0x3F22AC46, 0x3F222985,
   0x3F21A7FE, 0x3F2127AC, 0x3F20A889, 0x3F202A91, 0x3F1FADC0, 0x3F1F3210, 0x3F1EB77F, 0x3F1E3E06,
   0x3F1DC5A3, 0x3F1D4E52, 0x3F1CD80D, 0x3F1C62D1, 0x3F1BEE9B, 0x3F1B7B67, 0x3F1B0930, 0x3F1A97F3,
   0x3F1A27AE, 0x3F19B85B, 0x3F1949F8, 0x3F18DC82, 0x3F186FF5, 0x3F18044E, 0x3F17998A, 0x3F172FA5,
   0x3F16C69E, 0x3F165E70, 0x3F15F718, 0x3F159095, 0x3F152AE3, 0x3F14C5FF, 0x3F1461E7, 0x3F13FE97]

/-- TS[j] = 1 / sqrt(1 + (j + 0.5)/64) to the nearest FP32 (R158). Part 2. -/
def tabTS2 : List Word :=
  [0x3F139C0E, 0x3F133A49, 0x3F12D945, 0x3F127900, 0x3F121978, 0x3F11BAA9, 0x3F115C92, 0x3F10FF30,
   0x3F10A281, 0x3F104684, 0x3F0FEB35, 0x3F0F9092, 0x3F0F369A, 0x3F0EDD4A, 0x3F0E84A0, 0x3F0E2C9B,
   0x3F0DD538, 0x3F0D7E75, 0x3F0D2851, 0x3F0CD2C9, 0x3F0C7DDC, 0x3F0C2988, 0x3F0BD5CB, 0x3F0B82A4,
   0x3F0B3010, 0x3F0ADE0E, 0x3F0A8C9D, 0x3F0A3BBA, 0x3F09EB64, 0x3F099B9A, 0x3F094C59, 0x3F08FDA1,
   0x3F08AF6F, 0x3F0861C3, 0x3F08149B, 0x3F07C7F5, 0x3F077BD0, 0x3F07302A, 0x3F06E503, 0x3F069A58,
   0x3F065029, 0x3F060674, 0x3F05BD38, 0x3F057474, 0x3F052C25, 0x3F04E44C, 0x3F049CE7, 0x3F0455F4,
   0x3F040F72, 0x3F03C961, 0x3F0383BF, 0x3F033E8B, 0x3F02F9C3, 0x3F02B568, 0x3F027176, 0x3F022DEF,
   0x3F01EAD0, 0x3F01A818, 0x3F0165C6, 0x3F0123DA, 0x3F00E253, 0x3F00A12E, 0x3F00606D, 0x3F00200C]

/-- TS[j] = 1 / sqrt(1 + (j + 0.5)/64) to the nearest FP32 (R158). -/
def tabTS : List Word := tabTS0 ++ tabTS1 ++ tabTS2

/-- E1, E2, E3: ln 2, (ln 2)^2 / 2 and (ln 2)^3 / 6 to the nearest FP32 (R158). -/
def constE1 : Word := 0x3F317218
def constE2 : Word := 0x3E75FDF0
def constE3 : Word := 0x3D635847
/-- L2, L3, L4: −0.5, 1/3 and −0.25 (R158). -/
def constL2 : Word := 0xBF000000
def constL3 : Word := 0x3EAAAAAB
def constL4 : Word := 0xBE800000

/-- Entry `j` of a table of R158. -/
def tabEntry (t : List Word) (j : Nat) : Word := t.getD j 0

/-- `zn_exp2` of R158. -/
def znExp2 (x : Word) : Word :=
  if fIsNan x then qnan
  else if !fLt x 0x43000000 then fInf
  else if fLt x 0xC3160000 then 0
  else match (fVal x).scale 6 with
    | .fin neg m e =>
      let k := signedMag neg (roundMag .rne m e)
      let r := fSub x (fScale (fOfInt k) (-6))
      let j := (k % 64).toNat
      let n := k / 64
      let q := fFma (fFma constE3 r constE2) r constE1
      let p := fMul q r
      let t := tabEntry tabTE j
      fScale (fFma t p t) n
    | _ => qnan

/-- `zn_log` of R158. -/
def znLog (x : Word) : Word :=
  if fIsNan x || fLt x 0 then qnan
  else if fEq x 0 then fNegInf
  else if x = fInf then fInf
  else
    let (m, e) := fDecompose x
    let j := match (fVal (fSub m fOne)).scale 6 with | .fin _ mm ee => roundMag .rne mm ee | _ => 0
    let (m, e, j) := if j = 64 then (fScale m (-1), e + 1, 0) else (m, e, j)
    let r := fFma m (tabEntry tabRL j) (fNeg fOne)
    let q := fFma (fFma (fFma constL4 r constL3) r constL2) r fOne
    let p := fMul q r
    let t := fFma (fOfInt e) fLn2 (tabEntry tabTL j)
    fAdd p t

/-- `zn_recip` of R158. -/
def znRecip (x : Word) : Word :=
  if fIsNan x then qnan
  else if fEq x 0 then fCopysign fInf x
  else if (fVal x).isInf then fCopysign 0 x
  else
    let (m, e) := fDecompose x
    let j := match (fVal (fSub m fOne)).scale 7 with | .fin _ mm ee => roundMag .zero mm ee | _ => 0
    let y := tabEntry tabTR j
    let y := fFma y (fFma (fNeg m) y fOne) y
    let y := fFma y (fFma (fNeg m) y fOne) y
    fCopysign (fScale y (-e)) x

/-- One Newton step of `zn_rsqrt`. -/
def rsqrtStep (m y : Word) : Word := fFma (fMul y 0x3F000000) (fFma (fNeg m) (fMul y y) fOne) y

/-- `zn_rsqrt` of R158. -/
def znRsqrt (x : Word) : Word :=
  if fIsNan x || fLt x 0 then qnan
  else if fEq x 0 then fCopysign fInf x
  else if x = fInf then 0
  else
    let (m, e) := fDecompose x
    let (m, e) := if e % 2 = 1 then (fScale m 1, e - 1) else (m, e)
    let j := match (fVal (fSub m fOne)).scale 6 with | .fin _ mm ee => roundMag .zero mm ee | _ => 0
    fScale (rsqrtStep m (rsqrtStep m (tabEntry tabTS j))) (-(e / 2))

/-- SiLU of R159. -/
def silu (x : Word) : Word :=
  if x = fNegInf then 0x80000000
  else
    let a := fMul (fNeg x) fLog2e
    let b := znExp2 a
    let c := fAdd fOne b
    fMul x (znRecip c)

end Sys2Proof.Machine
end

