-- ==== Sys2Proof/Machine/Accum.lean ====
section
/-! DEFINITION. The long accumulator and fast accumulation (R147 to R156, R619), and the row statistics that every
unit shares (R160). -/

namespace Sys2Proof.Machine

/-- The 80-bit integer S of R147. -/
abbrev Acc := BitVec 80

def accNan : Acc := 0x80000000000000000000#80
def accNegInf : Acc := 0x80000000000000000001#80
def accPosInf : Acc := 0x7FFFFFFFFFFFFFFFFFFF#80
/-- The largest finite S. -/
def accMax : Int := 2 ^ 79 - 2

/-- S as a special value or an integer (R147). -/
inductive AccVal where
  | nan
  | inf (neg : Bool)
  | fin (s : Int)
deriving DecidableEq, Repr

def accView (s : Acc) : AccVal :=
  if s = accNan then .nan
  else if s = accNegInf then .inf true
  else if s = accPosInf then .inf false
  else .fin s.toInt

/-- S from a view; `none` where a finite sum leaves the finite range of R147. -/
def accOf (v : AccVal) : Option Acc :=
  match v with
  | .nan => some accNan
  | .inf true => some accNegInf
  | .inf false => some accPosInf
  | .fin s => if -accMax ≤ s ∧ s ≤ accMax then some (BitVec.ofInt 80 s) else none

/-- S from a view, saturated once (R154). -/
def accSat (v : AccVal) : Acc :=
  match v with
  | .nan => accNan
  | .inf true => accNegInf
  | .inf false => accPosInf
  | .fin s => BitVec.ofInt 80 (if s < -accMax then -accMax else if accMax < s then accMax else s)

/-- Two partial sums combined (R150, R152). -/
def accCombine (a b : AccVal) : AccVal :=
  match a, b with
  | .nan, _ => .nan
  | _, .nan => .nan
  | .inf n, .inf k => if n = k then .inf n else .nan
  | .inf n, .fin _ => .inf n
  | .fin _, .inf n => .inf n
  | .fin x, .fin y => .fin (x + y)

/-- One term on the grid `2^(A-55)`, rounded in mode `r`: R149 rounds to odd, R619 in the conversion's mode. -/
def accTermIn (r : Rnd) (anchor : Int) (v : Val) : AccVal :=
  match v with
  | .nan => .nan
  | .inf n => .inf n
  | .fin n m e => .fin (signedMag n (roundMag r m (e - (anchor - 55))))

/-- One term of a reduction (R149). -/
def accTerm (anchor : Int) (v : Val) : AccVal := accTermIn .odd anchor v

/-- The value that S stands for (R147); S = 0 is +0 (R151). -/
def accVal (anchor : Int) (a : AccVal) : Val :=
  match a with
  | .nan => .nan
  | .inf n => .inf n
  | .fin s => .fin (decide (s < 0)) s.natAbs (anchor - 55)

/-- The descriptor window's anchor (R154). -/
def windowAnchor : Int := 24

/-- A sum under anchor `A` brought into the descriptor window (R151, R154). -/
def accToWindow (anchor : Int) (a : AccVal) : AccVal :=
  match a with
  | .fin s => .fin (signedMag (decide (s < 0)) (roundMag .odd s.natAbs (anchor - windowAnchor)))
  | a => a

/-- The sum of many terms under one anchor. -/
def accSum (anchor : Int) (vs : List Val) : AccVal :=
  vs.foldl (fun a v => accCombine a (accTerm anchor v)) (.fin 0)

/-- The largest ceiling of a list of values; `none` where all are zero or special. -/
def maxCeiling (vs : List Val) : Option Int :=
  vs.foldl (fun c v => match c, v.ceiling with
    | none, d => d
    | c, none => c
    | some a, some b => some (max a b)) none

/-- `ceil(log2 k)`. -/
def ceilLog2 (k : Nat) : Nat := if k ≤ 1 then 0 else Nat.log2 (k - 1) + 1

/-- g of R148. -/
def anchorG (k : Nat) : Int := ((ceilLog2 k - 24 : Nat) : Int)

/-- The anchor of a plain sum (R148). Where no term has a ceiling every anchor gives the same result. -/
def plainAnchor (vs : List Val) (k : Nat) : Int := (maxCeiling vs).getD 0 + anchorG k

/-- The exact sum of one group of products, not yet rounded; an exact zero is −0 only where every product is (R155). -/
def groupSum : List Val → Val
  | [] => .fin false 0 0
  | [v] => v
  | v :: vs => v.add (groupSum vs)

/-- Row statistics of R160 over the live and other elements: M, L and every output. -/
structure RowStats where
  m : Word
  l : Word
  e : List Word
  p : List Word
deriving DecidableEq, Repr

/-- R160 for one row; `live` pairs each input with whether it is live. -/
def rowStats (xs : List (Word × Bool)) : RowStats :=
  let lives := (xs.filter (·.2)).map (·.1)
  if lives.any (fun x => fIsNan x || x = fInf) then
    { m := qnan, l := qnan, e := xs.map fun _ => qnan, p := xs.map fun _ => qnan }
  else if !lives.any (fun x => fLt fNegInf x) then
    { m := fNegInf, l := 0, e := xs.map fun _ => 0, p := xs.map fun _ => 0 }
  else
    let m := lives.foldl fMax fNegInf
    let e := xs.map fun (x, lv) => if lv then znExp2 (fMul (fSub x m) fLog2e) else 0
    let a : Int := 1 + anchorG xs.length
    let l := fRn (accVal a (accSum a (e.map fVal)))
    let r := znRecip l
    { m := m, l := l, e := e, p := e.map fun x => fMul x r }

end Sys2Proof.Machine
end

