-- ==== Sys2Proof/Machine/Tab.lean ====
section
/-! DEFINITION. Tables: finite maps from numbers as lists of pairs with rising keys, the form in which State holds
every array and memory; and sets of numbers as lists of disjoint half-open ranges. -/

namespace Sys2Proof.Machine

/-- A finite map; a key that is not listed has the default its reader names. -/
abbrev Tab (β : Type) := List (Nat × β)

/-- The entry of key `k`, if one is listed. -/
def tabFind {β : Type} : Tab β → Nat → Option β
  | [], _ => none
  | (j, v) :: t, k => if j = k then some v else tabFind t k

/-- The value at `k`, or `d` where none is listed. -/
def tabGet {β : Type} (d : β) (t : Tab β) (k : Nat) : β := (tabFind t k).getD d

/-- List `v` at `k`, in key order. -/
def tabPut {β : Type} (k : Nat) (v : β) : Tab β → Tab β
  | [] => [(k, v)]
  | (j, w) :: t => if k < j then (k, v) :: (j, w) :: t else if k = j then (k, v) :: t else (j, w) :: tabPut k v t

/-- Take `k` out. -/
def tabErase {β : Type} (k : Nat) : Tab β → Tab β
  | [] => []
  | (j, w) :: t => if j = k then tabErase k t else (j, w) :: tabErase k t

/-- Set the value at `k`; the default is never listed. -/
def tabSet {β : Type} [DecidableEq β] (d : β) (t : Tab β) (k : Nat) (v : β) : Tab β :=
  if v = d then tabErase k t else tabPut k v t

/-- Replace the value at `k` by a function of it. -/
def tabMod {β : Type} [DecidableEq β] (d : β) (t : Tab β) (k : Nat) (f : β → β) : Tab β :=
  tabSet d t k (f (tabGet d t k))

/-- Set consecutive keys from `k` on. -/
def tabSetList {β : Type} [DecidableEq β] (d : β) (t : Tab β) (k : Nat) : List β → Tab β
  | [] => t
  | v :: vs => tabSetList d (tabSet d t k v) (k + 1) vs

/-- Keys strictly rising. -/
def tabSorted {β : Type} : Tab β → Bool
  | [] => true
  | (j, _) :: t => (match t with | [] => true | (k, _) :: _ => decide (j < k)) && tabSorted t

/-- Insert by ascending key, after equal keys. -/
def insertBy {α : Type} (key : α → Nat) (x : α) : List α → List α
  | [] => [x]
  | y :: ys => if key x < key y then x :: y :: ys else y :: insertBy key x ys

/-- Sort by ascending key, keeping the order of equal keys. -/
def sortBy {α : Type} (key : α → Nat) (xs : List α) : List α := xs.foldl (fun t x => insertBy key x t) []

/-- A set of numbers: half-open ranges `lo ≤ x < hi`, rising, none empty, none touching the next. -/
abbrev Ranges := List (Nat × Nat)

/-- Membership. -/
def rangesMem (x : Nat) : Ranges → Bool
  | [] => false
  | (lo, hi) :: t => (decide (lo ≤ x) && decide (x < hi)) || rangesMem x t

/-- Whether some number of `lo ≤ x < hi` is in the set. -/
def rangesMeet (lo hi : Nat) : Ranges → Bool
  | [] => false
  | (a, b) :: t => decide (max a lo < min b hi) || rangesMeet lo hi t

/-- Whether every number of `lo ≤ x < hi` is in the set (canonical sets). -/
def rangesCover (lo hi : Nat) (r : Ranges) : Bool :=
  decide (hi ≤ lo) || r.any fun (a, b) => decide (a ≤ lo) && decide (hi ≤ b)

/-- Add `lo ≤ x < hi`. -/
def rangesAddAux (lo hi : Nat) : Ranges → Ranges
  | [] => [(lo, hi)]
  | (a, b) :: t =>
    if hi < a then (lo, hi) :: (a, b) :: t
    else if b < lo then (a, b) :: rangesAddAux lo hi t
    else rangesAddAux (min lo a) (max hi b) t

/-- Add `lo ≤ x < hi`; an empty range adds nothing. -/
def rangesAdd (lo hi : Nat) (r : Ranges) : Ranges := if lo < hi then rangesAddAux lo hi r else r

/-- Take `lo ≤ x < hi` out. -/
def rangesSub (lo hi : Nat) : Ranges → Ranges
  | [] => []
  | (a, b) :: t =>
    let left := if a < min b lo then [(a, min b lo)] else []
    let right := if max a hi < b then [(max a hi, b)] else []
    if hi ≤ lo then (a, b) :: rangesSub lo hi t else left ++ right ++ rangesSub lo hi t

/-- Rising, not empty, not touching. -/
def rangesWf : Ranges → Bool
  | [] => true
  | (a, b) :: t => decide (a < b) && (match t with | [] => true | (c, _) :: _ => decide (b < c)) && rangesWf t

/-- The numbers of the set that lie in `lo ≤ x < hi`, ascending: what a walk over them visits. -/
def rangesCount (lo hi : Nat) : Ranges → Nat
  | [] => 0
  | (a, b) :: t => (min b hi - max a lo) + rangesCount lo hi t

end Sys2Proof.Machine
end

