-- ==== Sys2Proof/Machine/StMem.lean ====
section
/-! DEFINITION. Stack memory, the stacks' registers and the HDM decoders as plain data (chapters 02 and 08). -/

namespace Sys2Proof.Machine

/-- Stack memory by device physical address. A byte that has no cell and is in no zeroed range has no value of its
own: a reader draws a free byte (R264, R265; log 6). -/
structure Mem where
  /-- the bytes other than zero that were written, by rising address -/
  cells : List Host.Cell
  /-- the bytes that are zero: written so, or scrubbed (R266) -/
  zeroed : Ranges
  /-- bytes of check words marked as poisoned (R262) -/
  marked : Ranges
  /-- 4 KiB pages in device bias (R59) -/
  bias : Ranges
deriving DecidableEq, Repr

/-- STK_REGION[n] (R257). -/
structure Region where
  scrub : Bool := false
  guarded : Bool := true
deriving DecidableEq, Repr

/-- Registers and controller state of one stack (R275 to R282). -/
structure StackRegs where
  hot : Bool := false
  forceDouble : Bool := false
  allBank : Bool := false
  /-- FORCE_DOUBLE and ALL_BANK in force since the last refresh interval boundary (R276) -/
  forceDoubleNow : Bool := false
  allBankNow : Bool := false
  leak : Half := 60
  /-- LEAK of the period under way, which a write of LEAK does not change (R280) -/
  leakNow : Half := 60
  /-- beat at which the leak period under way began -/
  leakStart : Nat := 0
  level : Byte := 0
  limit : Byte := 32
  ceCount : DWord := 0
  ueCount : DWord := 0
  /-- beat from which every non-suspect sensor of the stack has read 82 °C or less (R275) -/
  coolSince : Option Nat := none
  /-- all-bank interval at the double rate: whether the next is the 488-beat one (R273) -/
  longInterval : Bool := false
deriving DecidableEq, Repr

/-- A granule whose controller re-reads it (R261, R526, R608). -/
structure Reread where
  /-- device physical address of the granule -/
  dpa : Nat
  consumer : Consumer
  /-- re-reads made -/
  tries : Nat
  /-- 32-bit words of the granule that have failed so far -/
  failing : List Nat
  /-- a word that had failed was found good by a re-read -/
  recovered : Bool
  /-- the single-bit errors of this access have been counted -/
  counted : Bool
deriving DecidableEq, Repr

/-- A host access that waits behind a granule under re-read (R509, R526). -/
inductive HostAcc where
  | read (hpa : DWord) (conds : Conds)
  | write (hpa : DWord) (data : Bits512) (be : BitVec 64) (poison : Bool) (errs : Errs)
deriving DecidableEq, Repr

/-- One HDM decoder (R54, R251, R252). -/
structure Hdm where
  committed : Bool := false
  error : Bool := false
  base : Nat := 0
  size : Nat := 0
  ew : Nat := 0
  gb : Nat := 8
  skip : Nat := 0
  pos : Nat := 0
  /-- DPA base (R252) -/
  dbase : Nat := 0
deriving DecidableEq, Repr

end Sys2Proof.Machine
end

