-- ==== Sys2Proof/Machine/Memory.lean ====
section
/-! DEFINITION. Stack memory's byte operations, and the address functions of chapter 08 (R247 to R266). -/

namespace Sys2Proof.Machine

/-- The value of an address that is not listed: 0 where the range was scrubbed, otherwise none (R264, R266). -/
def unlisted (zeroed : Ranges) (a : Nat) : Option Byte := if rangesMem a zeroed then some 0 else none

/-- One byte; none where nothing has been written. -/
def Mem.byte (m : Mem) (a : Nat) : Option Byte :=
  match tabFind m.cells a with
  | some b => some b
  | none => unlisted m.zeroed a

/-- `len` bytes from `a` on, out of cells at or above `a`; an unwritten byte is a free one (R265). -/
def readRun (draw : Nat) (zeroed : Ranges) : Nat → List Host.Cell → Nat → List Byte
  | 0, _, _ => []
  | n + 1, [], a => (unlisted zeroed a).getD (Config.freeByte draw a) :: readRun draw zeroed n [] (a + 1)
  | n + 1, (k, b) :: t, a =>
    if k = a then b :: readRun draw zeroed n t (a + 1)
    else (unlisted zeroed a).getD (Config.freeByte draw a) :: readRun draw zeroed n ((k, b) :: t) (a + 1)

/-- `len` bytes from `a` on. -/
def Mem.read (m : Mem) (draw a len : Nat) : List Byte :=
  readRun draw m.zeroed len (m.cells.dropWhile fun c => c.1 < a) a

/-- The cells that `bs` at `a` needs: a zero byte has no cell. -/
def newCells : Nat → List Byte → List Host.Cell
  | _, [] => []
  | a, b :: bs => if b = 0 then newCells (a + 1) bs else (a, b) :: newCells (a + 1) bs

/-- The addresses of the zero bytes of `bs` at `a` join a set. -/
def newZeros : Nat → List Byte → Ranges → Ranges
  | _, [], r => r
  | a, b :: bs, r => newZeros (a + 1) bs (if b = 0 then rangesAdd a (a + 1) r else r)

/-- Cells outside `lo ≤ a < hi`. -/
def cellsOut (lo hi : Nat) (cells : List Host.Cell) : List Host.Cell := cells.filter fun c => c.1 < lo || hi ≤ c.1

/-- Replace the bytes from `a` on. -/
def Mem.put (m : Mem) (a : Nat) (bs : List Byte) : Mem :=
  { m with cells := (m.cells.takeWhile fun c => c.1 < a) ++ newCells a bs ++
             ((m.cells.dropWhile fun c => c.1 < a).dropWhile fun c => c.1 < a + bs.length),
           zeroed := newZeros a bs (rangesSub a (a + bs.length) m.zeroed) }

/-- Every byte of `lo ≤ a < hi` becomes zero with good check bits (R266). -/
def Mem.scrub (m : Mem) (lo hi : Nat) : Mem :=
  { m with cells := cellsOut lo hi m.cells, zeroed := rangesAdd lo hi m.zeroed, marked := rangesSub lo hi m.marked }

/-- Every byte of `lo ≤ a < hi` loses its value: it counts as unwritten, or holds an unspecified value (R138, R258). -/
def Mem.forget (m : Mem) (lo hi : Nat) : Mem :=
  { m with cells := cellsOut lo hi m.cells, zeroed := rangesSub lo hi m.zeroed, marked := rangesSub lo hi m.marked }

/-- Canonical form: cells by rising address, none zero, and the zero bytes as ranges that name no cell; the sets of
marks and of device-bias pages as rising, separate ranges. Equal memories are equal data. -/
def Mem.wf (m : Mem) : Bool :=
  tabSorted m.cells && (m.cells.all fun c => decide (c.2 ≠ 0) && !rangesMem c.1 m.zeroed) && rangesWf m.zeroed &&
    rangesWf m.marked && rangesWf m.bias

/-- The same set as canonical ranges. -/
def ranges (r : Ranges) : Ranges := r.foldl (fun t x => rangesAdd x.1 x.2 t) []

/-- The memory in canonical form: itself where it has that form already, else written anew byte by byte. -/
def Mem.canon (m : Mem) : Mem :=
  if m.wf then m
  else m.cells.foldl (fun m c => m.put c.1 [c.2])
    { cells := [], zeroed := ranges m.zeroed, marked := ranges m.marked, bias := ranges m.bias }

/-- Bytes of a check word: 8 in a guarded region, 4 in a working one (R259, R260). -/
def checkWord (guarded : Bool) : Nat := if guarded then 8 else 4

/-- Bytes that one mark stands for: a 64-bit word in either kind of region, whose spare bits hold one mark (R259, R260;
log 111). -/
def markSpan : Nat := 8
/-- The 64-bit words that a range meets. -/
def markFrom (a : Nat) : Nat := a / markSpan * markSpan
def markTo (a : Nat) : Nat := alignUp a markSpan

/-- Whether a 64-bit word that meets `lo ≤ a < hi` is marked. -/
def Mem.markedIn (m : Mem) (lo hi : Nat) : Bool := rangesMeet (markFrom lo) (markTo hi) m.marked

/-- The check word at `c` loses its data and its 64-bit word is marked (R261, R262). -/
def Mem.mark (m : Mem) (cw c : Nat) : Mem :=
  { m.forget c (c + cw) with marked := rangesAdd (markFrom c) (markTo (c + cw)) m.marked }

/-- The lowest marked address of `lo ≤ a < hi`. -/
def firstMarked (lo hi : Nat) : Ranges → Option Nat
  | [] => none
  | (a, b) :: t => if max a lo < min b hi then some (max a lo) else firstMarked lo hi t

/-- Write part of one check word: a read, a merge and a write; dropped where the word is marked (R263). -/
def Mem.merge (m : Mem) (cw a : Nat) (bs : List Byte) : Mem × List Nat :=
  let w := a / cw * cw
  if bs.isEmpty then (m, [])
  else if m.markedIn w (w + cw) then (m, [w]) else (m.put a bs, [])

/-- Write whole check words: their marks go (R262). -/
def Mem.replace (m : Mem) (a : Nat) (bs : List Byte) : Mem :=
  if bs.isEmpty then m
  else { m.put a bs with marked := rangesSub (markFrom a) (markTo (a + bs.length)) m.marked }

/-- Write bytes inside one region: whole check words replace data and marks, partial ones merge (R262, R263). The
list names the check words whose bytes were dropped. -/
def Mem.store (m : Mem) (guarded : Bool) (a : Nat) (bs : List Byte) : Mem × List Nat :=
  let cw := checkWord guarded
  let headLen := if a % cw = 0 then 0 else min bs.length (cw - a % cw)
  let (m1, d1) := m.merge cw a (bs.take headLen)
  let rest := bs.drop headLen
  let a2 := a + headLen
  let bodyLen := rest.length / cw * cw
  let (m2, d2) := m1.merge cw (a2 + bodyLen) (rest.drop bodyLen)
  let m3 := m2.replace a2 (rest.take bodyLen)
  ((d1 ++ d2).foldl (fun m w => { m with marked := rangesAdd (markFrom w) (markTo (w + cw)) m.marked }) m3, d1 ++ d2)

/-- Region of a device physical address (R255). -/
def regionOf (a : Nat) : Nat := a / 2 ^ 28
/-- Stack of a device physical address (R247). -/
def stackOf (a : Nat) : Nat := a / 2 ^ 36 % 8
/-- 4 KiB page of a device physical address (R59). -/
def pageOf (a : Nat) : Nat := a / 4096

/-- Whether a page is in device bias (R59). -/
def Mem.devBias (m : Mem) (page : Nat) : Bool := rangesMem page m.bias

/-- Where a device physical address lies in its stack (R253): stack, pseudo-channel, bank, row, column, byte. -/
structure BankAddr where
  stack : Nat
  pc : Nat
  bank : Nat
  row : Nat
  col : Nat
  byte : Nat
deriving DecidableEq, Repr

/-- `dpa_to_bank` of R253. -/
def dpaToBank (d : BitVec 39) : BankAddr :=
  let row := field d 21 15
  { byte := (field d 0 5).toNat
    col := (field d 5 5).toNat
    row := row.toNat
    pc := (field d 10 6 ^^^ field d 16 6).toNat
    bank := (field d 16 5 ^^^ field row 0 5).toNat
    stack := (field d 36 3).toNat }

/-- `bank_to_dpa` of R254. -/
def bankToDpa (x : BankAddr) : BitVec 39 :=
  let row := BitVec.ofNat 15 x.row
  let b := BitVec.ofNat 5 x.bank ^^^ field row 0 5
  let a := BitVec.ofNat 6 x.pc ^^^ (field row 0 1 ++ b)
  (BitVec.ofNat 3 x.stack ++ row ++ b ++ a ++ BitVec.ofNat 5 x.col ++ BitVec.ofNat 5 x.byte : BitVec 39)

/-- The NBE of the stack whose home unit holds an address (R284). -/
def ownerNbe (d : Nat) : Nat := (d / 2 ^ 12 % 16) ^^^ (d / 2 ^ 18 % 16)

/-- A committed decoder claims a host address (R251). -/
def Hdm.claims (d : Hdm) (h : Nat) : Bool :=
  d.committed && decide (d.base ≤ h) && decide (h < d.base + d.size) &&
    decide ((h - d.base) >>> d.gb % 2 ^ d.ew = d.pos)

/-- `hpa_to_dpa` of R251. -/
def Hdm.toDpa (d : Hdm) (h : Nat) : Nat :=
  let off := h - d.base
  d.dbase + ((off >>> (d.gb + d.ew)) <<< d.gb) + off % 2 ^ d.gb

end Sys2Proof.Machine
end

