-- ==== Sys2Proof/Machine/Sha.lean ====
section
/-! DEFINITION. SHA-256 and HMAC-SHA-256, which the spec names without restating them (R26, R386, R535, R548; log 15). -/

namespace Sys2Proof.Machine

/-- The primes below 312, of which there are 64. -/
def shaPrimes : List Nat :=
  (List.range 312).filter fun n => decide (1 < n) && (List.range 18).all fun d => decide (d < 2) || decide (n ≤ d) || n % d != 0

/-- The largest number below `r + 2^b` whose `k`-th power is at most `n`, `r` being small enough. -/
def rootBits (k n : Nat) : Nat → Nat → Nat
  | 0, r => r
  | b + 1, r => rootBits k n b (if (r + 2 ^ b) ^ k ≤ n then r + 2 ^ b else r)

/-- The first 32 bits of the fraction of a prime's `k`-th root, which are the standard's constants: square roots for the
chaining words, cube roots for the rounds. -/
def rootFraction (k p : Nat) : Word := BitVec.ofNat 32 (rootBits k (p * 2 ^ (32 * k)) 37 0)

/-- The constants of the 64 rounds. -/
def shaK : List Word := shaPrimes.map (rootFraction 3)

/-- The eight chaining words. -/
structure ShaState where
  a : Word
  b : Word
  c : Word
  d : Word
  e : Word
  f : Word
  g : Word
  h : Word
deriving DecidableEq, Repr

def shaInit : ShaState :=
  let h (p : Nat) : Word := rootFraction 2 p
  { a := h 2, b := h 3, c := h 5, d := h 7, e := h 11, f := h 13, g := h 17, h := h 19 }

def shaRound (s : ShaState) (kw : Word) : ShaState :=
  let s1 := s.e.rotateRight 6 ^^^ s.e.rotateRight 11 ^^^ s.e.rotateRight 25
  let ch := (s.e &&& s.f) ^^^ (~~~s.e &&& s.g)
  let t1 := s.h + s1 + ch + kw
  let s0 := s.a.rotateRight 2 ^^^ s.a.rotateRight 13 ^^^ s.a.rotateRight 22
  let maj := (s.a &&& s.b) ^^^ (s.a &&& s.c) ^^^ (s.b &&& s.c)
  { a := t1 + s0 + maj, b := s.a, c := s.b, d := s.c, e := s.d + t1, f := s.e, g := s.f, h := s.g }

/-- The rest of the message schedule after the 16 words of `w`, newest last. -/
def shaSchedule : Nat → List Word → List Word
  | 0, _ => []
  | n + 1, w =>
    let x15 := w.getD 1 0
    let x2 := w.getD 14 0
    let a := x15.rotateRight 7 ^^^ x15.rotateRight 18 ^^^ (x15 >>> 3)
    let b := x2.rotateRight 17 ^^^ x2.rotateRight 19 ^^^ (x2 >>> 10)
    let v := w.getD 0 0 + a + w.getD 9 0 + b
    v :: shaSchedule n (w.drop 1 ++ [v])

def shaBlock (s : ShaState) (w : List Word) : ShaState :=
  let ws := w ++ shaSchedule 48 w
  let r := (List.zipWith (· + ·) shaK ws).foldl shaRound s
  { a := s.a + r.a, b := s.b + r.b, c := s.c + r.c, d := s.d + r.d,
    e := s.e + r.e, f := s.f + r.f, g := s.g + r.g, h := s.h + r.h }

/-- Big-endian words of a byte list. -/
def shaWords : List Byte → List Word
  | a :: b :: c :: d :: t => (a ++ b ++ c ++ d) :: shaWords t
  | _ => []

def shaBlocks : Nat → ShaState → List Word → ShaState
  | 0, s, _ => s
  | n + 1, s, w => shaBlocks n (shaBlock s (w.take 16)) (w.drop 16)

/-- SHA-256 of a byte string: byte 0 of the digest in the highest bits. -/
def sha256 (m : List Byte) : Bits256 :=
  let len := m.length
  let zeros := (119 - len % 64) % 64
  let padded := m ++ [0x80#8] ++ List.replicate zeros 0#8 ++ (bytesOfNat 8 (8 * len)).reverse
  let s := shaBlocks (padded.length / 64) shaInit (shaWords padded)
  s.a ++ s.b ++ s.c ++ s.d ++ s.e ++ s.f ++ s.g ++ s.h

/-- The digest's bytes, first byte first. -/
def digestBytes (d : Bits256) : List Byte := (bytesOf d 32).reverse

/-- A digest from its bytes, first byte first. -/
def digestOf (bs : List Byte) : Bits256 := BitVec.ofNat 256 (natOfBytes bs.reverse)

/-- HMAC-SHA-256 with a key of at most 64 bytes. -/
def hmacSha256 (key m : List Byte) : Bits256 :=
  let k := key ++ List.replicate (64 - key.length) 0#8
  sha256 (k.map (· ^^^ 0x5C) ++ digestBytes (sha256 (k.map (· ^^^ 0x36) ++ m)))

end Sys2Proof.Machine
end

