-- ==== Sys2Proof/Machine/Curd.lean ====
section
/-! DEFINITION. Curd blocks, their expander, and rennet entries (chapter 05, R169 to R186). -/

namespace Sys2Proof.Machine

/-- A 128-byte code table (R169). -/
abbrev CodeTable := BitVec 1024
/-- A 4,096-byte curd block (R171). -/
abbrev CurdBlock := BitVec 32768

/-- LEN[s] (R169). -/
def codeLen (t : CodeTable) (s : Nat) : Nat := elemAt t 4 s

/-- How many symbols below `n` have length `l`. -/
def codeCount (t : CodeTable) (n l : Nat) : Nat := ((List.range n).filter fun s => codeLen t s = l).length

/-- `next[l]` of R170 before any symbol is given a codeword. -/
def codeFirst (t : CodeTable) : Nat → Nat
  | 0 => 0
  | l + 1 => (codeFirst t l + (if l = 0 then 0 else codeCount t 256 l)) * 2

/-- The table's codewords: length, codeword, symbol (R170). -/
def codeWords (t : CodeTable) : List (Nat × Nat × Nat) :=
  (List.range 12).flatMap fun k =>
    let l := k + 1
    let syms := (List.range 256).filter fun s => codeLen t s = l
    let first := codeFirst t l
    (List.range syms.length).map fun i => (l, first + i, syms.getD i 0)

/-- Whether a table of element width `w` is valid (R169, R170). -/
def codeTableOk (t : CodeTable) (w : Nat) : Bool :=
  let syms := (List.range 256).filter fun s => decide (codeLen t s ≠ 0)
  syms.all (fun s => decide (codeLen t s ≤ 12) && decide (s < 2 ^ w)) &&
    (decide (syms.foldl (fun a s => a + 2 ^ (12 - codeLen t s)) 0 = 4096) ||
      (decide (syms.length = 1) && decide (syms.all fun s => decide (codeLen t s = 1))))

/-- Read one codeword, most significant bit first, from stream bit `pos`: the symbol and the bits used. -/
def codeRead (ws : List (Nat × Nat × Nat)) (stream : Nat) : Nat → Nat → Nat → Nat → Option (Nat × Nat)
  | 0, _, _, _ => none
  | fuel + 1, pos, len, code =>
    let code := 2 * code + (if stream.testBit (pos + len) then 1 else 0)
    match ws.find? fun (l, c, _) => decide (l = len + 1) && decide (c = code) with
    | some (_, _, s) => some (s, len + 1)
    | none => codeRead ws stream fuel pos (len + 1) code

/-- Decode `n` symbols from stream bit `pos`: the symbols and the bits consumed (R172). -/
def codeReadAll (ws : List (Nat × Nat × Nat)) (stream : Nat) : Nat → Nat → Option (List Nat × Nat)
  | 0, pos => some ([], pos)
  | n + 1, pos =>
    match codeRead ws stream 12 pos 0 0 with
    | none => none
    | some (s, k) =>
      match codeReadAll ws stream n (pos + k) with
      | none => none
      | some (ss, e) => some (s :: ss, e)

/-- The XOR of a word's 32 bits. -/
def wordParity (w : Nat) : Bool := ((List.range 32).filter fun k => w.testBit k).length % 2 = 1

/-- Whether every covered word agrees with its bit of the parity map (R173). -/
def curdParityOk (b : CurdBlock) : Bool :=
  let map := (b.toNat >>> 256) % 2 ^ 1024
  (List.range 992).all fun k =>
    let w := if k < 8 then k else k + 32
    map.testBit k == wordParity (elemAt b 32 w)

/-- What an expander makes of a block. -/
inductive CurdOut where
  | elems (symbols : List Nat)
  | tableMissing
  | bad
deriving DecidableEq, Repr

def curdTable (b : CurdBlock) : Nat := elemAt b 16 2
def curdVectors (b : CurdBlock) : Nat := elemAt b 16 3
def curdPayloadBits (b : CurdBlock) : Nat := elemAt b 32 2
def curdFirst (b : CurdBlock) : Nat := elemAt b 64 2

/-- An expander decodes a block against its table store (R172, R178, R237). -/
def curdExpand (store : Nat → Option CodeTable) (b : CurdBlock) : CurdOut :=
  if !curdParityOk b || decide (elemAt b 16 0 ≠ 0x4443) then .bad
  else match store (curdTable b) with
    | none => .tableMissing
    | some t =>
      let stream := b.toNat >>> 1280
      let bits := curdPayloadBits b
      match codeReadAll (codeWords t) stream (32 * curdVectors b) 0 with
      | none => .bad
      | some (ss, e) => if e = bits ∧ bits ≤ 31488 ∧ stream >>> bits = 0 then .elems ss else .bad

/-- A rennet entry's position and BF16 value (R182). -/
def rennetPos (e : Word) : Nat := (field e 0 10).toNat
def rennetVal (e : Word) : Nat := (field e 16 16).toNat

/-- `w′` of R184 as element bits: `replaceMode` true replaces, else adds; `scale` is the block's X. -/
def rennetApply (f : Fmt) (replaceMode : Bool) (scale w d : Nat) : Nat :=
  let dv := elemVal fmtBf16 d
  let v := if replaceMode then dv else fVal (fRn ((codeVal f scale w).add dv))
  if f.mx.isSome then encodeElem f .rne true (v.scale (127 - (scale : Int))) else encodeVal f .rne v

end Sys2Proof.Machine
end

