-- ==== Sys2Proof/Machine/StVat.lean ====
section
/-! DEFINITION. Vats and near-bank engines as plain data (chapters 06, 07 and 09). -/

namespace Sys2Proof.Machine

/-- Trap causes of R246. -/
inductive TrapCause where
  | fetchUncorrectable
  | bundleFormat
  | scratchAddress
  | window
  | target
  | loopDepth
  | loopRange
  | codeRange
  | tableMissing
  | software
deriving DecidableEq, Repr

/-- The code of a trap cause (R246). -/
def TrapCause.code : TrapCause → Nat
  | .fetchUncorrectable => 1
  | .bundleFormat => 2
  | .scratchAddress => 3
  | .window => 4
  | .target => 5
  | .loopDepth => 6
  | .loopRange => 7
  | .codeRange => 8
  | .tableMissing => 9
  | .software => 10

/-- One accumulator entry (R192, R196). -/
structure AccEntry where
  /-- S, or the FP32 value in the low 32 bits in fast mode -/
  val : Acc := 0
  /-- a first value has reached the entry since it was drained or cleared -/
  started : Bool := false
  /-- quadrant mode: the exact sum of a group's first 16 products -/
  half : Option Val := none
deriving DecidableEq, Repr

/-- The reset configuration of an array: no format code, all bits 0 (log 16). -/
def cfgNone : CfgArgs :=
  { wfmt := 0, afmt := 0, exact := false, quad := false, raw := false, rmode := false }

/-- One matrix array with its expander, staging lines, accumulators and ceilings (R187, R224, R239). -/
structure ArrayUnit where
  cfg : CfgArgs := cfgNone
  /-- what CFG set, in force at the next SWAP (R239) -/
  cfgNext : CfgArgs := cfgNone
  /-- active weights in load order -/
  active : List Half := []
  /-- shadow set, as far as it is loaded -/
  shadow : List Half := []
  /-- elements at the weight port that find the shadow set full (R193, R223) -/
  waiting : List Half := []
  /-- first 2,048 bytes of a curd block whose second half has not arrived (R237) -/
  halfBlock : Option Line := none
  acc : Tab AccEntry := []
  staging : Tab Line := []
  /-- 1,024 rennet entries of 32 bits -/
  delta : Tab Word := []
  /-- the expander's store: entry, identifier and table (R237) -/
  tables : Tab (Nat × CodeTable) := []
  overlay : Tab Half := []
  overlayUpper : Tab Half := []
  rowCeil : Tab (BitVec 10) := []
  colCeil : Tab (BitVec 10) := []
  colCeilShadow : Tab (BitVec 10) := []
  /-- after a resume (R232) what is not listed holds free values, named by this draw; else zero -/
  stale : Option Nat := none
deriving DecidableEq, Repr

/-- One loop level (R224). -/
structure LoopLevel where
  lc : Word := 0
  li : Word := 0
  ls : Word := 0
  le : Word := 0
deriving DecidableEq, Repr

/-- What a vat's sequencer does. -/
inductive RunState where
  /-- no job -/
  | idle
  | running
  /-- waits for job beat `target`, or for the next beat boundary (R230) -/
  | bsync (target : Nat)
  /-- watches a word (R231) -/
  | waitf (addr : Nat) (mask : Word) (cond : Bool) (deadline : Nat)
  /-- at the barrier of a YIELD (R212) -/
  | yield (step : Nat)
  /-- the save engine has the port (R215) -/
  | saving
  /-- END issued, transfers outstanding (R233) -/
  | ending
  | ended
  /-- stopped by a trap or a fault of the job (R246) -/
  | stopped
  /-- clears itself (R206) -/
  | clearing
deriving DecidableEq, Repr

/-- Kinds of transfer (R244). -/
inductive XferKind where
  | sld
  | sst
  | put
  | send
  | nbj
deriving DecidableEq, Repr

/-- An outstanding transfer of a vat (R222, R244, R425). -/
structure Xfer where
  kind : XferKind
  /-- the flag to set on completion: vat, word address and bit -/
  flag : Option (Nat × Nat × Nat)
  /-- SST: window offset; PUT and SEND: destination scratchpad address -/
  addr : Nat
  /-- destination vat of PUT and SEND -/
  dest : Nat
  /-- lines still to move -/
  data : List Line
  /-- SEND: route-table entry index, the beat of departure asked for, sent and not yet acknowledged -/
  route : Nat
  beat : Option Nat
  departed : Option Nat
  /-- SEND: the swarm slot's transfer clock at its departure (R428) -/
  clock : Nat
  seq : Nat
  /-- NBJ: the NBE job that is still to be accepted (R290) -/
  nbe : Option Nat
  /-- order of issue -/
  stamp : Nat
deriving DecidableEq, Repr

/-- Where an inbound line comes from (R203). -/
inductive InboundSrc where
  | vat (v : Nat) (slot : Nat)
  /-- a SEND that arrived, with its head cell -/
  | fabric (head : Bits512)
  | nbe (job : Nat)
deriving DecidableEq, Repr

/-- A line that waits for the port (R203, R316). -/
structure Inbound where
  src : InboundSrc
  addr : Nat
  /-- the bytes of the line that are written: `lo` and up to `hi` -/
  lo : Nat
  hi : Nat
  data : Line
  /-- flag set once this line is performed: vat, word address and bit -/
  flag : Option (Nat × Nat × Nat)
  /-- last line of its transfer -/
  last : Bool
  /-- SLD returns: the partition and the window offset that the line is read from when it is performed -/
  read : Option (Nat × Nat)
deriving DecidableEq, Repr

/-- A vat (R187). -/
structure Vat where
  spd : Tab Line := []
  sregs : Tab DWord := []
  /-- levels 0 to 3, level 0 outermost -/
  loops : Tab LoopLevel := []
  depth : Nat := 0
  vregs : Tab (BitVec 8192) := []
  arrays : Tab ArrayUnit := []
  inbound : List Inbound := []
  xfers : Tab Xfer := []
  pc : Word := 0
  run : RunState := .idle
  job : Option Nat := none
  preempt : Bool := false
  /-- instruction cache by set: lines as (tag, bytes), most recently used first (R208) -/
  icache : Tab (List (Nat × List Byte)) := []
  /-- after a resume (R215, R232) lines and vector registers that are not listed hold free values, named by this
  draw; else zero -/
  stale : Option Nat := none
deriving DecidableEq, Repr

/-- A near-bank engine (R290, R305). -/
structure Nbe where
  queue : List Nat := []
  /-- scores left by the last ATTN_SCORE, with the body of its record; lost at the next job that is not its ATTN_VALUE -/
  scores : Option (Nat × List Word) := none
deriving DecidableEq, Repr

/-- Where an NBE job stands. -/
inductive NbePhase where
  /-- the record waits for room in a named NBE's queue (R290) -/
  | offered
  /-- queued; the work of its KIND is still to be done -/
  | queued
  /-- work done at every named NBE, outputs on their way -/
  | worked
  | failed
deriving DecidableEq, Repr

/-- An NBE job (R288): its record and its issuer. -/
structure NbeJob where
  /-- read when the record reaches its NBEs (R290, R328) -/
  record : BitVec 1024
  /-- window offset of the record -/
  off : Nat
  part : Nat
  /-- issuing vat; none for a job of the serving engine -/
  issuer : Option Nat
  /-- the flag to set on completion: vat, word address and bit (R291) -/
  flag : Option (Nat × Nat × Nat)
  job : Option Nat
  /-- a job of the serving engine: its unit list and its table of moves, which stand where no rule says (R288, R380) -/
  own : Option (List Byte × List Byte)
  phase : NbePhase
deriving DecidableEq, Repr

end Sys2Proof.Machine
end

