-- ==== Sys2Proof/Machine/StJob.lean ====
section
/-! DEFINITION. Rings, descriptors, jobs, partitions and the error log as plain data (chapters 02, 03, 14, 16). -/

namespace Sys2Proof.Machine

/-- A view record (R108). -/
structure View where
  base : Nat
  scaleBase : Nat
  fmt : Nat
  extents : List Nat
  strides : List Int
deriving DecidableEq, Repr

/-- What a copy descriptor does once its views are read and checked (R116, R117). -/
inductive CopyOp where
  | copy (src : View)
  | reduce (src : View) (op : Nat) (acc : Bool)
  | fill (value scale : Nat)
  | relayout (src : View) (perm : List Nat)
  | gather (src idx : View) (dim : Nat) (strict : Bool)
  | scatter (src idx : View) (dim : Nat) (strict accumulate : Bool)
deriving DecidableEq, Repr

/-- A started copy descriptor (R134). -/
structure CopyJob where
  op : CopyOp
  dst : View
  /-- the view may alias: one channel, in strict iteration order (R114) -/
  strictOrder : Bool
  /-- indices of a GATHER or SCATTER, read when it took its channels -/
  index : List Int
  /-- pieces not ended -/
  left : Ranges
  /-- channels held; empty while the descriptor waits for a free one -/
  channels : List Nat
  /-- the channel that keeps the slices of each index value of a SCATTER (R134) -/
  keepers : Tab Nat
deriving DecidableEq, Repr

/-- What a started descriptor of a ring waits for. -/
inductive DescState where
  /-- fetched, not started -/
  | fetched
  /-- FENCE: covered descriptors not yet completed, as ring and fetch count; its start (R91) -/
  | fence (covered : List (Nat × Nat)) (ready : Nat)
  /-- FLAG_WAIT: last observed word, and the beat at which TIMEOUT ends it (R97) -/
  | flagWait (last : DWord) (deadline : Option Nat)
  | copy (c : CopyJob)
  /-- LAUNCH: its job -/
  | launch (job : Nat)
  /-- held by the serving engine until a boundary or the stop that ends it -/
  | serving
deriving DecidableEq, Repr

/-- A descriptor fetched and not completed (R75). -/
structure Desc where
  /-- its name: the order of fetch over all rings (log 10) -/
  id : Nat
  /-- the fetch counter that names its slot (R71) -/
  slot : Word
  bits : Bits512
  state : DescState
  /-- fetched before the ring was enabled again: it owes no record and holds nothing back (R102) -/
  orphan : Bool
deriving DecidableEq, Repr

/-- A record that a ring owes, without SQ_HEAD and PHASE, which it gets when it is written (R99, R340). -/
inductive RecBody where
  | comp (tag : Word) (status opcode : Nat) (errSeq : Word) (result : DWord) (detail : Word)
  | token (bytes : List Byte)
deriving DecidableEq, Repr

structure Owed where
  body : RecBody
  /-- the descriptor's IRQ flag (R81) -/
  irq : Bool
  /-- the halted copy channel that returns to service with this record (R139) -/
  chan : Option Nat := none
deriving DecidableEq, Repr

/-- The fields of a ring context (R68, R594). -/
structure RingCfg where
  sqBase : DWord := 0
  cqBase : DWord := 0
  dbAddr : DWord := 0
  irqMode : BitVec 2 := 0
  cqLog2 : BitVec 5 := 0
  sqLog2 : BitVec 5 := 0
  irqTime : BitVec 10 := 0
  irqCount : BitVec 9 := 0
deriving DecidableEq, Repr

/-- A ring pair (R68, R594). -/
structure Ring where
  /-- the registers -/
  cfg : RingCfg := {}
  /-- the fields in use: those of the latest enable; none before the first (R69) -/
  used : Option RingCfg := none
  enable : Bool := false
  stopped : Bool := false
  stopCause : Byte := 0
  badField : BitVec 4 := 0
  fetch : Word := 0
  compl : Word := 0
  sqTail : Word := 0
  cqHead : Word := 0
  descs : List Desc := []
  owed : List Owed := []
  unsignalled : Nat := 0
  /-- beat at which the oldest unsignalled record was written (R81) -/
  oldest : Nat := 0
  /-- after a RESTART nothing is fetched until the doorbell line has been read (R74) -/
  waitDb : Bool := false
  /-- failed reads of the doorbell line, of the next descriptor and of a flag word (R506) -/
  dbTries : Nat := 0
  descTries : Nat := 0
  flagTries : Nat := 0
  /-- beat at which a FLAG_WAIT started whose first read of host memory has failed (R97) -/
  flagStart : Option Nat := none
  /-- the slot at which RESTART resumes fetching where it is not the fetch counter (R76, R92) -/
  resumeAt : Option Word := none
  /-- stamp of the last FENCE completion or of the enable (R92) -/
  fenceMark : Nat := 0
deriving DecidableEq, Repr

/-- A completed descriptor, kept for FENCE (R92). -/
structure DoneDesc where
  vf : Nat
  ring : Nat
  id : Nat
  doneStamp : Nat
  failed : Bool
  /-- fetched before its ring was enabled again (R102) -/
  orphan : Bool
deriving DecidableEq, Repr

/-- States of a job (R215, R460 to R470). -/
inductive JobState where
  /-- its footprint is not free (R461) -/
  | waiting
  /-- footprint held, starts at `startBeat` -/
  | starting
  | running
  /-- preemption requested, vats on their way to the barrier (R215) -/
  | preempting
  | saving
  | preempted
  /-- its vats are free again and its save areas are still to be read back (R215 step 6) -/
  | restoring
  /-- its save areas have been read back -/
  | restored
deriving DecidableEq, Repr

/-- A job of a settled program (R86 to R90, R460). -/
structure Job where
  id : Nat
  part : Nat
  ring : Nat
  desc : Nat
  tag : Word
  program : Nat
  hdr : ProgHeader
  startBeat : Nat
  /-- START_BEAT of the descriptor, 0 where it was 0 -/
  askedBeat : Nat
  state : JobState
  readyStamp : Nat
  preemptStamp : Nat
  /-- job beat, and beats counted towards the next one under a divisor (R225) -/
  beat : Nat
  beatSub : Nat
  holdQuanta : Nat
  /-- vats that have ended (R233) -/
  ended : List Nat
  /-- yield point of a save -/
  yieldStep : Nat
  /-- a run of a serving engine's step program, which has no descriptor (R357) -/
  serving : Bool
deriving DecidableEq, Repr

/-- GEN_PART_STATUS.STATE (R451). -/
inductive PartState where
  | off
  | active
  | teardown
  | halted
deriving DecidableEq, Repr

/-- A program in a partition's measurement (R548). -/
structure MeasuredProg where
  digest : Bits256
  config : Bits256
deriving DecidableEq, Repr

/-- A partition (chapters 14, 17, 19). -/
structure Part where
  swarm : BitVec 4 := 0
  guard : Bool := false
  lcEnable : Bool := false
  enable : Bool := false
  state : PartState := .off
  error : Byte := 0
  islands : DWord := 0
  stackSet : Byte := 0
  channels : Word := 0
  portSet : Half := 0
  qbase : BitVec 10 := 0
  qcount : BitVec 11 := 0
  weight : Byte := 16
  /-- VALID and REGION of the window entries, as 1 + REGION; 0 is not valid -/
  win : Tab (Bool × Nat) := []
  guardNow : Bool := false
  weightNow : Byte := 16
  ratio : Half := 0x0100
  limit : Half := 0
  limitNow : Half := 0
  entries : BitVec 17 := 0
  saveBase : BitVec 27 := 0
  saveStride : BitVec 11 := 0
  prefixShare : BitVec 21 := 0
  busy : DWord := 0
  wait : DWord := 0
  waitStk : DWord := 0
  waitNet : DWord := 0
  waitHost : DWord := 0
  waitSrv : DWord := 0
  chain : Bits256 := 0
  count : Word := 0
  progLog : List MeasuredProg := []
  /-- a PARTITION error struck during teardown (R523) -/
  haltAfterTeardown : Bool := false
  /-- SEQ of the record that halted it (R524) -/
  haltSeq : Word := 0
  /-- records of the partition are discarded after HOST_RECORD (R512) -/
  discard : Bool := false
  /-- steps 6 to 8 of teardown are due (R457) -/
  tearWait : Bool := false
deriving DecidableEq, Repr

/-- A virtual function (R49, R571, R595). -/
structure Vf where
  rings : Tab Ring := []
  /-- the ring that the round-robin of R75 asks first -/
  rrNext : Nat := 0
  errVfSeq : Word := 0
  rtAutoinc : Bool := false
  rtPort : BitVec 4 := 0
  rtEntry : BitVec 12 := 0
  rtBusy : Bool := false
  rtForeign : Bool := false
  rtData : Tab Word := []
  /-- a function-level reset waits for the partition's teardown (R586) -/
  flr : Bool := false
deriving DecidableEq, Repr

/-- An error record's fields (R516). -/
structure ErrRec where
  seq : Word
  code : Nat
  severity : Nat
  nested : Bool
  lostBefore : Bool
  addrKind : Nat
  prior : Word
  part : Nat
  path : Nat
  unit : Nat
  beat : Nat
  addr : Nat
  tag : Word
  ring : Nat
  detail0 : Nat
  detail1 : Nat
deriving DecidableEq, Repr

/-- An open record (R521): its SEQ, PARTITION and severity, and the production count that ERR_CONSUME must pass to
close it: its own, or for a lost record that of the next stored one. -/
structure OpenRec where
  seq : Word
  part : Nat
  severity : Nat
  idx : Nat
deriving DecidableEq, Repr

/-- The error log and its registers (R514 to R521). -/
structure ErrLog where
  slots : Tab ErrRec := []
  produce : Nat := 0
  consume : Nat := 0
  overflowCount : DWord := 0
  sramCe : DWord := 0
  nextSeq : Word := 1
  overflow : Bool := false
  lostSeverity : Nat := 0
  lostBefore : Bool := false
  halted : Bool := false
  /-- open records in the order of writing -/
  openRecs : List OpenRec := []
  viralOn : Bool := false
deriving DecidableEq, Repr

end Sys2Proof.Machine
end

