-- ==== Sys2Proof/Machine/StFab.lean ====
section
/-! DEFINITION. Fabric ports, the timebase and the event controller as plain data (chapters 13 and 18). -/

namespace Sys2Proof.Machine

/-- STATE of a port (R410). -/
inductive PortState where
  | off
  | training
  | up
  | down
deriving DecidableEq, Repr

/-- CAUSE of a port (R444). -/
inductive PortCause where
  | none_
  | budget
  | light
  | length
  | training
  | swarm
  | forced
deriving DecidableEq, Repr

/-- Kinds of a cell in a frame (R413). -/
inductive CellKind where
  | idle
  | head
  | data
  | last
deriving DecidableEq, Repr

/-- A control message (R414): its type and 120-bit body. -/
structure Ctrl where
  typ : Byte
  body : BitVec 120
deriving DecidableEq, Repr

/-- A frame that was sent and is not acknowledged (R417): its SEQ and its words W1 to W154 without parity. -/
structure SentFrame where
  seq : BitVec 12
  ctrl : Ctrl
  cells : List (CellKind × Bits512)
deriving DecidableEq, Repr

/-- A whole transfer or acknowledgment (R415). -/
structure Transfer where
  head : Bits512
  cells : List Bits512
deriving DecidableEq, Repr

/-- A fabric port (R410 to R448). -/
structure Port where
  enable : Bool := false
  forceDown : Bool := false
  state : PortState := .off
  cause : PortCause := .none_
  partnerPort : BitVec 4 := 0
  partnerPos : BitVec 10 := 0
  partnerSwarm : Option (BitVec 4) := none
  routeBusy : Bool := false
  light : Bool := false
  routes : Tab (BitVec 128) := []
  replayCount : DWord := 0
  fecCorr : DWord := 0
  fecUncorr : DWord := 0
  /-- SEQ of the next new frame -/
  sendSeq : BitVec 12 := 0
  /-- sent and not acknowledged, oldest first; at most 512 -/
  unacked : List SentFrame := []
  /-- replays made without an advance of ACK (R418) -/
  tries : Nat := 0
  /-- SEQ of the last accepted frame (R416); none before the first -/
  accepted : Option (BitVec 12) := none
  discarding : Bool := false
  /-- the NAK of a discarded run that has not left yet (R416) -/
  nakDue : Bool := false
  partnerPause : Bool := false
  /-- cells and messages that wait for a frame -/
  outCells : List (CellKind × Bits512) := []
  outMsgs : List Ctrl := []
  /-- the head and cells of a transfer that is still arriving -/
  arriving : Option Transfer := none
  /-- transfers and acknowledgments that arrived whole and are not yet handled (R409) -/
  arrived : List Transfer := []
  /-- control messages that arrived and are not yet handled -/
  inMsgs : List Ctrl := []
deriving DecidableEq, Repr

/-- TMB_STATUS.LOCK (R447). -/
inductive Lock where
  | free
  | acquiring
  | locked
  | lost
deriving DecidableEq, Repr

/-- TMB_CTL (R446). -/
structure TmbCtl where
  altPort : BitVec 4 := 0
  upPort : BitVec 4 := 0
  altEn : Bool := false
  outEn : Bool := false
  seedIn : Bool := false
  root : Bool := false
  holdLead : Byte := 4
deriving DecidableEq, Repr

/-- An announced hold (R436): START, QUANTA and the divisor to take effect. -/
structure Announced where
  start : Nat
  quanta : Nat
  divisor : Nat
deriving DecidableEq, Repr

/-- What a device knows of one swarm slot (R435 to R440). -/
structure SwarmSlot where
  /-- announced holds and divisor changes that have not begun, by START -/
  announced : List Announced := []
  /-- hold in progress: its end, its quanta and the divisor that then takes effect -/
  hold : Option Announced := none
  /-- largest QUANTA of this member's own requests that no announced hold covers yet -/
  requested : Nat := 0
  /-- quanta of the holds that ended since that request -/
  ended : Nat := 0
  divisor : Nat := 1
  /-- root: the latest divisor request of each member, by ORIGIN (R439) -/
  divisorReq : Tab Nat := []
  /-- root: end of the last hold it announced -/
  lastEnd : Nat := 0
  events : DWord := 0
  quanta : DWord := 0
deriving DecidableEq, Repr

/-- The timebase (R429 to R448). -/
structure Tmb where
  beat : Nat := 0
  ctl : TmbCtl := {}
  /-- the written TMB_CTL that the next quantum boundary puts in force -/
  ctlNext : Option TmbCtl := none
  beatSet : DWord := 0
  beatSetDue : Bool := false
  lock : Lock := .free
  onAlt : Bool := false
  goodBeacons : Nat := 0
  missedBeacons : Nat := 0
  slots : Tab SwarmSlot := []
  /-- beats that count for the transfer timeouts of a swarm slot: none in a hold, none while a port replays (R428) -/
  clocks : Tab Nat := []
  /-- ABORTs seen: swarm, origin, port, ERR_SEQ (R441) -/
  abortsSeen : List (Nat × Nat × Nat × Nat) := []
deriving DecidableEq, Repr

/-- ROUTE and PRIO of a source (R564). -/
structure EvcSrc where
  route : BitVec 3
  prio : BitVec 4
deriving DecidableEq, Repr

/-- Reset values of R563. -/
def evcSrcReset (k : Nat) : EvcSrc :=
  let mk (r p : Nat) : EvcSrc := { route := BitVec.ofNat 3 r, prio := BitVec.ofNat 4 p }
  if k = 0 then mk 3 4 else if k = 1 then mk 3 8 else if k = 2 then mk 3 12 else if k = 3 then mk 3 15
  else if k ≤ 0x0B then mk 1 4
  else if k ≤ 0x1B then mk 1 2
  else if k ≤ 0x2B then mk 1 3
  else if k = 0x2C then mk 3 6
  else if k = 0x2D then mk 2 6
  else if k = 0x2E then mk 2 4
  else if k = 0x2F then mk 2 6
  else if k = 0x30 then mk 2 8
  else if k = 0x31 then mk 1 6
  else if k ≤ 0x41 then mk 1 5
  else if k = 0x42 then mk 3 4
  else mk 0 0

/-- One target of the event controller (R565 to R567). -/
structure EvcTarget where
  /-- COUNT per source; a source pends while it is listed -/
  counts : Tab Nat := []
  thresh : BitVec 4 := 0
  /-- running levels with their sources, innermost first -/
  running : List (Nat × Nat) := []
deriving DecidableEq, Repr

/-- An event queue (R571). -/
structure EvQueue where
  base : DWord := 0
  enable : Bool := false
  log2 : BitVec 5 := 0
  head : Word := 0
  tail : Word := 0
  lost : Word := 0
  lostBefore : Bool := false
  /-- raises per source since the source's previous record, while records are lost (R570, R573) -/
  missed : Tab Nat := []
deriving DecidableEq, Repr

/-- The event controller (R563 to R573). -/
structure Evc where
  /-- sources whose EVC_SRC differs from its reset value -/
  src : Tab EvcSrc := []
  targets : Tab EvcTarget := []
  /-- beat and INFO of each source's latest raise -/
  latest : Tab (Nat × Nat) := []
  pfQueueMode : Bool := false
  /-- EVC_FILTER: LEVEL and CYCLES -/
  level : Tab Bool := []
  cycles : Tab Byte := []
  /-- event queues: 0 the PF, n + 1 VF n + 1 -/
  queues : Tab EvQueue := []
deriving DecidableEq, Repr

end Sys2Proof.Machine
end

