-- ==== Sys2Proof/Machine/StSrv.lean ====
section
/-! DEFINITION. The serving engine, its request table, pages, prefix tree and cocoons as plain data (chapters 11
and 12). -/

namespace Sys2Proof.Machine

/-- SRV_QUEUE[q] (R351). -/
structure TenantQueue where
  hold : Bool := false
  weight : Byte := 1
deriving DecidableEq, Repr

/-- States of a request-table entry (R342). -/
inductive ReqState where
  | free
  | waiting
  | prefill
  | decode
  | paused
  | resuming
  | done
deriving DecidableEq, Repr

def ReqState.code : ReqState → Nat
  | .free => 0
  | .waiting => 1
  | .prefill => 2
  | .decode => 3
  | .paused => 4
  | .resuming => 5
  | .done => 6

/-- A node of a draft tree (R392): its token, its parent's number (0 is the root) and its depth. -/
structure DraftNode where
  token : Nat
  parent : Nat
  depth : Nat
deriving DecidableEq, Repr

/-- A cocoon (R401, R402). -/
structure Cocoon where
  /-- buffer numbers in stream order -/
  bufs : List Nat
  /-- buffers taken for it from the pool: on a member it may need fewer (R401, R402) -/
  held : List Nat
  /-- list indices saved, ascending, and whether each page was sealed -/
  saved : List (Nat × Bool)
  shared : Nat
  generation : Word
  /-- written by every member (R402 step 2) -/
  written : Bool
  /-- its pages are free (R402 step 3) -/
  parked : Bool
  /-- bytes of the written stream (R401) -/
  size : Nat
  /-- new pages of a resume, in the order of `saved` (R404) -/
  newPages : List Nat
  /-- failed reads of host memory in a resume (R506) -/
  tries : Nat
  /-- read back by every member (R404 step 3) -/
  restored : Bool
  /-- a write or a read of it failed: the request ends at the next boundary (R405, R512) -/
  failed : Bool
deriving DecidableEq, Repr

/-- A request-table entry (R341) with what the engine keeps beside it. -/
structure Req where
  state : ReqState := .free
  latency : Bool := false
  priority : Nat := 0
  penalizePrompt : Bool := false
  speculate : Bool := false
  hostPaused : Bool := false
  tenant : Nat := 0
  variant : Nat := 0
  tag : DWord := 0
  seed : DWord := 0
  promptOff : Nat := 0
  promptLen : Nat := 0
  maxNew : Nat := 0
  generated : Nat := 0
  generation : Word := 0
  countOff : Nat := 0
  countLog2 : Nat := 0
  ring : Nat := 0
  topK : Nat := 0
  temp : Word := 0
  topP : Word := 0
  repPen : Word := 0
  freqPen : Word := 0
  presPen : Word := 0
  stop : List Word := []
  deadline : Nat := 0
  cocoon : Word := 0
  /-- page numbers by list index; 0xFFFF_FFFE for a page in a cocoon (R378) -/
  list : List Nat := []
  /-- window offsets of its page-list blocks (R378) -/
  blocks : List Nat := []
  /-- list indices whose page it obtained through a node, or inserted, with the node (R389) -/
  nodes : Tab Nat := []
  /-- order of acceptance -/
  order : Nat := 0
  /-- reserved pages that it has not taken yet (R354) -/
  reserved : Nat := 0
  pausedFrom : ReqState := .waiting
  saved : Option Cocoon := none
  /-- positions whose keys and values are in the cache -/
  cached : Nat := 0
  /-- prompt tokens already in the count table (R367) -/
  promptCounted : Nat := 0
  /-- prompt tokens, as submission read them, and committed tokens -/
  prompt : List Nat := []
  tokens : List Nat := []
  /-- draft tree of the step under way (R392) -/
  draft : List DraftNode := []
  /-- accepted moves that the next step plan carries (R396) -/
  moves : List (Nat × Nat) := []
  maskRow : Option Nat := none
  /-- first position whose token no step plan has carried (R329) -/
  planned : Nat := 0
  /-- its page-list blocks are out of date until the next boundary (R378) -/
  listDirty : Bool := false
  firstSent : Bool := false
  /-- END reason, once decided -/
  ending : Option Nat := none
  /-- cancels that wait for the final record: ring, descriptor and status (R345) -/
  cancels : List (Nat × Nat × Nat) := []
deriving DecidableEq, Repr

/-- Page state (R374). -/
structure PageState where
  refs : Nat := 0
  isSealed : Bool := false
  node : Bool := false
  /-- placed by a PAGE_UPDATE while it was free (R384) -/
  supplied : Bool := false
deriving DecidableEq, Repr

/-- A prefix node (R386), held under the window offset of its structure slot. -/
structure PrefixNode where
  hash : BitVec 128
  parent : Nat
  page : Nat
  variant : Nat
  refs : Nat
  children : Nat
  lastUse : Nat
  depth : Nat
deriving DecidableEq, Repr

/-- A registered variant (R348): delta records by tensor id, as window offsets. -/
structure Variant where
  deltas : List (Word × Nat)
  leaving : Bool
deriving DecidableEq, Repr

/-- A placed request of the step under way (R359). -/
structure Placed where
  entry : Nat
  position : Nat
  tokens : Nat
  samples : Nat
  variant : Nat
  isPrefill : Bool
  lastChunk : Bool
  tree : Bool
deriving DecidableEq, Repr

/-- What the engine binds to the tensors of a step (R334, R359, R394). -/
structure Bound where
  /-- srv.tokens: the token id of each slot -/
  tokens : List Nat := []
  /-- srv.lengths: the length table -/
  lengths : List (BitVec 128) := []
  /-- srv.sample_idx: the token slot of each logits row, −1 where it is unused -/
  sampleIdx : List Int := []
  /-- srv.kv: entry, physical position and sequence position of each token slot -/
  slots : List (Nat × Nat × Nat) := []
deriving DecidableEq, Repr

/-- Where an engine stands. -/
inductive EngState where
  | off
  | running
  /-- SERVE_STOP with MODE 0: nothing new is admitted (R336) -/
  | draining
  /-- SERVE_STOP with MODE 1: every live request ends at the next boundary -/
  | aborting
deriving DecidableEq, Repr

/-- The serving engine of a partition. -/
structure Srv where
  state : EngState := .off
  lead : Bool := true
  program : Nat := 0
  hdr : Option ProgHeader := none
  stepBeats : Nat := 0
  tokensMax : Nat := 0
  batchMax : Nat := 0
  chunk : Nat := 0
  pageLog2 : Nat := 0
  variantsMax : Nat := 0
  leadPos : Nat := 0
  specMax : Nat := 0
  vocab : Nat := 0
  pagePool : Nat := 0
  pageCount : Nat := 0
  countPool : Nat := 0
  countBytes : Nat := 0
  prefixKey : Bits256 := 0
  nextBoundary : Nat := 0
  /-- job of the step program under way -/
  stepJob : Option Nat := none
  inStep : Bool := false
  /-- the step under way has faulted (R360) -/
  stepFault : Bool := false
  reqs : Tab Req := []
  pages : Tab PageState := []
  nodes : Tab PrefixNode := []
  /-- structure slots in use, as page number × 496 + slot -/
  slots : List Nat := []
  /-- structure pages reserved for mask rows, by stack (R373) -/
  maskPages : Tab (List Nat) := []
  /-- count tables: offset in the pool and bytes -/
  counts : List (Nat × Nat) := []
  variants : Tab Variant := []
  deficits : Tab Nat := []
  ptr : Nat := 0
  placed : List Placed := []
  bound : Bound := {}
  /-- page-list snapshot of the step under way: GENERATION and list by entry (R380) -/
  lists : Tab (Word × List Nat) := []
  /-- pages that the step under way took and released, for the plan (R329) -/
  taken : List Nat := []
  released : List Nat := []
  /-- cocoon buffers: BUF_LOG2, and by pool slot the address and whether a cocoon uses it (R399) -/
  bufLog2 : Option Nat := none
  bufs : Tab (DWord × Bool) := []
  nextOrder : Nat := 0
  /-- a member's stop named by a plan (R337) -/
  stopHere : Bool := false
deriving DecidableEq, Repr

end Sys2Proof.Machine
end

