-- ==== Sys2Proof/Machine/StSys.lean ====
section
/-! DEFINITION. Power, temperature, security, management, pins and what leaves the block, as plain data (chapters 15,
17, 18, 19 and 20). -/

namespace Sys2Proof.Machine

/-- PWR_VPOINT[i] (R495) and the island's voltage (R485). -/
structure VPoint where
  auto : Bool := true
  /-- POINT -/
  point : Nat := 3
  /-- the point whose rate the island runs at while its voltage rises (R485); none when it does not rise -/
  rising : Option Nat := none
  /-- beat from which the island has had no job (R496) -/
  idleSince : Option Nat := none
deriving DecidableEq, Repr

/-- Power (R490 to R497). f is the fraction fNum / fDen in lowest terms; T is in quarter watts, the grid on which
0.75 · CAP lies. -/
structure Pwr where
  cap : Nat := 1800
  p1ms : Nat := 0
  p10us : Nat := 0
  energy : DWord := 0
  /-- f of R494 -/
  fNum : Nat := 1
  fDen : Nat := 1
  capped : Bool := false
  /-- DIV_REQ -/
  divReq : Nat := 1
  gain : Nat := 8
  floor : Nat := 1
  slew : Nat := 4
  divAuto : Bool := true
  minDiv : Nat := 1
  vpoints : Tab VPoint := []
  overrunLast : Nat × Nat := (0, 0)
  overruns : DWord := 0
  /-- T of R494, in quarter watts -/
  target : Nat := 1800 * 4
  /-- beats from which the conditions of R497 have held since the last change: f at its floor with P_10US above T, the
  thermal limit in force, and P_1MS at or below 0.9 CAP without it -/
  highSince : Option Nat := none
  hotSince : Option Nat := none
  lowSince : Option Nat := none
  /-- beat from which the condition of R490 has held, and whether its record was written -/
  unmet : Option (Nat × Bool) := none
deriving DecidableEq, Repr

/-- One temperature sensor (R498, R499, R502). -/
structure Sensor where
  suspect : Bool := false
  valid : Bool := false
  raw : BitVec 12 := 0
  effective : BitVec 12 := 0
  /-- a conversion was requested and has not ended -/
  converting : Bool := false
  /-- beat of the last conversion -/
  last : Option Nat := none
  /-- consecutive checks within 8.00 °C -/
  good : Nat := 0
deriving DecidableEq, Repr

/-- Temperature (R498 to R502). -/
structure Thm where
  sensors : Tab Sensor := []
  limit : Nat := 100
  period : Nat := 100
  limitActive : Bool := false
  /-- beat from which every effective reading has stayed below LIMIT − 5 °C (R500) -/
  belowSince : Option Nat := none
deriving DecidableEq, Repr

/-- One-time programmable memory that a register shows or that is burned (R486, R537, R588); contents at reset are a
named choice (log 7). Key hashes and the unique secret are constants of Config. -/
structure Otp where
  revoked : BitVec 4 := 0
  /-- rollback counter fuses burned -/
  counter : Nat := 0
  stepping : Byte := 0
  /-- FACTORY_TRIM in mV, two's complement -/
  factoryTrim : Tab Byte := []
deriving DecidableEq, Repr

/-- The SPI NOR flash (R533); contents are a named choice (log 7). -/
structure Flash where
  slot : List Byte := []
  token : Option (List Byte) := none
  agingTrim : Tab Nat := []
  /-- USER_OFFSET in 0.25 °C steps, two's complement -/
  userOffset : Tab Byte := []
  trips : Half := 0
  tripSensor : BitVec 9 := 0
  /-- Hevos records of shutdowns and brown-outs: what happened, sensor and beat -/
  log : List (Nat × Nat × Nat) := []
deriving DecidableEq, Repr

/-- One entry of an MSI-X table with its pending bit (R51; log 109). -/
structure MsixVec where
  addr : DWord := 0
  data : Word := 0
  masked : Bool := true
  pending : Bool := false
deriving DecidableEq, Repr

/-- A function's MSI-X capability and table: 64 vectors for the PF, 9 for a VF (R51). -/
structure Msix where
  enable : Bool := false
  mask : Bool := false
  vecs : Tab MsixVec := []
deriving DecidableEq, Repr

/-- The class code that every function reports (R51). -/
def classCode : Nat := 0x120000

/-- One IDE stream (R549): key sets present, by direction and set, and the set in use of each direction. -/
structure IdeStream where
  keys : List (Nat × Nat × Bits256) := []
  active : List (Nat × Nat) := []
  enabled : Bool := false
deriving DecidableEq, Repr

/-- SPDM responder state of one transport (R546). -/
structure Spdm where
  versionDone : Bool := false
  capabilitiesDone : Bool := false
  algorithmsDone : Bool := false
  session : Bool := false
  handshake : Bool := false
deriving DecidableEq, Repr

/-- Security state (R530 to R553). -/
structure Sec where
  /-- the running image's header and digest -/
  image : Option (List Byte) := none
  imageDigest : Bits256 := 0
  debug : Bool := false
  entropyFail : Bool := false
  spdm : Tab Spdm := []
  ide : Tab IdeStream := []
  rcvCause : Nat := 0
  rcvCode : Nat := 0
  rcvState : Nat := 0
  rcvAddr : DWord := 0
  rcvSize : Word := 0
  /-- CXL IDE runs in skid mode; containment mode is the default (R66) -/
  skid : Bool := false
  /-- the multiplexer has been enabled since reset (R576) -/
  muxSeen : Bool := false
deriving DecidableEq, Repr

/-- Where a firmware update stands (R539, R559). -/
inductive UpdState where
  | idle
  /-- requested on a transport -/
  | requested
  /-- the first pass accepted this image -/
  | verified (image : List Byte)
  | awaitingReset
deriving DecidableEq, Repr

/-- Hevos (R554 to R562). -/
structure Mgt where
  running : Bool := false
  i3cEid : Byte := 0
  vdmEid : Byte := 0
  update : UpdState := .idle
  updateOn : Option Transport := none
  /-- receiver of platform events (R565) -/
  receiver : Option (Transport × Byte) := none
deriving DecidableEq, Repr

/-- TST_MUX_CTL (R574) and the stack of the last GROUP 3 selection (R575). -/
structure Tst where
  enable : Bool := false
  group : BitVec 3 := 0
  unit : BitVec 7 := 0
  stack : Nat := 0
deriving DecidableEq, Repr

/-- General registers (R583, R588) and the low halves held for 64-bit writes (R582). -/
structure Gen where
  armed : Bool := false
  refused : Bool := false
  ready : Bool := false
  /-- low halves held, by function and offset: 0 the PF, n + 1 VF n + 1 -/
  held : List (Nat × Nat × Word) := []
  numVfs : Nat := 0
  busMaster : Bool := false
  /-- functions with ATS enabled (R53) -/
  ats : List Nat := []
  /-- FAB_CFG (R445) -/
  fabTimeout : Half := 1000
  fabPos : BitVec 10 := 0
  /-- STK_SCRUB (R279) -/
  scrubPeriod : Byte := 24
  scrubEnable : Bool := true
deriving DecidableEq, Repr

/-- What the rails and the reset pin make of the device (R598 to R605). -/
inductive Mode where
  | unpowered
  | inReset
  | running
  /-- PCIe-only fallback (R67, R532) -/
  | recovery
  /-- off after a shutdown of R501 -/
  | thermalOff
  /-- off after a fall of VIN_48V (R603) -/
  | brownout
deriving DecidableEq, Repr

/-- The host link (R48, R67). -/
inductive HostLink where
  | down
  | cxl
  | pcieOnly
deriving DecidableEq, Repr

/-- Pins and power (chapter 20). -/
structure Pins where
  vinGood : Bool := true
  vauxGood : Bool := true
  refclkStable : Bool := true
  /-- PERST# is driven asserted -/
  perst : Bool := true
  mode : Mode := .inReset
  link : HostLink := .down
  /-- links retrained since the release (R606) -/
  retrained : Bool := false
  thermtripLow : Bool := false
  supplyOn : Bool := false
  /-- lanes and GT/s that the host link trained at; 0 while it is down (R48) -/
  linkWidth : Nat := 0
  linkRate : Nat := 0
  /-- laser light out of range, per optical engine (R408, log 11) -/
  laserBad : List Nat := []
deriving DecidableEq, Repr

/-- The protocols of the PF's DOE mailboxes (R64). -/
inductive DoeProtocol where
  | discovery
  | cma
  | securedCma
  | cdat
deriving DecidableEq, Repr

/-- CDAT entries (R65). -/
inductive CdatEntry where
  | dsmas (base size : Nat) (nonVolatile : Bool)
  | dslbisLatency (readNs writeNs : Nat)
  | dslbisBandwidth (readGBs writeGBs : Nat)
  | dsemtsSpecificPurpose
deriving DecidableEq, Repr

/-- SPDM errors that the spec or SPDM names (R546, R550). -/
inductive SpdmError where
  | unspecified
  | unexpectedRequest
  | invalidRequest
  | decryptError
deriving DecidableEq, Repr

/-- What Hevos and the mailboxes answer: the parts that the spec states. The framing is that of DOE, SPDM, MCTP and
PLDM, and is not modelled. -/
inductive Answer where
  | doeProtocol (index : Nat) (p : Option DoeProtocol)
  | cdat (entry : Nat) (e : Option CdatEntry)
  /-- SPDM versions, in hundredths -/
  | version (vs : List Nat)
  /-- mutual authentication is not supported -/
  | capabilities (mutualAuth : Bool)
  /-- ECDSA P-256 with SHA-256, secp256r1, AES-256-GCM -/
  | algorithms
  /-- digest of the chain in slot 0; none where the slot is empty -/
  | digests (slot0 : Option Bits256)
  | certificate (portion : List Byte) (remainder : Nat)
  | challengeAuth (signature : Bits512)
  /-- blocks by index, with the signature where one was asked for -/
  | measurements (blocks : List (Nat × List Byte)) (signature : Option Bits512)
  | keyExchange (exchange : Bits512) (signature : Bits512)
  | finish
  | heartbeatAck
  | keyUpdateAck
  | endSessionAck
  | spdmError (e : SpdmError)
  | keyProgAck (ok : Bool)
  | keyGoAck (ok : Bool)
  | mctpOk
  | sensor (value : Nat)
  | pldmOk
  | pldmInvalidData
  | pldmUnknownId
  | alreadyInUpdateMode
  /-- VerifyComplete: 0, or the code of R536 -/
  | verifyResult (code : Nat)
  | applyResult (ok : Bool)
  | activationNeedsReset
deriving DecidableEq, Repr

/-- What has left the block, oldest first: the model's record of its outputs (log 4). -/
inductive Output where
  /-- a write to host memory by a function, at a host physical address or, with ATS off, at the address given (R53) -/
  | hostWrite (fn : Nat) (addr : DWord) (bytes : List Byte)
  /-- a translation request of a function (R53) -/
  | translate (fn : Nat) (addr : DWord)
  /-- an MSI-X message: function, vector, and the address and data of its table entry (R51) -/
  | vector (fn : Nat) (n : Nat) (addr : DWord) (data : Word)
  /-- data answered to a CXL.mem read, with the poison indication -/
  | memData (hpa : DWord) (data : Bits512) (poison : Bool)
  /-- a CXL.mem write's completion -/
  | memDone (hpa : DWord)
  /-- a line of a host-bias page that the device takes over CXL.cache, by device physical address (R60, R62) -/
  | cacheOwn (line : Nat)
  /-- a register read's value -/
  | regValue (w : Word)
  | regBytes (bytes : List Byte)
  /-- a frame that leaves a port: its 5,140 message bits, the first to be sent highest (R412) -/
  | frame (port : Nat) (bits : BitVec 5140)
  /-- an answer over a transport -/
  | answer (p : Transport) (a : Answer)
  /-- an Aguetrum vendor response (R562) -/
  | reply (p : Transport) (bytes : List Byte)
  /-- a step plan for the other members (R329) -/
  | plan (part : Nat) (p : StepPlan)
  | platformEvent (p : Transport) (eid : Byte) (source : Nat) (info : Nat)
  | tdo (bytes : List Byte)
  | tapRefused
  /-- CXL Viral (R525) -/
  | viral
  /-- the host link retrains (R67) or drops -/
  | linkDown
  | linkUp
deriving DecidableEq, Repr

end Sys2Proof.Machine
end

