-- ==== Sys2Proof/Machine/State.lean ====
section
/-! DEFINITION. State holds everything the spec gives the block and the queue of waiting commands (log 1). Nothing in
the spec stops the block: a fault ends in a record, a status, a trap, a halt or a power-off, and each of these is a
next state, so the meanings raise neither Fault nor Refusal. -/

namespace Sys2Proof.Machine

/-- The block's state. -/
structure State where
  pending : List Instr := []
  /-- draws of free values made so far: the model's own field (log 9) -/
  freshCount : Nat := 0
  /-- order of acceptance: the model's own field (log 10) -/
  stamp : Nat := 0
  /-- what has left the block: the model's own field (log 4) -/
  out : List Output := []
  /-- errors that the reads of the command under way find in the stacks, as its operand names them; empty between
  commands: the model's own field (log 110) -/
  errs : Errs := []
  /-- an access of the command under way met a granule under re-read; false between commands: the model's own field
  (log 110) -/
  blocked : Bool := false
  /-- MSI-X of the PF (0) and of VF n (n) (R51) -/
  msix : Tab Msix := []
  pins : Pins := {}
  gen : Gen := {}
  otp : Otp := {}
  flash : Flash := {}
  tmb : Tmb := {}
  parts : Tab Part := []
  vfs : Tab Vf := []
  done : List DoneDesc := []
  mem : Mem := { cells := [], zeroed := [], marked := [], bias := [] }
  regions : Tab Region := []
  stks : Tab StackRegs := []
  rereads : List Reread := []
  /-- host accesses that wait behind a granule under re-read, oldest first (R509, R526) -/
  hostWaits : List HostAcc := []
  hdm : Tab Hdm := []
  vats : Tab Vat := []
  nbes : Tab Nbe := []
  nbeJobs : Tab NbeJob := []
  nextNbeJob : Nat := 0
  jobs : Tab Job := []
  nextJob : Nat := 0
  srvs : Tab Srv := []
  /-- SRV_QUEUE (R351), and what is in force since the partition's last step boundary (R591) -/
  queues : Tab TenantQueue := []
  queuesNow : Tab TenantQueue := []
  ports : Tab Port := []
  pwr : Pwr := {}
  thm : Thm := {}
  err : ErrLog := {}
  sec : Sec := {}
  mgt : Mgt := {}
  evc : Evc := {}
  tst : Tst := {}
deriving DecidableEq, Repr

/-- Why a run could stop. No meaning raises it: the constructor stands for a command queue that cannot arise (safe). -/
inductive Fault where
  /-- raised by nothing -/
  | impossible
deriving DecidableEq, Repr

/-- Why a command has no meaning. -/
inductive Refusal where
  /-- an arm of Dispatch.lean whose command has no meaning yet (safe: the model stops) -/
  | notModelled (mnemonic : String)
deriving DecidableEq, Repr

/-- Right after a conventional reset with PERST# asserted and the rails good: every register at its reset value, the
islands, supplies and link off, stack memory unwritten (R586, R604; log 8). -/
def State.reset : State := {}

end Sys2Proof.Machine
end

