-- ==== Sys2Proof/Machine/Ops.lean ====
section
/-! DEFINITION. The named operations over State: accessors, free values, outputs, events, the error log, window memory,
correctable errors, and the completion of descriptors. -/

namespace Sys2Proof.Machine

/-! ### Carrying a command out -/

/-- What a command leaves: it changes everything but the queue, memory keeps its canonical form, and what the command was
told of the stacks is over with it. -/
def State.after (s t : State) : State := { t with pending := s.pending, errs := [], blocked := false, mem := t.mem.canon }

/-- Run an effect. -/
def act (f : State → State) (s : State) : Host.Outcome State Fault Refusal := .next (s.after (f s))

/-- Run an effect whose reads find these errors in the stacks. It waits, with no effect yet, while an access of it meets
a granule under re-read (R267, R526; log 110). -/
def actOn (errs : Errs) (f : State → State) (s : State) : Host.Outcome State Fault Refusal :=
  let t := f { s with errs := errs }
  .next (s.after (if t.blocked then s else t))

/-- The device is out of reset, powered, and runs Hevos (R605). -/
def State.running (s : State) : Bool := s.pins.mode == .running

/-- An effect that only a running device has. -/
def whenRunning (f : State → State) (s : State) : State := if s.running then f s else s

/-- Apply a state transformer over a list. -/
def forAll {α : Type} (xs : List α) (f : α → State → State) (s : State) : State := xs.foldl (fun s x => f x s) s

/-! ### Accessors -/

def State.part (s : State) (n : Nat) : Part := tabGet {} s.parts n
def State.modPart (s : State) (n : Nat) (f : Part → Part) : State := { s with parts := tabMod {} s.parts n f }
def State.vf (s : State) (n : Nat) : Vf := tabGet {} s.vfs n
def State.modVf (s : State) (n : Nat) (f : Vf → Vf) : State := { s with vfs := tabMod {} s.vfs n f }
def State.ring (s : State) (n r : Nat) : Ring := tabGet {} (s.vf n).rings r
def State.modRing (s : State) (n r : Nat) (f : Ring → Ring) : State :=
  s.modVf n fun v => { v with rings := tabMod {} v.rings r f }
def State.vat (s : State) (v : Nat) : Vat := tabGet {} s.vats v
def State.modVat (s : State) (v : Nat) (f : Vat → Vat) : State := { s with vats := tabMod {} s.vats v f }
def State.nbe (s : State) (k : Nat) : Nbe := tabGet {} s.nbes k
def State.modNbe (s : State) (k : Nat) (f : Nbe → Nbe) : State := { s with nbes := tabMod {} s.nbes k f }
def State.port (s : State) (p : Nat) : Port := tabGet {} s.ports p
def State.modPort (s : State) (p : Nat) (f : Port → Port) : State := { s with ports := tabMod {} s.ports p f }
def State.stk (s : State) (k : Nat) : StackRegs := tabGet {} s.stks k
def State.modStk (s : State) (k : Nat) (f : StackRegs → StackRegs) : State := { s with stks := tabMod {} s.stks k f }
def State.region (s : State) (k : Nat) : Region := tabGet {} s.regions k
def State.modRegion (s : State) (k : Nat) (f : Region → Region) : State :=
  { s with regions := tabMod {} s.regions k f }
def State.slot (s : State) (k : Nat) : SwarmSlot := tabGet {} s.tmb.slots k
def State.modSlot (s : State) (k : Nat) (f : SwarmSlot → SwarmSlot) : State :=
  { s with tmb := { s.tmb with slots := tabMod {} s.tmb.slots k f } }
def State.sensor (s : State) (k : Nat) : Sensor := tabGet {} s.thm.sensors k
def State.modSensor (s : State) (k : Nat) (f : Sensor → Sensor) : State :=
  { s with thm := { s.thm with sensors := tabMod {} s.thm.sensors k f } }
def State.vpoint (s : State) (k : Nat) : VPoint := tabGet {} s.pwr.vpoints k
def State.modVpoint (s : State) (k : Nat) (f : VPoint → VPoint) : State :=
  { s with pwr := { s.pwr with vpoints := tabMod {} s.pwr.vpoints k f } }
def State.modJob (s : State) (j : Nat) (f : Job → Job) : State :=
  match tabFind s.jobs j with
  | some x => { s with jobs := tabPut j (f x) s.jobs }
  | none => s

/-- Draw a number that names fresh free values (log 9). -/
def State.drew (s : State) : State := { s with freshCount := s.freshCount + 1 }
/-- Take the next place in the order of acceptance (log 10). -/
def State.stamped (s : State) : State := { s with stamp := s.stamp + 1 }
/-- Something leaves the block (log 4). -/
def State.emit (s : State) (o : Output) : State := { s with out := s.out ++ [o] }

/-! ### Host memory and interrupts (R51, R53) -/

def State.msixOf (s : State) (fn : Nat) : Msix := tabGet {} s.msix fn
def State.modMsix (s : State) (fn : Nat) (f : Msix → Msix) : State := { s with msix := tabMod {} s.msix fn f }

/-- A function reads host memory at one of its addresses: with ATS it asks for the translation first (R53). -/
def State.hostAsk (s : State) (fn : Nat) (addr : DWord) : State :=
  if s.gen.ats.contains fn then s.emit (.translate fn addr) else s

/-- A function writes host memory at one of its addresses, which ATS translates first where it is enabled (R53). -/
def State.hostPut (s : State) (fn : Nat) (addr : DWord) (bytes : List Byte) : State :=
  if s.gen.ats.contains fn then
    (s.emit (.translate fn addr)).emit (.hostWrite fn (Config.translated s.out.length fn addr) bytes)
  else s.emit (.hostWrite fn addr bytes)

/-- Vectors of a function (R51). -/
def vectorsOfFn (fn : Nat) : Nat := if fn = 0 then 64 else 9

/-- A vector of a function is due: its message goes out, or its pending bit is set where it is masked (R51; log 109). -/
def State.interrupt (s : State) (fn k : Nat) : State :=
  let m := s.msixOf fn
  let v := tabGet {} m.vecs k
  if !m.enable then s
  else if m.mask || v.masked then s.modMsix fn fun m => { m with vecs := tabMod {} m.vecs k fun v => { v with pending := true } }
  else s.emit (.vector fn k v.addr v.data)

/-- Messages whose pending bits are set go out once nothing masks them (R51; log 109). -/
def State.sendPending (s : State) (fn : Nat) : State :=
  let m := s.msixOf fn
  let due (k : Nat) : Bool := (tabGet {} m.vecs k).pending && !(tabGet {} m.vecs k).masked
  if m.enable && !m.mask then
    forAll ((List.range (vectorsOfFn fn)).filter due)
      (fun k s => (s.modMsix fn fun m => { m with vecs := tabMod {} m.vecs k fun v => { v with pending := false } }).interrupt fn k) s
  else s

/-! ### The event controller (R563 to R573) -/

def Evc.source (e : Evc) (k : Nat) : EvcSrc := (tabFind e.src k).getD (evcSrcReset k)
def Evc.target (e : Evc) (t : Nat) : EvcTarget := tabGet {} e.targets t
def Evc.modTarget (e : Evc) (t : Nat) (f : EvcTarget → EvcTarget) : Evc := { e with targets := tabMod {} e.targets t f }
def EvcTarget.level (t : EvcTarget) : Nat := match t.running with | [] => 0 | (p, _) :: _ => p

/-- The deliverable source of highest PRIO, lowest number first, above a level and the threshold (R566, R567). -/
def Evc.best (e : Evc) (t level : Nat) : Option (Nat × Nat) :=
  (e.target t).counts.foldl (fun b (k, _) =>
    let p := (e.source k).prio.toNat
    if p ≤ level ∨ p ≤ (e.target t).thresh.toNat then b
    else match b with
      | some (_, q) => if q < p then some (k, p) else b
      | none => some (k, p)) none

/-- Whether target `t`'s request line is active (R566). -/
def Evc.line (e : Evc) (t : Nat) : Bool := (e.best t (e.target t).level).isSome

/-- Set pending bits and counts of a raise (R566). -/
def Evc.raised (e : Evc) (beat k info : Nat) : Evc :=
  let e := { e with latest := tabPut k (beat, info) e.latest }
  (List.range 3).foldl (fun e t =>
    if (e.source k).route.getLsbD t then
      e.modTarget t fun x => { x with counts := tabPut k (min (tabGet 0 x.counts k + 1) (2 ^ 32 - 1)) x.counts }
    else e) e

/-- Take a source's pending bit and COUNT out of a target. -/
def Evc.taken (e : Evc) (t k : Nat) : Evc := e.modTarget t fun x => { x with counts := tabErase k x.counts }

/-- Bytes 0x00 to 0x1E of an event record (R570). -/
def eventBytes (k prio count beat info : Nat) : List Byte :=
  bytesOfNat 2 k ++ bytesOfNat 1 prio ++ [0] ++ bytesOfNat 4 count ++ bytesOfNat 8 beat ++ bytesOfNat 8 info ++
    List.replicate 7 0

def State.evq (s : State) (fn : Nat) : EvQueue := tabGet {} s.evc.queues fn
def State.modEvq (s : State) (fn : Nat) (f : EvQueue → EvQueue) : State :=
  { s with evc := { s.evc with queues := tabMod {} s.evc.queues fn f } }

/-- An event queue that is enabled has room (R571). -/
def EvQueue.room (q : EvQueue) : Bool := q.enable && decide ((q.tail - q.head).toNat < 2 ^ q.log2.toNat)

/-- The vector of a function's event queue (R52, R572). -/
def evqVector (fn : Nat) : Nat := if fn = 0 then 1 else 8

/-- Write one record into a queue with room; the vector goes out when the queue turns non-empty (R571). -/
def State.evqWrite (s : State) (fn : Nat) (body : List Byte) : State :=
  let q := s.evq fn
  let size := 2 ^ q.log2.toNat
  let phase := decide (q.tail.toNat / size % 2 = 0)
  let flags : Byte := (if phase then 0x80 else 0) ||| (if q.lostBefore then 1 else 0)
  let addr := q.base + BitVec.ofNat 64 (32 * (q.tail.toNat % size))
  let s1 := (s.modEvq fn fun q => { q with tail := q.tail + 1, lostBefore := false }).hostPut fn addr (body ++ [flags])
  if q.tail = q.head then s1.interrupt fn (evqVector fn) else s1

/-- A record for a VF's queue; it is lost where the queue is full (R573). -/
def State.vfPost (s : State) (n k beat info : Nat) : State :=
  let fn := n + 1
  let q := s.evq fn
  if !q.enable then s
  else if q.room then
    let count := min (tabGet 0 q.missed k + 1) (2 ^ 32 - 1)
    (s.evqWrite fn (eventBytes k (s.evc.source k).prio.toNat count beat info)).modEvq fn
      fun q => { q with missed := tabErase k q.missed }
  else
    s.modEvq fn fun q =>
      { q with lost := q.lost + 1, lostBefore := true, missed := tabSet 0 q.missed k (tabGet 0 q.missed k + 1) }

/-- Hevos claims, sends and completes what target 1 is offered (R565). -/
def hevosServe : Nat → State → State
  | 0, s => s
  | n + 1, s =>
    if !s.mgt.running then s
    else match s.evc.best 1 (s.evc.target 1).level with
      | none => s
      | some (k, _) =>
        let s1 := { s with evc := s.evc.taken 1 k }
        hevosServe n (match s.mgt.receiver with
          | some (p, eid) => s1.emit (.platformEvent p eid k (tabGet (0, 0) s.evc.latest k).2)
          | none => s1)

/-- Queue mode: one record for each source deliverable to target 0 while the PF queue has room (R572). -/
def pfQueueServe : Nat → State → State
  | 0, s => s
  | n + 1, s =>
    match s.evc.best 0 0 with
    | none => s
    | some (k, p) =>
      if (s.evq 0).room then
        let (beat, info) := tabGet (0, 0) s.evc.latest k
        pfQueueServe n
          ((s.evqWrite 0 (eventBytes k p (tabGet 0 (s.evc.target 0).counts k) beat info)) |>
            fun s => { s with evc := s.evc.taken 0 k })
      else s

/-- Deliver what pends after a change of the controller; `was` says whether target 0's line was active (R565, R572). -/
def State.evcServe (s : State) (was : Bool) : State :=
  let s := hevosServe 256 s
  if s.evc.pfQueueMode then pfQueueServe 256 s
  else if s.evc.line 0 && !was then s.interrupt 0 0 else s

/-- Change the controller and deliver. -/
def State.evcDo (s : State) (f : Evc → Evc) : State := ({ s with evc := f s.evc }).evcServe (s.evc.line 0)

/-- Raise a source (R563, R566, R573). -/
def State.raise (s : State) (k info : Nat) : State :=
  if k > 0x44 then s
  else
    let s1 := s.evcDo fun e => e.raised s.tmb.beat k info
    if 0x1C ≤ k ∧ k ≤ 0x2B then s1.vfPost (k - 0x1C) k s.tmb.beat info else s1

/-! ### The error log (R503 to R522, R618) -/

/-- PARTITION of a record about the device (R505). -/
def partDevice : Nat := 0xFF
/-- RING of a record without one (R516). -/
def ringNone : Nat := 0xFF

/-- What a record says besides what the log adds. -/
structure ErrInfo where
  code : Nat
  severity : Nat
  part : Nat
  path : Nat
  unit : Nat := 0
  addrKind : Nat := 0
  addr : Nat := 0
  tag : Word := 0
  ring : Nat := ringNone
  detail0 : Nat := 0
  detail1 : Nat := 0
deriving DecidableEq, Repr

/-- OPEN (R517). -/
def ErrLog.opened (e : ErrLog) : Nat := e.produce - e.consume

/-- An open record is in scope of a new one (R521). -/
def openInScope (part : Nat) (o : OpenRec) : Bool := o.part == part || o.part == partDevice || part == partDevice

/-- The open records in scope of a new one, oldest first (R521). -/
def ErrLog.scope (e : ErrLog) (part : Nat) : List OpenRec := e.openRecs.filter (openInScope part)

/-- The record that is written now (R516, R521). -/
def State.newRec (s : State) (i : ErrInfo) : ErrRec :=
  let e := s.err
  let scope := e.scope i.part
  { seq := e.nextSeq, code := i.code, severity := i.severity, nested := !scope.isEmpty, lostBefore := e.lostBefore,
    addrKind := i.addrKind, prior := match scope.getLast? with | some o => o.seq | none => 0, part := i.part,
    path := i.path, unit := i.unit, beat := s.tmb.beat, addr := i.addr, tag := i.tag, ring := i.ring,
    detail0 := i.detail0, detail1 := i.detail1 }

/-- The log has room: 60 records for severities 0 and 1, 64 for 2 and 3 (R518). -/
def ErrLog.roomFor (e : ErrLog) (severity : Nat) : Bool := decide (e.opened < (if severity ≤ 1 then 60 else 64))

/-- The log after a new record: it is stored, or counted as lost (R514, R517, R518, R521). -/
def State.recorded (s : State) (i : ErrInfo) : ErrLog :=
  let e := s.err
  let next : Word := if e.nextSeq = 0xFFFFFFFE then 1 else e.nextSeq + 1
  let open_ : OpenRec := { seq := e.nextSeq, part := i.part, severity := i.severity, idx := e.produce }
  if e.roomFor i.severity then
    { e with slots := tabPut (e.produce % 64) (s.newRec i) e.slots, produce := e.produce + 1, lostBefore := false,
             nextSeq := next, openRecs := e.openRecs ++ [open_] }
  else
    { e with overflowCount := e.overflowCount + 1, overflow := true, lostSeverity := max e.lostSeverity i.severity,
             lostBefore := true, nextSeq := next, openRecs := e.openRecs ++ [open_] }

/-- A record raises its severity's source unless an open record in scope is as severe (R521). -/
def ErrLog.raises (e : ErrLog) (i : ErrInfo) : Bool := (e.scope i.part).all fun o => decide (o.severity < i.severity)

/-- Write an error record: its SEQ and the state after it and its events (R514 to R522). -/
def State.logError (s : State) (i : ErrInfo) : Word × State :=
  let seq := s.err.nextSeq
  let s1 := { s with err := s.recorded i }
  let s2 := if s.err.raises i then s1.raise i.severity seq.toNat else s1
  (seq, if i.part < 16 ∧ (i.severity = 1 ∨ i.severity = 2) then s2.vfPost i.part i.severity s.tmb.beat seq.toNat else s2)

/-- Write a record whose SEQ nothing names. -/
def State.log (s : State) (i : ErrInfo) : State := (s.logError i).2

/-! ### Windows (R56, R57) -/

/-- Regions of a partition's window, in window order. -/
def Part.regionAt (p : Part) (k : Nat) : Option Nat :=
  match tabFind p.win k with
  | some (true, r) => some r
  | _ => none

/-- Number of leading VALID entries. -/
def winCount (p : Part) : Nat → Nat → Nat
  | 0, k => k
  | fuel + 1, k => if (p.regionAt k).isSome then winCount p fuel (k + 1) else k

def Part.regionCount (p : Part) : Nat := winCount p 2048 0
/-- Bytes of the window. -/
def Part.winSize (p : Part) : Nat := p.regionCount * 2 ^ 28
def Part.regionList (p : Part) : List Nat := (List.range p.regionCount).filterMap p.regionAt

/-- Window offset to device physical address (R56). -/
def Part.dpa (p : Part) (w : Nat) : Option Nat := (p.regionAt (w / 2 ^ 28)).map fun r => r * 2 ^ 28 + w % 2 ^ 28

/-- Whether a range lies in the window (R57). -/
def Part.inWindow (p : Part) (w len : Nat) : Bool := decide (w + len ≤ p.winSize) && decide (w < 2 ^ 39)

/-- The device ranges of a window range, in order; each lies in one region. -/
def winSegs (p : Part) : Nat → Nat → Nat → List (Nat × Nat)
  | 0, _, _ => []
  | fuel + 1, w, len =>
    if len = 0 then []
    else
      let n := min len (2 ^ 28 - w % 2 ^ 28)
      match p.dpa w with
      | some d => (d, n) :: winSegs p fuel (w + n) (len - n)
      | none => []

def Part.segs (p : Part) (w len : Nat) : List (Nat × Nat) := winSegs p 2049 w len

/-- The partition whose window holds a region, if it is not OFF (R449). -/
def State.owner (s : State) (region : Nat) : Option Nat :=
  (List.range 16).find? fun n => (s.part n).state != .off && (s.part n).regionList.contains region

/-! ### Correctable and uncorrectable errors (R280, R282) -/

/-- Count one correctable error of a stack; the bucket may overflow (R280). -/
def State.countCe (s : State) (k : Nat) : State :=
  let r := s.stk k
  let s1 := s.modStk k fun r => { r with ceCount := r.ceCount + 1 }
  if r.limit.toNat < r.level.toNat + 1 then
    let s2 := s1.modStk k fun r => { r with level := 0 }
    (s2.log { code := 0x0101, severity := 0, part := partDevice, path := 0, unit := k }).raise (0x04 + k) k
  else s1.modStk k fun r => { r with level := r.level + 1 }

/-- Count one uncorrectable error of a stack (R282). -/
def State.countUe (s : State) (k : Nat) : State := s.modStk k fun r => { r with ueCount := r.ueCount + 1 }

/-! ### What the device's accesses meet in the stacks (R60, R259 to R263, R608) -/

def State.guardedAt (s : State) (a : Nat) : Bool := (s.region (regionOf a)).guarded

/-- Check word of an address. -/
def State.checkAt (s : State) (a : Nat) : Nat := checkWord (s.guardedAt a)

/-- Whether the check word of an address is marked. -/
def State.isMarked (s : State) (a : Nat) : Bool := s.mem.markedIn a (a + 1)

/-- Mark the check word of an address: its data is lost (R261). -/
def State.markAt (s : State) (a : Nat) : State :=
  let cw := s.checkAt a
  { s with mem := s.mem.mark cw (a / cw * cw) }

/-- 64-byte lines of device ranges that lie in host-bias pages (R59, R60). -/
def State.hostLines (s : State) (segs : List (Nat × Nat)) : List Nat :=
  segs.flatMap fun (a, n) =>
    if n = 0 then [] else ((List.range (pageOf (a + n + 4095) - pageOf a)).map (pageOf a + ·)).flatMap fun p =>
      if s.mem.devBias p then []
      else ((List.range 64).map fun k => 4096 * p + 64 * k).filter fun l => decide (l < a + n) && decide (a < l + 64)

/-- The device takes a line of a host-bias page over CXL.cache: what the host held modified reaches the stack first
(R60). -/
def State.takeLine (l : Nat) (s : State) : State :=
  let s1 := s.emit (.cacheOwn l)
  match Config.hostLine s.out.length l with
  | some x => { s1 with mem := s1.mem.replace l (bytesOf x 64) }
  | none => s1

/-- A granule of device ranges is under re-read, which holds every later access to it (R526). -/
def State.held (s : State) (segs : List (Nat × Nat)) : Bool :=
  s.rereads.any fun r => segs.any fun (a, n) => decide (r.dpa < a + n) && decide (a < r.dpa + 32)

/-- Reach device ranges: an access to a granule under re-read waits, and coherence with the host is resolved (R60, R313,
R526). -/
def State.cohere (s : State) (segs : List (Nat × Nat)) : State :=
  forAll (s.hostLines segs) State.takeLine (if s.held segs then { s with blocked := true } else s)

/-- Words of a granule that this command's reads find with an error, where they are not marked (R608). -/
def State.errsAt (s : State) (g : Nat) (k : WordErr) : List Nat :=
  (s.errs.filter fun (w, x) => x == k && decide (w / 8 = g / 32) && !s.isMarked (4 * w)).map (·.1)

/-- The controller checks a granule that it reads, re-reads it within its budget, counts, and marks what is lost (R259 to
R261, R608). A working region corrects nothing. -/
def State.meetGranule (g : Nat) (s : State) : State :=
  let guarded := s.guardedAt g
  let single := s.errsAt g .single
  let lost := s.errsAt g .lost ++ if guarded then [] else single
  let k := stackOf g
  let s1 := if guarded && !single.isEmpty then s.countCe k else s
  let s2 := if (s.errsAt g .recovered).isEmpty then s1 else s1.countCe k
  if lost.isEmpty then s2 else (forAll lost (fun w s => s.markAt (4 * w)) s2).countUe k

/-- The granules of device ranges that this command's reads find errors in. -/
def State.badGranules (s : State) (segs : List (Nat × Nat)) : List Nat :=
  ((s.errs.map fun e => e.1 / 8 * 32).dedup).filter fun g => segs.any fun (a, n) => decide (g < a + n) && decide (a < g + 32)

/-- Read the granules of device ranges (R267, R608). -/
def State.meet (s : State) (segs : List (Nat × Nat)) : State := forAll (s.badGranules segs) State.meetGranule s

/-! ### Memory accesses of the device -/

/-- A read that fails (R510): how far into the range, at which check word, and whether the budget ran out at this read or
the word was marked before. -/
structure ReadFail where
  off : Nat
  dpa : Nat
  spent : Bool
deriving DecidableEq, Repr

/-- What a read delivers: its bytes, and the first word that failed. -/
structure ReadOut where
  bytes : List Byte
  fail : Option ReadFail
deriving DecidableEq, Repr

/-- The first marked word that device ranges meet: how far into them, and its check word. -/
def State.firstFail (s : State) : Nat → List (Nat × Nat) → Option (Nat × Nat)
  | _, [] => none
  | w, (a, n) :: t =>
    match firstMarked (markFrom a) (markTo (a + n)) s.mem.marked with
    | some d => some (w + (max d a - a), max d a / s.checkAt a * s.checkAt a)
    | none => s.firstFail (w + n) t

/-- Read device ranges: coherence first, then the controller's checks (R60, R261, R262). -/
def State.readSegs (s : State) (segs : List (Nat × Nat)) : ReadOut × State :=
  let s0 := s.cohere segs
  let s1 := s0.meet segs
  ({ bytes := segs.flatMap fun (a, n) => s1.mem.read s.freshCount a n,
     fail := (s1.firstFail 0 segs).map fun (o, d) => { off := o, dpa := d, spent := !s0.isMarked d } }, s1.drew)

/-- Read a window range of a partition. -/
def State.winRead (s : State) (n w len : Nat) : ReadOut × State := s.readSegs ((s.part n).segs w len)

/-- The parts of a write that cover check words only in part (R263). -/
def partWords (cw a n : Nat) : List (Nat × Nat) :=
  (if a % cw = 0 ∨ n = 0 then [] else [(a, 1)]) ++ (if (a + n) % cw = 0 ∨ n = 0 then [] else [(a + n - 1, 1)])

/-- Write bytes at a device address inside one region; the list names check words whose bytes were dropped (R263). -/
def State.storeAt (s : State) (a : Nat) (bs : List Byte) : State × List Nat :=
  let s1 := (s.cohere [(a, bs.length)]).meet (partWords (s.checkAt a) a bs.length)
  let (m, d) := s1.mem.store (s.guardedAt a) a bs
  ({ s1 with mem := m }, d)

/-- Write device ranges; the list names check words whose bytes were dropped (R263). -/
def writeSegs : State → List (Nat × Nat) → List Byte → State × List Nat
  | s, [], _ => (s, [])
  | s, (a, n) :: t, bs =>
    let (s1, d1) := s.storeAt a (bs.take n)
    let (s2, d2) := writeSegs s1 t (bs.drop n)
    (s2, d1 ++ d2)

/-- Write a window range of a partition. -/
def State.winWrite (s : State) (n w : Nat) (bs : List Byte) : State × List Nat :=
  writeSegs s ((s.part n).segs w bs.length) bs

/-- Zero bytes over a window range of whole check words. -/
def State.winZero (s : State) (n w len : Nat) : State :=
  let segs := (s.part n).segs w len
  let s1 := s.cohere segs
  { s1 with mem := segs.foldl (fun m (a, k) => m.scrub a (a + k)) s1.mem }

/-- Read several window ranges: the first that fails with where it begins, and the state after. -/
def State.readAll (s : State) (n : Nat) (ranges : List (Nat × Nat)) : Option (Nat × ReadFail) × State :=
  ranges.foldl (fun (m, s) (w, len) =>
    let (x, s1) := s.winRead n w len
    (m.or (x.fail.map fun f => (w, f)), s1)) (none, s)

/-- A range of a window loses its value (R24, R138). -/
def State.winForget (s : State) (n w len : Nat) : State :=
  { s with mem := ((s.part n).segs w len).foldl (fun m (a, k) => m.forget a (a + k)) s.mem }

/-! ### Completion of descriptors (R80, R91, R92, R99 to R101) -/

def statusOk : Nat := 0x0000
def statusAlreadyFinished : Nat := 0x0001
def statusCancelled : Nat := 0x0002
def statusBadOpcode : Nat := 0x0010
def statusBadDescriptor : Nat := 0x0011
def statusBadAddress : Nat := 0x0012
def statusBadBias : Nat := 0x0013
def statusConfigMismatch : Nat := 0x0014
def statusBadArgs : Nat := 0x0015
def statusLateStart : Nat := 0x0016
def statusDepFailed : Nat := 0x0017
def statusTimeout : Nat := 0x0018
def statusDescPoison : Nat := 0x0019
def statusRingOverrun : Nat := 0x001A
def statusAborted : Nat := 0x001B
def statusOverlap : Nat := 0x0020
def statusAlignment : Nat := 0x0021
def statusZeroStrideWrite : Nat := 0x0022
def statusChannelHalt : Nat := 0x0023
def statusFault : Nat := 0x0030
def statusPoisonRead : Nat := 0x0031
def statusHalted : Nat := 0x0032
def statusAdmissionRefused : Nat := 0x0040
def statusTableFull : Nat := 0x0041
def statusUnknownRequest : Nat := 0x0042
def statusBadVariant : Nat := 0x0043
def statusStaleGeneration : Nat := 0x0050
def statusCocoonFull : Nat := 0x0051

/-- How a descriptor ends. -/
structure Ending where
  status : Nat := statusOk
  result : Nat := 0
  detail : Nat := 0
  errSeq : Word := 0
  /-- the copy channel that halted on it (R139) -/
  chan : Option Nat := none
deriving DecidableEq, Repr

/-- Fields of a descriptor (R82): a little-endian field of `len` bytes at offset `off`. -/
def dfield (d : Bits512) (off len : Nat) : Nat := (d.toNat >>> (8 * off)) % 2 ^ (8 * len)
def descOpcode (d : Bits512) : Nat := dfield d 0 1
def descTag (d : Bits512) : Word := BitVec.ofNat 32 (dfield d 4 4)
def descOrdered (d : Bits512) : Bool := d.getLsbD 8
def descQuiet (d : Bits512) : Bool := d.getLsbD 9
def descIrq (d : Bits512) : Bool := d.getLsbD 10

/-- Slots of the completion ring beyond those written and not consumed (R79). -/
def Ring.slotsFree (g : Ring) : Nat := match g.used with
  | some u => 2 ^ u.cqLog2.toNat - (g.compl - g.cqHead).toNat
  | none => 0

/-- Records that the ring can still take: an enabled ring holds them, a disabled one only has its free slots
(R79, R102, R361). -/
def Ring.room (g : Ring) : Nat := g.slotsFree - g.owed.length

/-- Nothing more is written to a disabled ring once every descriptor it had started has completed (R102). -/
def Ring.over (g : Ring) : Bool := !g.enable && g.descs.all (·.orphan)

/-- Owe a record to a ring; a disabled ring that is over or has no room discards it, and so does a partition that lost a
record (R102, R512). -/
def State.owe (s : State) (n r : Nat) (o : Owed) : State :=
  let g := s.ring n r
  if (s.part n).discard || g.used.isNone || g.over || (!g.enable && g.room == 0) then s
  else s.modRing n r fun g => { g with owed := g.owed ++ [o] }

def Ring.find (g : Ring) (id : Nat) : Option Desc := g.descs.find? fun d => d.id == id

/-- Replace what a started descriptor waits for. -/
def State.setDesc (s : State) (n r id : Nat) (st : DescState) : State :=
  s.modRing n r fun g => { g with descs := g.descs.map fun d => if d.id == id then { d with state := st } else d }

/-- A completed descriptor is no longer one that a FENCE waits for (R91). -/
def Desc.uncover (d : Desc) (y : Nat × Nat) : Desc := match d.state with
  | .fence c ready => { d with state := .fence (c.filter fun z => z != y) ready }
  | _ => d
def Ring.uncover (g : Ring) (y : Nat × Nat) : Ring := { g with descs := g.descs.map fun d => d.uncover y }
def Vf.uncover (v : Vf) (y : Nat × Nat) : Vf := { v with rings := v.rings.map fun x => (x.1, x.2.uncover y) }

/-- The record that the end of a descriptor owes (R99). -/
def endRecord (d : Desc) (e : Ending) : Owed :=
  { body := .comp (descTag d.bits) e.status (descOpcode d.bits)
      (if e.status = statusOk ∨ e.status = statusAlreadyFinished ∨ e.status = statusCancelled then 0 else e.errSeq)
      (BitVec.ofNat 64 e.result) (BitVec.ofNat 32 e.detail),
    irq := descIrq d.bits, chan := e.chan }

/-- Owe a descriptor's record, take the descriptor out of its ring, and note it for later FENCEs (R80, R99). -/
def State.endDesc (s : State) (n r id : Nat) (e : Ending) : State :=
  match (s.ring n r).find id with
  | none => s
  | some d =>
    let s0 := if d.orphan ∨ (descQuiet d.bits ∧ e.status = statusOk) then s else s.owe n r (endRecord d e)
    let s1 := (s0.modRing n r fun g => { g with descs := g.descs.filter fun x => x.id != id }).stamped
    let done : DoneDesc :=
      { vf := n, ring := r, id := id, doneStamp := s1.stamp,
        failed := decide (e.status ≠ statusOk ∧ e.status ≠ statusAlreadyFinished), orphan := d.orphan }
    ({ s1 with done := s1.done ++ [done] }).modVf n fun v => v.uncover (r, id)

/-- Whether a completed descriptor is one that a FENCE covered and examines (R91, R92): the FENCE's name, the order of
acceptance when it became ready, and that of the ring's previous FENCE. -/
def fenceExamines (n r id : Nat) (partScope : Bool) (ready mark : Nat) (x : DoneDesc) : Bool :=
  x.vf == n && decide (mark < x.doneStamp) &&
    (if x.ring == r then decide (x.id < id) && (partScope || !x.orphan) else partScope && decide (x.id ≤ ready))

/-- A FENCE of a slot fails: its ring stops, and RESTART resumes at the slot after it (R92; log 112). -/
def Ring.depFailed (g : Ring) (slot : Word) : Ring :=
  if !g.enable then g
  else if g.stopped then { g with resumeAt := some (slot + 1) }
  else { g with resumeAt := some (slot + 1), stopped := true, stopCause := BitVec.ofNat 8 statusDepFailed }

/-- End every FENCE of a VF whose covered descriptors have all completed (R91, R92). A FENCE of a ring that was disabled
meanwhile owes nothing and stops nothing (R75). -/
def settleFences (n : Nat) : Nat → State → State
  | 0, s => s
  | fuel + 1, s =>
    let found := (List.range 8).findSome? fun r => (s.ring n r).descs.findSome? fun d =>
      match d.state with
      | .fence [] ready => some (r, d, ready)
      | _ => none
    match found with
    | none => s
    | some (r, d, ready) =>
      let partScope := decide (dfield d.bits 8 1 = 1)
      let stopOnError := d.bits.getLsbD 72
      let bad := stopOnError && s.done.any (fenceExamines n r d.id partScope ready (s.ring n r).fenceMark)
      let s1 := s.endDesc n r d.id { status := if bad then statusDepFailed else statusOk }
      let s2 := s1.modRing n r fun g => if d.orphan then g else { g with fenceMark := s1.stamp }
      let s3 := if bad ∧ !d.orphan then s2.modRing n r fun g => g.depFailed d.slot else s2
      settleFences n fuel s3

/-- Complete a descriptor and every FENCE that waited for it alone. -/
def State.complete (s : State) (n r id : Nat) (e : Ending) : State := settleFences n 16 (s.endDesc n r id e)

end Sys2Proof.Machine
end

