-- ==== Sys2Proof/Machine/Link.lean ====
section
/-! DEFINITION. What fabric ports send, holds, divisors and the beat: the shared operations of chapter 13. -/

namespace Sys2Proof.Machine

/-! ### Frames (R411 to R419) -/

def CellKind.code : CellKind → Nat
  | .idle => 0
  | .head => 1
  | .data => 2
  | .last => 3

/-- The 155 words of a frame, without parity (R413). -/
def frameWords (seq ack : BitVec 12) (av nak replay pause : Bool) (c : Ctrl) (cells : List (CellKind × Bits512)) : List Word :=
  let bit (b : Bool) (k : Nat) : Nat := if b then 2 ^ k else 0
  let w0 := seq.toNat * 2 ^ 20 + ack.toNat * 2 ^ 8 + bit av 7 + bit nak 6 + bit replay 5 + bit pause 4
  let w1 := (List.range cells.length).foldl
    (fun a k => a + ((cells.getD k (.idle, 0)).1.code) * 2 ^ (30 - 2 * k)) 0
  let m := c.typ ++ c.body
  let ctl := [field m 96 32, field m 64 32, field m 32 32, field m 0 32]
  let body := (List.range 9).flatMap fun k =>
    let cell := (cells.getD k (.idle, 0)).2
    (List.range 16).map fun j => field cell (32 * j) 32
  [BitVec.ofNat 32 w0, BitVec.ofNat 32 w1] ++ ctl ++ List.replicate 5 0 ++ body

/-- The parity bit that makes the number of ones of a word and itself even (R412). -/
def parityBit {n : Nat} (w : BitVec n) : Nat := (List.range n).foldl (fun a k => (a + (w.getLsbD k).toNat) % 2) 0

/-- The message bits of a frame: 25 FILL bits of zero, then each word with its parity bit (R412). -/
def frameBits (ws : List Word) : BitVec 5140 :=
  BitVec.ofNat 5140 (ws.foldl (fun a w => a * 2 ^ 33 + w.toNat * 2 + parityBit w) 0)

/-- Cells that a port's receiver holds: of transfers that are arriving or not yet handled. -/
def Port.heldCells (g : Port) : Nat :=
  (g.arriving.toList ++ g.arrived).foldl (fun n t => n + 1 + t.cells.length) 0

/-- PAUSE: the receiver's buffer is above three quarters full (R413). -/
def Port.pausing (g : Port) : Bool := decide (3 * Config.recvCells < 4 * g.heldCells)

def ctrlNone : Ctrl := { typ := 0, body := 0 }

/-- A frame leaves a port (R412). -/
def State.emitFrame (s : State) (p : Nat) (nak replay : Bool) (f : SentFrame) : State :=
  let g := s.port p
  s.emit (.frame p (frameBits
    (frameWords f.seq (g.accepted.getD 0) g.accepted.isSome nak replay g.pausing f.ctrl f.cells)))

/-- Send what waits at a port while fewer than 512 frames are unacknowledged; while the partner pauses, frames carry
no cell (R417). The first frame that leaves after a frame was discarded carries the run's NAK (R416). -/
def pump (p : Nat) : Nat → State → State
  | 0, s => s
  | fuel + 1, s =>
    let g := s.port p
    let cells := if g.partnerPause then [] else g.outCells.take 9
    if g.unacked.length ≥ 512 ∨ (g.outMsgs.isEmpty ∧ cells.isEmpty ∧ !g.nakDue) ∨ g.state = .off ∨ g.state = .down then s
    else
      let f : SentFrame := { seq := g.sendSeq, ctrl := g.outMsgs.headD ctrlNone, cells := cells }
      let s1 := s.modPort p fun g =>
        { g with sendSeq := g.sendSeq + 1, unacked := g.unacked ++ [f], outMsgs := g.outMsgs.drop 1,
                 outCells := g.outCells.drop cells.length, nakDue := false }
      pump p fuel (s1.emitFrame p g.nakDue false f)

def State.pumped (s : State) (p : Nat) : State :=
  pump p ((s.port p).outMsgs.length + (s.port p).outCells.length + 1) s

/-- A control message becomes due at a port (R414). -/
def State.sendCtrl (s : State) (p : Nat) (c : Ctrl) : State :=
  (s.modPort p fun g => { g with outMsgs := g.outMsgs ++ [c] }).pumped p

/-- Cells of one transfer become due at a port, in consecutive positions (R415). -/
def State.sendCells (s : State) (p : Nat) (t : Transfer) : State :=
  let n := t.cells.length
  let data := (List.range n).map fun k =>
    ((if k + 1 = n then CellKind.last else CellKind.data), t.cells.getD k 0)
  (s.modPort p fun g => { g with outCells := g.outCells ++ (CellKind.head, t.head) :: data }).pumped p

/-- Body of a control message from fields given as (lowest bit, value). -/
def ctrlBody (fs : List (Nat × Nat)) : BitVec 120 := BitVec.ofNat 120 (fs.foldl (fun a (k, v) => a + v * 2 ^ k) 0)

def ctrlField (c : Ctrl) (hi lo : Nat) : Nat := (c.body.toNat >>> lo) % 2 ^ (hi + 1 - lo)

/-- Ports that are UP. -/
def State.upPorts (s : State) : List Nat := (List.range 16).filter fun p => (s.port p).state == .up

/-- The partition that owns a port (R421). -/
def State.portOwner (s : State) (p : Nat) : Option Nat :=
  (List.range 16).find? fun n => (s.part n).state != .off && (s.part n).portSet.getLsbD p

/-- Send an ABORT that this device has not seen on every UP port but one (R441 step 3). -/
def State.floodAbort (s : State) (swarm origin port seq : Nat) (except : Option Nat) : State :=
  if s.tmb.abortsSeen.contains (swarm, origin, port, seq) then s
  else
    let c : Ctrl := { typ := 4, body := ctrlBody [(116, swarm), (106, origin), (102, port), (70, seq)] }
    forAll (s.upPorts.filter fun p => some p != except) (fun p s => s.sendCtrl p c)
      { s with tmb := { s.tmb with abortsSeen := s.tmb.abortsSeen ++ [(swarm, origin, port, seq)] } }

/-- Flood an ABORT that this device originates for a cause that is no port (R513). -/
def State.originAbort (s : State) (n : Nat) (seq : Word) : State :=
  s.floodAbort (s.part n).swarm.toNat s.gen.fabPos.toNat 0 seq.toNat none

/-- The port that beacons and requests use: UP_PORT, or ALT_PORT while on it (R430, R432). -/
def Tmb.upstream (t : Tmb) : Nat := if t.onAlt then t.ctl.altPort.toNat else t.ctl.upPort.toNat

/-- LOCK changes, and source 0x31 is raised (R447, R563). -/
def State.setLock (s : State) (l : Lock) : State :=
  if s.tmb.lock = l then s
  else ({ s with tmb := { s.tmb with lock := l } }).raise 0x31
    (match l with | .free => 0 | .acquiring => 1 | .locked => 2 | .lost => 3)

/-- A port's STATE changes, and its source is raised (R410, R563). -/
def PortState.code : PortState → Nat
  | .off => 0
  | .training => 1
  | .up => 2
  | .down => 3

def PortCause.code : PortCause → Nat
  | .none_ => 0
  | .budget => 1
  | .light => 2
  | .length => 3
  | .training => 4
  | .swarm => 5
  | .forced => 6

def State.setPortState (s : State) (p : Nat) (st : PortState) (c : PortCause) : State :=
  let s1 := s.modPort p fun g => { g with state := st, cause := c }
  if (s.port p).state = st then s1 else s1.raise (0x32 + p) (st.code + 16 * c.code)

/-! ### The beat (R225, R429, R438) -/

/-- Whether the jobs of a swarm slot stand in a hold (R438). -/
def State.inHold (s : State) (slot : Nat) : Bool := (s.slot slot).hold.isSome

/-- A job's beat counts: it runs, and it is not preempted (R225). -/
def Job.counts (j : Job) : Bool :=
  match j.state with
  | .running => true
  | .preempting => true
  | .saving => true
  | _ => false

/-- Job beats pass for a job under its slot's divisor; none pass in a hold (R225, R438, R439). -/
def Job.advanced (j : Job) (hold : Bool) (d k : Nat) : Job :=
  if hold || !j.counts then j
  else { j with beat := j.beat + (j.beatSub + k) / max 1 d, beatSub := (j.beatSub + k) % max 1 d }

/-- A port is sending frames again (R428). -/
def State.replaying (s : State) : Bool := (List.range 16).any fun p => (s.port p).tries != 0

/-- The transfer clocks of the swarm slots after `k` beats (R428). -/
def State.clocksAfter (s : State) (k : Nat) : Tab Nat :=
  if s.replaying then s.tmb.clocks
  else (List.range 16).foldl (fun t i => if s.inHold i then t else tabSet 0 t i (tabGet 0 t i + k)) s.tmb.clocks

/-- The timebase moves forward by `k` beats. -/
def State.advance (s : State) (k : Nat) : State :=
  { s with
    tmb := { s.tmb with beat := (s.tmb.beat + k) % 2 ^ 64, clocks := s.clocksAfter k }
    jobs := s.jobs.map fun (i, j) =>
      let slot := (s.part j.part).swarm.toNat
      (i, j.advanced (s.inHold slot) (s.slot slot).divisor k) }

/-- The timebase moves forward to a beat, never back (log 2). -/
def State.advanceTo (s : State) (b : Nat) : State := s.advance (b - s.tmb.beat)

/-- The first multiple of 64 at or after a beat (R429). -/
def quantumAt (b : Nat) : Nat := alignUp b 64

/-! ### Holds and divisors (R435 to R440) -/

/-- The divisor that the root announces: the largest of the members' latest requests (R439). -/
def SwarmSlot.wantedDivisor (x : SwarmSlot) : Nat := x.divisorReq.foldl (fun m (_, d) => max m d) 1

/-- Quanta of the holds announced, in progress, or ended since this member's request: the root answers a later request
with the difference alone (R436). -/
def SwarmSlot.granted (x : SwarmSlot) : Nat :=
  x.ended + (x.hold.toList ++ x.announced).foldl (fun n a => n + a.quanta) 0

/-- A member notes an ANNOUNCE that reached it in time: the last one for a START stands (R436). Its own request is
answered once the holds together have as many quanta (R435; log 125). -/
def State.noteAnnounce (s : State) (slot : Nat) (a : Announced) : State :=
  s.modSlot slot fun x =>
    let x1 := { x with announced := ((x.announced.filter fun y => y.start != a.start) ++ [a]) }
    if x1.requested ≤ x1.granted then { x1 with requested := 0, ended := 0 } else x1

/-- UP ports that lead down the tree (R414, R430; log 126). -/
def State.downPorts (s : State) : List Nat :=
  s.upPorts.filter fun p => (s.tmb.ctl.root || p != s.tmb.upstream) && Config.downPort s.tmb.beat p

/-- Send an ANNOUNCE down the tree (R414, R436). -/
def State.sendAnnounce (s : State) (slot : Nat) (a : Announced) : State :=
  let c : Ctrl := { typ := 3, body := ctrlBody [(116, slot), (68, a.start % 2 ^ 48), (60, a.quanta), (57, a.divisor)] }
  forAll s.downPorts (fun p s => s.sendCtrl p c) s

/-- The root announces (R436). -/
def State.rootAnnounce (s : State) (slot : Nat) (a : Announced) : State :=
  let s1 := (s.noteAnnounce slot a).sendAnnounce slot a
  s1.modSlot slot fun x => { x with lastEnd := max x.lastEnd (a.start + 64 * a.quanta) }

/-- The root handles a request (R436, R439). -/
def State.rootRequest (s : State) (slot quanta divisor origin : Nat) : State :=
  let s := if divisor = 0 then s else s.modSlot slot fun x => { x with divisorReq := tabPut origin divisor x.divisorReq }
  let x := s.slot slot
  let lead := 64 * s.tmb.ctl.holdLead.toNat
  let start := quantumAt (s.tmb.beat + lead)
  let d := x.wantedDivisor
  match x.announced.getLast?, x.hold with
  | none, none => s.rootAnnounce slot { start := start, quanta := quanta, divisor := d }
  | some a, _ =>
    if s.tmb.beat + lead ≤ a.start then
      if a.quanta < quanta ∨ divisor ≠ 0 then
        s.rootAnnounce slot { a with quanta := max a.quanta quanta, divisor := d } else s
    else if a.quanta < quanta then
      s.rootAnnounce slot { start := max start (quantumAt x.lastEnd), quanta := quanta - a.quanta, divisor := d }
    else if divisor ≠ 0 then
      s.rootAnnounce slot { start := max start (quantumAt x.lastEnd), quanta := 0, divisor := d }
    else s
  | none, some a =>
    if a.quanta < quanta then
      s.rootAnnounce slot { start := max start (quantumAt x.lastEnd), quanta := quanta - a.quanta, divisor := d }
    else if divisor ≠ 0 then
      s.rootAnnounce slot { start := max start (quantumAt x.lastEnd), quanta := 0, divisor := d }
    else s

/-- A HOLD_REQ joins one for the same swarm that waits for a frame, if neither asks for a divisor (R436). -/
def mergeReq (c : Ctrl) : List Ctrl → Option (List Ctrl)
  | [] => none
  | d :: ds =>
    if d.typ = 2 ∧ ctrlField d 119 116 = ctrlField c 119 116 ∧ ctrlField d 107 105 = 0 ∧ ctrlField c 107 105 = 0 then
      some ((if ctrlField d 115 108 < ctrlField c 115 108 then c else d) :: ds)
    else (mergeReq c ds).map (d :: ·)

/-- A HOLD_REQ goes toward the root, merged with one that waits (R436). -/
def State.sendUp (s : State) (c : Ctrl) : State :=
  let up := s.tmb.upstream
  match mergeReq c (s.port up).outMsgs with
  | some ms => s.modPort up fun g => { g with outMsgs := ms }
  | none => s.sendCtrl up c

/-- Send a HOLD_REQ toward the root, or act on it as the root; a swarm of one device is its own root (R435, R497). -/
def State.sendHoldReq (s : State) (slot quanta divisor cause : Nat) (alone : Bool) : State :=
  let origin := s.gen.fabPos.toNat
  if s.tmb.ctl.root || alone then s.rootRequest slot quanta divisor origin
  else s.sendUp
    { typ := 2, body := ctrlBody [(116, slot), (108, quanta), (105, divisor), (103, cause), (93, origin)] }

/-- Whether a hold that this member requested, or one announced and not ended, has at least `q` quanta (R435). -/
def SwarmSlot.covers (x : SwarmSlot) (q : Nat) : Bool :=
  (decide (x.requested ≠ 0) && decide (q ≤ x.requested)) || (x.announced.any fun a => decide (q ≤ a.quanta)) ||
    match x.hold with
    | some a => decide (q ≤ a.quanta)
    | none => false

/-- Request a hold for a lateness in beats: whether a request was sent, and the state after (R435). -/
def State.requestHold (s : State) (slot lateness cause : Nat) (alone : Bool) : Bool × State :=
  let q := min 255 (ceilDiv lateness 64)
  if (s.slot slot).covers q then (false, s)
  else (true, (s.modSlot slot fun x => { x with requested := q, ended := 0 }).sendHoldReq slot q 0 cause alone)

end Sys2Proof.Machine
end

