-- ==== Sys2Proof/Machine/Operands.lean ====
section
/-! DEFINITION. Every operand form of a vat: registers, lines and words of the scratchpad with their aliases, vector
lanes, accumulators, array operands, and the fields of the eight bundle slots (chapters 06 and 07). -/

namespace Sys2Proof.Machine

/-! ### Registers (R224) -/

/-- A scalar register; s0 reads 0. -/
def Vat.sreg (x : Vat) (r : Fin 32) : DWord := if r.val = 0 then 0 else tabGet 0 x.sregs r.val

/-- Write a scalar register; a write to s0 is discarded. -/
def Vat.setSreg (x : Vat) (r : Fin 32) (w : DWord) : Vat :=
  if r.val = 0 then x else { x with sregs := tabSet 0 x.sregs r.val w }

/-- A vector register. -/
def Vat.vreg (x : Vat) (r : Nat) : BitVec 8192 :=
  match tabFind x.vregs r with
  | some w => w
  | none => match x.stale with
    | none => 0
    | some d => Config.freeAt d (4096 + r) 8192

def Vat.setVreg (x : Vat) (r : Nat) (w : BitVec 8192) : Vat := { x with vregs := tabPut r w x.vregs }

/-- Lane `l` of a vector register. -/
def lane (w : BitVec 8192) (l : Nat) : Word := field w (32 * l) 32

/-- A vector register from its lanes. -/
def ofLanes (f : Nat → Word) : BitVec 8192 :=
  BitVec.ofNat 8192 ((List.range 256).foldr (fun l a => (f l).toNat + 2 ^ 32 * a) 0)

/-- Replace the lanes that `keep` does not hold. -/
def setLanes (old : BitVec 8192) (on : Nat → Bool) (f : Nat → Word) : BitVec 8192 :=
  ofLanes fun l => if on l then f l else lane old l

/-- Replace bytes `off` to `off + len − 1` of a vector register by the low bytes of `n`. -/
def setBytes (old : BitVec 8192) (off len n : Nat) : BitVec 8192 :=
  let m : Nat := (2 ^ (8 * len) - 1) * 2 ^ (8 * off)
  (old &&& ~~~ BitVec.ofNat 8192 m) ||| BitVec.ofNat 8192 (n % 2 ^ (8 * len) * 2 ^ (8 * off))

/-- Value `i` of an EXACT80 operand in a vector register (R242). -/
def exactAt (w : BitVec 8192) (i : Nat) : Acc := field w (80 * i) 80

/-! ### Scratchpad lines (R199 to R201) -/

/-- Which alias a 24-bit address uses: 0 plain, 1 set, 2 clear, 3 reserved (R199). -/
def spdAlias (a : Nat) : Nat := a / 2 ^ 22
/-- Byte address in the 4 MiB behind an alias. -/
def spdOff (a : Nat) : Nat := a % 2 ^ 22
/-- Line behind an address. -/
def spdLine (a : Nat) : Nat := spdOff a / 2048

/-- A line's plain contents. -/
def Vat.line (x : Vat) (k : Nat) : Line :=
  match tabFind x.spd k with
  | some l => l
  | none => match x.stale with
    | none => 0
    | some d => Config.freeAt d k 16384

/-- Word `k` of a line. -/
def lineWord (l : Line) (k : Nat) : Word := field l (32 * k) 32

/-- The bits that a mask of 512 words covers (R200). -/
def maskBits (m : BitVec 512) : Line :=
  if m = BitVec.allOnes 512 then BitVec.allOnes 16384
  else BitVec.ofNat 16384 ((bitsSet m).foldl (fun a k => a + (2 ^ 32 - 1) * 2 ^ (32 * k)) 0)

/-- What a write of the bits of `m` through an alias makes of a line (R201). -/
def mergeBits (alias_ : Nat) (old new m : Line) : Line :=
  match alias_ with
  | 1 => old ||| (new &&& m)
  | 2 => old &&& ~~~ (new &&& m)
  | _ => (old &&& ~~~ m) ||| (new &&& m)

/-- What a write through an alias makes of a line (R200, R201). -/
def mergeLine (alias_ : Nat) (old new : Line) (mask : BitVec 512) : Line := mergeBits alias_ old new (maskBits mask)

/-- Write bytes `lo` up to `hi` of a line at a 24-bit address; the other bytes keep their values (R321). -/
def Vat.putBytes (x : Vat) (a lo hi : Nat) (d : Line) : Vat :=
  let k := spdLine a
  let m : Line := if lo = 0 ∧ hi = 2048 then BitVec.allOnes 16384 else BitVec.ofNat 16384 (2 ^ (8 * hi) - 2 ^ (8 * lo))
  { x with spd := tabPut k (mergeBits (spdAlias a) (x.line k) d m) x.spd }

/-- Write a line at a 24-bit address under a word mask. -/
def Vat.putLine (x : Vat) (a : Nat) (mask : BitVec 512) (d : Line) : Vat :=
  let k := spdLine a
  { x with spd := tabPut k (mergeLine (spdAlias a) (x.line k) d mask) x.spd }

/-- The 32-bit word at a scratchpad address. -/
def Vat.word (x : Vat) (a : Nat) : Word := lineWord (x.line (spdLine a)) (a % 2048 / 4)

/-- The 8 bytes at a scratchpad address. -/
def Vat.dword (x : Vat) (a : Nat) : DWord := field (x.line (spdLine a)) (8 * (a % 2048)) 64

/-- A line that holds `w` in `n` words from word `k` on, and the mask of those words. -/
def wordsAt (k n : Nat) (w : Nat) : Line × BitVec 512 :=
  (BitVec.ofNat 16384 (w * 2 ^ (32 * k)), BitVec.ofNat 512 ((2 ^ n - 1) * 2 ^ k))

/-- Bytes of the scratchpad from an address, over successive lines. -/
def Vat.bytes (x : Vat) (a len : Nat) : List Byte :=
  (List.range len).map fun k => field (x.line (spdLine (a + k))) (8 * ((a + k) % 2048)) 8

/-! ### PORT addresses (R235, R236) -/

/-- Scratchpad address of line `i` of a PORT access. -/
def portAddr (x : Vat) (a : PortArgs) (i : Nat) : Nat :=
  ((x.sreg a.base).toNat + a.offset.toNat + 2048 * i) % 2 ^ 24

/-- s[BASE] after the post-increment. -/
def portIncremented (x : Vat) (a : PortArgs) : DWord := x.sreg a.base + x.sreg a.inc

/-- An access post-increments when s[INC] is non-zero. -/
def portIncrements (x : Vat) (a : PortArgs) : Bool := decide (x.sreg a.inc ≠ 0)

/-- Apply the post-increment, computed from the registers before the bundle. -/
def Vat.increment (x x0 : Vat) (a : PortArgs) : Vat :=
  if portIncrements x0 a then x.setSreg a.base (portIncremented x0 a) else x

/-- A line address that a PORT access may use: not reserved, line-aligned. -/
def lineAddrOk (a : Nat) : Bool := decide (spdAlias a < 3) && decide (a % 2048 = 0)

/-- A scalar address that LDS and STS may use: not reserved, a multiple of 8. -/
def scalarAddrOk (a : Nat) : Bool := decide (spdAlias a < 3) && decide (a % 8 = 0)

/-- The word mask of STV (R235). -/
def stvMask (x : Vat) (a : PortArgs) : BitVec 512 :=
  match a.msel.toNat with
  | 0 => BitVec.allOnes 512
  | 1 => BitVec.ofNat 512 (2 ^ 256 - 1)
  | 2 => BitVec.ofNat 512 ((2 ^ 256 - 1) * 2 ^ 256)
  | _ => field (x.vreg a.vm.val) 0 512

/-! ### Arrays (R189 to R196, R238 to R240) -/

def Vat.array (x : Vat) (k : Nat) : ArrayUnit := tabGet {} x.arrays k
def Vat.modArray (x : Vat) (k : Nat) (f : ArrayUnit → ArrayUnit) : Vat := { x with arrays := tabMod {} x.arrays k f }

/-- Apply a change to every array of a mask. -/
def Vat.modArrays (x : Vat) (m : BitVec 8) (f : Nat → ArrayUnit → ArrayUnit) : Vat :=
  (bitsSet m).foldl (fun x k => x.modArray k (f k)) x

/-- A configuration made of 16 free bits: what CFG holds after a resume (R232). -/
def cfgFree (w : BitVec 16) : CfgArgs :=
  { wfmt := field w 0 6, afmt := field w 6 6, exact := w.getLsbD 12, quad := w.getLsbD 13, raw := w.getLsbD 14,
    rmode := w.getLsbD 15 }

/-- A free choice of entries of a table, each with a free value (R232). -/
def tabFree {β : Type} (d base len : Nat) (f : Nat → β) : Tab β :=
  (List.range len).filterMap fun k => if (Config.freeAt d (base + k) 1) = 1 then some (k, f k) else none

/-- A list of a free length up to `len` and free values (R232). -/
def listFree (d base len : Nat) : List Half :=
  (List.range ((Config.freeAt d base 16).toNat % (len + 1))).map fun k => Config.freeAt d (base + 1 + k) 16

/-- What an array holds after a resume: free values throughout, its shadow set, expander and overlays included (R232). -/
def arrayStale (d k : Nat) : ArrayUnit :=
  let e := d * 16 + k
  { cfg := cfgFree (Config.freeAt d (8192 + k) 16), cfgNext := cfgFree (Config.freeAt d (8200 + k) 16),
    shadow := listFree e 65536 2048, waiting := listFree e 69632 512,
    halfBlock := if (Config.freeAt e 73728 1) = 1 then some (Config.freeAt e 73729 16384) else none,
    tables := tabFree e 73760 32 fun i => ((Config.freeAt e (73800 + i) 16).toNat, Config.freeAt e (73840 + i) 1024),
    overlay := tabFree e 74000 1024 fun i => Config.freeAt e (76000 + i) 16,
    overlayUpper := tabFree e 78000 1024 fun i => Config.freeAt e (80000 + i) 16, stale := some e }

/-- A fixed 4-bit format: FP4 or MXFP4, or INT4 (R190). -/
def fourBitFloat (c : Nat) : Bool := c == 0x01 || c == 0x14
/-- A format of 8 bits or fewer (R190). -/
def upTo8 (c : Nat) : Bool := fmtKnown c && decide (fmtWidth c ≤ 8)
/-- BF16 or FP16 (R190). -/
def sixteenBit (c : Nat) : Bool := c == 0x08 || c == 0x09

/-- Both 4-bit and of one kind (R190). -/
def fourBitPair (w a : Nat) : Bool := (fourBitFloat w && fourBitFloat a) || (w == 0x07 && a == 0x07)

/-- A pair of formats that the arrays accept; integer operands pair only with integer operands (R150, R190). -/
def pairOk (w a : Nat) : Bool :=
  let sameKind := fmtIsInt w == fmtIsInt a
  fmtKnown w && fmtKnown a && sameKind &&
    ((upTo8 w && upTo8 a) ||
      (sixteenBit w && fmtIsFloat a && a != 0x0A) || (sixteenBit a && fmtIsFloat w && w != 0x0A))

def cfgPairOk (c : CfgArgs) : Bool := pairOk c.wfmt.toNat c.afmt.toNat
def cfgFourPair (c : CfgArgs) : Bool := fourBitPair c.wfmt.toNat c.afmt.toNat

/-- Elements of a full weight set: a 64-row pair for two 4-bit operands in array mode, else 32 rows (R191, R195). -/
def cfgSetSize (c : CfgArgs) : Nat := if cfgFourPair c && !c.quad then 2048 else 1024

/-- Bytes of activation data that one issue consumes (R238). -/
def cfgIssueBytes (c : CfgArgs) : Nat :=
  if c.quad then 64 else (if cfgFourPair c then 64 else 32) * fmtWidth c.afmt.toNat / 8

/-- ROW or INDEX with LX: the innermost loop's LI is added modulo 64 (R238). -/
def Vat.innerLi (x : Vat) : Nat := if x.depth = 0 then 0 else (tabGet {} x.loops (x.depth - 1)).li.toNat
def arrRow (x : Vat) (a : ArrArgs) : Nat := if a.lx then (a.row.toNat + x.innerLi) % 64 else a.row.toNat
def arrIndex (x : Vat) (a : ArrArgs) : Nat := if a.lx then (a.index.toNat + x.innerLi) % 64 else a.index.toNat

def ArrayUnit.stagingLine (u : ArrayUnit) (sel : Bool) : Line :=
  match tabFind u.staging (if sel then 1 else 0) with
  | some l => l
  | none => match u.stale with
    | none => 0
    | some d => Config.freeAt d (if sel then 1 else 0) 16384

/-- Position of element `e` of a loaded weight set: row k and column n of a lane. In quadrant mode four 16×16 tiles
follow one another (R195). -/
def weightIndex (quad : Bool) (k n : Nat) : Nat :=
  if quad then (2 * (k / 16) + n / 16) * 256 + k % 16 * 16 + n % 16 else k * 32 + n

/-- Bits of the active weight at row `k`, column `n`. -/
def ArrayUnit.weight (u : ArrayUnit) (k n : Nat) : Nat :=
  match u.active[weightIndex u.cfg.quad k n]? with
  | some w => w.toNat
  | none => match u.stale with
    | none => 0
    | some d => (Config.freeAt d (64 + weightIndex u.cfg.quad k n) 16).toNat

/-- Accumulator entry: 64 rows of 32 columns; in quadrant mode section q holds 32 rows of 16 (R195, log 17). -/
def accIndex (quad : Bool) (q row col : Nat) : Nat := if quad then 512 * q + 16 * row + col else 32 * row + col

def ArrayUnit.entry (u : ArrayUnit) (i : Nat) : AccEntry :=
  match tabFind u.acc i with
  | some e => e
  | none => match u.stale with
    | none => {}
    | some d => { val := Config.freeAt d (4096 + i) 80, started := true }

def ArrayUnit.setEntry (u : ArrayUnit) (i : Nat) (e : AccEntry) : ArrayUnit := { u with acc := tabPut i e u.acc }

/-- Row and column ceilings; in quadrant mode column `16q + n` is quadrant q's column n (log 17). -/
def ArrayUnit.rowCeiling (u : ArrayUnit) (m : Nat) : Int :=
  ((tabFind u.rowCeil m).getD (match u.stale with | none => 0 | some d => Config.freeAt d (8192 + m) 10)).toInt
def ArrayUnit.colCeiling (u : ArrayUnit) (n : Nat) : Int :=
  ((tabFind u.colCeil n).getD (match u.stale with | none => 0 | some d => Config.freeAt d (8256 + n) 10)).toInt

/-- The anchor of an entry (R240). -/
def ArrayUnit.anchor (u : ArrayUnit) (m n : Nat) : Int := u.rowCeiling m + u.colCeiling n

/-- Whether an array's entries are S: exact mode, and every integer reduction (R192). -/
def cfgAccExact (c : CfgArgs) : Bool := c.exact || fmtIsInt c.wfmt.toNat

def ArrayUnit.deltaEntry (u : ArrayUnit) (k : Nat) : Word :=
  (tabFind u.delta k).getD (match u.stale with | none => 0 | some d => Config.freeAt d (16384 + k) 32)

/-- An expander's store: the table in entry TABLE mod 32, if it is that table (R237). -/
def ArrayUnit.tableFor (u : ArrayUnit) (t : Nat) : Option CodeTable :=
  match tabFind u.tables (t % 32) with
  | some (id, c) => if id = t then some c else none
  | none => none

end Sys2Proof.Machine
end

