-- ==== Sys2Proof/Machine/Flags.lean ====
section
/-! DEFINITION. Flag computations: flag words of descriptors, flag bits in scratchpads and the condition of a WAITF
(R93 to R97, R201, R231, R244), and comparisons that write 0 or 1 (R234, R242). -/

namespace Sys2Proof.Machine

/-- FLAG_SET's new value (R94). -/
def flagSetValue (old set clear : DWord) : DWord := (old &&& ~~~ clear) ||| set

/-- FLAG_WAIT's condition (R96). -/
def flagWaitHolds (word mask value : DWord) (differs : Bool) : Bool := ((word &&& mask) == value) != differs

/-- WAITF's condition: all masked bits set, or with COND all masked bits clear (R227). -/
def waitfHolds (word mask : Word) (cond : Bool) : Bool :=
  if cond then (word &&& mask) == 0 else (word &&& mask) == mask

/-- Set one bit of a 32-bit word through the set alias (R201, R244). -/
def Vat.setFlag (x : Vat) (a bit : Nat) : Vat :=
  let off := spdOff a
  let (l, m) := wordsAt (off % 2048 / 4) 1 (2 ^ bit)
  x.putLine (off + 2 ^ 22) m l

/-- 1 or 0 in a scalar register. -/
def boolWord (b : Bool) : DWord := if b then 1 else 0
/-- 1 or 0 in a vector lane. -/
def boolLane (b : Bool) : Word := if b then 1 else 0

end Sys2Proof.Machine
end

