-- ==== Sys2Proof/Machine/Scalar.lean ====
section
/-! DEFINITION. The SCL slot: results of the scalar operations (R234). `x0` is the vat before the bundle, whose
registers every slot reads (R223). -/

namespace Sys2Proof.Machine

def sclAdd (x0 : Vat) (ra rb : Fin 32) : DWord := x0.sreg ra + x0.sreg rb
def sclSub (x0 : Vat) (ra rb : Fin 32) : DWord := x0.sreg ra - x0.sreg rb
def sclAnd (x0 : Vat) (ra rb : Fin 32) : DWord := x0.sreg ra &&& x0.sreg rb
def sclOr (x0 : Vat) (ra rb : Fin 32) : DWord := x0.sreg ra ||| x0.sreg rb
def sclXor (x0 : Vat) (ra rb : Fin 32) : DWord := x0.sreg ra ^^^ x0.sreg rb
def sclShl (x0 : Vat) (ra rb : Fin 32) : DWord := x0.sreg ra <<< ((x0.sreg rb).toNat % 64)
def sclShr (x0 : Vat) (ra rb : Fin 32) : DWord := x0.sreg ra >>> ((x0.sreg rb).toNat % 64)
def sclSra (x0 : Vat) (ra rb : Fin 32) : DWord := (x0.sreg ra).sshiftRight ((x0.sreg rb).toNat % 64)
def sclMul (x0 : Vat) (ra rb : Fin 32) : DWord := x0.sreg ra * x0.sreg rb
def sclSlt (x0 : Vat) (ra rb : Fin 32) : DWord := boolWord ((x0.sreg ra).slt (x0.sreg rb))
def sclAddi (x0 : Vat) (ra : Fin 32) (imm : Half) : DWord := x0.sreg ra + imm.signExtend 64
def sclShli16 (x0 : Vat) (ra : Fin 32) (imm : Half) : DWord := (x0.sreg ra <<< 16) ||| imm.zeroExtend 64
def sclAndi (x0 : Vat) (ra : Fin 32) (imm : Half) : DWord := x0.sreg ra &&& imm.zeroExtend 64
def sclShli (x0 : Vat) (ra : Fin 32) (imm : Half) : DWord := x0.sreg ra <<< (field imm 0 6).toNat
def sclShri (x0 : Vat) (ra : Fin 32) (imm : Half) : DWord := x0.sreg ra >>> (field imm 0 6).toNat

/-- RDL: a loop register by IMM[3:2] level and IMM[1:0] LC, LI, LS or LE. -/
def sclRdl (x0 : Vat) (imm : Half) : DWord :=
  let l := tabGet {} x0.loops (field imm 2 2).toNat
  let w := match (field imm 0 2).toNat with
    | 0 => l.lc
    | 1 => l.li
    | 2 => l.ls
    | _ => l.le
  w.zeroExtend 64

/-- RDID: device vat number in [6:0], index within the partition in [22:16]. -/
def sclRdid (vat index : Nat) : DWord := BitVec.ofNat 64 (vat % 128 + index % 128 * 2 ^ 16)

end Sys2Proof.Machine
end

