-- ==== Sys2Proof/Machine/Arrays.lean ====
section
/-! DEFINITION. The ARR, WGT and DRN slots: issues, weight sets, configuration, ceilings, overlays, drains and
preloads (R189 to R197, R237 to R240, R184). -/

namespace Sys2Proof.Machine

def fmtAt (c : BitVec 6) : Fmt := (fmtOf c.toNat).getD fmtFp32

/-- The value of the weight that lane (k, n) multiplies with: the overlay's w′ where it has an entry (R184, R239). -/
def laneWeight (u : ArrayUnit) (draw a : Nat) (upper : Bool) (k n : Nat) : Val :=
  let f := fmtAt u.cfg.wfmt
  let row := if upper then k + 32 else k
  let sc := (Config.arrayScale draw a 1 row n).toNat
  let w := u.weight row n
  let w := match tabFind (if upper then u.overlayUpper else u.overlay) (32 * k + n) with
    | some d => rennetApply f u.cfg.rmode sc w d.toNat
    | none => w
  codeVal f sc w

/-- Element `e` of an issue's activation operand (R238). -/
def activation (u : ArrayUnit) (draw a : Nat) (sel : Bool) (index e : Nat) : Val :=
  let f := fmtAt u.cfg.afmt
  let bits := (u.stagingLine sel).toNat >>> (8 * cfgIssueBytes u.cfg * index)
  codeVal f (Config.arrayScale draw a 0 (e / 32) 0).toNat ((bits >>> (f.width * e)) % 2 ^ f.width)

/-- Terms enter an entry that holds S; an S outside the finite range is unspecified (R148, R149, R192). -/
def entryExact (e : AccEntry) (free : Acc) (anchor : Int) (ps : List Val) : AccEntry :=
  let v := ps.foldl (fun s p => accCombine s (accTerm anchor p)) (accView e.val)
  { e with val := (accOf v).getD free, started := true }

/-- A rounded group sum enters an entry that holds an FP32 value (R192). -/
def entryFast (e : AccEntry) (g : Word) : AccEntry :=
  { e with val := (if e.started then fAdd (field e.val 0 32) g else g).zeroExtend 80, started := true, half := none }

/-- Half a group enters in quadrant mode: the exact sum waits for the other half, or LAST ends the group (R196). -/
def entryQuad (e : AccEntry) (last : Bool) (s : Val) : AccEntry :=
  match e.half with
  | some h => entryFast e (fRn (h.add s))
  | none => if last then entryFast e (fRn s) else { e with half := some s }

/-- One entry's part of an issue: `groups` are its products, lower group first. -/
def entryIssue (u : ArrayUnit) (draw i : Nat) (anchor : Int) (last : Bool) (groups : List (List Val)) : ArrayUnit :=
  let e := u.entry i
  let e := if cfgAccExact u.cfg then
      entryExact e (Config.freeAt draw (32768 + i) 80) anchor groups.flatten
    else if u.cfg.quad then groups.foldl (fun e g => entryQuad e last (groupSum g)) e
    else groups.foldl (fun e g => entryFast e (fRn (groupSum g))) e
  u.setEntry i e

/-- An issue of one array in array mode (R189, R191). -/
def issueArray (u : ArrayUnit) (draw a : Nat) (row index : Nat) (sel last : Bool) : ArrayUnit :=
  let groups := if cfgFourPair u.cfg then [false, true] else [false]
  (List.range 32).foldl (fun v n =>
    entryIssue v draw (accIndex false 0 row n) (u.anchor row n) last
      (groups.map fun up => (List.range 32).map fun k =>
        (activation u draw a sel index (if up then 32 + k else k)).mul (laneWeight u draw a up k n))) u

/-- An issue of one array in quadrant mode: quadrant q takes elements 16q to 16q + 15 (R195, R238). -/
def issueQuad (u : ArrayUnit) (draw a : Nat) (row index : Nat) (sel last : Bool) : ArrayUnit :=
  (List.range 64).foldl (fun v j =>
    let q := j / 16
    let n := j % 16
    entryIssue v draw (accIndex true q row n) (u.anchor row (16 * q + n)) last
      [(List.range 16).map fun k =>
        (activation u draw a sel index (16 * q + k)).mul
          (laneWeight u draw a false (q / 2 * 16 + k) (q % 2 * 16 + n))]) u

/-- ARR (R238). -/
def arrIssue (draw : Nat) (a : ArrArgs) (x0 x : Vat) : Vat :=
  x.modArrays a.amask fun k u =>
    let row := arrRow x0 a
    let index := arrIndex x0 a
    if u.cfg.quad then issueQuad u draw k row index a.sel a.last else issueArray u draw k row index a.sel a.last

/-! ### Weight sets -/

/-- Elements reach the weight port: the shadow set takes what it has room for, the rest waits (R193). -/
def ArrayUnit.feed (u : ArrayUnit) (ws : List Half) : ArrayUnit :=
  let all := u.waiting ++ ws
  let room := cfgSetSize u.cfgNext - u.shadow.length
  { u with shadow := u.shadow ++ all.take room, waiting := all.drop room }

/-- The shadow set is full (R193). -/
def ArrayUnit.shadowFull (u : ArrayUnit) : Bool := decide (u.shadow.length = cfgSetSize u.cfgNext)

/-- SWAP of one array: what CFG and CEIL set takes effect, and the overlay ends (R193, R239). -/
def ArrayUnit.swap (u : ArrayUnit) : ArrayUnit :=
  ({ u with cfg := u.cfgNext, active := u.shadow, shadow := [], colCeil := u.colCeilShadow,
            colCeilShadow := u.colCeil, overlay := [], overlayUpper := [] }).feed []

def wgtSwap (m : BitVec 8) (x : Vat) : Vat := x.modArrays m fun _ u => u.swap

/-- CFG: in force at the next SWAP (R239). -/
def wgtCfg (m : BitVec 8) (c : CfgArgs) (x : Vat) : Vat := x.modArrays m fun _ u => { u with cfgNext := c }

/-- CEIL: shadow column ceilings from lanes 0 to 63 (R239). -/
def wgtCeil (m : BitVec 8) (reg : Fin 32) (x0 x : Vat) : Vat :=
  let w := x0.vreg reg.val
  x.modArrays m fun _ u =>
    { u with colCeilShadow := (List.range 64).foldl (fun t n => tabPut n (field (lane w n) 0 10) t) u.colCeilShadow }

/-- Delta-buffer entries START to START + COUNT − 1 join an overlay (R239). -/
def addOverlay (u : ArrayUnit) (start count : Nat) (t : Tab Half) : Tab Half :=
  (List.range count).foldl (fun t k =>
    let e := u.deltaEntry (start + k)
    tabPut (rennetPos e) (BitVec.ofNat 16 (rennetVal e)) t) t

def wgtOvl (m : BitVec 8) (start count : BitVec 10) (x : Vat) : Vat :=
  x.modArrays m fun _ u => { u with overlay := addOverlay u start.toNat count.toNat u.overlay }

def wgtOvlu (m : BitVec 8) (start count : BitVec 10) (x : Vat) : Vat :=
  x.modArrays m fun _ u => { u with overlayUpper := addOverlay u start.toNat count.toNat u.overlayUpper }

def wgtOvlc (m : BitVec 8) (x : Vat) : Vat := x.modArrays m fun _ u => { u with overlay := [], overlayUpper := [] }

/-! ### Drains, preloads and row ceilings (R240) -/

/-- The entry and the column ceiling's index behind lane `l` of an array's group of 32. -/
def drnEntry (u : ArrayUnit) (row : Nat) (qsel : Bool) (l : Nat) : Nat × Nat :=
  if u.cfg.quad then
    let q := (if qsel then 2 else 0) + l / 16
    (accIndex true q row (l % 16), 16 * q + l % 16)
  else (accIndex false 0 row l, l)

/-- The FP32 value that a drain delivers for one entry (R197). -/
def drainValue (u : ArrayUnit) (row : Nat) (i col : Nat) : Word :=
  if cfgAccExact u.cfg then fRn (accVal (u.anchor row col) (accView (u.entry i).val)) else field (u.entry i).val 0 32

/-- S that a raw drain delivers for one entry; in fast mode an entry holds none and the value is free (R197; log 121). -/
def drainRaw (u : ArrayUnit) (draw i : Nat) : Acc :=
  if cfgAccExact u.cfg then (u.entry i).val else Config.freeAt draw (98304 + i) 80

/-- DRAIN: the row goes to the array's 32 lanes, or raw to bytes 0 to 319, and the entries become zero. -/
def drnDrain (draw : Nat) (a : DrnArgs) (x : Vat) : Vat :=
  let row := a.row.toNat
  let reg := a.reg.val
  let arrays := bitsSet a.amask
  let old := x.vreg reg
  let new :=
    if a.raw then
      let u := x.array (arrays.headD 0)
      setBytes old 0 320 (packElems 80 ((List.range 32).map fun l => (drainRaw u draw (drnEntry u row a.qsel l).1).toNat))
    else
      setLanes old (fun l => a.amask.getLsbD (l / 32)) fun l =>
        let u := x.array (l / 32)
        let (i, col) := drnEntry u row a.qsel (l % 32)
        drainValue u row i col
  (x.modArrays a.amask fun _ u =>
    (List.range 32).foldl (fun v l => v.setEntry (drnEntry u row a.qsel l).1 {}) u).setVreg reg new

/-- PRELOAD: lanes enter the row as one term each; in fast mode the first value of an entry replaces it (R192). -/
def drnPreload (draw : Nat) (a : DrnArgs) (x0 x : Vat) : Vat :=
  let row := a.row.toNat
  let w := x0.vreg a.reg.val
  x.modArrays a.amask fun k u =>
    (List.range 32).foldl (fun v l =>
      let (i, col) := drnEntry u row a.qsel l
      let t := lane w (32 * k + l)
      let e := v.entry i
      v.setEntry i (if cfgAccExact u.cfg then
          entryExact e (Config.freeAt draw (40960 + 2048 * k + i) 80) (u.anchor row col) [fVal t]
        else { entryFast e t with half := e.half })) u

/-- SETRC: a row ceiling from a scalar register's bits [9:0]. -/
def drnSetrc (a : DrnArgs) (x0 x : Vat) : Vat :=
  x.modArrays a.amask fun _ u =>
    { u with rowCeil := tabPut a.row.toNat (field (x0.sreg a.reg) 0 10) u.rowCeil }

end Sys2Proof.Machine
end

