-- ==== Sys2Proof/Machine/Vector.lean ====
section
/-! DEFINITION. The VEC slot (R241, R242). Every function gives the vat after the operation from the vat before the
bundle `x0` and the vat so far `x`. -/

namespace Sys2Proof.Machine

/-- Lanes that an operation writes: those of the groups in GMASK. -/
def vecOn (a : VecArgs) (l : Nat) : Bool := a.gmask.getLsbD (l / 32)

/-- The second operand: a vector register, or with SB the low word of s[VB] in every lane. -/
def vecB (x0 : Vat) (a : VecArgs) : BitVec 8192 :=
  if a.sb then ofLanes fun _ => field (x0.sreg a.vb) 0 32 else x0.vreg a.vb.val

/-- A lane-wise operation of two operands. -/
def vecMap2 (a : VecArgs) (f : Word → Word → Word) (x0 x : Vat) : Vat :=
  let p := x0.vreg a.va.val
  let q := vecB x0 a
  x.setVreg a.vd.val (setLanes (x.vreg a.vd.val) (vecOn a) fun l => f (lane p l) (lane q l))

/-- A lane-wise operation of one operand. -/
def vecMap1 (a : VecArgs) (f : Word → Word) (x0 x : Vat) : Vat :=
  let p := x0.vreg a.va.val
  x.setVreg a.vd.val (setLanes (x.vreg a.vd.val) (vecOn a) fun l => f (lane p l))

def vecFadd (a : VecArgs) := vecMap2 a fAdd
def vecFsub (a : VecArgs) := vecMap2 a fSub
def vecFmul (a : VecArgs) := vecMap2 a fMul
def vecFmax (a : VecArgs) := vecMap2 a fMax
def vecFmin (a : VecArgs) := vecMap2 a fMin
def vecFcmplt (a : VecArgs) := vecMap2 a fun p q => boolLane (fLt p q)
def vecFcmpeq (a : VecArgs) := vecMap2 a fun p q => boolLane (fEq p q)
def vecIadd (a : VecArgs) := vecMap2 a fun p q => p + q
def vecIsub (a : VecArgs) := vecMap2 a fun p q => p - q
def vecIand (a : VecArgs) := vecMap2 a fun p q => p &&& q
def vecIor (a : VecArgs) := vecMap2 a fun p q => p ||| q
def vecIxor (a : VecArgs) := vecMap2 a fun p q => p ^^^ q
def vecIslt (a : VecArgs) := vecMap2 a fun p q => boolLane (p.slt q)
def vecExp2 (a : VecArgs) := vecMap1 a znExp2
def vecRcp (a : VecArgs) := vecMap1 a znRecip
def vecLog (a : VecArgs) := vecMap1 a znLog
def vecRsqrt (a : VecArgs) := vecMap1 a znRsqrt

/-- FMA: VD = VA × VB + VC with one rounding. -/
def vecFma (a : VecArgs) (x0 x : Vat) : Vat :=
  let p := x0.vreg a.va.val
  let q := vecB x0 a
  let c := x0.vreg a.vc.val
  x.setVreg a.vd.val (setLanes (x.vreg a.vd.val) (vecOn a) fun l => fFma (lane p l) (lane q l) (lane c l))

/-- A shift whose result the spec states for some operands only; elsewhere a free value (R242 is silent on a shift of
32 or more, and on whether ISHR of a negative number is arithmetic; log 18). -/
def vecShift (draw : Nat) (a : VecArgs) (ok : Word → Word → Bool) (f : Word → Nat → Word) (x0 x : Vat) : Vat :=
  let p := x0.vreg a.va.val
  let q := vecB x0 a
  x.setVreg a.vd.val (setLanes (x.vreg a.vd.val) (vecOn a) fun l =>
    if ok (lane p l) (lane q l) then f (lane p l) (lane q l).toNat else Config.freeAt draw (65536 + l) 32)

def vecIshl (draw : Nat) (a : VecArgs) :=
  vecShift draw a (fun _ q => decide (q.toNat < 32)) fun p n => p <<< n
def vecIshr (draw : Nat) (a : VecArgs) :=
  vecShift draw a (fun p q => decide (q.toNat < 32) && !p.msb) fun p n => p >>> n

/-- CVTF: FP32 lanes to packed elements of FMT under RND; EXACT80 takes the grid of the descriptor window and holds
values 0 to 95 (R242, R619). -/
def vecCvtf (a : VecArgs) (x0 x : Vat) : Vat :=
  let w := fmtWidth a.fmt.toNat
  let r := (rndOf a.rnd.toNat).getD .rne
  let p := x0.vreg a.va.val
  let enc (l : Nat) : Nat :=
    if a.fmt.toNat = codeExact80 then (accSat (accTermIn r windowAnchor (fVal (lane p l)))).toNat
    else encodeVal (fmtAt a.fmt) r (fVal (lane p l))
  let groups := (bitsSet a.gmask).filter fun g => decide (4 * w * (g + 1) ≤ 1024)
  x.setVreg a.vd.val (groups.foldl (fun v g =>
    setBytes v (4 * w * g) (4 * w) (packElems w ((List.range 32).map fun k => enc (32 * g + k)))) (x.vreg a.vd.val))

/-- CVTI: packed elements of FMT to FP32 lanes; INT32 rounds to nearest even (R157). Of EXACT80 there are values 0 to 95,
and a lane beyond them gets a free value (R242, R619; log 34). -/
def vecCvti (draw : Nat) (a : VecArgs) (x0 x : Vat) : Vat :=
  let p := x0.vreg a.va.val
  x.setVreg a.vd.val (setLanes (x.vreg a.vd.val) (vecOn a) fun l =>
    if a.fmt.toNat = codeExact80 then
      if l < 96 then fRn (accVal windowAnchor (accView (exactAt p l))) else Config.freeAt draw (66200 + l) 32
    else fRn (elemVal (fmtAt a.fmt) (elemAt p (fmtAt a.fmt).width l)))

/-- MXQ: each group becomes one Microscaling block, elements into VD and its scale into byte g of VC (R144). -/
def vecMxq (a : VecArgs) (x0 x : Vat) : Vat :=
  let f := fmtAt a.fmt
  let p := x0.vreg a.va.val
  let block (g : Nat) : Nat × List Nat := mxBlock f .rne ((List.range 32).map fun k => fVal (lane p (32 * g + k)))
  let groups := bitsSet a.gmask
  let x := x.setVreg a.vd.val (groups.foldl (fun w g =>
    setBytes w (4 * f.width * g) (4 * f.width) (packElems f.width (block g).2)) (x.vreg a.vd.val))
  x.setVreg a.vc.val (groups.foldl (fun w g => setBytes w g 1 (block g).1) (x.vreg a.vc.val))

/-- Whether an anchor is one that R148 admits. -/
def anchorOk (w : DWord) : Bool := decide (-320 ≤ w.toInt) && decide (w.toInt ≤ 320)

/-- XADD: EXACT80 values of VA and VB added; group g of GMASK covers values 32g to 32g + 31 (log 19). -/
def vecXadd (draw : Nat) (a : VecArgs) (x0 x : Vat) : Vat :=
  let p := x0.vreg a.va.val
  let q := vecB x0 a
  x.setVreg a.vd.val (((List.range 96).filter fun i => a.gmask.getLsbD (i / 32)).foldl (fun w i =>
    let s := (accOf (accCombine (accView (exactAt p i)) (accView (exactAt q i)))).getD
      (Config.freeAt draw (66000 + i) 80)
    setBytes w (10 * i) 10 s.toNat) (x.vreg a.vd.val))

/-- XCVT: EXACT80 values of VA under the anchor s[VB] to FP32 lanes 0 to 95 (R151). -/
def vecXcvt (draw : Nat) (a : VecArgs) (x0 x : Vat) : Vat :=
  let p := x0.vreg a.va.val
  let w := x0.sreg a.vb
  x.setVreg a.vd.val (setLanes (x.vreg a.vd.val) (fun l => decide (l < 96) && vecOn a l) fun l =>
    if anchorOk w then fRn (accVal w.toInt (accView (exactAt p l))) else Config.freeAt draw (67000 + l) 32)

/-- RMAX: the largest of the GMASK lanes into lane 0 (R122). -/
def vecRmax (a : VecArgs) (x0 x : Vat) : Vat :=
  let p := x0.vreg a.va.val
  let ls := (List.range 256).filter (vecOn a)
  let m := ls.foldl (fun v l => fMax v (lane p l)) (lane p (ls.headD 0))
  x.setVreg a.vd.val (setLanes (x.vreg a.vd.val) (fun l => l == 0) fun _ => fRn (fVal m))

/-- RSUM: the long-accumulator sum of the GMASK lanes under the anchor s[VB], as EXACT80 (R149, R150). -/
def vecRsum (draw : Nat) (a : VecArgs) (x0 x : Vat) : Vat :=
  let p := x0.vreg a.va.val
  let w := x0.sreg a.vb
  let free : Acc := Config.freeAt draw 68000 80
  let s : Acc := if anchorOk w then
      (accOf (accSum w.toInt (((List.range 256).filter (vecOn a)).map fun l => fVal (lane p l)))).getD free
    else free
  x.setVreg a.vd.val (setBytes (x.vreg a.vd.val) 0 10 s.toNat)

end Sys2Proof.Machine
end

