-- ==== Sys2Proof/Machine/PortSlot.lean ====
section
/-! DEFINITION. The PORT slot: scratchpad accesses for arrays, vector registers and scalars (R235 to R237). -/

namespace Sys2Proof.Machine

/-- How an expander fails a step (R178, R505). -/
inductive CurdFault where
  | parity
  | magic
  | decode
  | table
deriving DecidableEq, Repr

/-- DETAIL0 of a CURD record (R505). -/
def CurdFault.detail : CurdFault → Nat
  | .parity => 1
  | .magic => 2
  | .decode => 3
  | .table => 0

/-- The vat after a PORT access, and what an expander found. -/
structure PortOut where
  vat : Vat
  fault : Option CurdFault := none
deriving DecidableEq, Repr

/-- The reason behind a bad block: parity is checked first, then MAGIC, then the payload (R173, R178). -/
def curdReason (b : CurdBlock) : CurdFault :=
  if !curdParityOk b then .parity else if elemAt b 16 0 ≠ 0x4443 then .magic else .decode

/-- One line of a curd stream enters an expander (R172, R237). -/
def expanderLine (u : ArrayUnit) (l : Line) : ArrayUnit × Option CurdFault :=
  match u.halfBlock with
  | none => ({ u with halfBlock := some l }, none)
  | some h =>
    let b : CurdBlock := l ++ h
    let u := { u with halfBlock := none }
    match curdExpand u.tableFor b with
    | .elems ss => (u.feed (ss.map (BitVec.ofNat 16)), none)
    | .tableMissing => (u, some .table)
    | .bad => (u, some (curdReason b))

/-- Lines of a curd stream, up to the first failure. -/
def expanderLines : ArrayUnit → List Line → ArrayUnit × Option CurdFault
  | u, [] => (u, none)
  | u, l :: ls =>
    match expanderLine u l with
    | (v, none) => expanderLines v ls
    | r => r

/-- Raw tiles of the stream go to the named arrays in ascending order, around again while data is left (log 24). -/
def dealTiles (arrays : List Nat) (stream : Nat) : Nat → Nat → Nat → Vat → Vat
  | 0, _, _, x => x
  | fuel + 1, left, j, x =>
    let k := arrays.getD (j % arrays.length) 0
    let u := x.array k
    let w := fmtWidth u.cfgNext.wfmt.toNat
    let n := min (cfgSetSize u.cfgNext) (left / w)
    if w = 0 ∨ n = 0 then x
    else
      let ws := (List.range n).map fun i => BitVec.ofNat 16 ((stream >>> (w * i)) % 2 ^ w)
      dealTiles arrays (stream >>> (w * n)) fuel (left - w * n) (j + 1) (x.modArray k fun u => u.feed ws)

/-- The lines of a PORT access, in order. -/
def portLines (x0 : Vat) (a : PortArgs) : List Line :=
  (List.range (a.count.toNat + 1)).map fun i => x0.line (spdLine (portAddr x0 a i))

/-- LDA: a line into a staging line of every named array. -/
def portLda (a : PortArgs) (x0 x : Vat) : PortOut :=
  let l := x0.line (spdLine (portAddr x0 a 0))
  { vat := ((x.modArrays a.amask fun _ u =>
      { u with staging := tabPut (if a.sel then 1 else 0) l u.staging }).increment x0 a) }

/-- LDW: lines into the weight ports, through the expander of one array or as raw tiles (R237). -/
def portLdw (a : PortArgs) (x0 x : Vat) : PortOut :=
  let arrays := bitsSet a.amask
  let x := x.increment x0 a
  let lines := portLines x0 a
  if arrays.any fun k => !(x.array k).cfgNext.raw then
    let k := arrays.headD 0
    let (u, f) := expanderLines (x.array k) lines
    { vat := x.modArray k fun _ => u, fault := f }
  else if arrays.isEmpty then { vat := x }
  else
    let stream := lines.foldr (fun l n => l.toNat + 2 ^ 16384 * n) 0
    { vat := dealTiles arrays stream 256 (16384 * lines.length) 0 x }

/-- LDV: a line into two vector registers. -/
def portLdv (a : PortArgs) (x0 x : Vat) : PortOut :=
  let l := x0.line (spdLine (portAddr x0 a 0))
  { vat := ((x.increment x0 a).setVreg a.reg.val (field l 0 8192)).setVreg (a.reg.val + 1) (field l 8192 8192) }

/-- STV: two vector registers into a line under the word mask. -/
def portStv (a : PortArgs) (x0 x : Vat) : PortOut :=
  { vat := (x.putLine (portAddr x0 a 0) (stvMask x0 a) (x0.vreg (a.reg.val + 1) ++ x0.vreg a.reg.val)).increment x0 a }

/-- LDS: 8 bytes into a scalar register; the load is written after the increment. -/
def portLds (a : PortArgs) (x0 x : Vat) : PortOut :=
  { vat := (x.increment x0 a).setSreg a.reg (x0.dword (portAddr x0 a 0)) }

/-- STS: a scalar register into 8 bytes, or the set or clear of R201 through an alias. -/
def portSts (a : PortArgs) (x0 x : Vat) : PortOut :=
  let d := portAddr x0 a 0
  let (l, m) := wordsAt (d % 2048 / 4) 2 (x0.sreg a.reg).toNat
  { vat := (x.putLine d m l).increment x0 a }

/-- LDD: a line of 512 rennet entries into a delta-buffer half. -/
def portLdd (a : PortArgs) (x0 x : Vat) : PortOut :=
  let l := x0.line (spdLine (portAddr x0 a 0))
  let base := if a.sel then 512 else 0
  let part : Tab Word := (List.range 512).map fun k => (base + k, lineWord l k)
  { vat := ((x.modArrays a.amask fun _ u =>
      let rest := u.delta.filter fun (k, _) => decide (k < base) || decide (base + 512 ≤ k)
      { u with delta := (rest.filter fun (k, _) => decide (k < base)) ++ part ++
          (rest.filter fun (k, _) => decide (base + 512 ≤ k)) }).increment x0 a) }

/-- LDT: 16 code tables into a half of the table store (R236, R237). -/
def portLdt (a : PortArgs) (x0 x : Vat) : PortOut :=
  let l := x0.line (spdLine (portAddr x0 a 0))
  let first := (x0.sreg a.reg).toNat
  { vat := ((x.modArrays a.amask fun _ u =>
      { u with tables := (List.range 16).foldl (fun t i =>
          tabPut ((if a.sel then 16 else 0) + i) (first + i, field l (1024 * i) 1024) t) u.tables }).increment x0 a) }

end Sys2Proof.Machine
end

