-- ==== Sys2Proof/Machine/Jobs.lean ====
section
/-! DEFINITION. Jobs: footprints, the order of starts, preemption, stops, faults and overruns (chapters 06, 14, 15, 16). -/

namespace Sys2Proof.Machine

/-! ### Footprints and who holds them (R460, R461, R465) -/

def Job.lc (j : Job) : Bool := j.hdr.latencyCritical
def Job.vatList (j : Job) : List Nat := bitsSet j.hdr.vats

/-- Two footprints meet (R460). -/
def footMeets (a b : ProgHeader) : Bool :=
  a.vats &&& b.vats != 0 || a.stackSet &&& b.stackSet != 0 || a.portSet &&& b.portSet != 0

/-- A job that holds its footprint. -/
def Job.holds (j : Job) : Bool :=
  match j.state with
  | .waiting => false
  | .preempted => false
  | _ => true

def Job.isWaiting (j : Job) : Bool := j.state == .waiting
def Job.isPreempted (j : Job) : Bool := j.state == .preempted

def State.srv (s : State) (n : Nat) : Srv := tabGet {} s.srvs n
def State.modSrv (s : State) (n : Nat) (f : Srv → Srv) : State := { s with srvs := tabMod {} s.srvs n f }

/-- A serving engine holds a footprint that meets this one (R465). -/
def State.engineMeets (s : State) (n : Nat) (h : ProgHeader) : Bool :=
  let e := s.srv n
  e.state != .off && match e.hdr with
    | some g => footMeets g h
    | none => false

/-- Two jobs of one settled program that may not overlap (R46, R47). -/
def mayNotOverlap (a b : Job) : Bool :=
  a.hdr.fingerprint == b.hdr.fingerprint && a.part == b.part && a.hdr.exclusive.any b.hdr.exclusive.contains

/-- A MOVE that the serving engine issued (R396). -/
def NbeJob.engineMove (k : NbeJob) : Bool := k.issuer.isNone && decide (k.record.toNat % 256 = 4)

/-- A MOVE of a partition's serving engine has not completed. -/
def State.engineMoves (s : State) (n : Nat) : Bool := s.nbeJobs.any fun (_, k) => k.part == n && k.engineMove

/-- A job's footprint is free and nothing keeps it from starting (R46, R47, R460, R461); a step program waits for the MOVEs
of its step (R396). -/
def State.mayStart (s : State) (j : Job) : Bool :=
  !(j.serving && s.engineMoves j.part) &&
  (j.serving || !s.engineMeets j.part j.hdr) &&
  s.jobs.all fun (_, k) =>
    k.id == j.id || k.part != j.part ||
    !((k.holds && footMeets k.hdr j.hdr) || (decide (k.id < j.id) && mayNotOverlap k j) ||
      (!j.lc && k.lc && k.isWaiting && footMeets k.hdr j.hdr))

/-- Jobs that wait, in the order of R461. -/
def State.startOrder (s : State) (n : Nat) : List Job :=
  let js := (s.jobs.map (·.2)).filter fun j => j.part == n
  sortBy Job.readyStamp (js.filter fun j => j.isWaiting && j.lc) ++
  sortBy Job.preemptStamp (js.filter Job.isPreempted) ++
  sortBy Job.readyStamp (js.filter fun j => j.isWaiting && !j.lc)

/-! ### Islands (R485, R496) -/

/-- Islands of a job: those of its vats, and the stack islands of its stacks (R480). -/
def Job.islands (j : Job) : List Nat :=
  ((List.range 64).filter fun i => j.hdr.vats.getLsbD (2 * i) || j.hdr.vats.getLsbD (2 * i + 1)) ++
  (List.range 32).filterMap fun i => if j.hdr.stackSet.getLsbD (i / 4) then some (64 + i) else none

/-- Hevos moves an island to a point; while the voltage rises the lower point's rate holds (R485, R496). -/
def State.setPoint (s : State) (i p : Nat) : State :=
  s.modVpoint i fun v =>
    if v.point < p then { v with point := p, rising := some (v.rising.getD v.point) }
    else { v with point := p, rising := none }

/-- A job needs its islands at point 3, where Hevos chooses (R496). -/
def State.wakeIslands (s : State) (j : Job) : State :=
  forAll j.islands (fun i s =>
    let s := s.modVpoint i fun v => { v with idleSince := none }
    if (s.vpoint i).auto && (s.vpoint i).point != 3 then s.setPoint i 3 else s) s

/-- Islands without a job begin to idle (R496). -/
def State.idleIslands (s : State) (j : Job) : State :=
  let busy := (s.jobs.filter fun (_, k) => k.holds).flatMap fun (_, k) => k.islands
  forAll (j.islands.filter fun i => !busy.contains i)
    (fun i s => s.modVpoint i fun v => { v with idleSince := some s.tmb.beat }) s

/-! ### Starts and preemption -/

/-- A job's own vats. -/
def State.modJobVats (s : State) (j : Job) (f : Vat → Vat) : State := forAll j.vatList (fun v s => s.modVat v f) s

/-- What a vat's sequencer does next; a vat that clears itself goes on clearing (R206). -/
def Vat.runAs (x : Vat) (r : RunState) : RunState := if x.run = .clearing then .clearing else r

/-- First beat at which a job may start (R88). A best-effort job whose START_BEAT passed while its footprint was not
free starts as one with START_BEAT 0: DESIGN CHOICE, as R464 rules on latency-critical jobs only (log 113). -/
def State.firstStart (s : State) (asked : Nat) : Nat :=
  if asked ≠ 0 ∧ s.tmb.beat ≤ asked then asked else quantumAt (s.tmb.beat + 64)

/-- A job takes its free footprint: it waits for its start beat, or its save areas are read back (R215, R461). -/
def State.take (s : State) (j : Job) : State :=
  let again := j.isPreempted
  let s := s.modJob j.id fun j =>
    if again then { j with state := .restoring } else { j with state := .starting, startBeat := s.firstStart j.askedBeat }
  (s.modJobVats j fun x => { x with job := some j.id, run := x.runAs (if again then .saving else .idle) }).wakeIslands j

/-- Start every waiting job whose footprint is free, in order (R461). -/
def startWaiting (n : Nat) : Nat → State → State
  | 0, s => s
  | fuel + 1, s =>
    match (s.startOrder n).find? s.mayStart with
    | none => s
    | some j => startWaiting n fuel (s.take j)

/-- A best-effort job that holds a footprint gives way: a running one is asked to yield, one that is being restored is
abandoned, one that has not begun waits again (R215, R463, R467, R470). -/
def State.giveWay (s : State) (j : Job) : State :=
  let leave (st : JobState) : State :=
    (s.modJob j.id fun j => { j with state := st }).modJobVats j fun x => { x with job := none, run := x.runAs .idle }
  match j.state with
  | .running =>
    (s.modJob j.id fun j => { j with state := .preempting }).modJobVats j fun x => { x with preempt := true }
  | .starting => leave .waiting
  | .restoring => leave .preempted
  | .restored => leave .preempted
  | _ => s

/-- Preempt every best-effort job of a partition that meets a footprint (R465, R467). -/
def State.preemptFor (s : State) (n : Nat) (h : ProgHeader) : State :=
  forAll ((s.jobs.map (·.2)).filter fun k =>
      k.part == n && !k.lc && !k.serving && k.holds && k.hdr.devices ≤ 1 && footMeets k.hdr h)
    (fun k s => s.giveWay k) s

/-- After any change of who holds what: latency-critical jobs that wait preempt, and free footprints are taken. -/
def State.settleJobs (s : State) (n : Nat) : State :=
  let lcs := (s.jobs.map (·.2)).filter fun k => k.part == n && k.lc && k.isWaiting
  startWaiting n (s.jobs.length + 1) (forAll lcs (fun k s => s.preemptFor n k.hdr) s)

/-! ### Ends -/

/-- Take NBE jobs out of every queue (R457, R524). -/
def State.dropNbeJobs (s : State) (p : NbeJob → Bool) : State :=
  let gone := (s.nbeJobs.filter fun (_, j) => p j).map (·.1)
  { s with nbeJobs := s.nbeJobs.filter fun (_, j) => !p j,
           nbes := s.nbes.map fun (k, e) => (k, { e with queue := e.queue.filter fun q => !gone.contains q }) }

/-- A job has begun: it may stand preempted. -/
def Job.begun (j : Job) : Bool := match j.state with
  | .waiting | .starting => false
  | _ => true

/-- Hold quanta that occurred during a job: those of the holds that ended, and those of the hold in progress that have
begun (R90; log 114). -/
def State.quantaOf (s : State) (j : Job) : Nat :=
  j.holdQuanta + match (s.slot (s.part j.part).swarm.toNat).hold with
    | some a => if j.begun then min a.quanta (ceilDiv (s.tmb.beat - a.start) 64) else 0
    | none => 0

/-- What the stores of a vat that are under way would have written holds unspecified values (R24). -/
def State.forgetStores (s : State) (n : Nat) (x : Vat) : State :=
  forAll (x.xfers.filter fun (_, t) => t.kind == .sst) (fun (_, t) s => s.winForget n t.addr (2048 * t.data.length)) s

/-- A job's vats stop. Where it ended well, the lines that other devices sent to them are still performed (R204); else
nothing of it moves any more, no flag of it is set, and its stores under way leave unspecified bytes
(R24, R246, R511). -/
def State.stopVats (s : State) (j : Job) (run : RunState) (well : Bool) : State :=
  let mine := j.vatList.filter fun v => (s.vat v).job == some j.id
  forAll mine (fun v s => (s.forgetStores j.part (s.vat v)).modVat v fun x =>
    { x with run := x.runAs run, job := none, inbound := if well then x.inbound else [], xfers := [], preempt := false }) s

/-- A job ends: its vats and footprint are free, its LAUNCH completes, and waiting jobs may start (R45, R90, R461). -/
def State.endJob (s : State) (id : Nat) (run : RunState) (e : Ending) : State :=
  match tabFind s.jobs id with
  | none => s
  | some j =>
    let s1 := (s.stopVats j run (e.status == statusOk)).dropNbeJobs fun k => k.job == some id
    let s2 := { s1 with jobs := tabErase id s1.jobs }
    let s3 := s2.idleIslands j
    let s4 :=
      if j.serving then s3.modSrv j.part fun e' =>
        { e' with stepJob := none, stepFault := e'.stepFault || e.status != statusOk }
      else s3.complete j.part j.ring j.desc { e with detail := s.quantaOf j }
    s4.settleJobs j.part

/-- A job that spans several devices and ends with FAULT floods an ABORT (R513). -/
def State.floodFor (s : State) (j : Job) (seq : Word) : State :=
  if 1 < j.hdr.devices then s.originAbort j.part seq else s

/-- A job faults: one record, its end with FAULT, and the ABORT of a multi-device job (R24, R246, R511, R513). -/
def State.faultJob (s : State) (id : Nat) (i : ErrInfo) : State :=
  match tabFind s.jobs id with
  | none => s
  | some j =>
    let (seq, s1) := s.logError { i with severity := 1, part := j.part, tag := j.tag,
                                         ring := if j.serving then ringNone else j.ring }
    (s1.endJob id .stopped { status := statusFault, errSeq := seq }).floodFor j seq

/-- The partition behind a vat: its job's, or its island's (R449). -/
def State.vatPart (s : State) (v : Nat) : Nat :=
  match (s.vat v).job with
  | some id => (match tabFind s.jobs id with | some j => j.part | none => partDevice)
  | none => ((List.range 16).find? fun n => (s.part n).state != .off && (s.part n).islands.getLsbD (v / 2)).getD partDevice

/-- A fault of a vat's step: its job faults; a vat without a job only stops. -/
def State.faultVat (s : State) (v : Nat) (i : ErrInfo) : State :=
  let s1 := s.modVat v fun x => { x with run := .stopped }
  match (s.vat v).job with
  | some id => if (tabFind s.jobs id).isSome then s1.faultJob id i else s1.log { i with part := s.vatPart v }
  | none => s1.log { i with part := s.vatPart v }

/-- Window offset of a bundle address of a vat (R220). -/
def State.bundleOffset (s : State) (v : Nat) (a : Nat) : Nat :=
  match (s.vat v).job with
  | some id => (match tabFind s.jobs id with | some j => j.program + j.hdr.codeOff + a | none => a)
  | none => a

/-- PATH of a trap's record (R246, R618; log 20). -/
def TrapCause.path : TrapCause → Nat
  | .fetchUncorrectable => 1
  | .scratchAddress => 2
  | .window => 3
  | .target => 3
  | .tableMissing => 6
  | _ => 0

/-- DETAIL0 of a trap's record: the cause in [7:0], 1 + the slot in [15:8] where known, TRAP's IMM in [63:32]
(R246, R505; log 20). -/
def trapDetail (c : TrapCause) (slot : Option Nat) (imm : Word) : Nat :=
  c.code + (match slot with | some k => (k + 1) * 256 | none => 0) + imm.toNat * 2 ^ 32

/-- A vat traps (R246). -/
def State.vatTrap (s : State) (v : Nat) (c : TrapCause) (slot : Option Nat) (imm : Word) : State :=
  s.faultVat v { code := 0x0301, severity := 1, part := 0, path := c.path, unit := v, addrKind := 1,
                 addr := s.bundleOffset v (s.vat v).pc.toNat, detail0 := trapDetail c slot imm }

/-- A scratchpad parity mismatch meets a read of a vat (R202). -/
def State.spdParity (s : State) (v path a : Nat) : State :=
  s.faultVat v { code := 0x0302, severity := 1, part := 0, path := path, unit := v, addr := a }

/-! ### Beats of a vat (R225, R230, R489) -/

def State.jobOf (s : State) (v : Nat) : Option Job := (s.vat v).job.bind (tabFind s.jobs)
/-- The job beat that a vat reads; 0 without a job. -/
def State.jobBeat (s : State) (v : Nat) : Nat := match s.jobOf v with | some j => j.beat | none => 0
def State.vatLc (s : State) (v : Nat) : Bool := match s.jobOf v with | some j => j.lc | none => false

/-- A vat misses a beat: counted, and a hold is requested; a record and the event for the first of each hold (R489). -/
def State.overrun (s : State) (v lateness : Nat) : State :=
  let slot := match s.jobOf v with | some j => (s.part j.part).swarm.toNat | none => 0
  let alone := match s.jobOf v with | some j => decide (j.hdr.devices ≤ 1) | none => true
  let s1 := { s with pwr := { s.pwr with overruns := s.pwr.overruns + 1, overrunLast := (min lateness 65535, v / 2) } }
  let (sent, s2) := s1.requestHold slot lateness 2 alone
  if sent then
    (s2.log { code := 0x0306, severity := 0, part := s.vatPart v, path := 15, unit := v / 2,
              tag := (match s.jobOf v with | some j => j.tag | none => 0) }).raise 0x2C (v / 2)
  else s2

/-! ### The jobs of a swarm (R421, R438, R441) -/

/-- Partitions that belong to a swarm slot. -/
def State.swarmParts (s : State) (slot : Nat) : List Nat :=
  (List.range 16).filter fun n => (s.part n).state != .off && (s.part n).swarm.toNat == slot

/-- Jobs of a swarm: those of its partitions. -/
def State.swarmJobs (s : State) (slot : Nat) : List Job :=
  (s.jobs.map (·.2)).filter fun j => (s.swarmParts slot).contains j.part

/-- A job that an ABORT stops: one that has begun, in a partition with ports or over several devices (R441; log 25). -/
def State.abortable (s : State) (j : Job) : Bool :=
  j.holds && (decide (1 < j.hdr.devices) || (s.part j.part).portSet != 0)

/-- The running jobs of a swarm stop with FAULT; ERR_SEQ is 0 where another member originated the ABORT
(R441 step 4). -/
def State.abortJobs (s : State) (slot : Nat) (seq : Word) : State :=
  forAll ((s.swarmJobs slot).filter s.abortable)
    (fun j s => s.endJob j.id .stopped { status := statusFault, errSeq := seq }) s

/-! ### Beat division (R484, R497) -/

/-- Guaranteed issue rate of a point, in 10 M issues/s (R483). -/
def pointRate : Nat → Nat
  | 0 => 130
  | 1 => 160
  | 2 => 180
  | _ => 200

/-- The least beat divisor of a point (R484). -/
def pointDivisor (p : Nat) : Nat := ceilDiv (pointRate 3) (pointRate p)

/-- The least divisor that running latency-critical jobs need; an island whose voltage rises runs at the lower point
(R484, R485). -/
def State.leastDivisor (s : State) : Nat :=
  (s.jobs.filter fun (_, j) => j.lc && j.counts).foldl (fun m (_, j) =>
    j.islands.foldl (fun m i => max m (pointDivisor ((s.vpoint i).rising.getD (s.vpoint i).point))) m) 1

/-- Whether a serving engine is on. -/
def State.engineOn (s : State) (n : Nat) : Bool := (s.srv n).state != .off

/-- A swarm slot has a latency-critical job or a serving engine here (R497). -/
def State.needsDivisor (s : State) (slot : Nat) : Bool :=
  ((s.swarmJobs slot).any Job.lc) || (s.swarmParts slot).any s.engineOn

/-- Nothing of a swarm slot spans another device: it is a swarm of one (R497). -/
def State.slotAlone (s : State) (slot : Nat) : Bool :=
  ((s.swarmJobs slot).all fun j => decide (j.hdr.devices ≤ 1)) &&
    (s.swarmParts slot).all fun n => match (s.srv n).hdr with
      | some h => !s.engineOn n || decide (h.devices ≤ 1)
      | none => true

/-- DIV_REQ changes: the waits of R497 start anew, and every swarm that needs it gets a HOLD_REQ with QUANTA 0. -/
def State.setDivReq (s : State) (d : Nat) : State :=
  if s.pwr.divReq = d then s
  else
    let again (o : Option Nat) : Option Nat := o.map fun _ => s.tmb.beat
    let p := s.pwr
    let s1 := { s with pwr := { p with divReq := d, highSince := again p.highSince, hotSince := again p.hotSince,
                                       lowSince := again p.lowSince } }
    forAll ((List.range 16).filter s1.needsDivisor)
      (fun k s => s.sendHoldReq k 0 d 0 (s.slotAlone k)) s1

/-- DIV_REQ obeys PWR_DIV_CTL and the least divisor of R484 at once (R495, R497). -/
def State.settleDiv (s : State) : State :=
  s.setDivReq (if s.pwr.divAuto then max s.pwr.divReq (max s.pwr.minDiv s.leastDivisor) else s.pwr.minDiv)

/-- This device originates an ABORT after a record, and its own jobs of the swarm stop with that record's SEQ
(R424, R441, R529). -/
def State.abortSwarm (s : State) (slot port : Nat) (seq : Word) (except : Option Nat) : State :=
  (s.floodAbort slot s.gen.fabPos.toNat port seq.toNat except).abortJobs slot seq

end Sys2Proof.Machine
end

