-- ==== Sys2Proof/Machine/Records.lean ====
section
/-! DEFINITION. Records that rings owe, final token-stream records, reads that a descriptor makes, and halting
(R99 to R102, R340, R510 to R512, R523 to R525). -/

namespace Sys2Proof.Machine

/-! ### Completion rings (R52, R78 to R81, R99, R102) -/

/-- A ring stops, with the low byte of the status that stopped it; a stopped ring keeps its cause (R77, R594). -/
def State.stopRing (s : State) (n r status : Nat) : State :=
  s.modRing n r fun g =>
    if g.stopped || !g.enable then g else { g with stopped := true, stopCause := BitVec.ofNat 8 status }

/-- The 31 bytes of a token-stream record before RFLAGS (R340). -/
def tokenRecord (tag : DWord) (tokens : List Nat) (position reason sflags : Nat) : List Byte :=
  bytesOfNat 8 tag.toNat ++ ((List.range 4).flatMap fun k => bytesOfNat 4 (tokens.getD k 0)) ++
    bytesOfNat 4 position ++ bytesOfNat 1 tokens.length ++ bytesOfNat 1 reason ++ bytesOfNat 1 sflags

/-- The record ends the request with this tag. -/
def RecBody.isFinalOf (b : RecBody) (tag : DWord) : Bool := match b with
  | .token bs => natOfBytes (bs.take 8) == tag.toNat && bs.getD 0x1D 0 != 0
  | .comp .. => false

/-- Bytes of a record as it is written, with SQ_HEAD and RFLAGS (R78, R99, R340). -/
def recordBytes (b : RecBody) (sqHead : Word) (phase : Bool) : List Byte :=
  let flag : Nat := if phase then 0x80 else 0
  match b with
  | .comp tag status opcode errSeq result detail =>
    bytesOfNat 4 tag.toNat ++ bytesOfNat 2 status ++ bytesOfNat 1 opcode ++ [0] ++ bytesOfNat 4 sqHead.toNat ++
      bytesOfNat 4 errSeq.toNat ++ bytesOfNat 8 result.toNat ++ bytesOfNat 4 detail.toNat ++ [0, 0, 0] ++
      bytesOfNat 1 flag
  | .token bs => bs ++ bytesOfNat 1 (flag + 1)

/-- Host address of the slot of a completion counter value (R71). -/
def RingCfg.cqSlot (u : RingCfg) (c : Word) : DWord :=
  u.cqBase + BitVec.ofNat 64 (32 * (c.toNat % 2 ^ u.cqLog2.toNat))
def RingCfg.sqSlot (u : RingCfg) (c : Word) : DWord :=
  u.sqBase + BitVec.ofNat 64 (64 * (c.toNat % 2 ^ u.sqLog2.toNat))

/-- PHASE is 1 on the first pass through the ring and inverts on each later one (R78). -/
def RingCfg.phase (u : RingCfg) (c : Word) : Bool := decide (c.toNat / 2 ^ u.cqLog2.toNat % 2 = 0)

/-- A ring's vector is sent, and every record is signalled (R52, R81). -/
def State.signal (s : State) (n r : Nat) : State :=
  (s.modRing n r fun g => { g with unsignalled := 0 }).interrupt (n + 1) r

/-- The interrupt of a record (R81). -/
def State.recordIrq (s : State) (n r : Nat) (u : RingCfg) (irq : Bool) : State :=
  let k := (s.ring n r).unsignalled + 1
  if u.irqMode = 0 then s
  else if u.irqMode = 1 ∨ irq ∨ u.irqCount.toNat ≤ k then s.signal n r
  else s.modRing n r fun g => { g with unsignalled := k, oldest := if k = 1 then s.tmb.beat else g.oldest }

/-! ### Requests and their final records (R340, R343, R345) -/

/-- Sequence position of the next token of a request. -/
def Req.nextPos (q : Req) : Nat := q.promptLen + q.generated

/-- Whether a request's final record has been written or discarded (R343). -/
def State.finalGone (s : State) (n : Nat) (q : Req) : Bool :=
  q.ending.isSome && !(s.ring n q.ring).owed.any fun o => o.body.isFinalOf q.tag

def State.modReq (s : State) (n i : Nat) (f : Req → Req) : State :=
  s.modSrv n fun e => { e with reqs := tabMod {} e.reqs i f }

/-- A request's end is decided and its final record, with COUNT 0, is owed (R340, R342). -/
def State.endRequest (s : State) (n i reason : Nat) : State :=
  let q := tabGet {} (s.srv n).reqs i
  if q.state = .free ∨ q.ending.isSome then s
  else
    (s.owe n q.ring
      { body := .token (tokenRecord q.tag [] q.nextPos reason (if q.firstSent then 0 else 1)), irq := false }).modReq n i
      fun q => { q with state := .done, ending := some reason, firstSent := true, reserved := 0 }

/-- Cancels complete once the final record of their request is visible (R345). -/
def State.settleCancels (s : State) (n : Nat) : State :=
  forAll ((s.srv n).reqs) (fun (i, q) s =>
    if s.finalGone n q then
      (forAll q.cancels (fun (r, d, st) s => s.complete n r d { status := st }) s).modReq n i
        fun q => { q with cancels := [] }
    else s) s

/-! ### Reads of a descriptor in the window (R510, R511, R618) -/

/-- The record of a device consumer's read that fails: MEM_UE where the budget ran out, MEM_POISON at a word marked
before (R261, R262, R505). The range that was read begins at window offset `w`. -/
def readInfo (n path unit w : Nat) (f : ReadFail) (tag : Word) (ring sev : Nat) : ErrInfo :=
  { code := if f.spent then 0x0102 else 0x0105, severity := sev, part := n, path := path, unit := unit, addrKind := 1,
    addr := w + f.off, tag := tag, ring := ring, detail1 := f.dpa }

/-- Complete a descriptor after writing a record; the record's SEQ goes into ERR_SEQ (R101). -/
def State.failDesc (s : State) (n r : Nat) (d : Desc) (i : ErrInfo) (e : Ending) : State :=
  let (seq, s1) := s.logError { i with part := n, tag := descTag d.bits, ring := r }
  s1.complete n r d.id { e with errSeq := seq }

/-- Bytes of the window that a descriptor reads; a failed read ends it with POISON_READ (R511). -/
def State.descRead (s : State) (n r : Nat) (d : Desc) (path w len : Nat) : Option (List Byte) × State :=
  let (x, s1) := s.winRead n w len
  match x.fail with
  | some f => (none, s1.failDesc n r d (readInfo n path 0 w f 0 r 1) { status := statusPoisonRead })
  | none => (some x.bytes, s1)

/-! ### Halting (R523 to R525) -/

/-- Every job of a partition is gone: vats, NBE jobs and footprints are free. -/
def State.dropJobs (s : State) (n : Nat) (run : RunState) : State :=
  let js := (s.jobs.map (·.2)).filter fun j => j.part == n
  let s1 := forAll js (fun j s => s.stopVats j run false) (s.dropNbeJobs fun k => k.part == n)
  let s2 := { s1 with jobs := s1.jobs.filter fun (_, j) => j.part != n }
  forAll js (fun j s => s.idleIslands j) s2

/-- DETAIL of a descriptor that is stopped: a LAUNCH reports its job's hold quanta (R90). -/
def State.stopDetail (s : State) (d : Desc) : Nat := match d.state with
  | .launch id => (match tabFind s.jobs id with | some j => s.quantaOf j | none => 0)
  | _ => 0

def Desc.isFetched (d : Desc) : Bool := d.state == .fetched

/-- Complete descriptors of a VF, in the order of fetch; `was` is the state that had their jobs. -/
def State.endDescs (s : State) (n : Nat) (was : State) (p : Desc → Bool) (status : Nat) (seq : Word) : State :=
  let all := (List.range 8).flatMap fun r => ((s.ring n r).descs.filter p).map fun d => (r, d)
  forAll (sortBy (fun x : Nat × Desc => x.2.id) all)
    (fun (r, d) s => s.endDesc n r d.id { status := status, detail := was.stopDetail d, errSeq := seq }) s

/-- End every live request of a partition (R457 step 3, R524 step 3). -/
def State.endRequests (s : State) (n reason : Nat) : State :=
  forAll ((s.srv n).reqs.map (·.1)) (fun i s => s.endRequest n i reason) s

/-- A partition halts (R523, R524). -/
def State.haltPartition (s : State) (n : Nat) (seq : Word) : State :=
  match (s.part n).state with
  | .teardown => s.modPart n fun p => { p with haltAfterTeardown := true }
  | .active =>
    let flood := (s.swarmJobs (s.part n).swarm.toNat).any s.abortable
    let s1 := s.modPart n fun p => { p with state := .halted, haltSeq := seq }
    let s2 := forAll (List.range 8) (fun r s => s.stopRing n r statusHalted) s1
    let s3 := (s2.dropJobs n .stopped).endDescs n s (fun d => !d.isFetched) statusHalted seq
    let s4 := if flood then s3.originAbort n seq else s3
    let s5 := (s4.endRequests n 4).modSrv n fun e => { e with state := .off, stepJob := none, inStep := false }
    s5.endDescs n s Desc.isFetched statusHalted seq
  | _ => s

/-- The device halts (R525). -/
def State.haltDevice (s : State) (seq : Word) : State :=
  let s1 := forAll (List.range 16) (fun n s => s.haltPartition n seq) s
  let s2 := { s1 with err := { s1.err with halted := true } }
  if s2.err.viralOn then s2.emit .viral else s2

/-- A record cannot be written to host memory: HOST_RECORD, the partition halts, and its later records are discarded
(R512). -/
def State.recordLost (s : State) (n r : Nat) (addr : DWord) : State :=
  let (seq, s1) := s.logError
    { code := 0x0203, severity := 2, part := n, path := 8, addrKind := 3, addr := addr.toNat, ring := r }
  let s2 := (s1.modPart n fun p => { p with discard := true }).modVf n fun v =>
    { v with rings := v.rings.map fun (k, g) => (k, { g with owed := [] }) }
  (s2.haltPartition n seq).settleCancels n

end Sys2Proof.Machine
end

