-- ==== Sys2Proof/Machine/Rings.lean ====
section
/-! DEFINITION. Rings: the doorbell line, fetching, completion records, interrupts, enable, disable and restart
(R68 to R81, R102, R506, R594, R609). -/

namespace Sys2Proof.Machine

/-- Failed reads of host memory that exhaust the budget of R506: the read and 2 re-reads. -/
def hostBudget : Nat := 3

/-- TAG of a record that answers no descriptor (R74, R76, R609). -/
def tagNone : Word := 0xFFFFFFFF

/-- A record that answers no descriptor. -/
def ringRecord (status : Nat) (errSeq : Word) (result : Nat) (detail : Nat) : Owed :=
  { body := .comp tagNone status 0 errSeq (BitVec.ofNat 64 result) (BitVec.ofNat 32 detail), irq := false }

/-- A host read of a ring fails for good: HOST_READ, the ring stops, and a DESC_POISON record is owed
(R76, R511, R609). -/
def State.ringReadFails (s : State) (n r : Nat) (addr : DWord) (detail : Nat) : State :=
  let (seq, s1) := s.logError
    { code := 0x0201, severity := 1, part := n, path := 8, addrKind := 3, addr := addr.toNat, ring := r }
  (s1.stopRing n r statusDescPoison).owe n r (ringRecord statusDescPoison seq 0 detail)

/-- SQ_TAIL and CQ_HEAD of a doorbell line; its other 56 bytes are ignored (R70). -/
def dbTail (line : Bits512) : Word := field line 0 32
def dbHead (line : Bits512) : Word := field line 32 32

/-- The doorbell line is read: its 64 bytes, or a failed read (R70, R72, R74, R609). -/
def State.doorbell (s : State) (n r : Nat) (line : Option Bits512) : State :=
  let g := s.ring n r
  match g.used, line with
  | some u, some x =>
    let tail := dbTail x
    let head := dbHead x
    let s1 := (s.hostAsk (n + 1) u.dbAddr).modRing n r fun g => { g with sqTail := tail, cqHead := head, dbTries := 0, waitDb := false }
    if !g.stopped ∧ 2 ^ u.sqLog2.toNat < (tail - g.fetch).toNat then
      (s1.stopRing n r statusRingOverrun).owe n r (ringRecord statusRingOverrun 0 tail.toNat 0)
    else s1
  | some u, none =>
    if hostBudget ≤ g.dbTries + 1 then
      ((s.hostAsk (n + 1) u.dbAddr).modRing n r fun g => { g with dbTries := 0, waitDb := false }).ringReadFails n r u.dbAddr 1
    else (s.hostAsk (n + 1) u.dbAddr).modRing n r fun g => { g with dbTries := g.dbTries + 1 }
  | none, _ => s

/-- RING_EVENT (R72). -/
def State.ringEvent (s : State) (n r : Nat) (line : Option Bits512) : State :=
  if (s.ring n r).enable then s.doorbell n r line else s

/-- The ring may fetch its next descriptor (R73 to R77). -/
def State.mayFetch (s : State) (n r : Nat) : Bool :=
  let g := s.ring n r
  (s.part n).state == .active && g.enable && !g.stopped && !g.waitDb && g.sqTail != g.fetch &&
    decide ((g.descs.filter fun d => !d.orphan).length < 64)

/-- The ring of a partition that is served next: round-robin, one descriptor a turn (R75; log 115). -/
def State.fetchTurn (s : State) (n : Nat) : Option Nat :=
  ((List.range 8).map fun k => ((s.vf n).rrNext + k) % 8).find? (s.mayFetch n)

/-- A fetched descriptor takes its place in its ring (R71, R75). -/
def State.takeDesc (s : State) (n r : Nat) (bits : Bits512) : State :=
  let s1 := s.stamped
  (s1.modRing n r fun g =>
    { g with fetch := g.fetch + 1, descTries := 0,
             descs := g.descs ++
               [{ id := s1.stamp, slot := g.fetch, bits := bits, state := .fetched, orphan := false }] }).modVf n
    fun v => { v with rrNext := (r + 1) % 8 }

/-- DESCRIPTOR_FETCH (R75, R76): only the ring whose turn it is fetches. -/
def State.fetchDesc (s : State) (n r : Nat) (d : Option Bits512) : State :=
  if s.fetchTurn n ≠ some r then s
  else
    let g := s.ring n r
    let addr := (g.used.getD {}).sqSlot g.fetch
    let s0 := s.hostAsk (n + 1) addr
    match d with
    | some bits => s0.takeDesc n r bits
    | none =>
      if hostBudget ≤ g.descTries + 1 then
        (s0.modRing n r fun g => { g with descTries := 0, resumeAt := some (g.fetch + 1) }).ringReadFails n r addr 0
      else s0.modRing n r fun g => { g with descTries := g.descTries + 1 }

/-- COMPLETION_RECORD_WRITE (R78, R79, R512). -/
def State.writeRecord (s : State) (n r : Nat) (ok : Bool) : State :=
  let g := s.ring n r
  match g.used, g.owed with
  | some u, o :: rest =>
    if g.slotsFree = 0 then s
    else if ok then
      let s1 := (s.modRing n r fun g => { g with owed := rest, compl := g.compl + 1 }).hostPut (n + 1) (u.cqSlot g.compl)
        (recordBytes o.body g.fetch (u.phase g.compl))
      (s1.recordIrq n r u o.irq).settleCancels n
    else s.recordLost n r (u.cqSlot g.compl)
  | _, _ => s

/-- Beats of a microsecond (R3, R429). -/
def beatsPerUs : Nat := 250

/-- IRQ_TIME_EXPIRY (R81): the oldest unsignalled record is IRQ_TIME old. -/
def State.irqExpiry (s : State) (n r : Nat) : State :=
  let g := s.ring n r
  let u := g.used.getD {}
  if u.irqMode = 2 ∧ g.unsignalled ≠ 0 then (s.advanceTo (g.oldest + u.irqTime.toNat * beatsPerUs)).signal n r else s

/-- The lowest BAD_FIELD code that refuses an enable; 0 for none (R68, R594). -/
def badField (c : RingCfg) (active : Bool) : Nat :=
  let sq := c.sqLog2.toNat
  let cq := c.cqLog2.toNat
  if c.sqBase.toNat % 4096 ≠ 0 then 1
  else if sq < 2 ∨ 16 < sq then 2
  else if c.cqBase.toNat % 4096 ≠ 0 then 3
  else if cq < sq ∨ 16 < cq then 4
  else if c.dbAddr.toNat % 64 ≠ 0 then 5
  else if c.irqMode = 3 then 6
  else if c.irqMode = 2 ∧ (c.irqCount = 0 ∨ 256 < c.irqCount.toNat) then 7
  else if c.irqMode = 2 ∧ c.irqTime = 0 then 8
  else if active then 0 else 15

/-- RING_ENABLE (R69, R102, R594). -/
def State.enableRing (s : State) (n r : Nat) : State :=
  let g := s.ring n r
  if g.enable then s
  else
    let bad := badField g.cfg ((s.part n).state == .active)
    if bad ≠ 0 then s.modRing n r fun g => { g with badField := BitVec.ofNat 4 bad }
    else
      (s.modRing n r fun g =>
        { cfg := g.cfg, used := some g.cfg, enable := true, badField := g.badField, fenceMark := s.stamp,
          descs := g.descs.map fun d => { d with orphan := true } }).settleCancels n

/-- A started FLAG_WAIT. -/
def Desc.isWait (d : Desc) : Bool := match d.state with
  | .flagWait .. => true
  | _ => false

/-- RING_DISABLE (R102, R594). -/
def State.disableRing (s : State) (n r : Nat) : State :=
  let s1 := s.modRing n r fun g =>
    { g with enable := false, stopped := false, stopCause := 0, waitDb := false, dbTries := 0, descTries := 0,
             flagTries := 0, flagStart := none, resumeAt := none, owed := if g.enable then g.owed.take g.slotsFree else g.owed }
  let gone := (s1.ring n r).descs.filter fun d => d.isFetched || d.isWait
  (forAll gone (fun d s => s.complete n r d.id { status := statusAborted }) s1).settleCancels n

/-- A stopped ring resumes: nothing is fetched until its doorbell line has been read again (R74, R76, R92, R594). -/
def State.restartBegins (s : State) (n r : Nat) : State :=
  let g := s.ring n r
  if !g.enable || !g.stopped then s
  else
    s.modRing n r fun g =>
      { g with stopped := false, stopCause := 0, waitDb := true, dbTries := 0, resumeAt := none,
               fetch := g.resumeAt.getD g.fetch }

/-- RESTART (R74), with what the read of the doorbell line returns. -/
def State.restartRing (s : State) (n r : Nat) (line : Option Bits512) : State :=
  let g := s.ring n r
  if !g.enable || !g.stopped then s else (s.restartBegins n r).doorbell n r line

/-! ### The rows -/

/-- RING_EVENT (R72). -/
def execRingEvent (r : RingRef) (line : Option Bits512) :=
  act (whenRunning fun s => s.ringEvent r.vf.val r.ring.val line)
/-- DESCRIPTOR_FETCH (R75). -/
def execDescriptorFetch (r : RingRef) (d : Option Bits512) :=
  act (whenRunning fun s => s.fetchDesc r.vf.val r.ring.val d)
/-- IRQ_TIME_EXPIRY (R81). -/
def execIrqTimeExpiry (r : RingRef) := act (whenRunning fun s => s.irqExpiry r.vf.val r.ring.val)
/-- RESTART (R74). -/
def execRestart (r : RingRef) (line : Option Bits512) :=
  act (whenRunning fun s => s.restartRing r.vf.val r.ring.val line)

end Sys2Proof.Machine
end

