-- ==== Sys2Proof/Machine/RingDescs.lean ====
section
/-! DEFINITION. Starting a descriptor (R79, R84, R85), and NOP, FENCE, FLAG_SET, FLAG_WAIT, BIAS_SET and undefined
opcodes (R83, R91 to R98). -/

namespace Sys2Proof.Machine

/-! ### The checks of R84 -/

/-- One check of a descriptor's or a block's own fields. -/
inductive FieldCheck where
  /-- `len` reserved bytes from `off` on -/
  | zero (off len : Nat)
  /-- reserved bits `mask` of the `len`-byte field at `off` -/
  | bits (off len mask : Nat)
  /-- a range that the field at `off` keeps -/
  | range (off : Nat) (ok : Bool)
deriving DecidableEq, Repr

/-- Byte `k` of a list, 0 beyond it. -/
def byteAt (bs : List Byte) (k : Nat) : Byte := bs.getD k 0

/-- The offset that DETAIL names where this check fails (R84). -/
def FieldCheck.bad (bs : List Byte) (c : FieldCheck) : Option Nat := match c with
  | .zero off len => ((List.range len).find? fun k => byteAt bs (off + k) != 0).map (off + ·)
  | .bits off len mask =>
    ((List.range len).find? fun k => byteAt bs (off + k) &&& BitVec.ofNat 8 (mask / 256 ^ k) != 0).map (off + ·)
  | .range off ok => if ok then none else some off

/-- The lowest offset that offends. -/
def firstBad (bs : List Byte) (cs : List FieldCheck) : Option Nat :=
  cs.foldl (fun m c => match c.bad bs, m with
    | some o, some p => some (min o p)
    | some o, none => some o
    | none, m => m) none

/-- Reserved bits of the descriptor header (R82). -/
def headerChecks : List FieldCheck := [.bits 1 1 0xF8, .zero 2 2]

/-! ### Starting (R79, R85) -/

/-- FENCE and FLAG_WAIT hold back every later descriptor of their ring (R85). -/
def Desc.holdsBack (d : Desc) : Bool := match d.state with
  | .fence .. => true
  | .flagWait .. => true
  | _ => false

/-- The descriptor of a ring that may start now: the first that has not started, unless the ring is full, a FENCE or
FLAG_WAIT holds it back, or it is ORDERED and an earlier one has not completed (R79, R85). -/
def State.startable (s : State) (n r : Nat) : Option Desc :=
  let g := s.ring n r
  let ds := g.descs.filter fun d => !d.orphan
  if g.room = 0 ∨ (s.part n).state ≠ .active ∨ ds.any Desc.holdsBack then none
  else match ds.find? Desc.isFetched with
    | some d => if descOrdered d.bits && ds.any (fun e => decide (e.id < d.id)) then none else some d
    | none => none

def descBytes (d : Desc) : List Byte := bytesOf d.bits 64

/-- Start the ring's next descriptor if its opcode is one of these: its own fields are checked first (R84). -/
def State.startDesc (s : State) (n r : Nat) (op : Nat → Bool) (checks : Bits512 → List FieldCheck)
    (f : Desc → State → State) : State :=
  match s.startable n r with
  | some d =>
    if !op (descOpcode d.bits) then s
    else match firstBad (descBytes d) (headerChecks ++ checks d.bits) with
      | some off => s.complete n r d.id { status := statusBadDescriptor, detail := off }
      | none => f d s
  | none => s

/-- Opcodes that some chapter defines (R83, R115, R331, R382). -/
def opcodeDefined (k : Nat) : Bool :=
  decide (k ≤ 0x05) || (decide (0x10 ≤ k) && decide (k ≤ 0x14)) || (decide (0x20 ≤ k) && decide (k ≤ 0x27)) ||
    (decide (0x30 ≤ k) && decide (k ≤ 0x32))

/-- UNDEFINED_OPCODE: BAD_OPCODE before every other check (R83, R84). -/
def State.undefinedOpcode (s : State) (n r : Nat) : State :=
  match s.startable n r with
  | some d => if opcodeDefined (descOpcode d.bits) then s else s.complete n r d.id { status := statusBadOpcode }
  | none => s

/-! ### FENCE (R91, R92) -/

def fenceChecks (d : Bits512) : List FieldCheck :=
  [.range 8 (decide (dfield d 8 1 ≤ 1)), .bits 9 1 0xFE, .zero 10 54]

/-- What a FENCE covers: the earlier descriptors of its ring, and with scope partition every descriptor that a ring of
the partition has fetched, those of its own ring that follow it apart (R91). -/
def State.fenceCovers (s : State) (n r : Nat) (d : Desc) : List (Nat × Nat) :=
  let partScope := decide (dfield d.bits 8 1 = 1)
  let own := ((s.ring n r).descs.filter fun e => (partScope || !e.orphan) && decide (e.id < d.id)).map fun e => (r, e.id)
  let others := ((List.range 8).filter (· != r)).flatMap fun k => (s.ring n k).descs.map fun e => (k, e.id)
  if partScope then own ++ others else own

def State.startFence (s : State) (n r : Nat) (d : Desc) : State :=
  settleFences n 16 (s.setDesc n r d.id (.fence (s.fenceCovers n r d) s.stamp))

/-! ### Flag words (R93 to R97) -/

/-- Where a flag word lies. -/
inductive FlagPlace where
  | window (w : Nat)
  | host (a : DWord)
deriving DecidableEq, Repr

/-- The flag word that a descriptor names, or the status that refuses it (R57, R93). -/
def State.flagPlace (s : State) (n : Nat) (addr : Nat) (host : Bool) : FlagPlace ⊕ Nat :=
  if addr % 8 ≠ 0 then .inr statusBadAddress
  else if host then .inl (.host (BitVec.ofNat 64 addr))
  else if !(s.part n).inWindow addr 8 then .inr statusBadAddress
  else match (s.part n).dpa addr with
    | some a => if s.mem.devBias (pageOf a) then .inr statusBadBias else .inl (.window addr)
    | none => .inr statusBadAddress

/-- The record of a flag word in host memory that cannot be read or written (R505, R511, R512). -/
def hostFlagInfo (code : Nat) (a : DWord) : ErrInfo :=
  { code := code, severity := 1, part := 0, path := 8, addrKind := 3, addr := a.toNat }

/-- A host read of a flag word failed: the descriptor fails once the budget is spent (R506, R511). -/
def State.flagReadFails (s : State) (n r : Nat) (d : Desc) (a : DWord) : State :=
  let s := s.hostAsk (n + 1) a
  if hostBudget ≤ (s.ring n r).flagTries + 1 then
    (s.modRing n r fun g => { g with flagTries := 0, flagStart := none }).failDesc n r d (hostFlagInfo 0x0201 a)
      { status := statusPoisonRead }
  else s.modRing n r fun g => { g with flagTries := g.flagTries + 1, flagStart := some (g.flagStart.getD s.tmb.beat) }

def flagWaitChecks (_ : Bits512) : List FieldCheck := [.bits 0x24 4 0xFFFFFFFC, .zero 0x28 24]

/-- A FLAG_WAIT has observed its word (R96, R97). -/
def State.flagObserved (s : State) (n r : Nat) (d : Desc) (v : DWord) (deadline : Option Nat) : State :=
  let mask : DWord := BitVec.ofNat 64 (dfield d.bits 0x10 8)
  let value : DWord := BitVec.ofNat 64 (dfield d.bits 0x18 8)
  let s1 := s.modRing n r fun g => { g with flagTries := 0, flagStart := none }
  if flagWaitHolds v mask value (d.bits.getLsbD 0x121) then s1.complete n r d.id { result := v.toNat }
  else s1.setDesc n r d.id (.flagWait v deadline)

/-- The active FLAG_WAIT of a ring; at most one (R97). -/
def State.activeWait (s : State) (n r : Nat) : Option (Desc × DWord × Option Nat) :=
  (s.ring n r).descs.findSome? fun d => match d.state with
    | .flagWait last dl => if d.orphan then none else some (d, last, dl)
    | _ => none

/-- Whether two partitions name the same word by the same place: a window offset is a partition's own, and a host
address is a function's own under ATS (R53, R56). -/
def State.samePlace (s : State) (n k : Nat) (place : FlagPlace) : Bool :=
  n == k || match place with
    | .window _ => false
    | .host _ => !s.gen.ats.contains (n + 1) && !s.gen.ats.contains (k + 1)

/-- A FLAG_SET of partition `n` has written a word: every active wait on it evaluates its condition again (R97). -/
def State.wakeWaits (s : State) (n : Nat) (place : FlagPlace) (v : DWord) : State :=
  forAll ((List.range 16).filter fun k => s.samePlace n k place) (fun k s =>
    forAll (List.range 8) (fun r s =>
      match s.activeWait k r with
      | some (d, _, dl) =>
        if s.flagPlace k (dfield d.bits 8 8) (d.bits.getLsbD 0x120) = .inl place then s.flagObserved k r d v dl else s
      | none => s) s) s

def flagSetChecks (_ : Bits512) : List FieldCheck := [.bits 0x20 4 0xFFFFFFFE, .zero 0x24 28]

/-- The new flag word into the line that the device took when it read the old one, with no access of the host between
(R94, R322). -/
def State.putFlag (s : State) (n w : Nat) (x : DWord) : State := match (s.part n).dpa w with
  | some a => { s with mem := (s.mem.store (s.guardedAt a) a (bytesOfNat 8 x.toNat)).1 }
  | none => s

/-- FLAG_SET (R94): `old` is the word that host memory returns, `written` whether the new one reached it. -/
def State.flagSet (s : State) (n r : Nat) (d : Desc) (old : Option DWord) (written : Bool) : State :=
  let set : DWord := BitVec.ofNat 64 (dfield d.bits 0x10 8)
  let clear : DWord := BitVec.ofNat 64 (dfield d.bits 0x18 8)
  match s.flagPlace n (dfield d.bits 8 8) (d.bits.getLsbD 0x100) with
  | .inr st => s.complete n r d.id { status := st }
  | .inl (.window w) =>
    match s.descRead n r d 16 w 8 with
    | (none, s1) => s1
    | (some bs, s1) =>
      let v := natOfBytes bs
      let x := flagSetValue (BitVec.ofNat 64 v) set clear
      ((s1.putFlag n w x).complete n r d.id { result := v }).wakeWaits n (.window w) x
  | .inl (.host a) =>
    match old with
    | none => s.flagReadFails n r d a
    | some v =>
      let s1 := s.modRing n r fun g => { g with flagTries := 0 }
      if written then
        let x := flagSetValue v set clear
        ((s1.hostPut (n + 1) a (bytesOfNat 8 x.toNat)).complete n r d.id { result := v.toNat }).wakeWaits n
          (.host a) x
      else (s1.hostAsk (n + 1) a).failDesc n r d (hostFlagInfo 0x0202 a) { status := statusPoisonRead }

/-- A FLAG_WAIT evaluates its condition (R97): `word` is what host memory returns. -/
def State.flagWait (s : State) (n r : Nat) (d : Desc) (word : Option DWord) (deadline : Option Nat) : State :=
  match s.flagPlace n (dfield d.bits 8 8) (d.bits.getLsbD 0x120), word with
  | .inr st, _ => s.complete n r d.id { status := st }
  | .inl (.window w), _ =>
    match s.descRead n r d 16 w 8 with
    | (none, s1) => s1
    | (some bs, s1) => s1.flagObserved n r d (BitVec.ofNat 64 (natOfBytes bs)) deadline
  | .inl (.host a), none => s.flagReadFails n r d a
  | .inl (.host a), some v => (s.hostAsk (n + 1) a).flagObserved n r d v deadline

/-- The beat at which TIMEOUT ends a ring's wait that starts now, or that started with a host read that failed; none
without a limit (R96, R97). -/
def State.flagDeadline (s : State) (n r : Nat) (d : Desc) : Option Nat :=
  let t := dfield d.bits 0x20 4
  if t = 0 then none else some ((s.ring n r).flagStart.getD s.tmb.beat + t * beatsPerUs)

/-- FLAG_LINE_LOSS (R97). -/
def State.flagLineLoss (s : State) (n r : Nat) (word : Option DWord) : State :=
  match s.activeWait n r with
  | some (d, _, dl) => s.flagWait n r d word dl
  | none => s

/-- FLAG_WAIT_TIMEOUT (R97). -/
def State.flagTimeout (s : State) (n r : Nat) : State :=
  match s.activeWait n r with
  | some (d, last, some dl) => (s.advanceTo dl).complete n r d.id { status := statusTimeout, result := last.toNat }
  | _ => s

/-! ### BIAS_SET (R59, R62, R98) -/

def biasSetChecks (d : Bits512) : List FieldCheck :=
  let pages := dfield d 0x10 4
  [.range 0x10 (decide (1 ≤ pages) && decide (pages ≤ 2 ^ 27)), .range 0x14 (decide (dfield d 0x14 1 ≤ 1)), .zero 0x15 43]

/-- Flip the pages of one device range: to device bias after the device has taken each of their lines, with what the host
held modified (R62). -/
def State.flipPages (s : State) (dev : Bool) (a len : Nat) : State :=
  let lo := pageOf a
  let hi := pageOf (a + len)
  if dev then
    let s1 := s.cohere [(a, len)]
    { s1 with mem := { s1.mem with bias := rangesAdd lo hi s1.mem.bias } }
  else { s with mem := { s.mem with bias := rangesSub lo hi s.mem.bias } }

def State.biasSet (s : State) (n r : Nat) (d : Desc) : State :=
  let w := dfield d.bits 8 8
  let len := 4096 * dfield d.bits 0x10 4
  if w % 4096 ≠ 0 ∨ !(s.part n).inWindow w len then s.complete n r d.id { status := statusBadAddress }
  else
    (forAll ((s.part n).segs w len) (fun (a, k) s => s.flipPages (dfield d.bits 0x14 1 == 1) a k) s).complete n r d.id {}

/-! ### The rows -/

/-- NOP (R83): its body is reserved. -/
def execNop (r : RingRef) := act (whenRunning fun s =>
  s.startDesc r.vf.val r.ring.val (· == 0x00) (fun _ => [.zero 8 56]) fun d s => s.complete r.vf.val r.ring.val d.id {})
/-- FENCE (R91). -/
def execFence (r : RingRef) := act (whenRunning fun s =>
  s.startDesc r.vf.val r.ring.val (· == 0x02) fenceChecks fun d s => s.startFence r.vf.val r.ring.val d)
/-- FLAG_SET (R94). -/
def execFlagSet (r : RingRef) (old : Option DWord) (written : Bool) (s : State) (errs : Errs := []) :=
  actOn errs (whenRunning fun s =>
  s.startDesc r.vf.val r.ring.val (· == 0x03) flagSetChecks fun d s => s.flagSet r.vf.val r.ring.val d old written) s
/-- FLAG_WAIT (R97). -/
def execFlagWait (r : RingRef) (word : Option DWord) (s : State) (errs : Errs := []) :=
  actOn errs (whenRunning fun s =>
  s.startDesc r.vf.val r.ring.val (· == 0x04) flagWaitChecks fun d s =>
    s.flagWait r.vf.val r.ring.val d word (s.flagDeadline r.vf.val r.ring.val d)) s
/-- BIAS_SET (R98). -/
def execBiasSet (r : RingRef) := actOn [] (whenRunning fun s =>
  s.startDesc r.vf.val r.ring.val (· == 0x05) biasSetChecks fun d s => s.biasSet r.vf.val r.ring.val d)
/-- UNDEFINED_OPCODE (R83). -/
def execUndefinedOpcode (r : RingRef) := act (whenRunning fun s => s.undefinedOpcode r.vf.val r.ring.val)
/-- FLAG_LINE_LOSS (R97). -/
def execFlagLineLoss (r : RingRef) (word : Option DWord) (s : State) (errs : Errs := []) :=
  actOn errs (whenRunning fun s => s.flagLineLoss r.vf.val r.ring.val word) s
/-- FLAG_WAIT_TIMEOUT (R97). -/
def execFlagWaitTimeout (r : RingRef) := act (whenRunning fun s => s.flagTimeout r.vf.val r.ring.val)

end Sys2Proof.Machine
end

