-- ==== Sys2Proof/Machine/Views.lean ====
section
/-! DEFINITION. Views of tensors: their records, spans and rules (R104 to R119). -/

namespace Sys2Proof.Machine

/-! ### Records (R108) -/

/-- An unsigned field of a record's bytes. -/
def numAt (bs : List Byte) (off len : Nat) : Nat := natOfBytes ((bs.drop off).take len)

/-- A signed 64-bit field of a record's bytes. -/
def intAt (bs : List Byte) (off : Nat) : Int := signedOf 64 (numAt bs off 8)

/-- RANK as far as it is in range. -/
def viewRank (bs : List Byte) : Nat := min 8 (numAt bs 0x11 1)

/-- A view record (R108). -/
def viewOf (bs : List Byte) : View :=
  let r := viewRank bs
  { base := numAt bs 0 8, scaleBase := numAt bs 8 8, fmt := numAt bs 0x10 1,
    extents := (List.range r).map fun k => numAt bs (0x20 + 4 * k) 4,
    strides := (List.range r).map fun k => intAt bs (0x40 + 8 * k) }

/-- The checks of a view record's own fields (R108, R117). -/
def viewChecks (bs : List Byte) : List FieldCheck :=
  let r := numAt bs 0x11 1
  let f := numAt bs 0x10 1
  [.range 8 (fmtIsMx f || numAt bs 8 8 == 0), .range 0x10 (fmtKnown f), .range 0x11 (decide (1 ≤ r) && decide (r ≤ 8)),
   .zero 0x12 14] ++
  ((List.range 8).map fun k =>
    let e := numAt bs (0x20 + 4 * k) 4
    .range (0x20 + 4 * k) (if k < r then e != 0 else e == 0)) ++
  (List.range 8).map fun k =>
    let s := intAt bs (0x40 + 8 * k)
    .range (0x40 + 8 * k)
      (decide (-(2 ^ 39) ≤ s) && decide (s < 2 ^ 39) && (if k + 1 = r then s == 1 else decide (k < r) || s == 0))

/-! ### Addresses (R105, R107, R109) -/

def View.rank (v : View) : Nat := v.extents.length
def View.width (v : View) : Nat := fmtWidth v.fmt
def View.mx (v : View) : Bool := fmtIsMx v.fmt
def View.inner (v : View) : Nat := v.extents.getLastD 1
/-- Extents and strides of the outer dimensions, outermost first. -/
def View.outer (v : View) : List (Nat × Int) := (v.extents.zip v.strides).dropLast
/-- Innermost vectors of one run (R104). -/
def View.vecs (v : View) : Nat := v.inner / 32
/-- Bytes of one vector's elements (R106). -/
def View.vecBytes (v : View) : Nat := 4 * v.width

/-- Elements from BASE to an index tuple without its innermost part (R109). -/
def View.outerOff (v : View) (idx : List Nat) : Int :=
  (idx.zip v.outer).foldl (fun a (i, _, s) => a + i * s) 0

/-- Window bit at which an element begins (R109). -/
def View.bit (v : View) (idx : List Nat) (e : Nat) : Nat :=
  ((v.base * 8 : Nat) + (v.outerOff idx + (e : Nat)) * (v.width : Nat) : Int).toNat

/-- Window offset of a vector's elements. -/
def View.vecAddr (v : View) (idx : List Nat) (k : Nat) : Nat := v.bit idx (32 * k) / 8

/-- Window offset of a vector's scale byte (R107). -/
def View.scaleAddr (v : View) (idx : List Nat) (k : Nat) : Nat :=
  ((v.scaleBase : Nat) + v.outerOff idx / 32 + (k : Nat) : Int).toNat

/-- Number of index tuples of the outer dimensions. -/
def View.rows (v : View) : Nat := v.outer.foldl (fun a (e, _) => a * e) 1

/-- The index tuple with a number in iteration order, outermost slowest (R113). -/
def tupleOf (extents : List Nat) (n : Nat) : List Nat :=
  (extents.reverse.foldl (fun (acc : List Nat × Nat) e => ((acc.2 % e) :: acc.1, acc.2 / e)) ([], n)).1

/-- The index tuple of the outer dimensions with a number. -/
def View.row (v : View) (n : Nat) : List Nat := tupleOf (v.outer.map (·.1)) n

/-! ### Spans and rules (R110 to R114) -/

/-- Lowest and highest element offset from BASE; the highest excludes its element (R111). -/
def View.range (v : View) : Int × Int :=
  (v.outer.foldl (fun a (e, s) => a + min 0 (((e : Nat) - 1 : Int) * s)) 0,
   v.outer.foldl (fun a (e, s) => a + max 0 (((e : Nat) - 1 : Int) * s)) 0 + (v.inner : Nat))

/-- The spans of a view, as window offsets (R111). -/
def View.spans (v : View) : List (Int × Int) :=
  let (lo, hi) := v.range
  let w : Int := (v.width : Nat)
  let plane : Int × Int := ((v.base : Nat) + lo * w / 8, (v.base : Nat) + (hi * w + 7) / 8)
  if v.mx then [plane, ((v.scaleBase : Nat) + lo / 32, (v.scaleBase : Nat) + (hi + 31) / 32)] else [plane]

def spanIn (p : Part) (x : Int × Int) : Bool := decide (0 ≤ x.1) && p.inWindow x.1.toNat (x.2 - x.1).toNat
def spansMeet (a b : Int × Int) : Bool := decide (max a.1 b.1 < min a.2 b.2)

/-- The layout rule (R110). -/
def View.aligned (v : View) : Bool :=
  decide (v.base % 64 = 0) && decide (v.inner % 32 = 0) &&
    (v.outer.all fun (_, s) => decide (s * (v.width : Nat) % 512 = 0)) && (!v.mx || decide (v.scaleBase % 64 = 0))

/-- A zero stride on a dimension of more than one index (R112). -/
def View.zeroStride (v : View) : Bool := v.outer.any fun (e, s) => decide (1 < e) && s == 0

/-- Each |stride| in rising order is at least what the dimension below it spans (R114). -/
def stridesRise : Nat → List (Nat × Int) → Bool
  | _, [] => true
  | below, (e, s) :: t => decide (below ≤ s.natAbs) && stridesRise (e * s.natAbs) t

/-- A written view that cannot alias (R114). -/
def View.nonAliasing (v : View) : Bool :=
  stridesRise v.inner (sortBy (fun x : Nat × Int => x.2.natAbs) (v.outer.filter fun (e, _) => e != 1))

end Sys2Proof.Machine
end

