-- ==== Sys2Proof/Machine/Copies.lean ====
section
/-! DEFINITION. Copy descriptors: COPY, FILL, RELAYOUT, GATHER and SCATTER, their checks, channels and pieces
(R115 to R139). -/

namespace Sys2Proof.Machine

/-! ### Checks (R117, R118) -/

/-- Offsets of the view pointers of a copy opcode: source, index view and destination. -/
structure CopyPtrs where
  src : Option Nat
  idx : Option Nat
  dst : Nat
deriving DecidableEq, Repr

def copyPtrs (op : Nat) : CopyPtrs :=
  if op = 0x11 then { src := none, idx := none, dst := 8 }
  else if op = 0x10 ∨ op = 0x12 then { src := some 8, idx := none, dst := 0x10 }
  else { src := some 8, idx := some 0x10, dst := 0x18 }

/-- The pointers of an opcode in ascending offset. -/
def CopyPtrs.all (p : CopyPtrs) : List Nat := p.src.toList ++ p.idx.toList ++ [p.dst]

/-- The descriptor's own fields that need no view (R120, R121, R124, R126, R128). -/
def copyChecks (op : Nat) (d : Bits512) : List FieldCheck :=
  if op = 0x10 then
    let k := dfield d 0x18 1
    [.range 0x18 (decide (k ≤ 3)), .bits 0x19 1 0xFE, .range 0x19 (k != 0 || dfield d 0x19 1 % 2 == 0), .zero 0x1A 38]
  else if op = 0x11 then [.zero 0x21 31]
  else if op = 0x12 then [.zero 0x20 32]
  else [.bits 0x21 1 (if op = 0x13 then 0xFE else 0xFC), .zero 0x22 30]

/-- A mismatch reported against a field of a view (R118). -/
def viewBad (ptr off : Nat) (ok : Bool) : List Nat := if ok then [] else [0x10000 * ptr + off]
/-- A field of the descriptor that breaks a rule over its views (R118). -/
def fieldBad (off : Nat) (ok : Bool) : List Nat := if ok then [] else [off]

/-- Extents that must agree, against the fields of the view at `ptr`; one dimension may be left out. -/
def extentsBad (ptr : Nat) (want have_ : List Nat) (skip : Option Nat) : List Nat :=
  (List.range have_.length).flatMap fun k =>
    if skip = some k then [] else viewBad ptr (0x20 + 4 * k) (want.getD k 0 == have_.getD k 0)

/-- The format pairs of a reduction (R123). -/
def reducePair (op s d : Nat) : Bool :=
  if s = codeExact80 then d == codeExact80 && op == 1
  else if d = codeExact80 then op == 1 && fmtIsFloat s
  else if fmtIsInt s && !fmtIsMx s then d == 0x0B
  else if s = 0x08 ∨ s = 0x09 then d == s || d == 0x0A
  else d == 0x0A

/-- PERM of a RELAYOUT (R126). -/
def permOf (d : Bits512) (rank : Nat) : List Nat := (List.range rank).map fun k => dfield d (0x18 + k) 1

/-- The rules of a descriptor over the views that were read (R120 to R131). Where FORMAT of a FILL's view is undefined,
VALUE and SCALE have no limit to break: DESIGN CHOICE (log 118). A format that ACCUMULATE does not accept is named in the
lowest view record that has it: DESIGN CHOICE, as R131 names no field (log 118). -/
def copyRules (op : Nat) (d : Bits512) (src idx dst : Option View) : List Nat :=
  let ps := copyPtrs op
  let any := dst.or src
  let desc : List Nat := match any with
    | none => []
    | some v =>
      if op = 0x11 then
        fieldBad 0x10 (!fmtKnown v.fmt || decide (dfield d 0x10 16 < 2 ^ v.width)) ++
          fieldBad 0x20 (!fmtKnown v.fmt || v.mx || dfield d 0x20 1 == 0)
      else if op = 0x12 then
        let perm := permOf d v.rank
        let ok := (List.range v.rank).all perm.contains
        let last := !v.mx || perm.getLastD 0 + 1 == v.rank
        fieldBad 0x18 (ok && last) ++
          (((List.range 8).find? fun k => decide (v.rank ≤ k) && dfield d (0x18 + k) 1 != 0).map (0x18 + ·)).toList
      else if op = 0x10 then []
      else fieldBad 0x20 (decide (dfield d 0x20 1 + 1 < v.rank))
  let pair : List Nat := match src, dst with
    | some s, some t =>
      let ranks := viewBad ps.dst 0x11 (s.rank == t.rank)
      let fmts := viewBad ps.dst 0x10 (s.fmt == t.fmt)
      if op = 0x10 then
        let k := dfield d 0x18 1
        (if k = 0 then fmts else viewBad ps.dst 0x10 (reducePair k s.fmt t.fmt)) ++ ranks ++
          extentsBad ps.dst s.extents t.extents none
      else if op = 0x12 then
        fmts ++ ranks ++ extentsBad ps.dst ((permOf d t.rank).map fun k => s.extents.getD k 0) t.extents none
      else
        fmts ++ ranks ++ extentsBad ps.dst s.extents t.extents (some (dfield d 0x20 1))
    | _, _ => []
  let dim := dfield d 0x20 1
  let count : List Nat := match op, src, idx, dst with
    | 0x13, _, some x, some t => viewBad 0x18 (0x20 + 4 * dim) (t.extents.getD dim 0 == x.extents.getD 0 0)
    | 0x14, some s, some x, _ => viewBad 0x10 0x20 (s.extents.getD dim 0 == x.extents.getD 0 0)
    | _, _, _, _ => []
  let index : List Nat := match idx with
    | some x => viewBad 0x10 0x11 (x.rank == 1) ++ viewBad 0x10 0x10 (x.fmt == 0x0B)
    | none => []
  let accFmt (ptr : Nat) (v : Option View) : List Nat := match v with
    | some x =>
      if op = 0x14 ∧ d.getLsbD (8 * 0x21 + 1) then viewBad ptr 0x10 ([0x08, 0x09, 0x0A, 0x0B, 0x0C].contains x.fmt) else []
    | none => []
  desc ++ pair ++ count ++ index ++ accFmt 8 src ++ accFmt 0x18 dst

/-- A view record that is read, by the offset of its pointer. -/
structure ViewRead where
  ptr : Nat
  bytes : List Byte
deriving DecidableEq, Repr

def minOf (xs : List Nat) : Option Nat := xs.foldl (fun m x => some (match m with | some y => min x y | none => x)) none

/-- The first failure of check 1 (R117, R118). -/
def copyBad (op : Nat) (d : Bits512) (own : Option Nat) (vs : List ViewRead) : Option Nat :=
  let ps := copyPtrs op
  let at_ (p : Option Nat) : Option View := p.bind fun k => (vs.find? fun v => v.ptr == k).map fun v => viewOf v.bytes
  minOf (own.toList ++ copyRules op d (at_ ps.src) (at_ ps.idx) (at_ (some ps.dst)) ++
    vs.flatMap fun v => ((firstBad v.bytes (viewChecks v.bytes)).map (0x10000 * v.ptr + ·)).toList)

/-- What the descriptor does, from its sound views. -/
def copyOp (op : Nat) (d : Bits512) (view : Nat → View) : CopyOp × View :=
  let ps := copyPtrs op
  let g := dfield d 0x21 1
  let dst := view ps.dst
  (if op = 0x10 then
    (if dfield d 0x18 1 = 0 then .copy (view 8) else .reduce (view 8) (dfield d 0x18 1) (dfield d 0x19 1 % 2 == 1))
  else if op = 0x11 then .fill (dfield d 0x10 16) (dfield d 0x20 1)
  else if op = 0x12 then .relayout (view 8) (permOf d dst.rank)
  else if op = 0x13 then .gather (view 8) (view 0x10) (dfield d 0x20 1) (g % 2 == 1)
  else .scatter (view 8) (view 0x10) (dfield d 0x20 1) (g % 2 == 1) (g / 2 % 2 == 1), dst)

/-- The views that a descriptor reads. -/
def CopyOp.reads (o : CopyOp) : List View := match o with
  | .copy s => [s]
  | .reduce s _ _ => [s]
  | .fill .. => []
  | .relayout s _ => [s]
  | .gather s i _ _ => [s, i]
  | .scatter s i _ _ _ => [s, i]

def CopyOp.isReduce (o : CopyOp) : Bool := match o with
  | .reduce .. => true
  | _ => false

/-- Checks 2 to 5 of R117. -/
def copyStatus (p : Part) (o : CopyOp) (dst : View) : Option Nat :=
  let views := dst :: o.reads
  if !(views.all fun v => v.spans.all (spanIn p)) then some statusBadAddress
  else if !(views.all View.aligned) then some statusAlignment
  else if dst.zeroStride && !o.isReduce then some statusZeroStrideWrite
  else if dst.spans.any fun a => (o.reads.flatMap View.spans).any (spansMeet a) then some statusOverlap
  else none

/-! ### Data (R105, R107, R109, R120 to R131) -/

/-- Bytes of a window range as a draw of free values sees them. -/
def State.winBytes (s : State) (n draw w len : Nat) : List Byte :=
  ((s.part n).segs w len).flatMap fun (a, k) => s.mem.read draw a k

/-- One element's bits. -/
def State.elemBits (s : State) (n draw : Nat) (v : View) (idx : List Nat) (e : Nat) : Nat :=
  let b := v.bit idx e
  (natOfBytes (s.winBytes n draw (b / 8) ((b % 8 + v.width + 7) / 8)) >>> (b % 8)) % 2 ^ v.width

/-- One vector: its elements' bits as a number, and its scale byte. -/
def State.vector (s : State) (n draw : Nat) (v : View) (idx : List Nat) (k : Nat) : Nat × Nat :=
  (natOfBytes (s.winBytes n draw (v.vecAddr idx k) v.vecBytes),
   if v.mx then natOfBytes (s.winBytes n draw (v.scaleAddr idx k) 1) else 0)

/-- Writes of one vector: its elements, and its scale byte for a Microscaling view. -/
def copyWrites (v : View) (idx : List Nat) (k : Nat) (x : Nat × Nat) : List (Nat × List Byte) :=
  (v.vecAddr idx k, bytesOfNat v.vecBytes x.1) :: (if v.mx then [(v.scaleAddr idx k, bytesOfNat 1 x.2)] else [])

/-- Ranges of the window that reading a vector meets. -/
def vectorReads (v : View) (idx : List Nat) (k : Nat) : List (Nat × Nat) :=
  (v.vecAddr idx k, v.vecBytes) :: (if v.mx then [(v.scaleAddr idx k, 1)] else [])

/-- The source index of a RELAYOUT's destination index: component PERM[d] equals j_d (R127). -/
def permuted (perm js : List Nat) : List Nat :=
  (List.range perm.length).map fun k => ((perm.zip js).find? fun (p, _) => p == k).elim 0 (·.2)

/-- Index `i` of a GATHER or SCATTER, if it is in range (R129). -/
def inRange (i : Int) (extent : Nat) : Option Nat := if 0 ≤ i ∧ i < (extent : Nat) then some i.toNat else none

/-- What one element of a reduction or accumulation contributes. -/
def termOf (f x : Nat) (scale : Nat) : AccVal ⊕ Val :=
  if f = codeExact80 then .inl (accView (BitVec.ofNat 80 x))
  else match fmtOf f with
    | some g => .inr (codeVal g scale x)
    | none => .inr .nan

/-- The value of a term that is no EXACT80. -/
def termVal (t : AccVal ⊕ Val) : Val := match t with
  | .inl a => accVal windowAnchor a
  | .inr v => v

/-- A term in the descriptor window (R154). -/
def termWindow (t : AccVal ⊕ Val) : AccVal := match t with
  | .inl a => a
  | .inr v => accTerm windowAnchor v

/-- The result of a reduction over its terms (R122, R148, R151, R154). -/
def reduceTerms (op d : Nat) (ts : List (AccVal ⊕ Val)) : Nat :=
  if d = codeExact80 then (accSat ((ts.map termWindow).foldl accCombine (.fin 0))).toNat
  else match fmtOf d with
    | none => 0
    | some g =>
      let vs := ts.map termVal
      if op = 1 then
        if fmtIsInt d then encodeVal g .rne (vs.foldl Val.add (.fin false 0 0))
        else
          let a := plainAnchor vs vs.length
          encodeVal g .rne (accVal a (accSum a vs))
      else match vs with
        | [] => 0
        | v :: rest => encodeVal g .rne (rest.foldl (if op = 2 then Val.max else Val.min) v)

/-- The additions of an accumulating SCATTER to one element, in index order: each is rounded to the destination format
before the next (R131); into EXACT80 the sum is exact and saturates once at the end (R154). -/
def accumulate (f old : Nat) (xs : List Nat) : Nat :=
  if f = codeExact80 then
    (accSat (xs.foldl (fun a x => accCombine a (accView (BitVec.ofNat 80 x))) (accView (BitVec.ofNat 80 old)))).toNat
  else match fmtOf f with
    | some g => xs.foldl (fun a x => encodeVal g .rne ((elemVal g a).add (elemVal g x))) old
    | none => old

/-- Bits of element `e` of a vector. -/
def elemOf (w x e : Nat) : Nat := (x >>> (w * e)) % 2 ^ w

/-- A whole vector accumulated. -/
def accumulateVec (f w old : Nat) (xs : List Nat) : Nat :=
  packElems w ((List.range 32).map fun e => accumulate f (elemOf w old e) (xs.map fun x => elemOf w x e))

/-- Vectors of a piece at most: it has at most 64 KiB (R134). -/
def View.perPiece (v : View) : Nat := 65536 / v.vecBytes
def View.vecCount (v : View) : Nat := v.rows * v.vecs

/-- Consecutive vectors of the destination, in iteration order, that one piece may not leave: those of one index value of
a SCATTER, whose slices one channel keeps (R134). -/
def CopyOp.run (o : CopyOp) (dst : View) : Nat := match o with
  | .scatter _ _ dim _ _ => ((dst.outer.drop (dim + 1)).foldl (fun a (e, _) => a * e) 1) * dst.vecs
  | _ => dst.vecCount

/-- Pieces of a copy descriptor (R134); a destination written in strict order is one piece. -/
def CopyOp.pieceCount (o : CopyOp) (dst : View) (strict : Bool) : Nat :=
  if strict then 1 else dst.vecCount / o.run dst * ceilDiv (o.run dst) dst.perPiece

/-- First vector of a piece, and how many it has. -/
def CopyJob.bounds (c : CopyJob) (k : Nat) : Nat × Nat :=
  let run := c.op.run c.dst
  let per := ceilDiv run c.dst.perPiece
  if c.strictOrder then (0, c.dst.vecCount)
  else
    let at_ := k % per * c.dst.perPiece
    (k / per * run + at_, min c.dst.perPiece (run - at_))

/-- The vectors of a piece, as outer index and vector number. -/
def CopyJob.vectors (c : CopyJob) (k : Nat) : List (List Nat × Nat) :=
  let (lo, len) := c.bounds k
  (List.range len).map fun i => (c.dst.row ((lo + i) / c.dst.vecs), (lo + i) % c.dst.vecs)

/-- The index value whose slices a piece of a SCATTER belongs to (R134). -/
def CopyJob.indexValue (c : CopyJob) (k : Nat) : Option Nat := match c.op with
  | .scatter _ _ dim _ _ => if c.strictOrder then none else some ((c.dst.row ((c.bounds k).1 / c.dst.vecs)).getD dim 0)
  | _ => none

/-- The vectors of the source that feed a destination vector, with the index list of a GATHER or SCATTER. -/
def CopyJob.sources (c : CopyJob) (idx : List Nat) (k : Nat) : List (View × List Nat × Nat) := match c.op with
  | .copy s => [(s, idx, k)]
  | .reduce s _ _ => [(s, idx, k)]
  | .fill .. => []
  | .relayout s perm =>
    (List.range 32).map fun e =>
      let i := permuted perm (idx ++ [32 * k + e])
      (s, i.dropLast, i.getLastD 0 / 32)
  | .gather s _ dim _ =>
    (match inRange (c.index.getD (idx.getD dim 0) (-1)) (s.extents.getD dim 0) with
      | some i => [(s, idx.set dim i, k)]
      | none => [])
  | .scatter s _ dim _ _ =>
    ((List.range c.index.length).filter fun j => c.index.getD j (-1) == (idx.getD dim 0 : Nat)).map fun j =>
      (s, idx.set dim j, k)

/-- A piece also reads what it combines with the destination (R122, R131). -/
def CopyJob.readsDst (c : CopyJob) : Bool := match c.op with
  | .reduce _ _ acc => acc
  | .scatter _ _ _ _ acc => acc
  | _ => false

/-- Every window range that a piece reads. -/
def CopyJob.pieceReads (c : CopyJob) (k : Nat) : List (Nat × Nat) :=
  (c.vectors k).flatMap fun (idx, v) =>
    let src := c.sources idx v
    (src.flatMap fun (s, i, j) => vectorReads s i j) ++
      (if c.readsDst && !src.isEmpty then vectorReads c.dst idx v else [])

/-- A destination vector of a non-reduction from its sources; none where nothing writes it. -/
def CopyJob.newVector (c : CopyJob) (s : State) (n draw : Nat) (idx : List Nat) (k : Nat) : Option (Nat × Nat) :=
  match c.op with
  | .copy src => some (s.vector n draw src idx k)
  | .reduce .. => none
  | .fill v sc => some (packElems c.dst.width (List.replicate 32 v), sc)
  | .relayout src perm =>
    let at_ (e : Nat) : List Nat := permuted perm (idx ++ [32 * k + e])
    let i0 := at_ 0
    some (packElems c.dst.width ((List.range 32).map fun e =>
        s.elemBits n draw src (at_ e).dropLast ((at_ e).getLastD 0)),
      if src.mx then (s.vector n draw src i0.dropLast (i0.getLastD 0 / 32)).2 else 0)
  | .gather .. => some (match c.sources idx k with
      | (v, i, j) :: _ => s.vector n draw v i j
      | [] => (0, 0))
  | .scatter _ _ _ _ false => (c.sources idx k).getLast?.map fun (v, i, j) => s.vector n draw v i j
  | .scatter _ _ _ _ true =>
    (match c.sources idx k with
      | [] => none
      | xs => some (accumulateVec c.dst.fmt c.dst.width (s.vector n draw c.dst idx k).1
          (xs.map fun (v, i, j) => (s.vector n draw v i j).1), 0))

/-- Terms of a reduction by destination bit address, in iteration order (R122). -/
def CopyJob.terms (c : CopyJob) (s : State) (n draw : Nat) (src : View) (vs : List (List Nat × Nat)) :
    Tab (List (AccVal ⊕ Val)) :=
  vs.foldl (fun t (idx, k) =>
    let (x, sc) := s.vector n draw src idx k
    (List.range 32).foldl (fun t e =>
      let a := c.dst.bit idx (32 * k + e)
      tabPut a (tabGet [] t a ++ [termOf src.fmt (elemOf src.width x e) sc]) t) t) []

/-- Writes of one piece in order (R113, R120 to R131). -/
def CopyJob.pieceWrites (c : CopyJob) (s : State) (n draw k : Nat) : List (Nat × List Byte) :=
  let vs := c.vectors k
  match c.op with
  | .reduce src op acc =>
    let bytes := c.dst.width / 8
    (c.terms s n draw src vs).map fun (a, ts) =>
      let old := termOf c.dst.fmt (natOfBytes (s.winBytes n draw (a / 8) bytes)) 0
      (a / 8, bytesOfNat bytes (reduceTerms op c.dst.fmt (if acc then ts ++ [old] else ts)))
  | _ => vs.flatMap fun (idx, v) => match c.newVector s n draw idx v with
    | some x => copyWrites c.dst idx v x
    | none => []

/-- Join writes that follow one another without a gap, so that whole check words are written whole (R263). -/
def joinWrites : List (Nat × List Byte) → List (Nat × List Byte)
  | [] => []
  | (a, bs) :: t => match joinWrites t with
    | (b, cs) :: u => if a + bs.length = b then (a, bs ++ cs) :: u else (a, bs) :: (b, cs) :: u
    | [] => [(a, bs)]

/-- The element plane first, then the scale plane, each joined. Where the two planes of a destination overlap the scale
bytes therefore remain: DESIGN CHOICE, as R119 compares them with nothing (log 119). -/
def planes (dst : View) (ws : List (Nat × List Byte)) : List (Nat × List Byte) :=
  if dst.mx then
    let isScale (w : Nat × List Byte) : Bool := w.2.length == 1
    joinWrites (ws.filter fun w => !isScale w) ++ joinWrites (ws.filter isScale)
  else joinWrites ws

/-- Carry writes out; the list names the check words whose bytes were dropped (R263). -/
def writeAll (n : Nat) : List (Nat × List Byte) → State → State × List Nat
  | [], s => (s, [])
  | (w, bs) :: t, s =>
    let (s1, d1) := s.winWrite n w bs
    let (s2, d2) := writeAll n t s1
    (s2, d1 ++ d2)

/-- The destination vectors that the slices of a SCATTER go to, index by index in ascending order, each with its source
(R131). -/
def CopyJob.slices (c : CopyJob) (dim : Nat) : List (List Nat × Nat × List Nat) :=
  (List.range c.index.length).flatMap fun j =>
    match inRange (c.index.getD j (-1)) (c.dst.extents.getD dim 0) with
    | none => []
    | some i =>
      ((c.vectors 0).filter fun (idx, _) => idx.getD dim 0 == i).map fun (idx, k) => (idx, k, idx.set dim j)

/-- An accumulating SCATTER into a view that may alias: the additions to each element by its bit address, in index order
(R113, R131). -/
def CopyJob.strictAccumulate (c : CopyJob) (s : State) (n draw : Nat) (src : View) (dim : Nat) : List (Nat × List Byte) :=
  let adds : Tab (List Nat) := (c.slices dim).foldl (fun t (idx, k, from_) =>
    let x := (s.vector n draw src from_ k).1
    (List.range 32).foldl (fun t e =>
      let a := c.dst.bit idx (32 * k + e)
      tabPut a (tabGet [] t a ++ [elemOf src.width x e]) t) t) []
  let bytes := c.dst.width / 8
  adds.map fun (a, xs) =>
    (a / 8, bytesOfNat bytes (accumulate c.dst.fmt (natOfBytes (s.winBytes n draw (a / 8) bytes)) xs))

/-- An overwriting SCATTER into a view that may alias: index by index in ascending order (R113, R131). -/
def CopyJob.strictScatter (c : CopyJob) (s : State) (n draw : Nat) (src : View) (dim : Nat) : List (Nat × List Byte) :=
  (c.slices dim).flatMap fun (idx, k, from_) => copyWrites c.dst idx k (s.vector n draw src from_ k)

/-- Perform one piece. -/
def CopyJob.perform (c : CopyJob) (n k : Nat) (s : State) : State × List Nat :=
  let draw := s.freshCount
  let ws := match c.strictOrder, c.op with
    | true, .scatter src _ dim _ true => c.strictAccumulate s n draw src dim
    | true, .scatter src _ dim _ false => c.strictScatter s n draw src dim
    | _, _ => c.pieceWrites s n draw k
  let (s1, dropped) := writeAll n (planes c.dst ws) s
  (s1.drew, dropped)

/-- The scale bytes of a FILL, joined where they adjoin, so that every check word they cover is written whole (R125). -/
def View.fillScales (dst : View) (sc : Nat) : List (Nat × List Byte) :=
  joinWrites (sortBy (fun w : Nat × List Byte => w.1) ((List.range dst.rows).map fun r =>
    (dst.scaleAddr (dst.row r) 0, List.replicate dst.vecs (BitVec.ofNat 8 sc))))

/-- A FILL: every run of the view, then its scale bytes (R124, R125). -/
def State.fillView (s : State) (n : Nat) (dst : View) (v sc : Nat) : State × List Nat :=
  let len := dst.vecBytes * dst.vecs
  let s1 := forAll (List.range dst.rows) (fun r s =>
    let w := dst.vecAddr (dst.row r) 0
    if v = 0 then s.winZero n w len
    else (s.winWrite n w (bytesOfNat len (packElems dst.width (List.replicate (32 * dst.vecs) v)))).1) s
  if dst.mx then writeAll n (dst.fillScales sc) s1 else (s1, [])

/-! ### Channels and ends (R133, R134, R138, R139) -/

/-- Copy descriptors of a partition that have started, with their rings. -/
def State.copies (s : State) (n : Nat) : List (Nat × Desc × CopyJob) :=
  (List.range 8).flatMap fun r => (s.ring n r).descs.filterMap fun d => match d.state with
    | .copy c => some (r, d, c)
    | _ => none

/-- Halted channels of a partition: the record of the descriptor is not yet visible (R139). -/
def State.haltedChannels (s : State) (n : Nat) : List Nat :=
  (List.range 8).flatMap fun r => (s.ring n r).owed.filterMap (·.chan)

/-- Channels of a partition that are in service and that no descriptor holds (R133, R134, R139). -/
def State.freeChannels (s : State) (n : Nat) : List Nat :=
  let held := ((s.copies n).flatMap fun (_, _, c) => c.channels) ++ s.haltedChannels n
  (bitsSet (s.part n).channels).filter fun k => !held.contains k

/-- Window offset of a device address of a partition. -/
def Part.offsetOf (p : Part) (a : Nat) : Nat :=
  match p.regionList.findIdx? (· == regionOf a) with
  | some k => k * 2 ^ 28 + a % 2 ^ 28
  | none => 0

/-- Whether a descriptor would have written a row: of a SCATTER whose indices were read, the rows that some index names. -/
def CopyJob.wouldWrite (c : CopyJob) (row : List Nat) : Bool := match c.op with
  | .scatter _ _ dim _ _ => c.index.isEmpty || c.index.contains (row.getD dim 0 : Int)
  | _ => true

/-- What the descriptor would have written holds unspecified values (R138). -/
def State.copyForget (s : State) (n : Nat) (c : CopyJob) : State :=
  let dst := c.dst
  forAll (((List.range dst.rows).map dst.row).filter c.wouldWrite) (fun idx s =>
    let s1 := s.winForget n (dst.vecAddr idx 0) (dst.vecBytes * dst.vecs)
    if dst.mx then s1.winForget n (dst.scaleAddr idx 0) dst.vecs else s1) s

/-- A copy descriptor halts: the record names the channel, and so does DETAIL; the channel stays out of service until the
completion record is visible (R138, R139). -/
def State.copyHalts (s : State) (n r : Nat) (d : Desc) (c : CopyJob) (ch : Nat) (i : ErrInfo) (spent : Bool) : State :=
  (s.copyForget n c).failDesc n r d { i with unit := ch }
    { status := if spent then statusChannelHalt else statusPoisonRead, detail := ch, chan := some ch }

/-- A read for a copy descriptor fails (R138). -/
def State.copyFails (s : State) (n r : Nat) (d : Desc) (c : CopyJob) (ch w : Nat) (f : ReadFail) : State :=
  s.copyHalts n r d c ch (readInfo n 5 0 w f 0 r 1) f.spent

/-- A partial write of a copy descriptor is dropped at a check word, which was marked before or is lost now
(R138, R263). -/
def State.copyMerge (s : State) (n r : Nat) (d : Desc) (c : CopyJob) (ch a : Nat) (spent : Bool) : State :=
  s.copyHalts n r d c ch { code := 0x0106, severity := 1, part := n, path := 5, addrKind := 1, addr := (s.part n).offsetOf a, detail1 := a } spent

/-- The indices of a GATHER or SCATTER, from the bytes of its index view. -/
def indexList (bs : List Byte) : List Int := (List.range (bs.length / 4)).map fun k => signedOf 32 (numAt bs (4 * k) 4)

def CopyOp.indexed (o : CopyOp) (dst : View) : Option (View × Nat × Bool) := match o with
  | .gather s i dim strict => some (i, s.extents.getD dim 0, strict)
  | .scatter _ i dim strict _ => some (i, dst.extents.getD dim 0, strict)
  | _ => none

/-- A descriptor has its channels: a FILL is carried out; a GATHER or SCATTER reads its indices (R132, R135). -/
def State.beginCopy (s : State) (n r : Nat) (d : Desc) (c : CopyJob) (chans : List Nat) : State :=
  let ch := chans.headD 0
  match c.op, c.op.indexed c.dst with
  | .fill v sc, _ =>
    let (s1, dropped) := s.fillView n c.dst v sc
    (match dropped with
      | a :: _ => s1.copyMerge n r d c ch a (!s.isMarked a)
      | [] => s1.complete n r d.id {})
  | _, some (iv, extent, strict) =>
    let (x, s1) := s.winRead n (iv.vecAddr [] 0) (4 * iv.inner)
    (match x.fail with
      | some f => s1.copyFails n r d c ch (iv.vecAddr [] 0) f
      | none =>
        let index := indexList x.bytes
        match strict, (List.range index.length).find? fun j => (inRange (index.getD j (-1)) extent).isNone with
        | true, some j => s1.complete n r d.id { status := statusBadDescriptor, detail := 0x10, result := j }
        | _, _ => s1.setDesc n r d.id (.copy { c with index := index, channels := chans }))
  | _, none => s.setDesc n r d.id (.copy { c with channels := chans })

/-- Give free channels to the copy descriptors of a partition that wait, oldest first (R134). -/
def settleCopies (n : Nat) : Nat → State → State
  | 0, s => s
  | fuel + 1, s =>
    let waiting := sortBy (fun x : Nat × Desc × CopyJob => x.2.1.id) ((s.copies n).filter fun (_, _, c) => c.channels.isEmpty)
    match waiting, s.freeChannels n with
    | (r, d, c) :: _, ch :: more =>
      let pieces := if c.op.reads.isEmpty then 1 else c.op.pieceCount c.dst c.strictOrder
      settleCopies n fuel (s.beginCopy n r d c ((ch :: more).take pieces))
    | _, _ => s

def State.settleChannels (s : State) (n : Nat) : State := settleCopies n 513 s

/-- Out-of-range indices of a GATHER or SCATTER (R132). -/
def CopyJob.result (c : CopyJob) : Nat := match c.op.indexed c.dst with
  | some (_, extent, _) => (c.index.filter fun i => (inRange i extent).isNone).length
  | none => 0

/-! ### Starting and pieces -/

/-- What the reads of a descriptor's view records gave: the records, and the first read that failed with where it
began. -/
structure ViewReads where
  recs : List ViewRead := []
  fail : Option (Nat × ReadFail) := none
deriving DecidableEq, Repr

/-- Read the view records that lie in the window at a multiple of 64 (R117). -/
def State.viewReads (s : State) (n : Nat) (d : Desc) (ptrs : List Nat) : ViewReads × State :=
  ptrs.foldl (fun (v, s) p =>
    let w := dfield d.bits p 8
    if w % 64 ≠ 0 ∨ !(s.part n).inWindow w 128 then (v, s)
    else
      let (x, s1) := s.winRead n w 128
      match x.fail with
      | some f => ({ v with fail := v.fail.or (some (w, f)) }, s1)
      | none => ({ v with recs := v.recs ++ [{ ptr := p, bytes := x.bytes }] }, s1)) ({}, s)

/-- A copy descriptor starts (R116, R117). One that then finds no free channel has started, with its views read, and
runs on when its ring is disabled: DESIGN CHOICE, as R134 does not say (log 120). -/
def State.startCopy (s : State) (n r op : Nat) (d : Desc) : State :=
  let own := firstBad (descBytes d) (headerChecks ++ copyChecks op d.bits)
  let ptrs := (copyPtrs op).all
  let (read, s) := s.viewReads n d ptrs
  let vs := read.recs
  match own, read.fail with
  | none, some (w, f) => s.failDesc n r d (readInfo n 5 0 w f 0 r 1) { status := statusPoisonRead }
  | _, _ =>
    match copyBad op d.bits own vs with
    | some off => s.complete n r d.id { status := statusBadDescriptor, detail := off }
    | none =>
      if vs.length < ptrs.length then s.complete n r d.id { status := statusBadAddress }
      else
        let (o, dst) := copyOp op d.bits fun p => ((vs.find? fun v => v.ptr == p).map fun v => viewOf v.bytes).getD
          { base := 0, scaleBase := 0, fmt := 0, extents := [], strides := [] }
        match copyStatus (s.part n) o dst with
        | some st => s.complete n r d.id { status := st }
        | none =>
          let strict := !dst.nonAliasing
          let c : CopyJob :=
            { op := o, dst := dst, strictOrder := strict, index := [],
              left := [(0, o.pieceCount dst strict)], channels := [], keepers := [] }
          (s.setDesc n r d.id (.copy c)).settleChannels n

/-- Whether a channel may run a piece: it is one of the descriptor's, and it keeps the slices of the piece's index value
(R134). -/
def CopyJob.mayRun (c : CopyJob) (k ch : Nat) : Bool :=
  c.channels.contains ch && rangesMem k c.left && match (c.indexValue k).bind (tabFind c.keepers) with
    | some x => x == ch
    | none => true

/-- A copy descriptor after a piece that ended well. -/
def CopyJob.ended (c : CopyJob) (k ch : Nat) : CopyJob :=
  { c with left := rangesSub k (k + 1) c.left,
           keepers := match c.indexValue k with
             | some i => tabPut i ch c.keepers
             | none => c.keepers }

/-- A piece of a copy descriptor is carried out: its reads, then its writes (R134, R138). -/
def State.runPiece (s : State) (n r : Nat) (d : Desc) (c : CopyJob) (k ch : Nat) : State :=
  match s.readAll n (c.pieceReads k) with
  | (some (w, f), s1) => s1.copyFails n r d c ch w f
  | (none, s1) =>
    let (s2, dropped) := c.perform n k s1
    match dropped with
    | a :: _ => s2.copyMerge n r d c ch a (!s1.isMarked a)
    | [] =>
      let c' := c.ended k ch
      if c'.left.isEmpty then s2.complete n r d.id { result := c.result } else s2.setDesc n r d.id (.copy c')

/-- COPY_PIECE_COMPLETE (R134, R138). -/
def State.pieceEnds (s : State) (n r id k ch : Nat) : State :=
  match (s.ring n r).find id with
  | none => s
  | some d => match d.state with
    | .copy c => if c.mayRun k ch then (s.runPiece n r d c k ch).settleChannels n else s
    | _ => s

/-! ### Records that give a halted channel back (R139) -/

/-- COMPLETION_RECORD_WRITE (R79, R139). -/
def State.recordWritten (s : State) (n r : Nat) (ok : Bool) : State := (s.writeRecord n r ok).settleChannels n
/-- RING_ENABLE (R69, R102). -/
def State.ringEnabled (s : State) (n r : Nat) : State := (s.enableRing n r).settleChannels n
/-- RING_DISABLE (R102). -/
def State.ringDisabled (s : State) (n r : Nat) : State := (s.disableRing n r).settleChannels n

/-- Start a copy descriptor of one opcode; its own checks stand beside those of its views (R117). -/
def State.copyRow (s : State) (n r op : Nat) : State :=
  match s.startable n r with
  | some d => if descOpcode d.bits = op then s.startCopy n r op d else s
  | none => s

/-! ### The rows -/

/-- COPY (R120). -/
def execCopy (r : RingRef) (s : State) (errs : Errs := []) :=
  actOn errs (whenRunning fun s => s.copyRow r.vf.val r.ring.val 0x10) s
/-- FILL (R124). -/
def execFill (r : RingRef) (s : State) (errs : Errs := []) :=
  actOn errs (whenRunning fun s => s.copyRow r.vf.val r.ring.val 0x11) s
/-- RELAYOUT (R126). -/
def execRelayout (r : RingRef) (s : State) (errs : Errs := []) :=
  actOn errs (whenRunning fun s => s.copyRow r.vf.val r.ring.val 0x12) s
/-- GATHER (R130). -/
def execGather (r : RingRef) (s : State) (errs : Errs := []) :=
  actOn errs (whenRunning fun s => s.copyRow r.vf.val r.ring.val 0x13) s
/-- SCATTER (R131). -/
def execScatter (r : RingRef) (s : State) (errs : Errs := []) :=
  actOn errs (whenRunning fun s => s.copyRow r.vf.val r.ring.val 0x14) s
/-- COPY_PIECE_COMPLETE (R134). -/
def execCopyPieceComplete (r : RingRef) (id piece : Nat) (channel : Fin 32) (errs : Errs) :=
  actOn errs (whenRunning fun s => s.pieceEnds r.vf.val r.ring.val id piece channel.val)
/-- COMPLETION_RECORD_WRITE (R79). -/
def execCompletionRecordWrite (r : RingRef) (ok : Bool) :=
  act (whenRunning fun s => s.recordWritten r.vf.val r.ring.val ok)
/-- RING_ENABLE (R69). -/
def execRingEnable (r : RingRef) := act (whenRunning fun s => s.ringEnabled r.vf.val r.ring.val)
/-- RING_DISABLE (R102). -/
def execRingDisable (r : RingRef) := act (whenRunning fun s => s.ringDisabled r.vf.val r.ring.val)

end Sys2Proof.Machine
end

