-- ==== Sys2Proof/Machine/Ecdsa.lean ====
section
/-! DEFINITION. ECDSA P-256, and the private keys that an HMAC-DRBG yields (R535, R544). The manual names the algorithms
and leaves their steps to FIPS 186, SEC 1 and SP 800-90A (PRESUMED; log 13). Points are in Jacobian coordinates: (X, Y, Z) stands for (X / Z^2, Y / Z^3), and Z = 0 for the
point at infinity. -/

namespace Sys2Proof.Machine

/-- The field's prime, the group's order, the curve's coefficient b and the base point of P-256. -/
def p256P : Nat := 2 ^ 256 - 2 ^ 224 + 2 ^ 192 + 2 ^ 96 - 1
def p256N : Nat := 0xFFFFFFFF00000000FFFFFFFFFFFFFFFFBCE6FAADA7179E84F3B9CAC2FC632551
def p256B : Nat := 0x5AC635D8AA3A93E7B3EBBD55769886BC651D06B0CC53B0F63BCE3C3E27D2604B
def p256Gx : Nat := 0x6B17D1F2E12C4247F8BCE6E563A440F277037D812DEB33A0F4A13945D898C296
def p256Gy : Nat := 0x4FE342E2FE1A7F9B8EE7EB4A7C0F9E162BCE33576B315ECECBB6406837BF51F5

structure JPoint where
  x : Nat
  y : Nat
  z : Nat
deriving DecidableEq, Repr

def jInf : JPoint := { x := 1, y := 1, z := 0 }

/-- The difference modulo p of numbers below p. -/
def subP (a b : Nat) : Nat := (a + p256P - b) % p256P
def mulP (a b : Nat) : Nat := a * b % p256P

/-- Twice a point; a = −3. -/
def jDouble (q : JPoint) : JPoint :=
  if q.z = 0 then jInf
  else
    let zz := mulP q.z q.z
    let m := 3 * mulP (subP q.x zz) ((q.x + zz) % p256P) % p256P
    let yy := mulP q.y q.y
    let s := 4 * mulP q.x yy % p256P
    let x := subP (mulP m m) (2 * s % p256P)
    { x := x, y := subP (mulP m (subP s x)) (8 * mulP yy yy % p256P), z := 2 * mulP q.y q.z % p256P }

/-- The sum of two points. -/
def jAdd (a b : JPoint) : JPoint :=
  if a.z = 0 then b
  else if b.z = 0 then a
  else
    let za := mulP a.z a.z
    let zb := mulP b.z b.z
    let u := mulP a.x zb
    let v := mulP b.x za
    let s := mulP a.y (mulP zb b.z)
    let t := mulP b.y (mulP za a.z)
    if u = v then (if s = t then jDouble a else jInf)
    else
      let h := subP v u
      let r := subP t s
      let hh := mulP h h
      let hhh := mulP hh h
      let w := mulP u hh
      let x := subP (subP (mulP r r) hhh) (2 * w % p256P)
      { x := x, y := subP (mulP r (subP w x)) (mulP s hhh), z := mulP h (mulP a.z b.z) }

/-- A multiple of a point, from the `bits` low bits of `k`. -/
def jMul (k : Nat) (q : JPoint) : Nat → JPoint
  | 0 => jInf
  | bits + 1 =>
    let d := jDouble (jMul (k / 2) q bits)
    if k % 2 = 1 then jAdd d q else d

/-- A power modulo `m`, from the `bits` low bits of the exponent. -/
def powMod (m a k : Nat) : Nat → Nat
  | 0 => 1 % m
  | bits + 1 =>
    let r := powMod m a (k / 2) bits
    let q := r * r % m
    if k % 2 = 1 then q * a % m else q

def p256G : JPoint := { x := p256Gx, y := p256Gy, z := 1 }

/-- The x coordinate of a point that is not the one at infinity. -/
def jX (q : JPoint) : Nat :=
  let zi := powMod p256P q.z (p256P - 2) 256
  mulP q.x (mulP zi zi)

/-- Its y coordinate. -/
def jY (q : JPoint) : Nat :=
  let zi := powMod p256P q.z (p256P - 2) 256
  mulP q.y (mulP zi (mulP zi zi))

/-- The public key of a private key: x then y, big-endian. -/
def publicKey (d : Nat) : Bits512 :=
  let q := jMul d p256G 256
  BitVec.ofNat 512 (jX q * 2 ^ 256 + jY q)

/-- A signature verifies: `pub` is x then y, `sig` is r then s, all big-endian (R534, R535). -/
def ecdsaVerify (pub : Bits512) (hash : Bits256) (sig : Bits512) : Bool :=
  let x := pub.toNat / 2 ^ 256
  let y := pub.toNat % 2 ^ 256
  let r := sig.toNat / 2 ^ 256
  let s := sig.toNat % 2 ^ 256
  let onCurve := mulP y y == (mulP (mulP x x) x + p256B + 3 * (p256P - x)) % p256P
  if x < p256P ∧ y < p256P ∧ onCurve = true ∧ 0 < r ∧ r < p256N ∧ 0 < s ∧ s < p256N then
    let w := powMod p256N s (p256N - 2) 256
    let q := jAdd (jMul (hash.toNat * w % p256N) p256G 256)
      (jMul (r * w % p256N) { x := x, y := y, z := 1 } 256)
    if q.z = 0 then false else jX q % p256N == r
  else false

/-- The signature over a hash with private key `d` and nonce `k`: r then s. -/
def ecdsaSign (d k : Nat) (hash : Bits256) : Bits512 :=
  let r := jX (jMul k p256G 256) % p256N
  let s := powMod p256N k (p256N - 2) 256 * (hash.toNat + r * d) % p256N
  BitVec.ofNat 512 (r * 2 ^ 256 + s)

/-- The update of an HMAC-DRBG: its key and value. -/
def drbgUpdate (k v : Bits256) (data : List Byte) : Bits256 × Bits256 :=
  let k1 := hmacSha256 (digestBytes k) (digestBytes v ++ [0#8] ++ data)
  let v1 := hmacSha256 (digestBytes k1) (digestBytes v)
  if data.isEmpty then (k1, v1)
  else
    let k2 := hmacSha256 (digestBytes k1) (digestBytes v1 ++ [1#8] ++ data)
    (k2, hmacSha256 (digestBytes k2) (digestBytes v1))

/-- The first 256-bit draw that is a private key: neither 0 nor n or more (R544). -/
def drbgKey : Nat → Bits256 × Bits256 → Nat
  | 0, _ => 1
  | fuel + 1, (k, v) =>
    let x := hmacSha256 (digestBytes k) (digestBytes v)
    if 0 < x.toNat ∧ x.toNat < p256N then x.toNat else drbgKey fuel (drbgUpdate k x [])

/-- The private key that a seed yields (R544). -/
def privateKey (seed : Bits256) : Nat :=
  drbgKey 256 (drbgUpdate 0 (BitVec.ofNat 256 (natOfBytes (List.replicate 32 1#8))) (digestBytes seed))

end Sys2Proof.Machine
end

