-- ==== Sys2Proof/Machine/Slots.lean ====
section
/-! DEFINITION. The checks that every slot makes when its bundle is decoded, the CTL slot with its loops, and the XCH
slot (R223, R227 to R233, R235 to R246). -/

namespace Sys2Proof.Machine

/-! ### Checks (R223, R246). `x0` is the vat before the bundle. -/

/-- A check that fails with a cause. -/
def need (ok : Bool) (c : TrapCause) : Option TrapCause := if ok then none else some c

/-- PORT accesses: COUNT only with LDW, every line address good (R235, R236). -/
def checkPort (x0 : Vat) (a : PortArgs) (scalar ldw : Bool) : Option TrapCause :=
  (need (ldw || a.count == 0) .bundleFormat).or
    (need ((List.range (a.count.toNat + 1)).all fun i =>
      if scalar then scalarAddrOk (portAddr x0 a i) else lineAddrOk (portAddr x0 a i)) .scratchAddress)

/-- LDV and STV use v[REG] and v[REG + 1]. -/
def checkPair (a : PortArgs) (even : Bool) : Option TrapCause :=
  need (decide (a.reg.val < 31) && (!even || decide (a.reg.val % 2 = 0))) .bundleFormat

/-- LDW: formats that the arrays accept, and one array where a curd stream enters an expander (R237; log 16). -/
def checkLdw (x0 : Vat) (a : PortArgs) : Option TrapCause :=
  let us := (bitsSet a.amask).map x0.array
  need (us.all (fun u => cfgPairOk u.cfgNext) && (us.all (fun u => u.cfgNext.raw) || decide (us.length = 1))) .bundleFormat

/-- ARR: an accepted configuration, a row of the mode's range, an operand inside the line (R238; log 16). -/
def checkArr (x0 : Vat) (a : ArrArgs) : Option TrapCause :=
  need ((bitsSet a.amask).all fun k =>
    let u := x0.array k
    cfgPairOk u.cfg && (!u.cfg.quad || decide (arrRow x0 a < 32)) &&
      decide ((arrIndex x0 a + 1) * cfgIssueBytes u.cfg ≤ 2048)) .bundleFormat

/-- CFG: a pair of formats that R190 accepts (R239). -/
def checkCfg (c : CfgArgs) : Option TrapCause := need (cfgPairOk c) .bundleFormat

/-- OVL and OVLU: COUNT 1 to 1,023 and START + COUNT at most 1,024 (R239). -/
def checkOvl (start count : BitVec 10) : Option TrapCause :=
  need (decide (1 ≤ count.toNat) && decide (start.toNat + count.toNat ≤ 1024)) .bundleFormat

/-- DRAIN and PRELOAD: a row of the mode's range, and one array for a raw drain (R240). -/
def checkDrn (x0 : Vat) (a : DrnArgs) (drain : Bool) : Option TrapCause :=
  need (((bitsSet a.amask).all fun k => !(x0.array k).cfg.quad || decide (a.row.toNat < 32)) &&
    (!(drain && a.raw) || decide ((bitsSet a.amask).length = 1))) .bundleFormat

/-- VEC: RND 3 and an empty GMASK trap (R241). -/
def checkVec (a : VecArgs) : Option TrapCause := need (a.rnd != 3 && a.gmask != 0) .bundleFormat

/-- CVTF and CVTI: a format without a scale; MXQ: a Microscaling format (R242; log 34). -/
def checkFmt (a : VecArgs) (mx : Bool) : Option TrapCause :=
  (checkVec a).or (need (fmtKnown a.fmt.toNat && fmtIsMx a.fmt.toNat == mx) .bundleFormat)

/-- XCVT and RSUM must have SB set (R242). -/
def checkSb (a : VecArgs) : Option TrapCause := (checkVec a).or (need a.sb .bundleFormat)

/-- A vat's job has a code area that holds an address (R228). -/
def State.codeSize (s : State) (v : Nat) : Nat := match s.jobOf v with | some j => j.hdr.codeSize | none => 0

/-- A branch target: a multiple of 4 inside the code area (R228). -/
def State.checkTarget (s : State) (v : Nat) (t : Word) : Option TrapCause :=
  need (decide (t.toNat % 4 = 0) && decide (t.toNat < s.codeSize v)) .codeRange

/-- LOOP: a free level, and an end at or after the next bundle (R229). -/
def checkLoop (x0 : Vat) (seq : Nat) (imm : Word) : Option TrapCause :=
  (need (decide (x0.depth < 4)) .loopDepth).or (need (decide (seq ≤ imm.toNat)) .loopRange)

/-- WAITF: a plain word address (R231). -/
def checkWaitf (x0 : Vat) (ra : Fin 32) : Option TrapCause :=
  need (decide ((x0.sreg ra).toNat < 2 ^ 22) && decide ((x0.sreg ra).toNat % 4 = 0)) .scratchAddress

/-! ### CTL (R227 to R233) -/

/-- The innermost loop level. -/
def Vat.level (x : Vat) : LoopLevel := tabGet {} x.loops (x.depth - 1)

/-- Pop the innermost level. -/
def Vat.pop (x : Vat) : Vat := { x with depth := x.depth - 1 }

/-- The range of a level holds a bundle address. -/
def LoopLevel.within (l : LoopLevel) (t : Nat) : Bool := decide (l.ls.toNat ≤ t) && decide (t ≤ l.le.toNat)

/-- A taken branch pops every level whose range does not hold the target; the levels that stay close up (R229). -/
def Vat.popOutside (x : Vat) (t : Nat) : Vat :=
  let stay := ((List.range x.depth).map (tabGet {} x.loops)).filter fun l => l.within t
  { x with depth := stay.length,
           loops := (List.range stay.length).foldl (fun m k => tabPut k (stay.getD k {}) m) x.loops }

/-- The bundle at `pc` completes without a branch: the innermost loop repeats, or levels pop (R229). -/
def loopNext (pc seq : Nat) : Nat → Vat → Vat
  | 0, x => { x with pc := BitVec.ofNat 32 seq }
  | fuel + 1, x =>
    if x.depth = 0 ∨ x.level.le.toNat ≠ pc then { x with pc := BitVec.ofNat 32 seq }
    else if 1 < x.level.lc.toNat then
      { x with pc := x.level.ls,
               loops := tabPut (x.depth - 1) { x.level with lc := x.level.lc - 1, li := x.level.li + 1 } x.loops }
    else loopNext pc seq fuel x.pop

/-- The vat goes on past a bundle without a branch. -/
def Vat.onward (x : Vat) (pc seq : Nat) : Vat := loopNext pc seq (x.depth + 1) x

/-- A branch, taken or not (R228, R229). -/
def Vat.branch (x : Vat) (taken : Bool) (t : Word) (pc seq : Nat) : Vat :=
  if taken then { x.popOutside t.toNat with pc := t } else x.onward pc seq

/-- LOOP with a count other than 0 pushes a level (R229). -/
def Vat.push (x : Vat) (count imm : Word) (seq : Nat) : Vat :=
  { x with depth := x.depth + 1, pc := BitVec.ofNat 32 seq,
           loops := tabPut x.depth { lc := count, li := 0, ls := BitVec.ofNat 32 seq, le := imm } x.loops }

/-- Sizes of the eight slots in bytes (R221). -/
def slotBytes (k : Nat) : Nat := if k = 0 ∨ k = 2 ∨ k = 6 ∨ k = 7 then 8 else 4

/-- Bytes of a bundle with this head (R221). -/
def bundleSize (head : Word) : Nat :=
  4 + (((List.range 8).filter fun k => head.getLsbD (24 + k)).map slotBytes).sum

/-- The address of the bundle after the one at `a` (R220). -/
def seqAddr (a : Nat) (head : Word) : Nat := if head.getLsbD 23 then (a / 256 + 1) * 256 else a + bundleSize head

/-- The cached line that holds a bundle address (R208). -/
def Vat.cached (x : Vat) (a : Nat) : Option (List Byte) :=
  ((tabGet [] x.icache (a / 256 % 64)).find? fun (t, _) => t == a / 2 ^ 14).map (·.2)

/-- The head word at a bundle address, from the cache or else from the code area. -/
def State.headAt (s : State) (v a : Nat) : Word :=
  match (s.vat v).cached a with
  | some l => BitVec.ofNat 32 (natOfBytes ((l.drop (a % 256)).take 4))
  | none => BitVec.ofNat 32 (natOfBytes (s.winRead (s.vatPart v) (s.bundleOffset v a) 4).1.bytes)

/-- A vat has started an NBE job that is not complete (R233, R291, R319). -/
def State.nbeBusy (s : State) (v : Nat) : Bool := s.nbeJobs.any fun (_, k) => k.issuer == some v

/-- END: a vat whose transfers have all completed has ended; the job completes with its last vat (R45, R90, R233). -/
def State.finishEnd (s : State) (v : Nat) : State :=
  let x := s.vat v
  if x.run = .ending ∧ x.xfers.isEmpty ∧ !s.nbeBusy v then
    let s1 := s.modVat v fun x => { x with run := .ended }
    match x.job.bind (tabFind s.jobs) with
    | none => s1
    | some j =>
      let s2 := s1.modJob j.id fun j => { j with ended := if j.ended.contains v then j.ended else j.ended ++ [v] }
      if j.vatList.all fun k => k == v || j.ended.contains k then
        s2.endJob j.id .idle { status := statusOk, result := s2.tmb.beat }
      else s2
  else s

/-- A write to the word that a WAITF watches, or its first read: the condition may release the vat, late where its
deadline beat has begun (R231; log 33). -/
def State.waitfTest (s : State) (v : Nat) : State :=
  let x := s.vat v
  match x.run with
  | .waitf a mask cond deadline =>
    if waitfHolds (x.word a) mask cond then
      let s1 := s.modVat v fun x => { x with run := .running }
      if s.vatLc v ∧ deadline ≠ 0 ∧ deadline ≤ s.jobBeat v then s1.overrun v (max 1 (s.jobBeat v - deadline)) else s1
    else s
  | _ => s

/-- The CTL slot after every other slot has issued (R223.6). `x0` is the vat before the bundle, `pc` its address and
`seq` the next sequential address. -/
def State.ctl (s : State) (v : Nat) (c : Instr) (x0 : Vat) (pc seq : Nat) : State :=
  let onward (s : State) : State := s.modVat v fun x => x.onward pc seq
  let branch (taken : Bool) (t : Word) : State := s.modVat v fun x => x.branch taken t pc seq
  match c with
  | .jmp _ imm => branch true imm
  | .brz _ ra imm => branch (x0.sreg ra == 0) imm
  | .brnz _ ra imm => branch (x0.sreg ra != 0) imm
  | .brlt _ ra rb imm => branch ((x0.sreg ra).slt (x0.sreg rb)) imm
  | .loop _ ra imm =>
    let count := field (x0.sreg ra) 0 32
    if count = 0 then
      s.modVat v fun x => { x with pc := BitVec.ofNat 32 (seqAddr imm.toNat (s.headAt v imm.toNat)) }
    else s.modVat v fun x => x.push count imm seq
  | .bsync _ ra imm =>
    let t := (x0.sreg ra + imm.zeroExtend 64).toNat
    let s1 := onward s
    if s.vatLc v then
      if t < s.jobBeat v then s1.overrun v (s.jobBeat v - t)
      else if t = s.jobBeat v then s1
      else s1.modVat v fun x => { x with run := .bsync t }
    else s1.modVat v fun x => { x with run := .bsync 0 }
  | .waitf _ ra rb cond imm parity =>
    if parity then s.spdParity v 2 (x0.sreg ra).toNat
    else ((onward s).modVat v fun x =>
      { x with run := .waitf (x0.sreg ra).toNat (field (x0.sreg rb) 0 32) cond imm.toNat }).waitfTest v
  | .yield _ imm =>
    let s1 := onward s
    if s.vatLc v then s1 else s1.modVat v fun x => { x with run := .yield imm.toNat }
  | .endJob _ => (s.modVat v fun x => { x with run := .ending }).finishEnd v
  | _ => onward s

/-! ### XCH (R243 to R245) -/

def xchLines (a : XchArgs) : Nat := a.lines.toNat + 1
/-- Local scratchpad address of line `i`. -/
def xchLocal (x0 : Vat) (a : XchArgs) (i : Nat) : Nat := ((x0.sreg a.rb).toNat + 2048 * i) % 2 ^ 24
/-- Target word of PUT and SEND: address, device vat number, route index (R244). -/
def xchDest (x0 : Vat) (a : XchArgs) : Nat := (field (x0.sreg a.ra) 0 24).toNat
def xchVat (x0 : Vat) (a : XchArgs) : Nat := (field (x0.sreg a.ra) 24 7).toNat
def xchPort (x0 : Vat) (a : XchArgs) : Nat := (field (x0.sreg a.ra) 44 4).toNat
def xchEntry (x0 : Vat) (a : XchArgs) : Nat := (field (x0.sreg a.ra) 32 12).toNat
/-- Window offset of SLD, SST and NBJ. -/
def xchWindow (x0 : Vat) (a : XchArgs) : Nat := (x0.sreg a.ra).toNat

/-- The flag that completion sets, in a flag vat (R244). -/
def xchFlag (x0 : Vat) (a : XchArgs) (flagVat : Nat) : Option (Nat × Nat × Nat) :=
  if a.flag then some (flagVat, (x0.sreg a.rf).toNat % 2 ^ 24, a.fbit.toNat) else none

/-- A flag word address: an aligned word outside the reserved range. -/
def checkFlag (x0 : Vat) (a : XchArgs) : Option TrapCause :=
  need (!a.flag || (decide (spdAlias ((x0.sreg a.rf).toNat % 2 ^ 24) < 3) && decide ((x0.sreg a.rf).toNat % 4 = 0)))
    .scratchAddress

/-- Local lines: aligned, outside the reserved range. -/
def checkLocal (x0 : Vat) (a : XchArgs) : Option TrapCause :=
  need ((List.range (xchLines a)).all fun i => lineAddrOk (xchLocal x0 a i)) .scratchAddress

/-- SLD and SST: offsets of 64 bytes, a range inside the window (R244). -/
def State.checkWindow (s : State) (v : Nat) (x0 : Vat) (a : XchArgs) (bytes align : Nat) : Option TrapCause :=
  (need (decide (xchWindow x0 a % align = 0)) .scratchAddress).or
    (need ((s.part (s.vatPart v)).inWindow (xchWindow x0 a) bytes) .window)

/-- PUT: a vat of the job, and lines that its scratchpad has (R244). -/
def State.checkPut (s : State) (v : Nat) (x0 : Vat) (a : XchArgs) : Option TrapCause :=
  (need (match s.jobOf v with
    | some j => j.hdr.vats.getLsbD (xchVat x0 a)
    | none => xchVat x0 a == v) .target).or
  (need ((List.range (xchLines a)).all fun i => lineAddrOk ((xchDest x0 a + 2048 * i) % 2 ^ 24)) .scratchAddress)

/-- Fields of a route-table entry (R422). -/
def routeHops (e : BitVec 128) : Nat := (field e 49 4).toNat
def routeDest (e : BitVec 128) : Nat := (field e 53 10).toNat
def routePorts (e : BitVec 128) : BitVec 44 := field e 5 44
def routeSlack (e : BitVec 128) : Nat := (field e 80 16).toNat
def routeRet (e : BitVec 128) : Nat := (field e 64 16).toNat
/-- An entry is valid: VALID, HOPS 1 to 12, no reserved bit (R422). -/
def routeOk (e : BitVec 128) : Bool :=
  e.getLsbD 63 && decide (1 ≤ routeHops e) && decide (routeHops e ≤ 12) && field e 0 5 == 0 && field e 96 32 == 0

def State.route (s : State) (p k : Nat) : BitVec 128 := tabGet 0 (s.port p).routes k

/-- SEND: a valid route entry of a port that is UP and belongs to the vat's partition (R423, R449, R479). -/
def State.checkSend (s : State) (v : Nat) (x0 : Vat) (a : XchArgs) : Option TrapCause :=
  (need (routeOk (s.route (xchPort x0 a) (xchEntry x0 a)) && (s.port (xchPort x0 a)).state == .up &&
    (s.part (s.vatPart v)).portSet.getLsbD (xchPort x0 a)) .target).or
  (need ((List.range (xchLines a)).all fun i => lineAddrOk ((xchDest x0 a + 2048 * i) % 2 ^ 24)) .scratchAddress)

/-- A free transfer slot of a vat (R222). -/
def Vat.freeSlot (x : Vat) : Option Nat := (List.range 8).find? fun k => (tabFind x.xfers k).isNone

def newXfer (k : XferKind) (stamp : Nat) (flag : Option (Nat × Nat × Nat)) : Xfer :=
  { kind := k, flag := flag, addr := 0, dest := 0, data := [], route := 0, beat := none, departed := none, clock := 0, seq := 0,
    nbe := none, stamp := stamp }

/-- Lines that a transfer hands to a vat's inbound path, the flag with the last (R203, R244, R316). -/
def inboundLines (src : InboundSrc) (addr : Nat) (flag : Option (Nat × Nat × Nat)) (n : Nat) (data : Nat → Line)
    (read : Nat → Option (Nat × Nat)) : List Inbound :=
  (List.range n).map fun i =>
    { src := src, addr := (addr + 2048 * i) % 2 ^ 24, lo := 0, hi := 2048, data := data i,
      flag := if i + 1 = n then flag else none, last := decide (i + 1 = n), read := read i }

def lineOf (bs : List Byte) : Line := BitVec.ofNat 16384 (natOfBytes bs)

/-- The local lines of a transfer. -/
def xchData (x0 : Vat) (a : XchArgs) : List Line :=
  (List.range (xchLines a)).map fun i => x0.line (spdLine (xchLocal x0 a i))

/-- A store of a vat reaches the stacks. -/
def State.sstWrite (s : State) (v : Nat) (t : Xfer) : State :=
  (s.winWrite (s.vatPart v) t.addr (t.data.flatMap fun l => bytesOf l 2048)).1

/-- SLD (R244): its lines return through the vat's inbound path; each is read when it is performed (R314, R316). -/
def State.sld (s : State) (v slot : Nat) (x0 : Vat) (a : XchArgs) : State :=
  let n := s.vatPart v
  let s := s.stamped
  let w := xchWindow x0 a
  let ls := inboundLines (.vat v slot) (xchLocal x0 a 0) (xchFlag x0 a v) (xchLines a) (fun _ => 0)
    fun i => some (n, w + 2048 * i)
  s.modVat v fun x =>
    { x with xfers := tabPut slot { (newXfer .sld s.stamp (xchFlag x0 a v)) with addr := w } x.xfers,
             inbound := x.inbound ++ ls }

/-- SST (R244): local lines on their way to the window. -/
def State.sst (s : State) (v slot : Nat) (x0 : Vat) (a : XchArgs) : State :=
  let s := s.stamped
  s.modVat v fun x =>
    { x with xfers := tabPut slot { (newXfer .sst s.stamp (xchFlag x0 a v)) with
        addr := xchWindow x0 a, data := xchData x0 a } x.xfers }

/-- PUT (R244): lines to a vat of this device. -/
def State.putLines (s : State) (v slot : Nat) (x0 : Vat) (a : XchArgs) : State :=
  let s := s.stamped
  let d := xchVat x0 a
  let flag := xchFlag x0 a d
  (s.modVat v fun x =>
    { x with xfers := tabPut slot { (newXfer .put s.stamp flag) with addr := xchDest x0 a, dest := d } x.xfers }).modVat d
    fun x =>
      let ls := inboundLines (.vat v slot) (xchDest x0 a) flag (xchLines a) (fun i => (xchData x0 a).getD i 0) fun _ => none
      { x with inbound := x.inbound ++ ls }

/-- SEND (R245): lines that wait for their beat boundary. -/
def State.send (s : State) (v slot : Nat) (x0 : Vat) (a : XchArgs) : State :=
  let s := s.stamped
  s.modVat v fun x =>
    { x with xfers := tabPut slot { (newXfer .send s.stamp (xchFlag x0 a (xchVat x0 a))) with
        addr := xchDest x0 a, dest := xchVat x0 a, data := xchData x0 a,
        route := xchPort x0 a * 4096 + xchEntry x0 a,
        beat := if a.atbeat && s.vatLc v then some (x0.sreg a.rt).toNat else none } x.xfers }

/-- NBJ (R244, R288): the record at its offset names a job that its NBEs have still to read and accept (R290, R328). -/
def State.nbj (s : State) (v slot : Nat) (x0 : Vat) (a : XchArgs) : State :=
  let s := s.stamped
  let id := s.nextNbeJob
  let job : NbeJob :=
    { record := 0, off := xchWindow x0 a, part := s.vatPart v, issuer := some v, flag := xchFlag x0 a v, job := (s.vat v).job,
      own := none, phase := .offered }
  ({ s with nextNbeJob := id + 1, nbeJobs := tabPut id job s.nbeJobs }).modVat v fun x =>
    { x with xfers := tabPut slot { (newXfer .nbj s.stamp none) with nbe := some id } x.xfers }

/-- Checks of an XCH slot (R244, R246). -/
def State.checkXch (s : State) (v : Nat) (x0 : Vat) (c : Instr) : Option TrapCause :=
  match c with
  | .sld _ a => (checkLocal x0 a).or ((checkFlag x0 a).or (s.checkWindow v x0 a (2048 * xchLines a) 64))
  | .sst _ a _ => (checkLocal x0 a).or ((checkFlag x0 a).or (s.checkWindow v x0 a (2048 * xchLines a) 64))
  | .put _ a _ => (checkLocal x0 a).or ((checkFlag x0 a).or (s.checkPut v x0 a))
  | .send _ a _ => (checkLocal x0 a).or ((checkFlag x0 a).or (s.checkSend v x0 a))
  | .nbj _ a => (checkFlag x0 a).or (s.checkWindow v x0 a 128 1)
  | _ => none

/-- An XCH slot issues into a free transfer slot. A parity mismatch of the lines that it reads faults the step (R202). -/
def State.xch (s : State) (v slot : Nat) (c : Instr) (x0 : Vat) : State :=
  match c with
  | .sld _ a => s.sld v slot x0 a
  | .sst _ a p => if p then s.spdParity v 3 (xchLocal x0 a 0) else s.sst v slot x0 a
  | .put _ a p => if p then s.spdParity v 2 (xchLocal x0 a 0) else s.putLines v slot x0 a
  | .send _ a p => if p then s.spdParity v 2 (xchLocal x0 a 0) else s.send v slot x0 a
  | .nbj _ a => s.nbj v slot x0 a
  | _ => s

end Sys2Proof.Machine
end

