-- ==== Sys2Proof/Machine/Bundle.lean ====
section
/-! DEFINITION. Bundles: decoding, the checks of a whole bundle, and the issue of its slots (R220 to R223, R227 to
R246). -/

namespace Sys2Proof.Machine

/-! ### Decoding (R221, R227, R234, R235, R238 to R241, R243) -/

/-- A field of `width` bits from bit `lo` of a slot's word. -/
def bitsAt (w lo width : Nat) : BitVec width := BitVec.ofNat width (w >>> lo)
/-- A register number. -/
def regAt (w lo : Nat) : Fin 32 := Fin.ofNat 32 (w >>> lo)

def decodeCtl (v : Fin 128) (p : Bool) (w : Nat) : Option Instr :=
  let ra := regAt w 53
  let rb := regAt w 48
  let imm := bitsAt w 0 32
  if bitsAt w 32 15 ≠ 0 then none
  else match (bitsAt w 58 6).toNat with
    | 0x01 => some (.jmp v imm)
    | 0x02 => some (.brz v ra imm)
    | 0x03 => some (.brnz v ra imm)
    | 0x04 => some (.brlt v ra rb imm)
    | 0x08 => some (.loop v ra imm)
    | 0x10 => some (.bsync v ra imm)
    | 0x11 => some (.waitf v ra rb (w.testBit 47) imm p)
    | 0x12 => some (.yield v imm)
    | 0x18 => some (.trap v imm)
    | 0x19 => some (.endJob v)
    | _ => none

/-- Register forms have IMM bits [10:0] zero (R234). -/
def decodeScl (v : Fin 128) (w : Nat) : Option Instr :=
  let rd := regAt w 21
  let ra := regAt w 16
  let rb := regAt w 11
  let imm := bitsAt w 0 16
  let op := (bitsAt w 26 6).toNat
  if 1 ≤ op ∧ op ≤ 0x0A ∧ w % 2048 ≠ 0 then none
  else match op with
    | 0x01 => some (.add v rd ra rb)
    | 0x02 => some (.sub v rd ra rb)
    | 0x03 => some (.and v rd ra rb)
    | 0x04 => some (.or v rd ra rb)
    | 0x05 => some (.xor v rd ra rb)
    | 0x06 => some (.shl v rd ra rb)
    | 0x07 => some (.shr v rd ra rb)
    | 0x08 => some (.sra v rd ra rb)
    | 0x09 => some (.mul v rd ra rb)
    | 0x0A => some (.slt v rd ra rb)
    | 0x10 => some (.addi v rd ra imm)
    | 0x11 => some (.shli16 v rd ra imm)
    | 0x12 => some (.andi v rd ra imm)
    | 0x13 => some (.shli v rd ra imm)
    | 0x14 => some (.shri v rd ra imm)
    | 0x20 => some (.rdb v rd)
    | 0x21 => some (.rdl v rd imm)
    | 0x22 => some (.rdid v rd)
    | _ => none

def decodePort (v : Fin 128) (p : Bool) (w : Nat) : Option Instr :=
  let a : PortArgs :=
    { amask := bitsAt w 51 8, reg := regAt w 46, base := regAt w 41, inc := regAt w 36, sel := w.testBit 35,
      count := bitsAt w 31 4, msel := bitsAt w 29 2, vm := regAt w 24, offset := bitsAt w 0 24 }
  match (bitsAt w 59 5).toNat with
  | 0x01 => some (.lda v a p)
  | 0x02 => some (.ldw v a p)
  | 0x03 => some (.ldv v a p)
  | 0x04 => some (.stv v a)
  | 0x05 => some (.lds v a p)
  | 0x06 => some (.sts v a)
  | 0x07 => some (.ldd v a p)
  | 0x08 => some (.ldt v a p)
  | _ => none

def decodeArr (v : Fin 128) (w : Nat) : Option Instr :=
  if w % 512 ≠ 0 then none
  else some (.arrIssue v
    { amask := bitsAt w 24 8, row := bitsAt w 18 6, sel := w.testBit 17, index := bitsAt w 11 6, last := w.testBit 10,
      lx := w.testBit 9 })

def decodeWgt (v : Fin 128) (w : Nat) : Option Instr :=
  let m := bitsAt w 20 8
  match (bitsAt w 28 4).toNat with
  | 0x1 => if w % 2 ^ 20 = 0 then some (.swap v m) else none
  | 0x2 =>
    if w % 16 = 0 then
      some (.cfg v m { wfmt := bitsAt w 14 6, afmt := bitsAt w 8 6, exact := w.testBit 7, quad := w.testBit 6,
                       raw := w.testBit 5, rmode := w.testBit 4 })
    else none
  | 0x3 => if w % 2 ^ 15 = 0 then some (.ceil v m (regAt w 15)) else none
  | 0x4 => some (.ovl v m (bitsAt w 10 10) (bitsAt w 0 10))
  | 0x5 => some (.ovlu v m (bitsAt w 10 10) (bitsAt w 0 10))
  | 0x6 => if w % 2 ^ 20 = 0 then some (.ovlc v m) else none
  | _ => none

def decodeDrn (v : Fin 128) (w : Nat) : Option Instr :=
  let a : DrnArgs :=
    { amask := bitsAt w 20 8, row := bitsAt w 14 6, reg := regAt w 9, raw := w.testBit 8, qsel := w.testBit 7 }
  if w % 128 ≠ 0 then none
  else match (bitsAt w 28 4).toNat with
    | 0x1 => some (.drain v a)
    | 0x2 => some (.preload v a)
    | 0x3 => some (.setrc v a)
    | _ => none

def decodeVec (v : Fin 128) (w : Nat) : Option Instr :=
  let a : VecArgs :=
    { vd := regAt w 53, va := regAt w 48, vb := regAt w 43, vc := regAt w 38, fmt := bitsAt w 32 6, rnd := bitsAt w 30 2,
      gmask := bitsAt w 22 8, sb := w.testBit 21 }
  if w % 2 ^ 21 ≠ 0 then none
  else match (bitsAt w 58 6).toNat with
    | 0x01 => some (.fadd v a)
    | 0x02 => some (.fsub v a)
    | 0x03 => some (.fmul v a)
    | 0x04 => some (.fmax v a)
    | 0x05 => some (.fmin v a)
    | 0x06 => some (.fma v a)
    | 0x07 => some (.fcmplt v a)
    | 0x08 => some (.fcmpeq v a)
    | 0x10 => some (.iadd v a)
    | 0x11 => some (.isub v a)
    | 0x12 => some (.iand v a)
    | 0x13 => some (.ior v a)
    | 0x14 => some (.ixor v a)
    | 0x15 => some (.ishl v a)
    | 0x16 => some (.ishr v a)
    | 0x17 => some (.islt v a)
    | 0x20 => some (.cvtf v a)
    | 0x21 => some (.cvti v a)
    | 0x22 => some (.mxq v a)
    | 0x30 => some (.exp2 v a)
    | 0x31 => some (.rcp v a)
    | 0x32 => some (.log v a)
    | 0x33 => some (.rsqrt v a)
    | 0x38 => some (.xadd v a)
    | 0x39 => some (.xcvt v a)
    | 0x3A => some (.rmax v a)
    | 0x3B => some (.rsum v a)
    | _ => none

def decodeXch (v : Fin 128) (p : Bool) (w : Nat) : Option Instr :=
  let a : XchArgs :=
    { ra := regAt w 54, rb := regAt w 49, rf := regAt w 44, fbit := bitsAt w 39 5, flag := w.testBit 38,
      atbeat := w.testBit 37, rt := regAt w 32, lines := bitsAt w 21 11 }
  if w % 2 ^ 21 ≠ 0 then none
  else match (bitsAt w 59 5).toNat with
    | 0x01 => some (.sld v a)
    | 0x02 => some (.sst v a p)
    | 0x03 => some (.put v a p)
    | 0x04 => some (.send v a p)
    | 0x05 => some (.nbj v a)
    | _ => none

/-- Slot `k`'s word as an operation; `p` says that a scratchpad read of the bundle meets a parity mismatch. -/
def decodeSlot (v : Fin 128) (p : Bool) (k w : Nat) : Option Instr :=
  match k with
  | 0 => decodeCtl v p w
  | 1 => decodeScl v w
  | 2 => decodePort v p w
  | 3 => decodeArr v w
  | 4 => decodeWgt v w
  | 5 => decodeDrn v w
  | 6 => decodeVec v w
  | _ => decodeXch v p w

/-- The slots of a bundle in ascending order, each with its operation where its word is one (R221). -/
def decodeSlots (v : Fin 128) (p : Bool) (head : Word) : List Nat → List Byte → List (Nat × Option Instr)
  | [], _ => []
  | k :: ks, bs =>
    if head.getLsbD (24 + k) then
      (k, decodeSlot v p k (natOfBytes (bs.take (slotBytes k)))) :: decodeSlots v p head ks (bs.drop (slotBytes k))
    else decodeSlots v p head ks bs

/-! ### Whole-bundle checks (R223, R246) -/

/-- The cause with which one slot traps at decode, if any. -/
def State.slotCheck (s : State) (v : Nat) (x0 : Vat) (seq : Nat) (c : Instr) : Option TrapCause :=
  match c with
  | .jmp _ t => s.checkTarget v t
  | .brz _ _ t => s.checkTarget v t
  | .brnz _ _ t => s.checkTarget v t
  | .brlt _ _ _ t => s.checkTarget v t
  | .loop _ _ t => checkLoop x0 seq t
  | .waitf _ ra _ _ _ _ => checkWaitf x0 ra
  | .trap _ _ => some .software
  | .lda _ a _ => checkPort x0 a false false
  | .ldw _ a _ => (checkPort x0 a false true).or (checkLdw x0 a)
  | .ldv _ a _ => (checkPair a true).or (checkPort x0 a false false)
  | .stv _ a => (checkPair a false).or (checkPort x0 a false false)
  | .lds _ a _ => checkPort x0 a true false
  | .sts _ a => checkPort x0 a true false
  | .ldd _ a _ => checkPort x0 a false false
  | .ldt _ a _ => checkPort x0 a false false
  | .arrIssue _ a => checkArr x0 a
  | .cfg _ _ k => checkCfg k
  | .ovl _ _ b n => checkOvl b n
  | .ovlu _ _ b n => checkOvl b n
  | .drain _ a => checkDrn x0 a true
  | .preload _ a => checkDrn x0 a false
  | .fadd _ a => checkVec a
  | .fsub _ a => checkVec a
  | .fmul _ a => checkVec a
  | .fmax _ a => checkVec a
  | .fmin _ a => checkVec a
  | .fma _ a => checkVec a
  | .fcmplt _ a => checkVec a
  | .fcmpeq _ a => checkVec a
  | .iadd _ a => checkVec a
  | .isub _ a => checkVec a
  | .iand _ a => checkVec a
  | .ior _ a => checkVec a
  | .ixor _ a => checkVec a
  | .ishl _ a => checkVec a
  | .ishr _ a => checkVec a
  | .islt _ a => checkVec a
  | .cvtf _ a => checkFmt a false
  | .cvti _ a => checkFmt a false
  | .mxq _ a => checkFmt a true
  | .exp2 _ a => checkVec a
  | .rcp _ a => checkVec a
  | .log _ a => checkVec a
  | .rsqrt _ a => checkVec a
  | .xadd _ a => checkVec a
  | .xcvt _ a => checkSb a
  | .rmax _ a => checkVec a
  | .rsum _ a => checkSb a
  | c => s.checkXch v x0 c

/-- Scalar registers that a slot writes; s0 is none (R223, R224). -/
def scalarWrites (x0 : Vat) (c : Instr) : List Nat :=
  let inc (a : PortArgs) : List Nat := if portIncrements x0 a then [a.base.val] else []
  (match c with
  | .add _ rd _ _ => [rd.val]
  | .sub _ rd _ _ => [rd.val]
  | .and _ rd _ _ => [rd.val]
  | .or _ rd _ _ => [rd.val]
  | .xor _ rd _ _ => [rd.val]
  | .shl _ rd _ _ => [rd.val]
  | .shr _ rd _ _ => [rd.val]
  | .sra _ rd _ _ => [rd.val]
  | .mul _ rd _ _ => [rd.val]
  | .slt _ rd _ _ => [rd.val]
  | .addi _ rd _ _ => [rd.val]
  | .shli16 _ rd _ _ => [rd.val]
  | .andi _ rd _ _ => [rd.val]
  | .shli _ rd _ _ => [rd.val]
  | .shri _ rd _ _ => [rd.val]
  | .rdb _ rd => [rd.val]
  | .rdl _ rd _ => [rd.val]
  | .rdid _ rd => [rd.val]
  | .lda _ a _ => inc a
  | .ldw _ a _ => inc a
  | .ldv _ a _ => inc a
  | .stv _ a => inc a
  | .lds _ a _ => a.reg.val :: inc a
  | .sts _ a => inc a
  | .ldd _ a _ => inc a
  | .ldt _ a _ => inc a
  | _ => []).filter fun r => r != 0

/-- Vector registers that a slot writes. -/
def vectorWrites (c : Instr) : List Nat :=
  match c with
  | .ldv _ a _ => [a.reg.val, a.reg.val + 1]
  | .drain _ a => [a.reg.val]
  | .mxq _ a => [a.vd.val, a.vc.val]
  | .fadd _ a => [a.vd.val]
  | .fsub _ a => [a.vd.val]
  | .fmul _ a => [a.vd.val]
  | .fmax _ a => [a.vd.val]
  | .fmin _ a => [a.vd.val]
  | .fma _ a => [a.vd.val]
  | .fcmplt _ a => [a.vd.val]
  | .fcmpeq _ a => [a.vd.val]
  | .iadd _ a => [a.vd.val]
  | .isub _ a => [a.vd.val]
  | .iand _ a => [a.vd.val]
  | .ior _ a => [a.vd.val]
  | .ixor _ a => [a.vd.val]
  | .ishl _ a => [a.vd.val]
  | .ishr _ a => [a.vd.val]
  | .islt _ a => [a.vd.val]
  | .cvtf _ a => [a.vd.val]
  | .cvti _ a => [a.vd.val]
  | .exp2 _ a => [a.vd.val]
  | .rcp _ a => [a.vd.val]
  | .log _ a => [a.vd.val]
  | .rsqrt _ a => [a.vd.val]
  | .xadd _ a => [a.vd.val]
  | .xcvt _ a => [a.vd.val]
  | .rmax _ a => [a.vd.val]
  | .rsum _ a => [a.vd.val]
  | _ => []

/-- Two slots of a bundle write one register (R223.2). -/
def clash (f : Instr → List Nat) : List Instr → Bool
  | [] => false
  | c :: cs => (f c).any (fun r => cs.any fun d => (f d).contains r) || clash f cs

/-- A PRELOAD and an ARR slot name the same row of the same array (R223.5). -/
def preloadClash (x0 : Vat) (cs : List Instr) : Bool :=
  cs.any fun c => match c with
    | .preload _ a => cs.any fun d => (match d with
        | .arrIssue _ b => a.amask &&& b.amask != 0 && decide (arrRow x0 b = a.row.toNat)
        | _ => false)
    | _ => false

/-- The first failing check: a malformed bundle first, then the slots in ascending number (log 21). -/
def State.bundleCheck (s : State) (v : Nat) (x0 : Vat) (head : Word) (slots : List (Nat × Option Instr)) :
    Option (TrapCause × Option Nat × Word) :=
  let pc := x0.pc.toNat
  let ops := slots.filterMap (·.2)
  let seq := seqAddr pc head
  let bad := slots.filter (·.2.isNone)
  let found := slots.filterMap fun (k, c) => match c with
    | none => none
    | some c => (s.slotCheck v x0 seq c).map fun t => (t, some k, match c with | .trap _ imm => imm | _ => 0)
  if field head 0 23 ≠ 0 ∨ 256 < pc % 256 + bundleSize head then some (.bundleFormat, none, 0)
  else if bad.length ≠ 0 then some (.bundleFormat, bad.head?.map (·.1), 0)
  else if clash (scalarWrites x0) ops || clash vectorWrites ops || preloadClash x0 ops then some (.bundleFormat, none, 0)
  else (found.find? fun (t, _) => t == .bundleFormat).or found.head?

/-- A unit cannot accept its slot yet: eight transfers outstanding, or a shadow set that is not full (R222). -/
def bundleWaits (x0 : Vat) (cs : List Instr) : Bool :=
  cs.any fun c => match c with
    | .sld _ _ => x0.freeSlot.isNone
    | .sst _ _ _ => x0.freeSlot.isNone
    | .put _ _ _ => x0.freeSlot.isNone
    | .send _ _ _ => x0.freeSlot.isNone
    | .nbj _ _ => x0.freeSlot.isNone
    | .swap _ m => (bitsSet m).any fun k => !(x0.array k).shadowFull
    | _ => false

/-! ### Issue (R223) -/

/-- Index of a vat within its partition (R234). -/
def State.vatIndex (s : State) (v : Nat) : Nat :=
  ((List.range v).filter fun k => (s.part (s.vatPart v)).islands.getLsbD (k / 2)).length

/-- What a slot other than PORT, XCH and CTL makes of its vat. -/
def slotVat (draw beat index : Nat) (x0 : Vat) (c : Instr) (x : Vat) : Vat :=
  match c with
  | .add _ rd ra rb => x.setSreg rd (sclAdd x0 ra rb)
  | .sub _ rd ra rb => x.setSreg rd (sclSub x0 ra rb)
  | .and _ rd ra rb => x.setSreg rd (sclAnd x0 ra rb)
  | .or _ rd ra rb => x.setSreg rd (sclOr x0 ra rb)
  | .xor _ rd ra rb => x.setSreg rd (sclXor x0 ra rb)
  | .shl _ rd ra rb => x.setSreg rd (sclShl x0 ra rb)
  | .shr _ rd ra rb => x.setSreg rd (sclShr x0 ra rb)
  | .sra _ rd ra rb => x.setSreg rd (sclSra x0 ra rb)
  | .mul _ rd ra rb => x.setSreg rd (sclMul x0 ra rb)
  | .slt _ rd ra rb => x.setSreg rd (sclSlt x0 ra rb)
  | .addi _ rd ra imm => x.setSreg rd (sclAddi x0 ra imm)
  | .shli16 _ rd ra imm => x.setSreg rd (sclShli16 x0 ra imm)
  | .andi _ rd ra imm => x.setSreg rd (sclAndi x0 ra imm)
  | .shli _ rd ra imm => x.setSreg rd (sclShli x0 ra imm)
  | .shri _ rd ra imm => x.setSreg rd (sclShri x0 ra imm)
  | .rdb _ rd => x.setSreg rd (BitVec.ofNat 64 beat)
  | .rdl _ rd imm => x.setSreg rd (sclRdl x0 imm)
  | .rdid v rd => x.setSreg rd (sclRdid v index)
  | .arrIssue _ a => arrIssue draw a x0 x
  | .swap _ m => wgtSwap m x
  | .cfg _ m k => wgtCfg m k x
  | .ceil _ m r => wgtCeil m r x0 x
  | .ovl _ m b n => wgtOvl m b n x
  | .ovlu _ m b n => wgtOvlu m b n x
  | .ovlc _ m => wgtOvlc m x
  | .drain _ a => drnDrain draw a x
  | .preload _ a => drnPreload draw a x0 x
  | .setrc _ a => drnSetrc a x0 x
  | .fadd _ a => vecFadd a x0 x
  | .fsub _ a => vecFsub a x0 x
  | .fmul _ a => vecFmul a x0 x
  | .fmax _ a => vecFmax a x0 x
  | .fmin _ a => vecFmin a x0 x
  | .fma _ a => vecFma a x0 x
  | .fcmplt _ a => vecFcmplt a x0 x
  | .fcmpeq _ a => vecFcmpeq a x0 x
  | .iadd _ a => vecIadd a x0 x
  | .isub _ a => vecIsub a x0 x
  | .iand _ a => vecIand a x0 x
  | .ior _ a => vecIor a x0 x
  | .ixor _ a => vecIxor a x0 x
  | .ishl _ a => vecIshl draw a x0 x
  | .ishr _ a => vecIshr draw a x0 x
  | .islt _ a => vecIslt a x0 x
  | .cvtf _ a => vecCvtf a x0 x
  | .cvti _ a => vecCvti draw a x0 x
  | .mxq _ a => vecMxq a x0 x
  | .exp2 _ a => vecExp2 a x0 x
  | .rcp _ a => vecRcp a x0 x
  | .log _ a => vecLog a x0 x
  | .rsqrt _ a => vecRsqrt a x0 x
  | .xadd _ a => vecXadd draw a x0 x
  | .xcvt _ a => vecXcvt draw a x0 x
  | .rmax _ a => vecRmax a x0 x
  | .rsum _ a => vecRsum draw a x0 x
  | _ => x

/-- What a PORT slot makes of its vat. -/
def slotPort (x0 : Vat) (c : Instr) (x : Vat) : PortOut :=
  match c with
  | .lda _ a _ => portLda a x0 x
  | .ldw _ a _ => portLdw a x0 x
  | .ldv _ a _ => portLdv a x0 x
  | .stv _ a => portStv a x0 x
  | .lds _ a _ => portLds a x0 x
  | .sts _ a => portSts a x0 x
  | .ldd _ a _ => portLdd a x0 x
  | .ldt _ a _ => portLdt a x0 x
  | _ => { vat := x }

/-- A PORT read of the bundle meets a parity mismatch (R202). -/
def portParity (c : Instr) : Bool :=
  match c with
  | .lda _ _ p => p
  | .ldw _ _ p => p
  | .ldv _ _ p => p
  | .lds _ _ p => p
  | .ldd _ _ p => p
  | .ldt _ _ p => p
  | _ => false

/-- What an expander found ends the step: a missing table traps, the rest is CURD (R178, R237, R246). -/
def State.portFault (s : State) (v : Nat) (f : Option CurdFault) : State :=
  match f with
  | none => s
  | some .table => s.vatTrap v .tableMissing (some 2) 0
  | some k => s.faultVat v { code := 0x0303, severity := 1, part := 0, path := 6, unit := v, detail0 := k.detail }

/-- The operation in slot `k`. -/
def slotOp (slots : List (Nat × Option Instr)) (k : Nat) : Option Instr := (slots.find? fun x => x.1 == k).bind (·.2)

/-- Issue the slots: array issue, drain, weights, port and vector, then XCH, scalar and CTL, all from the registers,
ceilings included, as they were before the bundle (R223, R224; log 12). A fault ends the issue. -/
def State.issue (s : State) (v : Nat) (x0 : Vat) (head : Word) (slots : List (Nat × Option Instr)) : State :=
  let draw := s.freshCount
  let run (k : Nat) (x : Vat) : Vat :=
    match slotOp slots k with
    | some c => slotVat draw (s.jobBeat v) (s.vatIndex v) x0 c x
    | none => x
  let port := (slotOp slots 2).getD (.endJob 0)
  if portParity port then s.spdParity v 2 0
  else
    let out := slotPort x0 port (run 4 (run 5 (run 3 x0)))
    let s1 := s.drew.modVat v fun _ => run 1 (run 6 out.vat)
    if out.fault.isSome then s1.portFault v out.fault
    else
      let s2 := match slotOp slots 7, x0.freeSlot with
        | some c, some slot => s1.xch v slot c x0
        | _, _ => s1
      if (s2.vat v).run = .running then
        s2.ctl v ((slotOp slots 0).getD (.rdb 0 0)) x0 x0.pc.toNat (seqAddr x0.pc.toNat head)
      else s2

/-- A cached line becomes the most recently used of its set (R208). -/
def Vat.touch (x : Vat) (a : Nat) : Vat :=
  match x.cached a with
  | none => x
  | some l =>
    let k := a / 256 % 64
    { x with icache := tabPut k ((a / 2 ^ 14, l) :: (tabGet [] x.icache k).filter fun (t, _) => t != a / 2 ^ 14) x.icache }

/-- The cache drops the line of an address, which is fetched again (R209). -/
def Vat.uncache (x : Vat) (a : Nat) : Vat :=
  let k := a / 256 % 64
  { x with icache := tabPut k ((tabGet [] x.icache k).filter fun (t, _) => t != a / 2 ^ 14) x.icache }

/-- The sequencer of a vat issues its next bundle, if its line is in the cache without a parity mismatch and every unit
accepts it (R209, R221, R222). -/
def State.bundle (s : State) (v : Fin 128) (parity cacheParity : Bool) : State :=
  let pc := (s.vat v).pc.toNat
  let x0 := (s.vat v).touch pc
  if x0.run ≠ .running then s
  else if pc % 4 ≠ 0 ∨ s.codeSize v ≤ pc then s.vatTrap v .codeRange none 0
  else match x0.cached pc with
    | none => s
    | some line =>
      if cacheParity then s.modVat v fun x => x.uncache pc else
      let bs := line.drop (pc % 256)
      let head : Word := BitVec.ofNat 32 (natOfBytes (bs.take 4))
      let slots := decodeSlots v parity head (List.range 8) (bs.drop 4)
      match s.bundleCheck v x0 head slots with
      | some (c, k, imm) => s.vatTrap v c k imm
      | none => if bundleWaits x0 (slots.filterMap (·.2)) then s else s.issue v x0 head slots

end Sys2Proof.Machine
end

