-- ==== Sys2Proof/Machine/VatEvents.lean ====
section
/-! DEFINITION. Events of vats and jobs: departures, inbound lines, cache fills, barriers, saves and restores, clears
and starts (R203 to R217, R230, R245, R425, R461, R464). -/

namespace Sys2Proof.Machine

/-! ### Head cells (R415, R423, R433) -/

/-- A head cell from fields given as (byte offset, value). -/
def headCell (fs : List (Nat × Nat)) : Bits512 := BitVec.ofNat 512 (fs.foldl (fun a (k, v) => a + v * 2 ^ (8 * k)) 0)
/-- A field of a head cell. -/
def headField (h : Bits512) (off bit width : Nat) : Nat := (h.toNat >>> (8 * off + bit)) % 2 ^ width

/-- ROUTE for a transfer that leaves by an entry (R415, R423). -/
def routeField (e : BitVec 128) : Nat := (routeHops e - 1) + (routePorts e).toNat * 16

/-- Beats of serialization of `lines` lines (R433). -/
def serBeats (lines : Nat) : Nat := ((1 + 32 * lines + 8) / 9 * 2656250 + 3999999) / 4000000

/-- DUE of a beat-locked SEND (R433). -/
def dueBeat (depart lines : Nat) (e : BitVec 128) : Nat := depart + 45 * routeHops e + serBeats lines + routeSlack e

/-- The cells of lines (R415). -/
def lineCells (ls : List Line) : List Bits512 := ls.flatMap fun l => (List.range 32).map fun k => field l (512 * k) 512

/-- The head cell of a SEND (R415, R423, R426). -/
def State.sendHead (s : State) (v slot : Nat) (t : Xfer) (depart : Nat) : Bits512 :=
  let e := s.route (t.route / 4096) (t.route % 4096)
  let start := match s.jobOf v with | some j => j.askedBeat % 2 ^ 32 | none => 0
  let (fa, fb) := match t.flag with | some (_, a, b) => (a, b) | none => (0, 0)
  headCell [(0x00, routeField e), (0x08, routeDest e), (0x0A, s.gen.fabPos.toNat),
    (0x0C, (s.part (s.vatPart v)).swarm.toNat),
    (0x0D, (if t.flag.isSome then 1 else 0) + (if t.beat.isSome then 2 else 0)), (0x0E, t.data.length - 1),
    (0x10, t.addr + t.dest * 2 ^ 24), (0x14, fa + fb * 2 ^ 24),
    (0x18, if t.beat.isSome then dueBeat depart t.data.length e % 2 ^ 64 else 0), (0x20, routeRet e),
    (0x22, v * 8 + slot), (0x24, start)]

/-- The acknowledgment of a transfer, along RET (R425, R426); none where the way back is not usable. -/
def State.sendAck (s : State) (h : Bits512) : State :=
  let port := headField h 0x20 12 4
  let e := s.route port (headField h 0x20 0 12)
  if routeOk e ∧ (s.port port).state = .up then
    s.sendCells port
      { head := headCell [(0x00, routeField e), (0x08, headField h 0x0A 0 10), (0x0A, s.gen.fabPos.toNat),
          (0x0C, headField h 0x0C 0 4), (0x0D, 4), (0x22, headField h 0x22 0 16), (0x24, headField h 0x24 0 32)],
        cells := [] }
  else s

/-! ### Transfers -/

/-- A transfer of a vat is complete: its slot is free, and an END that waited for it may go on (R222, R233). -/
def State.xferDone (s : State) (v slot : Nat) : State :=
  (s.modVat v fun x => { x with xfers := tabErase slot x.xfers }).finishEnd v

/-- Set a completion flag and wake a WAITF that watches the word (R231, R244). -/
def State.setFlagAt (s : State) (f : Option (Nat × Nat × Nat)) : State :=
  match f with
  | none => s
  | some (v, a, bit) => (s.modVat v fun x => x.setFlag a bit).waitfTest v

/-- An earlier SEND of the vat to the same destination vat has not left by the same route, or is not acknowledged on
another one (R316, R419). -/
def Vat.sendBlocked (x : Vat) (s : State) (t : Xfer) : Bool :=
  let dest (u : Xfer) : Nat := routeDest (s.route (u.route / 4096) (u.route % 4096))
  x.xfers.any fun (_, u) =>
    u.kind == .send && decide (u.stamp < t.stamp) && u.dest == t.dest && dest u == dest t &&
      (u.route != t.route || u.departed.isNone)

/-- A SEND's data leaves at a beat boundary (R245, R419, R438). -/
def State.depart (s : State) (v slot : Nat) : State :=
  let x := s.vat v
  match tabFind x.xfers slot with
  | none => s
  | some t =>
    let lc := s.vatLc v
    let sw := (s.part (s.vatPart v)).swarm.toNat
    let port := t.route / 4096
    if t.kind ≠ .send ∨ t.departed.isSome ∨ x.sendBlocked s t ∨ (s.inHold sw ∧ (t.beat.isSome ∨ !lc)) ∨
        (s.port port).state ≠ .up then s
    else
      let d := max 1 (s.slot sw).divisor
      let now := s.jobBeat v
      let (late, s1) := match t.beat, s.jobOf v with
        | some b, some j => if now ≤ b then (0, s.advance ((b - now) * d - j.beatSub)) else
            let s1 := s.advance (d - j.beatSub)
            (s1.jobBeat v - b, s1)
        | _, _ => (0, s.advance 1)
      let s2 := s1.modVat v fun x => { x with xfers := tabPut slot { t with departed := some s1.tmb.beat, clock := tabGet 0 s1.tmb.clocks sw } x.xfers }
      let s3 := s2.sendCells port { head := s2.sendHead v slot t (s1.jobBeat v), cells := lineCells t.data }
      if late = 0 then s3 else s3.overrun v late

/-- Two window ranges share a 32-byte granule. -/
def granulesMeet (a n b m : Nat) : Bool := decide (a / 32 * 32 < alignUp (b + m) 32) && decide (b / 32 * 32 < alignUp (a + n) 32)

/-- An SLD's line waits for an earlier SST of the vat to one of its granules (R316). -/
def State.loadBlocked (s : State) (v : Nat) (l : Inbound) : Bool := match l.read, l.src with
  | some (_, w), .vat sv slot => (match tabFind (s.vat sv).xfers slot with
    | some t => (s.vat v).xfers.any fun (_, u) =>
        u.kind == .sst && decide (u.stamp < t.stamp) && granulesMeet u.addr (2048 * u.data.length) w 2048
    | none => false)
  | _, _ => false

/-- The data of an inbound line: an SLD's line is read now, and a read that fails faults the step (R314, R511). -/
def State.inboundData (s : State) (v : Nat) (l : Inbound) : Option Line × State := match l.read with
  | none => (some l.data, s)
  | some (n, w) =>
    let (x, s1) := s.winRead n w 2048
    match x.fail with
    | some f => (none, s1.faultVat v (readInfo n 3 v w f 0 ringNone 1))
    | none => (some (lineOf x.bytes), s1)

/-- The oldest inbound line is performed in its port slot (R203, R244, R316). -/
def State.inboundWrite (s : State) (v : Nat) : State :=
  let x := s.vat v
  match x.inbound with
  | [] => s
  | l :: rest =>
    if x.run = .clearing ∨ s.loadBlocked v l then s
    else match s.inboundData v l with
      | (none, s0) => s0
      | (some d, s0) =>
        let s1 := (s0.modVat v fun x => { (x.putBytes l.addr l.lo l.hi d) with inbound := rest }).waitfTest v
        let s2 := s1.setFlagAt l.flag
        if !l.last then s2
        else match l.src with
          | .vat sv slot => s2.xferDone sv slot
          | .fabric head => s2.sendAck head
          | .nbe _ => s2

/-- What keeps an SST from being performed: an earlier SST of the vat that meets one of its stacks is not yet visible
(R325), or an earlier SLD has still to read one of its granules (R316). -/
def State.sstBlocked (s : State) (v : Nat) (t : Xfer) : Bool :=
  let of (u : Xfer) : List Nat := ((s.part (s.vatPart v)).segs u.addr (2048 * u.data.length)).map fun (a, _) => stackOf a
  let x := s.vat v
  (x.xfers.any fun (_, u) => u.kind == .sst && decide (u.stamp < t.stamp) && (of u).any (of t).contains) ||
  x.inbound.any fun l => match l.read, l.src with
    | some (_, w), .vat _ slot => (match tabFind x.xfers slot with
      | some u => decide (u.stamp < t.stamp) && granulesMeet t.addr (2048 * t.data.length) w 2048
      | none => false)
    | _, _ => false

/-- An SST's writes become visible and its flag is set (R244, R325). They replace whole check words, so no condition of
an old word matters (R262, R263). -/
def State.sstComplete (s : State) (v slot : Nat) : State :=
  match tabFind (s.vat v).xfers slot with
  | none => s
  | some t =>
    if t.kind ≠ .sst ∨ s.sstBlocked v t then s
    else ((s.sstWrite v t).setFlagAt t.flag).xferDone v slot

/-! ### Instruction cache (R208, R209) -/

/-- Put a line into its set of four, the least recently used one leaving. -/
def Vat.cacheLine (x : Vat) (a : Nat) (bs : List Byte) : Vat :=
  let k := a / 256 % 64
  { x with icache := tabPut k (((a / 2 ^ 14, bs) :: tabGet [] x.icache k).take 4) x.icache }

/-- A fill completes: the line of the next bundle, or where that is present the line after it. -/
def State.icacheFill (s : State) (v : Nat) : State :=
  let x := s.vat v
  let here := x.pc.toNat / 256 * 256
  let a := if (x.cached here).isNone then here else here + 256
  if (s.jobOf v).isNone ∨ s.codeSize v ≤ a ∨ (x.cached a).isSome then s
  else
    let (r, s1) := s.winRead (s.vatPart v) (s.bundleOffset v a) 256
    match r.fail with
    | none => s1.modVat v fun x => x.cacheLine a r.bytes
    | some _ =>
      if a ≠ here then s1
      else s1.faultVat v { code := 0x0301, severity := 1, part := 0, path := 1, unit := v, addrKind := 1,
                           addr := s.bundleOffset v a, detail0 := trapDetail .fetchUncorrectable none 0 }

/-! ### Beats and barriers -/

/-- The boundary that a BSYNC waits for begins (R230, R438). -/
def State.bsyncRelease (s : State) (v : Nat) : State :=
  match (s.vat v).run, s.jobOf v with
  | .bsync t, some j =>
    let sw := (s.part j.part).swarm.toNat
    let d := max 1 (s.slot sw).divisor
    if s.inHold sw then s
    else
      let k := if j.lc then (t - j.beat) * d - j.beatSub else 1
      (s.advance k).modVat v fun x => { x with run := .running }
  | _, _ => s

/-- A vat has reached a yield point, with every transfer and every NBE job complete (R212, R319). -/
def State.atBarrier (s : State) (v : Nat) : Bool := (s.vat v).xfers.isEmpty && !s.nbeBusy v && match (s.vat v).run with
  | .yield _ => true
  | _ => false

def Vat.yieldStep (x : Vat) : Nat := match x.run with
  | .yield k => k
  | _ => 0

/-- The yield barrier completes (R212, R215 step 3). -/
def State.yieldBarrier (s : State) (id : Nat) : State :=
  match tabFind s.jobs id with
  | none => s
  | some j =>
    let vs := j.vatList.filter fun v => !j.ended.contains v
    if vs.isEmpty ∨ !(vs.all s.atBarrier) then s
    else if j.state = .preempting then
      (s.modJob id fun j => { j with state := .saving, yieldStep := (s.vat (vs.headD 0)).yieldStep }).modJobVats j
        fun x => { x with run := .saving }
    else forAll vs (fun v s => s.modVat v fun x => { x with run := .running }) s

/-! ### Save areas (R213, R214, R226) -/

/-- The STATE part of a save area. -/
def saveState (x : Vat) (beat : Nat) : List Byte :=
  ((List.range 32).flatMap fun r => bytesOfNat 8 (x.sreg (Fin.ofNat 32 r)).toNat) ++
  ((List.range 4).flatMap fun k =>
    let l := tabGet {} x.loops k
    bytesOfNat 4 l.lc.toNat ++ bytesOfNat 4 l.li.toNat ++ bytesOfNat 4 l.ls.toNat ++ bytesOfNat 4 l.le.toNat) ++
  bytesOfNat 4 x.depth ++ bytesOfNat 4 x.pc.toNat ++ bytesOfNat 8 beat ++ List.replicate 3760 0

/-- A whole save area. -/
def saveArea (x : Vat) (v step program now beat : Nat) (lines : List Nat) : List Byte :=
  bytesOfNat 4 0x45564153 ++ bytesOfNat 2 v ++ bytesOfNat 2 lines.length ++ bytesOfNat 4 step ++ bytesOfNat 4 0 ++
  bytesOfNat 8 program ++ bytesOfNat 8 now ++ List.replicate 32 0 ++ saveState x beat ++
  (lines.flatMap (bytesOfNat 2)) ++ List.replicate (alignUp (2 * lines.length) 64 - 2 * lines.length) 0 ++
  lines.flatMap fun k => bytesOf (x.line k) 2048

/-- Where a vat's save area begins (R214, R590). -/
def State.saveOffset (s : State) (n v : Nat) : Nat :=
  (s.part n).saveBase.toNat * 4096 + s.vatIndex v * ((s.part n).saveStride.toNat * 4096)

/-- The lines of a vat's live set at a yield point: 0 to 2,047, ascending (R213). -/
def liveLines (h : ProgHeader) (step v : Nat) : List Nat :=
  match h.yields.find? fun (k, _) => k == step with
  | some (_, vs) => (match vs.find? fun (k, _) => k == v with | some (_, ls) => (List.range 2048).filter ls.contains | none => [])
  | none => []

/-- A save or restore fails: the job cannot go on (R217). -/
def State.saveFails (s : State) (j : Job) (code v : Nat) : State :=
  s.faultJob j.id { code := code, severity := 1, part := j.part, path := 7, unit := v, addrKind := 1,
                    addr := s.saveOffset j.part v }

/-- Lines that wait for a vat's port are performed, oldest first. -/
def drainInbound (v : Nat) : Nat → State → State
  | 0, s => s
  | n + 1, s => drainInbound v n (s.inboundWrite v)

/-- The save engine drains a vat's inbound buffer and writes its save area (R213, R214, R215 step 4). -/
def State.saveVat (s : State) (j : Job) (v : Nat) : State :=
  let s1 := drainInbound v (s.vat v).inbound.length s
  (s1.winWrite j.part (s1.saveOffset j.part v)
    (saveArea (s1.vat v) v j.yieldStep (j.hdr.fingerprint.toNat % 2 ^ 64) s1.tmb.beat j.beat
      (liveLines j.hdr j.yieldStep v))).1

/-- Every vat has saved: the job is preempted and its vats are free (R215 steps 4 and 5). -/
def State.saveComplete (s : State) (id : Nat) (failed : Option (Fin 128)) : State :=
  match tabFind s.jobs id with
  | none => s
  | some j =>
    if j.state ≠ .saving then s
    else match failed with
      | some v => s.saveFails j 0x0304 v
      | none =>
        let s1 := forAll j.vatList (fun v s => s.saveVat j v) s
        let s2 := s1.stamped
        let s3 := (s2.modJob id fun j => { j with state := .preempted, preemptStamp := s2.stamp }).modJobVats j
          fun x => { x with job := none, run := .idle, preempt := false }
        s3.settleJobs j.part

/-- A vat from its save area: what R226 and the list hold; everything else is unspecified (R215, R232). -/
def loadSave (x : Vat) (draw : Nat) (bs : List Byte) : Vat :=
  let num (off len : Nat) : Nat := natOfBytes ((bs.drop off).take len)
  let count := num 6 2
  let st := 0x40
  let list := (List.range count).map fun i => num (0x1040 + 2 * i) 2
  let data := 0x1040 + alignUp (2 * count) 64
  { x with
    sregs := ((List.range 32).filter fun r => r != 0).foldl (fun t r => tabSet 0 t r (BitVec.ofNat 64 (num (st + 8 * r) 8))) [],
    loops := (List.range 4).map fun k =>
      let w (i : Nat) : Word := BitVec.ofNat 32 (num (st + 0x100 + 16 * k + 4 * i) 4)
      (k, { lc := w 0, li := w 1, ls := w 2, le := w 3 }),
    depth := min 4 (num (st + 0x140) 4), pc := BitVec.ofNat 32 (num (st + 0x144) 4),
    spd := (List.range count).foldl (fun t i => tabPut (list.getD i 0 % 2048)
      (lineOf ((bs.drop (data + 2048 * i)).take 2048)) t) [],
    vregs := [], arrays := (List.range 8).map fun k => (k, arrayStale draw k), stale := some draw, icache := [] }

/-- Bytes of a save area with this many lines. -/
def saveSize (lines : Nat) : Nat := 0x1040 + alignUp (2 * lines) 64 + 2048 * lines

/-- The save engine reads every save area of a job back (R215 step 6, R217). -/
def restoreVats (j : Job) : List Nat → State → Option Nat × State
  | [], s => (none, s)
  | v :: vs, s =>
    let (r, s1) := s.winRead j.part (s.saveOffset j.part v) (saveSize (liveLines j.hdr j.yieldStep v).length)
    if r.fail.isSome then (some v, s1)
    else restoreVats j vs (s1.modVat v fun x => loadSave x s.freshCount r.bytes)

def State.restoreJob (s : State) (id : Nat) : State :=
  match tabFind s.jobs id with
  | none => s
  | some j =>
    if j.state ≠ .restoring then s
    else match restoreVats j j.vatList s with
      | (some v, s1) => s1.saveFails j 0x0305 v
      | (none, s1) => s1.modJob id fun j => { j with state := .restored }

/-- The last restore completes: the job goes on at the first multiple of 64 after it; one whose save areas were not read
back does not (R215 step 6). -/
def State.restoreComplete (s : State) (id : Nat) (failed : Option (Fin 128)) : State :=
  match tabFind s.jobs id with
  | none => s
  | some j =>
    if j.state ≠ .restoring ∧ j.state ≠ .restored then s
    else match failed with
      | some v => s.saveFails j 0x0305 v
      | none =>
        if j.state = .restoring then s else
        let s1 := s.advanceTo (quantumAt (s.tmb.beat + 1))
        forAll j.vatList (fun v s => s.modVat v fun x =>
          { x with run := if j.ended.contains v then .ended else .running, preempt := false })
          (s1.modJob id fun j => { j with state := .running })

/-! ### Clears and starts -/

/-- A vat's clear ends (R206): everything is zero and the cache is empty; what arrived meanwhile still waits, and a job
that has taken the vat keeps it. -/
def State.vatCleared (s : State) (v : Nat) : State :=
  if (s.vat v).run = .clearing then s.modVat v fun x => { inbound := x.inbound, job := x.job } else s

/-- A job starts at its start beat, once its islands' voltage has risen and no hold is in progress (R88, R438, R485).
Every vat begins with an empty cache at bundle address 0 (R220; log 26). A job over several devices does not start
without LOCK and ends with FAULT (R432). -/
def State.startJob (s : State) (id : Nat) : State :=
  match tabFind s.jobs id with
  | none => s
  | some j =>
    let sw := (s.part j.part).swarm.toNat
    if j.state = .starting ∧ 1 < j.hdr.devices ∧ s.tmb.lock ≠ .locked then
      s.endJob id .idle { status := statusFault }
    else if j.state ≠ .starting ∨ s.inHold sw ∨ (j.islands.any fun i => (s.vpoint i).rising.isSome) ∨
        (j.vatList.any fun v => (s.vat v).run == .clearing) then s
    else
      let b := if s.tmb.beat ≤ j.startBeat then j.startBeat else quantumAt s.tmb.beat
      let s1 := s.advanceTo b
      ((s1.modJob id fun j => { j with state := .running, startBeat := b, beat := 0, beatSub := 0, ended := [] }).modJobVats j
        fun x => { x with pc := 0, run := .running, icache := [], preempt := false }).settleDiv

/-- START_BEAT passes while the footprint of a latency-critical job is not free (R88, R464). -/
def State.lateStart (s : State) (id : Nat) : State :=
  match tabFind s.jobs id with
  | none => s
  | some j =>
    if j.isWaiting ∧ j.lc ∧ j.askedBeat ≠ 0 then
      (s.advanceTo (j.askedBeat + 1)).endJob id .idle { status := statusLateStart }
    else s

/-! ### The rows -/

/-- SEND_DEPART (R245). -/
def execSendDepart (v : Fin 128) (slot : Fin 8) := act (whenRunning fun s => s.depart v slot)
/-- INBOUND_WRITE (R203). -/
def execInboundWrite (v : Fin 128) (s : State) (errs : Errs := []) :=
  actOn errs (whenRunning fun s => s.inboundWrite v) s
/-- SST_COMPLETE (R325). -/
def execSstComplete (v : Fin 128) (slot : Fin 8) (errs : Errs) := actOn errs (whenRunning fun s => s.sstComplete v slot)
/-- ICACHE_FILL (R208). -/
def execIcacheFill (v : Fin 128) (s : State) (errs : Errs := []) :=
  actOn errs (whenRunning fun s => s.icacheFill v) s
/-- BSYNC_RELEASE (R230). -/
def execBsyncRelease (v : Fin 128) := act (whenRunning fun s => s.bsyncRelease v)
/-- YIELD_BARRIER (R212). -/
def execYieldBarrier (job : Nat) := act (whenRunning fun s => s.yieldBarrier job)
/-- SAVE_COMPLETE (R215). -/
def execSaveComplete (job : Nat) (failed : Option (Fin 128)) :=
  actOn [] (whenRunning fun s => s.saveComplete job failed)
/-- RESTORE (R215). -/
def execRestore (job : Nat) := actOn [] (whenRunning fun s => s.restoreJob job)
/-- RESTORE_COMPLETE (R215). -/
def execRestoreComplete (job : Nat) (failed : Option (Fin 128)) :=
  act (whenRunning fun s => s.restoreComplete job failed)
/-- VAT_CLEAR (R206). -/
def execVatClear (v : Fin 128) := act (whenRunning fun s => s.vatCleared v)
/-- JOB_START (R461). -/
def execJobStart (job : Nat) := act (whenRunning fun s => s.startJob job)
/-- LATE_START (R464). -/
def execLateStart (job : Nat) := act (whenRunning fun s => s.lateStart job)

end Sys2Proof.Machine
end

