-- ==== Sys2Proof/Machine/Nbe.lean ====
section
/-! DEFINITION. Near-bank engines: job records, acceptance, matrix-vector products, decode attention and moves
(chapter 09). -/

namespace Sys2Proof.Machine

/-! ### Job records (R288, R289) -/

/-- A little-endian field of a job record. -/
def NbeJob.num (k : NbeJob) (off len : Nat) : Nat := (k.record.toNat >>> (8 * off)) % 2 ^ (8 * len)
def NbeJob.bytes (k : NbeJob) : List Byte := bytesOf k.record 128
def NbeJob.kind (k : NbeJob) : Nat := k.num 0x00 1
def NbeJob.exact (k : NbeJob) : Bool := k.record.getLsbD 8
def NbeJob.dstWin (k : NbeJob) : Bool := k.record.getLsbD 9
def NbeJob.stack (k : NbeJob) : Nat := k.num 0x04 1
def NbeJob.actBytes (k : NbeJob) : Nat := k.num 0x0C 4
def NbeJob.stride (k : NbeJob) : Nat := k.num 0x18 4
/-- The named NBEs of the stack, ascending: position `j` is the j-th. -/
def NbeJob.named (k : NbeJob) : List Nat := (List.range 16).filter fun n => (k.num 0x02 2).testBit n
def NbeJob.positions (k : NbeJob) : List (Nat × Nat) :=
  (List.range k.named.length).map fun j => (j, k.named.getD j 0)
/-- Device number of NBE `n` of the job's stack. -/
def NbeJob.unit (k : NbeJob) (n : Nat) : Nat := 16 * k.stack + n
/-- First address of position `j`'s outputs. -/
def NbeJob.outAt (k : NbeJob) (j : Nat) : Nat := k.num 0x10 8 + j * k.stride

/-! ### Stops (R310) -/

/-- Why a job stops. -/
inductive NbeStop where
  | badRecord
  | guarded (w : Nat)
  | offStack (w : Nat)
  | hostBias (w : Nat)
  /-- a read of the range at `w` fails (R511) -/
  | unread (w : Nat) (f : ReadFail)
  /-- a partial write meets a word that is lost: its offset and its device physical address (R263) -/
  | merge (w d : Nat)
  | expander (why : CurdFault) (w : Nat)
deriving DecidableEq, Repr

/-- The record that a stop writes (R505, R618). -/
def NbeStop.info (e : NbeStop) (k : NbeJob) (n : Nat) : ErrInfo :=
  let i : ErrInfo := { code := 0x0401, severity := 1, part := k.part, path := 4, unit := k.unit n, addrKind := 1, addr := k.off }
  match e with
  | .badRecord => i
  | .guarded w => { i with code := 0x0402, addr := w }
  | .offStack w => { i with code := 0x0403, addr := w }
  | .hostBias w => { i with code := 0x0404, addr := w }
  | .unread w f => readInfo k.part 4 (k.unit n) w f 0 ringNone 1
  | .merge w d => { i with code := 0x0106, addr := w, detail1 := d }
  | .expander why w => { i with code := 0x0303, path := 6, addr := w, detail0 := why.detail }

/-- A range that an NBE may not name: outside the window, guarded, or in another stack (R286, R310). -/
def State.nbeRange (s : State) (k : NbeJob) (w len : Nat) : Option NbeStop :=
  let segs := (s.part k.part).segs w len
  if !(s.part k.part).inWindow w len then some (.offStack w)
  else if segs.any fun (a, _) => s.guardedAt a then some (.guarded w)
  else if segs.any fun (a, _) => stackOf a != k.stack then some (.offStack w)
  else none

/-- A page of a range is in host bias (R287). -/
def State.nbeHostBias (s : State) (k : NbeJob) (w len : Nat) : Bool :=
  ((s.part k.part).segs w len).any fun (a, n) => !rangesCover (pageOf a) (pageOf (a + n - 1) + 1) s.mem.bias

/-- What an NBE does with the state, until something stops it. -/
abbrev NbeM (α : Type) := ExceptT NbeStop (StateM State) α
/-- The same for a whole job: a stop names the NBE that met it. -/
abbrev NbeRun (α : Type) := ExceptT (Nat × NbeStop) (StateM State) α

/-- Do one NBE's work, and name it if it stops. -/
def atNbe {α : Type} (n : Nat) (x : NbeM α) : NbeRun α := x.adapt fun e => (n, e)

/-- Run NBE work on a state: its result, and the state after it. -/
def nbeOn {ε α : Type} (x : ExceptT ε (StateM State) α) (s : State) : Except ε α × State := x.run s

/-- Stop. -/
def nbeStop {α : Type} (e : NbeStop) : NbeM α := throw e

/-- An NBE reads a range of the window (R286, R287, R310). -/
def NbeJob.read (k : NbeJob) (w len : Nat) : NbeM (List Byte) := do
  let s ← get
  match s.nbeRange k w len with
  | some e => nbeStop e
  | none =>
    if s.nbeHostBias k w len then nbeStop (.hostBias w)
    else
      let (x, s1) := s.winRead k.part w len
      set s1
      match x.fail with
      | some f => nbeStop (.unread w f)
      | none => pure x.bytes

/-- An NBE writes a range of the window (R260, R263, R286, R287). -/
def NbeJob.write (k : NbeJob) (w : Nat) (bs : List Byte) : NbeM Unit := do
  let s ← get
  match s.nbeRange k w bs.length with
  | some e => nbeStop e
  | none =>
    if s.nbeHostBias k w bs.length then nbeStop (.hostBias w)
    else
      let (s1, dropped) := s.winWrite k.part w bs
      set s1
      match dropped with
      | [] => pure ()
      | d :: _ => nbeStop (.merge ((s1.part k.part).offsetOf d) d)

/-! ### The record's own rules (R288, R292, R294, R300, R306) -/

/-- Bytes of one activation vector set, query row or slot, in whole bytes. -/
def packedBytes (count code : Nat) : Nat := count * fmtWidth code / 8

def matvecChecks (k : NbeJob) : List FieldCheck :=
  let wf := k.num 0x34 1
  let af := k.num 0x35 1
  let b := k.num 0x36 1
  let curd := k.record.getLsbD (8 * 0x37)
  let len := k.num 0x30 4
  let need := b * packedBytes len af
  [.range 0x20 (k.num 0x20 8 % 0x10000 == 0 && k.num 0x20 8 / 2 ^ 28 == (k.num 0x20 8 + 0x10000 * k.num 0x28 4 - 1) / 2 ^ 28),
   .range 0x28 (decide (1 ≤ k.num 0x28 4) && decide (k.num 0x28 4 ≤ 65536)),
   .range 0x2C (decide (1 ≤ k.num 0x2C 4) && decide (k.num 0x2C 4 ≤ k.num 0x28 4)),
   .range 0x30 (decide (0 < len) && len % 32 == 0),
   .range 0x34 (fmtKnown wf && decide (fmtWidth wf ≤ 8) && (curd || fmtWidth wf == 4 || fmtWidth wf == 8)),
   .range 0x35 (fmtKnown af && decide (fmtWidth af ≤ 16)),
   .range 0x36 (decide (1 ≤ b) && decide (b ≤ 8)),
   .bits 0x37 1 0xFE,
   .range 0x38 (!curd || k.num 0x38 8 == 0),
   .range 0x40 (k.exact || k.num 0x40 8 == 0),
   .range 0x58 (fmtIsMx wf || k.num 0x58 8 == 0),
   .zero 0x74 12,
   .range 0x0C (decide (need ≤ 65536) && decide (need ≤ k.actBytes))]

/-- KFMT of R300. -/
def keyFmtOk (c : Nat) : Bool := c == 0x08 || (fmtKnown c && decide (fmtWidth c ≤ 8) && !fmtIsInt c)
/-- QFMT of R300. -/
def queryFmtOk (c : Nat) : Bool := c == 0x04 || c == 0x05 || c == 0x08 || c == 0x0A

/-- Bytes from one query row to the next (R302). -/
def NbeJob.rowPitch (k : NbeJob) : Nat := alignUp (packedBytes (k.num 0x2C 2) (k.num 0x2F 1)) 64
/-- Bytes of one row's entry after the query rows of an ATTN_VALUE (R303). -/
def NbeJob.statPitch (k : NbeJob) : Nat := alignUp (4 + if k.exact then 2 + 2 * k.num 0x2C 2 else 0) 64

def attnChecks (k : NbeJob) : List FieldCheck :=
  let d := k.num 0x2C 2
  let qn := k.num 0x34 1
  let need := qn * (k.rowPitch + if k.kind = 3 then k.statPitch else 0)
  [.range 0x28 (decide (1 ≤ k.num 0x28 4) && decide (k.num 0x28 4 ≤ 65536)),
   .range 0x2C (decide (32 ≤ d) && decide (d ≤ 256) && d % 32 == 0),
   .range 0x2E (keyFmtOk (k.num 0x2E 1)), .range 0x2F (queryFmtOk (k.num 0x2F 1)),
   .range 0x34 (decide (1 ≤ qn) && decide (qn ≤ 64)), .zero 0x35 3, .zero 0x48 56,
   .range 0x0C (decide (need ≤ k.actBytes))]

def moveChecks (k : NbeJob) : List FieldCheck :=
  [.range 0x28 (decide (1 ≤ k.num 0x28 4) && decide (k.num 0x28 4 ≤ 65536)),
   .range 0x2C (decide (32 ≤ k.num 0x2C 4) && decide (k.num 0x2C 4 ≤ 4096) && k.num 0x2C 4 % 32 == 0),
   .range 0x38 (decide (1 ≤ k.num 0x38 4) && decide (k.num 0x38 4 ≤ 256)),
   .range 0x0C (k.actBytes == 0), .zero 0x10 12, .zero 0x3C 68]

/-- Rules of the header and of the KIND's body. -/
def NbeJob.recordOk (k : NbeJob) : Bool :=
  let act := k.num 0x08 4 % 2 ^ 24
  let header : List FieldCheck :=
    [.range 0x00 (decide (1 ≤ k.kind) && decide (k.kind ≤ 4)), .bits 0x01 1 0xFC, .range 0x04 (decide (k.stack ≤ 7)),
     .zero 0x05 3, .bits 0x0B 1 0x80, .range 0x08 (lineAddrOk act), .range 0x0C (decide (k.actBytes ≤ 65536)),
     .range 0x10 (k.num 0x10 8 % 64 == 0 && (k.dstWin || (decide (k.num 0x10 8 < 2 ^ 31) &&
       decide (spdAlias (k.num 0x10 8 % 2 ^ 24) < 3)))),
     .range 0x18 (k.stride % 64 == 0), .zero 0x1C 4]
  let body := if k.kind = 1 then matvecChecks k else if k.kind = 4 then moveChecks k else attnChecks k
  k.off % 64 == 0 && (firstBad k.bytes (header ++ body)).isNone

def NbeStop.isGuarded : NbeStop → Bool
  | .guarded _ => true
  | _ => false

/-- A stop that is found before anything is accessed (R310). -/
def NbeStop.early : NbeStop → Bool
  | .badRecord | .guarded _ | .offStack _ => true
  | _ => false

/-! ### Matrix-vector products (R292 to R298) -/

/-- Home unit of NBE `n` in chunk `c` of a band (R293). -/
def nbeUnitAt (w n c : Nat) : Nat :=
  let chunk := w + 0x10000 * c
  chunk + 0x1000 * (n ^^^ (chunk >>> 18 % 16))

def NbeJob.curd (k : NbeJob) : Bool := k.record.getLsbD (8 * 0x37)
/-- Weights of a raw unit (R293). -/
def NbeJob.perUnit (k : NbeJob) : Nat := 32768 / fmtWidth (k.num 0x34 1)
/-- Units of position `j`. -/
def NbeJob.unitsOf (k : NbeJob) (j : Nat) : Nat := if j + 1 = k.named.length then k.num 0x2C 4 else k.num 0x28 4

/-- Elements of one unit: the segment element index of the first, and the elements (R293). `draw` names the code tables
of the expander (log 27). -/
def NbeJob.unitElems (k : NbeJob) (draw n j c : Nat) : NbeM (Nat × List Nat) := do
  let w := nbeUnitAt (k.num 0x20 8) n c
  let bs ← k.read w 4096
  let x : CurdBlock := BitVec.ofNat 32768 (natOfBytes bs)
  if k.curd then
    match curdExpand (fun t => some (Config.nbeTable draw t)) x with
    | .elems ss => pure (curdFirst x, ss)
    | _ => nbeStop (.expander (curdReason x) w)
  else
    pure (k.num 0x38 8 + (j * k.num 0x28 4 + c) * k.perUnit,
      (List.range k.perUnit).map fun i => elemAt x (fmtWidth (k.num 0x34 1)) i)

/-- Join runs of elements that must follow one another. -/
def joinRuns : List (Nat × List Nat) → Option (Nat × List Nat)
  | [] => some (0, [])
  | [x] => some x
  | (a, xs) :: (b, ys) :: t =>
    if a + xs.length = b then (joinRuns ((b, ys) :: t)).map fun (_, zs) => (a, xs ++ zs) else none

/-- A broken rule of the record (R310). -/
def orBad {α : Type} : Option α → NbeM α
  | some x => pure x
  | none => nbeStop .badRecord

/-- Elements of one position. -/
def NbeJob.posElems (k : NbeJob) (draw n j : Nat) : NbeM (Nat × List Nat) := do
  let us ← (List.range (k.unitsOf j)).mapM fun c => k.unitElems draw n j c
  orBad (joinRuns us)

/-- The entry of a variant for one weight, if it has one: whether it replaces, and its value (R180 to R182, R298). -/
def NbeJob.delta (k : NbeJob) (rec_ r c : Nat) : NbeM (Option (Bool × Nat)) := do
  let row := k.num 0x68 4 + r
  let col := k.num 0x6C 4 + c
  let t := row / 32 * (k.num 0x70 4 / 32) + col / 32
  let h ← k.read rec_ 64
  let starts ← k.read (rec_ + numAt h 0x20 8 + 4 * t) 8
  let lo := numAt starts 0 4
  let es ← k.read (rec_ + numAt h 0x28 8 + 4 * lo) (4 * (numAt starts 4 4 - lo))
  let words := (List.range (numAt starts 4 4 - lo)).map fun i => BitVec.ofNat 32 (numAt es (4 * i) 4)
  pure ((words.find? fun e => rennetPos e == row % 32 * 32 + col % 32).map fun e => (numAt h 8 1 == 1, rennetVal e))

/-- The weight of row `r` and index `c` for a vector (R298). -/
def NbeJob.weight (k : NbeJob) (rec_ r c x : Nat) : NbeM Val := do
  let f := (fmtOf (k.num 0x34 1)).getD fmtFp32
  let sc ← if f.mx.isSome then k.read (k.num 0x58 8 + (r * k.num 0x30 4 + c) / 32) 1 else pure [0]
  let scale := numAt sc 0 1
  let d ← if rec_ = 0 then pure none else k.delta rec_ r c
  pure (codeVal f scale (match d with | some (rep, v) => rennetApply f rep scale x v | none => x))

/-- An activation of vector `v` at index `c`; no rule says where a Microscaling activation's scales stand, so they
are free (log 14). -/
def NbeJob.act (k : NbeJob) (draw : Nat) (op : List Byte) (v c : Nat) : Val :=
  let f := (fmtOf (k.num 0x35 1)).getD fmtFp32
  let i := v * k.num 0x30 4 + c
  codeVal f (Config.freeAt draw (i / 32) 8).toNat ((natOfBytes op >>> (f.width * i)) % 2 ^ f.width)

/-- Groups of 32 contracted indices, ascending, as lists of indices (R155). -/
def groupsOf (lo hi : Nat) : List (List Nat) :=
  ((List.range (hi / 32 + 1)).map fun g => (List.range 32).map (32 * g + ·)).filterMap fun g =>
    let h := g.filter fun i => decide (lo ≤ i) && decide (i < hi)
    if h.isEmpty then none else some h

/-- Rounded group sums added in order, starting from the first (R155). -/
def fastSum (groups : List (List Val)) : Word :=
  match groups.map fun g => fRn (groupSum g) with
  | [] => 0
  | x :: xs => xs.foldl fAdd x

/-- One output entry: row `r`, vector `v`, contracted indices `lo ≤ c < hi` (R295, R296). -/
def NbeJob.entry (k : NbeJob) (draw : Nat) (op : List Byte) (first : Nat) (xs : List Nat) (r v lo hi : Nat) :
    NbeM (List Byte) := do
  let len := k.num 0x30 4
  let rec_ ← if k.num 0x60 8 = 0 then pure 0 else do
    let bs ← k.read (k.num 0x60 8 + 8 * v) 8
    pure (natOfBytes bs)
  let groups ← (groupsOf lo hi).mapM fun g => g.mapM fun c => do
    let w ← k.weight rec_ r c (xs.getD (r * len + c - first) 0)
    pure ((k.act draw op v c).mul w)
  if k.exact then do
    let cs ← k.read (k.num 0x40 8 + 2 * r) 2
    let a := signedOf 16 (k.num (0x48 + 2 * v) 2) + signedOf 16 (natOfBytes cs)
    pure (bytesOf ((accOf (accSum a groups.flatten)).getD (Config.freeAt draw (2 ^ 20 + 8 * r + v) 80)) 10)
  else if fmtIsInt (k.num 0x34 1) then
    pure (bytesOf (fRn (accVal 55 (accSum 55 groups.flatten))) 4)
  else pure (bytesOf (fastSum groups) 4)

/-- Rows that elements `first` to `first + count - 1` meet (R296). -/
def NbeJob.rowsOf (k : NbeJob) (first count : Nat) : Nat :=
  let len := k.num 0x30 4
  if count = 0 then 0 else (first + count - 1) / len + 1 - first / len

/-- Outputs of one position (R296). -/
def NbeJob.posOut (k : NbeJob) (draw : Nat) (op : List Byte) (first : Nat) (xs : List Nat) : NbeM (List Byte) := do
  let len := k.num 0x30 4
  let es ← (List.range (k.rowsOf first xs.length)).mapM fun i => (List.range (k.num 0x36 1)).mapM fun v =>
    let r := first / len + i
    k.entry draw op first xs r v (max first (r * len) - r * len) (min (first + xs.length) ((r + 1) * len) - r * len)
  pure es.flatten.flatten

/-- Every position of a MATVEC, in order; their ranges follow one another (R293). -/
def NbeJob.matvecWork (k : NbeJob) (draw : Nat) (op : List Byte) : NbeRun (List (Nat × Nat × List Byte)) := do
  let runs ← k.positions.mapM fun (j, n) => atNbe n (k.posElems draw n j)
  let _ ← atNbe (k.named.headD 0) (orBad (joinRuns runs))
  k.positions.mapM fun (j, n) => do
    let (first, xs) := runs.getD j (0, [])
    let bs ← atNbe n (k.posOut draw op first xs)
    pure (j, n, bs)

/-! ### Decode attention (R299 to R305) -/

/-- A unit-list entry (R299). -/
structure UnitEntry where
  key : Nat
  val : Nat
  index0 : Nat
  slots : Nat
  qhead : Nat
  qcount : Nat
  mask : Nat
  /-- its number in the list -/
  num : Nat
deriving DecidableEq, Repr

def unitEntry (bs : List Byte) (i : Nat) : UnitEntry :=
  let b := bs.drop (32 * i)
  { key := numAt b 0 8, val := numAt b 8 8, index0 := numAt b 0x10 4, slots := numAt b 0x14 2, qhead := numAt b 0x16 1,
    qcount := numAt b 0x17 1, mask := numAt b 0x18 4, num := i }

/-- An entry's 32 bytes (R299). -/
def UnitEntry.bytes (e : UnitEntry) : List Byte :=
  bytesOfNat 8 e.key ++ bytesOfNat 8 e.val ++ bytesOfNat 4 e.index0 ++ bytesOfNat 2 e.slots ++ bytesOfNat 1 e.qhead ++
    bytesOfNat 1 e.qcount ++ bytesOfNat 4 e.mask ++ bytesOfNat 4 0

def NbeJob.headWidth (k : NbeJob) : Nat := k.num 0x2C 2
def NbeJob.keyFmt (k : NbeJob) : Fmt := (fmtOf (k.num 0x2E 1)).getD fmtBf16
def NbeJob.queries (k : NbeJob) : Nat := k.num 0x34 1
/-- Bytes of one slot of a key or value unit (R299). -/
def NbeJob.slotBytes (k : NbeJob) : Nat := packedBytes k.headWidth (k.num 0x2E 1)

/-- U: slots of a unit, a power of two (R372). -/
def NbeJob.unitSlots (k : NbeJob) : Nat :=
  let per := k.slotBytes + if k.keyFmt.mx.isSome then k.headWidth / 32 else 0
  2 ^ Nat.log2 (4096 / max 1 per)

/-- The rules that a list entry keeps (R299, R395). -/
def NbeJob.entryOk (k : NbeJob) (bs : List Byte) (e : UnitEntry) : Bool :=
  e.key % 4096 == 0 && e.val % 4096 == 0 && decide (1 ≤ e.slots) && decide (e.slots ≤ 256) &&
    decide (e.slots * k.slotBytes ≤ 4096) && decide (e.qhead + e.qcount ≤ k.queries) &&
    (e.mask == 0xFFFFFFFF || decide (e.mask ≤ 14)) && numAt (bs.drop (32 * e.num)) 0x1C 4 == 0 &&
    k.named.contains (ownerNbe e.key) && k.named.contains (ownerNbe e.val)

def UnitEntry.rows (e : UnitEntry) : List Nat := (List.range e.qcount).map (e.qhead + ·)
def UnitEntry.attends (e : UnitEntry) (q : Nat) : Bool := decide (e.qhead ≤ q) && decide (q < e.qhead + e.qcount)

/-- Fast mode: every unit of a row but its last in the list holds whole groups of 32 (R304). -/
def wholeGroups (es : List UnitEntry) (q : Nat) : Bool :=
  ((es.filter fun e => e.attends q).dropLast).all fun e => e.slots % 32 == 0 && e.index0 % 32 == 0

/-- The bytes of the list that LIST_OFF names: in the window, or built by the serving engine (R299, R306, R380). -/
def NbeJob.listBytes (k : NbeJob) : NbeM (List Byte) := match k.own with
  | some (l, _) => pure l
  | none => k.read (k.num 0x20 8) ((if k.kind = 4 then 8 else 32) * k.num 0x28 4)

/-- The bytes of a MOVE's table of pairs (R306, R396). -/
def NbeJob.pairBytes (k : NbeJob) : NbeM (List Byte) := match k.own with
  | some (_, m) => pure m
  | none => k.read (k.num 0x30 8) (4 * k.num 0x38 4)

/-- The unit list, checked (R299, R304). -/
def NbeJob.unitList (k : NbeJob) : NbeM (List UnitEntry) := do
  let bs ← k.listBytes
  let es := (List.range (k.num 0x28 4)).map (unitEntry bs)
  if !(es.all (k.entryOk bs)) || (k.kind == 3 && !k.exact && !(List.range k.queries).all (wholeGroups es)) then
    nbeStop .badRecord
  else pure es

/-- The elements of one slot of a unit, with the scale byte of each (R299, R372). -/
def NbeJob.slotVals (k : NbeJob) (unit slot : Nat) : NbeM (List (Val × Nat)) := do
  let f := k.keyFmt
  let d := k.headWidth
  let bs ← k.read (unit + slot * k.slotBytes) k.slotBytes
  let sc ← if f.mx.isSome then k.read (unit + 4096 - k.unitSlots * (d / 32) + slot * (d / 32)) (d / 32) else pure []
  let x := natOfBytes bs
  pure ((List.range d).map fun i =>
    let scale := numAt sc (i / 32) 1
    (codeVal f scale ((x >>> (f.width * i)) % 2 ^ f.width), scale))

/-- The ceiling of a slot along its head width (R148). -/
def NbeJob.slotCeiling (k : NbeJob) (xs : List (Val × Nat)) : Option Int :=
  if k.keyFmt.mx.isSome then some ((xs.foldl (fun m x => max m x.2) 0 : Nat) - 127 + k.keyFmt.cmax)
  else maxCeiling (xs.map (·.1))

/-- Which slots of a unit a query row sees (R301, R395). -/
def NbeJob.liveSlots (k : NbeJob) (e : UnitEntry) : NbeM (Nat → Nat → Bool) := do
  if e.mask = 0xFFFFFFFF ∨ k.num 0x38 8 = 0 then pure fun _ _ => true
  else do
    let bs ← k.read (k.num 0x38 8 + 2112 * e.mask) 2112
    let committed := numAt bs 0 32
    pure fun q slot => committed.testBit slot || (numAt bs (0x40 + 32 * q) 32).testBit slot

/-- Query row `q` of the small operand (R302). -/
def NbeJob.query (k : NbeJob) (op : List Byte) (q : Nat) : List Val :=
  let f := (fmtOf (k.num 0x2F 1)).getD fmtFp32
  let x := numAt op (q * k.rowPitch) (packedBytes k.headWidth (k.num 0x2F 1))
  (List.range k.headWidth).map fun i => elemVal f ((x >>> (f.width * i)) % 2 ^ f.width)

/-- x_i of R161 for one query row and one key slot (R301). -/
def NbeJob.score (k : NbeJob) (query : List Val) (key : List (Val × Nat)) : Word :=
  let ps := (query.zip key).map fun (a, b, _) => a.mul b
  let dot := if k.exact then
      let a := (maxCeiling query).getD 0 + (k.slotCeiling key).getD 0 + anchorG k.headWidth
      fRn (accVal a (accSum a ps))
    else fastSum ((List.range (k.headWidth / 32)).map fun g => (ps.drop (32 * g)).take 32)
  fMul dot (BitVec.ofNat 32 (k.num 0x30 4))

/-- One score of a unit: query row, slot, and x_i where the slot is live. -/
structure Cell where
  q : Nat
  slot : Nat
  x : Option Word
deriving DecidableEq, Repr

/-- Scores of the query rows and slots of one unit, in the score buffer's order; `buf` holds them where its ATTN_SCORE
left them (R301, R305). -/
def NbeJob.unitCells (k : NbeJob) (op : List Byte) (e : UnitEntry) (buf : Option (List Word)) : NbeM (List Cell) := do
  let live ← k.liveSlots e
  let keys ← if buf.isSome then pure [] else (List.range e.slots).mapM fun i => k.slotVals e.key i
  pure (e.rows.flatMap fun q =>
    (List.range e.slots).map fun i =>
      { q := q, slot := i,
        x := if live q i then some (match buf with
            | some ws => ws.getD ((q - e.qhead) * e.slots + i) 0
            | none => k.score (k.query op q) (keys.getD i [])) else none })

/-- What the score buffer is recognized by: the record's body and the engine's own list (R305). -/
def NbeJob.scoreKey (k : NbeJob) : Nat :=
  k.num 0x20 96 + 2 ^ 768 * match k.own with | some (l, _) => natOfBytes l | none => 0

/-- The scores that the key owner of a unit still holds for this job (R305). -/
def State.heldScores (s : State) (k : NbeJob) (es : List UnitEntry) (e : UnitEntry) : Option (List Word) :=
  let n := ownerNbe e.key
  match (s.nbe (k.unit n)).scores with
  | some (key, ws) =>
    if key = k.scoreKey then
      let before := (es.filter fun x => decide (x.num < e.num) && ownerNbe x.key == n).foldl (fun a x => a + x.qcount * x.slots) 0
      some ((ws.drop before).take (e.qcount * e.slots))
    else none
  | none => none

/-- Ceilings of one channel over the live slots of value units (R302, R148). -/
def NbeJob.channelCeiling (k : NbeJob) (xs : List (Val × Nat)) : Option Int :=
  if xs.isEmpty then none
  else if k.keyFmt.mx.isSome then some ((xs.foldl (fun m x => max m x.2) 0 : Nat) - 127 + k.keyFmt.cmax)
  else maxCeiling (xs.map (·.1))

/-- Bytes of one query row's entry, and from one to the next, that an ATTN_SCORE writes (R302). -/
def NbeJob.scoreBytes (k : NbeJob) : Nat := 4 + if k.exact then 2 * k.headWidth else 0
def NbeJob.scorePitch (k : NbeJob) : Nat := alignUp k.scoreBytes 64

/-- What NBE `n` writes for an ATTN_SCORE, and the scores that it keeps (R302, R305). The bytes between two entries are
free. -/
def NbeJob.scorePos (k : NbeJob) (draw : Nat) (op : List Byte) (es : List UnitEntry) (n : Nat) :
    NbeM (List Byte × List Word) := do
  let own := es.filter fun e => ownerNbe e.key == n
  let cells := (← own.mapM fun e => k.unitCells op e none).flatten
  let vals := if k.exact then es.filter fun e => ownerNbe e.val == n else []
  let vs ← vals.mapM fun e => do
    let live ← k.liveSlots e
    let slots ← (List.range e.slots).mapM fun i => k.slotVals e.val i
    pure (e, live, slots)
  let entry (q : Nat) : List Byte :=
    let m := ((cells.filter fun c => c.q == q).filterMap Cell.x).foldl fMax fNegInf
    let seen := vs.flatMap fun (e, live, slots) =>
      if e.attends q then ((List.range e.slots).filter (live q)).map fun i => slots.getD i [] else []
    let cs := if k.exact then (List.range k.headWidth).flatMap fun d =>
        bytesOf (match k.channelCeiling (seen.map fun xs => xs.getD d (.fin false 0 0, 0)) with
          | some c => BitVec.ofInt 16 c
          | none => BitVec.ofInt 16 (-32768)) 2 else []
    bytesOf m 4 ++ cs
  let out := (List.range k.queries).flatMap fun q =>
    let b := entry q
    if q + 1 = k.queries then b else b ++ bytesOf (Config.freeAt draw q 512) (k.scorePitch - b.length)
  pure (out, cells.map fun c => c.x.getD fNegInf)

/-- The combined M, and in exact mode A_L and A_V by channel, of one query row (R303). -/
def NbeJob.stat (k : NbeJob) (op : List Byte) (q off len : Nat) : Nat :=
  numAt op (k.queries * k.rowPitch + q * k.statPitch + off) len
def NbeJob.anchorL (k : NbeJob) (op : List Byte) (q : Nat) : Int :=
  if k.exact then signedOf 16 (k.stat op q 4 2) else 1 + anchorG (k.num 0x40 8)

/-- e_i of step 4 of R160 (R303). -/
def NbeJob.weightOf (k : NbeJob) (op : List Byte) (q : Nat) (x : Word) : Word :=
  znExp2 (fMul (fSub x (BitVec.ofNat 32 (k.stat op q 0 4))) fLog2e)

/-- The fast-mode partial of one channel: groups of 32 contracted indices within each unit, units in list order; a group
without a live slot is no term (R303). -/
def fastValue (units : List (UnitEntry × List (Nat × Val))) : Word :=
  fastSum (units.flatMap fun (e, ps) =>
    (List.range (e.slots / 32 + 2)).filterMap fun g =>
      let b := e.index0 / 32 + g
      let h := (ps.filter fun (i, _) => (e.index0 + i) / 32 == b).map (·.2)
      if h.isEmpty then none else some h)

/-- What NBE `n` writes for an ATTN_VALUE; the owner of a key unit gives it the scores (R303). -/
def NbeJob.valuePos (k : NbeJob) (draw : Nat) (op : List Byte) (es : List UnitEntry) (n : Nat) : NbeRun (List Byte) := do
  let s ← get
  let us : List (UnitEntry × List Cell × List (List (Val × Nat))) ← (es.filter fun e => ownerNbe e.val == n).mapM fun e => do
    let cells ← atNbe (ownerNbe e.key) (k.unitCells op e (s.heldScores k es e))
    let vals ← (List.range e.slots).mapM fun i => atNbe n (k.slotVals e.val i)
    pure (e, cells, vals)
  let row (q : Nat) : List Byte :=
    let terms := us.map fun (e, cells, vals) =>
      (e, vals,
        (cells.filter fun (c : Cell) => c.q == q).filterMap fun (c : Cell) => c.x.map fun x => (c.slot, k.weightOf op q x))
    let lSum := accSum (k.anchorL op q) (terms.flatMap fun (_, _, ws) => ws.map fun (_, w) => fVal w)
    let free (d : Nat) : Acc := Config.freeAt draw (512 * q + d) 80
    let value (d : Nat) : List Byte :=
      let ps := terms.map fun (e, vals, ws) =>
        (e, ws.map fun (i, w) => (i, (fVal w).mul ((vals.getD i []).getD d (.fin false 0 0, 0)).1))
      if k.exact then
        bytesOf ((accOf (accSum (signedOf 16 (k.stat op q (6 + 2 * d) 2)) (ps.flatMap fun (_, x) => x.map (·.2)))).getD (free d)) 10
      else bytesOf (fastValue ps) 4
    bytesOf ((accOf lSum).getD (free 511)) 10 ++ (List.range k.headWidth).flatMap value
  pure ((List.range k.queries).flatMap row)

/-- Every position of an ATTN_SCORE, with the scores that its NBE keeps. -/
def NbeJob.scoreWork (k : NbeJob) (draw : Nat) (op : List Byte) : NbeRun (List ((Nat × Nat × List Byte) × List Word)) := do
  let es ← atNbe (k.named.headD 0) k.unitList
  k.positions.mapM fun (j, n) => do
    let (bs, ws) ← atNbe n (k.scorePos draw op es n)
    pure ((j, n, bs), ws)

/-- Every position of an ATTN_VALUE. -/
def NbeJob.valueWork (k : NbeJob) (draw : Nat) (op : List Byte) : NbeRun (List (Nat × Nat × List Byte)) := do
  let es ← atNbe (k.named.headD 0) k.unitList
  k.positions.mapM fun (j, n) => do
    let bs ← k.valuePos draw op es n
    pure (j, n, bs)

/-! ### Page-local moves (R306) -/

/-- The pairs of one unit, in table order; a pair that moves nothing writes nothing. -/
def NbeJob.moveUnit (k : NbeJob) (unit : Nat) : List (Nat × Nat) → NbeM Unit
  | [] => pure ()
  | (a, b) :: t => do
    let len := k.num 0x2C 4
    if a ≠ b then
      let bs ← k.read (unit + a * len) len
      k.write (unit + b * len) bs
    k.moveUnit unit t

/-- The list and the table of a MOVE, with their rules: a pair is a u32, its source slot in the low half (R306). -/
def NbeJob.moveTables (k : NbeJob) : NbeM (List Nat × List (Nat × Nat)) := do
  let us ← k.listBytes
  let ms ← k.pairBytes
  let units := (List.range (k.num 0x28 4)).map fun i => numAt us (8 * i) 8
  let pairs := (List.range (k.num 0x38 4)).map fun i => (numAt ms (4 * i) 2, numAt ms (4 * i + 2) 2)
  let slots := 4096 / k.num 0x2C 4
  if (pairs.all fun (a, b) => decide (a < slots) && decide (b < slots)) &&
      units.all fun u => u % 4096 == 0 && k.named.contains (ownerNbe u)
  then pure (units, pairs) else nbeStop .badRecord

/-- Units in list order; each is moved by its owner. Each of them is one that the job may name before the first is
accessed (R310). -/
def NbeJob.moveWork (k : NbeJob) : NbeRun Unit := do
  let (units, pairs) ← atNbe (k.named.headD 0) k.moveTables
  let s ← get
  let bad := units.filterMap fun u => (s.nbeRange k u 4096).map fun e => (ownerNbe u, e)
  match (bad.find? fun x => x.2.isGuarded).or bad.head? with
  | some e => throw e
  | none => units.forM fun u => atNbe (ownerNbe u) (k.moveUnit u pairs)

/-! ### What a job names, as its NBEs find it (R286, R289, R310) -/

/-- Elements of position `j`: the first and how many. Raw units follow from the record; curd blocks say it themselves. -/
def NbeJob.span (k : NbeJob) (draw n j : Nat) : NbeM (Nat × Nat) :=
  if k.curd then do
    let (first, xs) ← k.posElems draw n j
    pure (first, xs.length)
  else pure (k.num 0x38 8 + j * k.num 0x28 4 * k.perUnit, k.unitsOf j * k.perUnit)

/-- Bytes that position `j` writes (R296, R302, R303). -/
def NbeJob.outBytes (k : NbeJob) (draw n j : Nat) : NbeM Nat :=
  if k.kind = 1 then do
    let (first, count) ← k.span draw n j
    pure (k.rowsOf first count * k.num 0x36 1 * if k.exact then 10 else 4)
  else if k.kind = 2 then pure (if k.queries = 0 then 0 else (k.queries - 1) * k.scorePitch + k.scoreBytes)
  else if k.kind = 3 then pure (k.queries * (10 + k.headWidth * if k.exact then 10 else 4))
  else pure 0

/-- The bytes that each position writes, as the memory stands; 0 where a read that would tell fails. -/
def State.outLens (s : State) (k : NbeJob) : List (Nat × Nat) :=
  k.positions.map fun (j, n) => (j, match (nbeOn (k.outBytes s.freshCount n j) { s with errs := [] }).1 with
    | .ok l => l
    | .error _ => 0)

/-- Two positions' outputs overlap (R289). -/
def NbeJob.overlaps (k : NbeJob) (lens : List (Nat × Nat)) : Bool :=
  lens.any fun (i, a) => lens.any fun (j, b) => decide (i < j) && decide (k.outAt j < k.outAt i + a) && decide (0 < b)

/-- Rules of what the record leads to: its lists, the order of its curd blocks, and its outputs (R289, R293, R299, R304,
R306). -/
def NbeJob.leadsOk (k : NbeJob) (draw : Nat) : NbeM Unit := do
  if k.kind = 1 then
    let spans ← k.positions.mapM fun (j, n) => k.span draw n j
    if !(spans.zip (spans.drop 1)).all fun (x, y) => x.1 + x.2 == y.1 then nbeStop .badRecord
  else if k.kind = 4 then
    let _ ← k.moveTables
  else
    let _ ← k.unitList

/-- Ranges that the record names: its operands, its lists, the units that they list, and its outputs. -/
def NbeJob.ranges (k : NbeJob) (draw : Nat) : NbeM (List (Nat × Nat)) :=
  let opt (off len : Nat) : List (Nat × Nat) := if k.num off 8 = 0 then [] else [(k.num off 8, len)]
  if k.kind = 1 then do
    let spans ← k.positions.mapM fun (j, n) => k.span draw n j
    let last := spans.foldl (fun m (a, c) => max m (a + c)) 0
    let rows := ceilDiv last (k.num 0x30 4)
    pure ((if k.exact then [(k.num 0x40 8, 2 * rows)] else []) ++ opt 0x58 (ceilDiv last 32) ++ opt 0x60 (8 * k.num 0x36 1))
  else if k.kind = 4 then do
    let (units, _) ← k.moveTables
    pure (units.map fun u => (u, 4096))
  else do
    let es ← k.unitList
    pure (es.flatMap fun e => (e.key, 4096) :: (e.val, 4096) ::
      if e.mask = 0xFFFFFFFF ∨ k.num 0x38 8 = 0 then [] else [(k.num 0x38 8 + 2112 * e.mask, 2112)])

/-- Ranges that the record's own fields give. -/
def NbeJob.fieldRanges (k : NbeJob) : List (Nat × Nat) :=
  if k.kind = 1 then [(k.num 0x20 8, 0x10000 * k.num 0x28 4)]
  else match k.own with
    | some _ => []
    | none => if k.kind = 4 then [(k.num 0x20 8, 8 * k.num 0x28 4), (k.num 0x30 8, 4 * k.num 0x38 4)]
      else [(k.num 0x20 8, 32 * k.num 0x28 4)]

/-- Whether an output range in a scratchpad lies in its lines (R289). -/
def NbeJob.outOk (k : NbeJob) (j len : Nat) : Bool :=
  k.dstWin || len == 0 || (decide (k.outAt j / 2 ^ 24 = k.num 0x10 8 / 2 ^ 24) &&
    lineAddrOk (k.outAt j % 2 ^ 24) && lineAddrOk ((k.outAt j % 2 ^ 24 + len - 1) / 2048 * 2048))

/-- What stops a job when it reaches the NBE, before anything of it is accessed: the rules of the record and of what it
leads to, then a guarded range, then a range or a stack that the job may not use (R310, R455). What a read that fails
would tell is met when the job runs. -/
def State.nbeArrives (s : State) (k : NbeJob) : Option NbeStop :=
  if !k.recordOk then some .badRecord
  else
    let s0 := { s with errs := [] }
    let draw := s.freshCount
    let lens := s.outLens k
    let outs := if k.dstWin && k.kind != 4 then lens.map fun (j, l) => (k.outAt j, l) else []
    let far := match (nbeOn (k.ranges draw) s0).1 with
      | .ok rs => rs
      | .error _ => []
    let bad := (k.fieldRanges ++ far ++ outs).filterMap fun (w, len) => s.nbeRange k w len
    if (nbeOn (k.leadsOk draw) s0).1 matches .error .badRecord then some .badRecord
    else if k.overlaps lens || !lens.all fun (j, l) => k.outOk j l then some .badRecord
    else match bad.find? NbeStop.isGuarded with
      | some e => some e
      | none =>
        if !(s.part k.part).stackSet.getLsbD k.stack then some (.offStack k.off) else bad.head?

/-! ### Ends of a job -/

/-- A job leaves the device. -/
def State.nbeGone (s : State) (id : Nat) : State :=
  { s with nbeJobs := tabErase id s.nbeJobs,
           nbes := s.nbes.map fun (n, e) => (n, { e with queue := e.queue.filter (· != id) }) }

/-- A job's NBEs are free for their next jobs. -/
def State.nbeFree (s : State) (id : Nat) : State :=
  { s with nbes := s.nbes.map fun (n, e) => (n, { e with queue := e.queue.filter (· != id) }) }

/-- A failed job faults the step that issued it (R24, R310). -/
def State.nbeFaults (s : State) (id : Nat) (k : NbeJob) (i : ErrInfo) : State :=
  let s1 := s.nbeGone id
  match k.issuer, k.job with
  | some v, _ => s1.faultVat v i
  | none, some j => s1.faultJob j i
  | none, none => s1.log i

def State.nbeFails (s : State) (id n : Nat) (e : NbeStop) : State :=
  match tabFind s.nbeJobs id with
  | none => s
  | some k => s.nbeFaults id k (e.info k n)

/-! ### Acceptance (R290, R328) -/

/-- A record as it stands in the window. -/
def State.recordNow (s : State) (k : NbeJob) : BitVec 1024 :=
  BitVec.ofNat 1024 (natOfBytes (s.winRead k.part k.off 128).1.bytes)

/-- The job has room in its NBEs' queues, and no earlier record of its issuer waits for one of them (R290). -/
def State.nbeRoom (s : State) (id : Nat) (k : NbeJob) : Bool :=
  (k.named.all fun n => decide ((s.nbe (k.unit n)).queue.length < 16)) &&
    s.nbeJobs.all fun (i, o) =>
      let r := if o.issuer.isNone then o else { o with record := s.recordNow o }
      !(decide (i < id) && o.phase == .offered && o.issuer == k.issuer && r.stack == k.stack &&
        r.named.any k.named.contains)

/-- An accepted NBJ no longer holds a transfer of its vat (R222, R290). -/
def State.nbeTaken (s : State) (id : Nat) (k : NbeJob) : State := match k.issuer with
  | some v => s.modVat v fun x => { x with xfers := x.xfers.filter fun (_, t) => t.nbe != some id }
  | none => s

/-- The record reaches its NBEs, which read it (R328). A read that fails faults the issuer's step; its record names the
NBE that owns the record's unit (log 122). -/
def State.nbeRead (s : State) (id : Nat) (k : NbeJob) : Option NbeJob × State :=
  if k.issuer.isNone then (some k, s)
  else
    let (x, s1) := s.winRead k.part k.off 128
    match x.fail with
    | some f => (none, s1.nbeFaults id k (readInfo k.part 4 (16 * stackOf f.dpa + ownerNbe f.dpa) k.off f 0 ringNone 1))
    | none => (some { k with record := BitVec.ofNat 1024 (natOfBytes x.bytes) }, s1)

/-- NBE_JOB_ACCEPT (R290, R310). -/
def State.nbeAccept (s : State) (id : Nat) : State :=
  match tabFind s.nbeJobs id with
  | none => s
  | some k0 =>
    if k0.phase ≠ .offered then s
    else match s.nbeRead id k0 with
      | (none, s1) => s1
      | (some k, s1) =>
        match s1.nbeArrives k with
        | some e => s1.nbeFaults id k (e.info k (k.named.headD 0))
        | none =>
          if !s.nbeRoom id k then s
          else forAll k.named (fun n s => s.modNbe (k.unit n) fun e => { e with queue := e.queue ++ [id] })
            ({ s1 with nbeJobs := tabPut id { k with phase := .queued } s1.nbeJobs }.nbeTaken id k)

/-! ### Outputs (R289, R291, R296) -/

/-- Lines of a run of bytes in a scratchpad: each line's address, its bytes, and which of them the run covers
(R200, R321). -/
def outLines (a : Nat) (bs : List Byte) : List (Nat × Line × Nat × Nat) :=
  let off := a % 2048
  let n := natOfBytes bs <<< (8 * off)
  (List.range (ceilDiv (off + bs.length) 2048)).map fun i =>
    ((a - off + 2048 * i) % 2 ^ 24, BitVec.ofNat 16384 (n >>> (16384 * i)), if i = 0 then off else 0,
      min 2048 (off + bs.length - 2048 * i))

/-- One position's outputs are on their way: a window range is written, scratchpad lines wait for their port. -/
def NbeJob.out (k : NbeJob) (id j : Nat) (bs : List Byte) : NbeM Unit :=
  if bs.isEmpty then pure ()
  else if k.dstWin then k.write (k.outAt j) bs
  else if !k.outOk j bs.length then nbeStop .badRecord
  else modify fun s => s.modVat (k.num 0x10 8 / 2 ^ 24) fun x =>
    { x with inbound := x.inbound ++ (outLines (k.outAt j % 2 ^ 24) bs).map fun (a, d, lo, hi) =>
        { src := .nbe id, addr := a, lo := lo, hi := hi, data := d, flag := none, last := true, read := none } }

/-- Unspecified values for an output range in a scratchpad. -/
def Vat.spoil (x : Vat) (draw a len : Nat) : Vat :=
  (outLines a (bytesOf (Config.freeAt draw a (8 * len)) len)).foldl (fun x (l, d, lo, hi) => x.putBytes l lo hi d) x

/-- The slots that a MOVE writes, as window ranges. -/
def State.moveDests (s : State) (k : NbeJob) : List (Nat × Nat) :=
  let len := k.num 0x2C 4
  match (nbeOn k.moveTables { s with errs := [] }).1 with
  | .ok (units, pairs) => units.flatMap fun u => (pairs.filter fun (a, b) => a != b).map fun (_, b) => (u + b * len, len)
  | .error _ => []

/-- The output ranges of a job that stopped hold unspecified values (R24, R310). -/
def State.nbeSpoil (s : State) (k : NbeJob) (lens : List (Nat × Nat)) : State :=
  if k.kind = 4 then forAll (s.moveDests k) (fun (w, l) s => s.winForget k.part w l) s
  else forAll lens (fun (j, l) s =>
    if k.dstWin then s.winForget k.part (k.outAt j) l
    else if l = 0 ∨ !k.outOk j l then s
    else s.drew.modVat (k.num 0x10 8 / 2 ^ 24) fun x => x.spoil s.freshCount (k.outAt j % 2 ^ 24) l) s

/-- A job stops at NBE `n` while it runs. -/
def State.nbeStops (s : State) (id n : Nat) (k : NbeJob) (lens : List (Nat × Nat)) (e : NbeStop) : State :=
  (if e.early then s else s.nbeSpoil k lens).nbeFails id n e

/-- A job's work is done: its outputs leave, position by position, and its NBEs go on (R289). -/
def State.nbeDone (s : State) (id : Nat) (k : NbeJob) (outs : List (Nat × Nat × List Byte)) : State :=
  let lens := outs.map fun (j, _, bs) => (j, bs.length)
  if k.overlaps lens then s.nbeStops id (k.named.headD 0) k lens .badRecord
  else match nbeOn (ε := Nat × NbeStop) (outs.forM fun (j, n, bs) => atNbe n (k.out id j bs)) s with
    | (.error (n, e), s1) => s1.nbeStops id n k lens e
    | (.ok _, s1) => ({ s1 with nbeJobs := tabPut id { k with phase := .worked } s1.nbeJobs }).nbeFree id

/-- The job of a KIND, if it is the next at every NBE that it names (R290). -/
def State.nbeNext (s : State) (id kind : Nat) : Option NbeJob :=
  match tabFind s.nbeJobs id with
  | some k =>
    if k.phase == .queued && k.kind == kind && k.named.all fun n => (s.nbe (k.unit n)).queue.head? == some id
    then some k else none
  | none => none

/-- Forget the scores of a job's NBEs (R305). -/
def State.nbeNoScores (s : State) (k : NbeJob) : State :=
  forAll k.named (fun n s => s.modNbe (k.unit n) fun e => { e with scores := none }) s

/-- The small operand, read once from the source vat's scratchpad (R291). -/
def State.nbeOperand (s : State) (k : NbeJob) : List Byte :=
  (s.vat (k.num 0x08 4 / 2 ^ 24 % 128)).bytes (k.num 0x08 4 % 2 ^ 24) k.actBytes

/-- A parity mismatch meets the read of the small operand: the step that issued the job faults (R202, R511). -/
def State.nbeParity (s : State) (id : Nat) (k : NbeJob) : State :=
  s.nbeFaults id k { code := 0x0302, severity := 1, part := k.part, path := 4, unit := k.unit (k.named.headD 0),
                     addr := k.num 0x08 4 % 2 ^ 24 }

/-- The next job of a KIND runs: `work` is done on its record and its small operand, and `done` takes what it made. -/
def State.nbeRun {α : Type} (s : State) (id kind : Nat) (parity : Bool) (work : NbeJob → Nat → List Byte → NbeRun α)
    (done : NbeJob → α → State → State) : State :=
  match s.nbeNext id kind with
  | none => s
  | some k =>
    if parity ∧ 0 < k.actBytes then (s.nbeSpoil k (s.outLens k)).nbeParity id k
    else match nbeOn (work k s.freshCount (s.nbeOperand k)) s.drew with
      | (.error (n, e), s1) => (s1.nbeNoScores k).nbeStops id n k (s.outLens k) e
      | (.ok x, s1) => done k x (s1.nbeNoScores k)

/-- MATVEC (R292). -/
def State.nbeMatvec (s : State) (id : Nat) (parity : Bool) : State :=
  s.nbeRun id 1 parity NbeJob.matvecWork fun k outs s => s.nbeDone id k outs

/-- The score buffer of an NBE keeps what fits (R305). -/
def State.keepScores (s : State) (k : NbeJob) (n : Nat) (ws : List Word) : State :=
  if ws.length ≤ 16384 then s.modNbe (k.unit n) fun e => { e with scores := some (k.scoreKey, ws) } else s

/-- ATTN_SCORE (R302). -/
def State.nbeScore (s : State) (id : Nat) (parity : Bool) : State :=
  s.nbeRun id 2 parity NbeJob.scoreWork fun k outs s =>
    (forAll outs (fun ((_, n, _), ws) s => s.keepScores k n ws) s).nbeDone id k (outs.map (·.1))

/-- ATTN_VALUE (R303). -/
def State.nbeValue (s : State) (id : Nat) (parity : Bool) : State :=
  s.nbeRun id 3 parity NbeJob.valueWork fun k outs s => s.nbeDone id k outs

/-- MOVE (R306). -/
def State.nbeMove (s : State) (id : Nat) : State :=
  s.nbeRun id 4 false (fun k _ _ => k.moveWork) fun k _ s => s.nbeDone id k []

/-! ### Completion (R291) -/

/-- Whether an output line of a job still waits for its port. -/
def State.nbeWaits (s : State) (id : Nat) : Bool := s.vats.any fun (_, x) => x.inbound.any fun l => l.src == .nbe id

/-- NBE_JOB_COMPLETE (R291): the flag of the NBJ is set, and an END that waited for the job may go on (R233), or a step
program that waited for a MOVE (R396). -/
def State.nbeComplete (s : State) (id : Nat) : State :=
  match tabFind s.nbeJobs id with
  | none => s
  | some k =>
    if k.phase ≠ .worked ∨ s.nbeWaits id then s
    else
      let s1 := (s.nbeGone id).setFlagAt k.flag
      match k.issuer with
      | none => s1.settleJobs k.part
      | some v => s1.finishEnd v

/-! ### The rows -/

/-- NBE_JOB_ACCEPT (R290). -/
def execNbeJobAccept (job : Nat) (s : State) (errs : Errs := []) :=
  actOn errs (whenRunning fun s => s.nbeAccept job) s
/-- MATVEC (R292). -/
def execMatvec (job : Nat) (s : State) (parity : Bool := false) (errs : Errs := []) :=
  actOn errs (whenRunning fun s => s.nbeMatvec job parity) s
/-- ATTN_SCORE (R302). -/
def execAttnScore (job : Nat) (s : State) (parity : Bool := false) (errs : Errs := []) :=
  actOn errs (whenRunning fun s => s.nbeScore job parity) s
/-- ATTN_VALUE (R303). -/
def execAttnValue (job : Nat) (s : State) (parity : Bool := false) (errs : Errs := []) :=
  actOn errs (whenRunning fun s => s.nbeValue job parity) s
/-- MOVE (R306). -/
def execMove (job : Nat) (s : State) (errs : Errs := []) :=
  actOn errs (whenRunning fun s => s.nbeMove job) s
/-- NBE_JOB_COMPLETE (R291). -/
def execNbeJobComplete (job : Nat) := act (whenRunning fun s => s.nbeComplete job)

end Sys2Proof.Machine
end

