-- ==== Sys2Proof/Machine/Sampler.lean ====
section
/-! DEFINITION. The sampler and the penalty counts (R362 to R367). -/

namespace Sys2Proof.Machine

/-! ### The generator (R362) -/

def drawRound (xk : DWord × DWord) : DWord × DWord :=
  let x := (xk.1 ^^^ xk.2) * 0xA3B195D76C2E4F19
  let x := x ^^^ (x >>> 29)
  (x + ((x <<< 13) ^^^ 0x8F4D1B63E5270CA5), ((xk.2 <<< 23) ||| (xk.2 >>> 41)) + 0xC6A4E11D3B589F27)

/-- `zn_draw` of R362: a word of 24 bits. -/
def znDraw (seed : DWord) (position : Nat) : Nat :=
  let x0 : DWord := (BitVec.ofNat 64 position <<< 32) ||| 0x5A4E0002
  let r := (List.range 8).foldl (fun xk _ => drawRound xk) (x0, seed ^^^ 0x71C30E95B2D468AF)
  (r.1 >>> 40).toNat

/-! ### Penalties and temperature (R363) -/

/-- The parameters of a sampled row (R341, R369). -/
structure SampleParams where
  seed : DWord
  topK : Nat
  temp : Word
  topP : Word
  repPen : Word
  freqPen : Word
  presPen : Word
deriving DecidableEq, Repr

def Req.params (q : Req) : SampleParams :=
  { seed := q.seed, topK := q.topK, temp := q.temp, topP := q.topP, repPen := q.repPen, freqPen := q.freqPen,
    presPen := q.presPen }

/-- TEMP above 0. -/
def SampleParams.heated (p : SampleParams) : Bool := fLt 0 p.temp

/-- A NaN is −∞ from the step on that makes it (R363). -/
def noNan (x : Word) : Word := if fIsNan x then fNegInf else x

/-- A logit under its count (R363). -/
def SampleParams.penalize (p : SampleParams) (c : Nat) (x : Word) : Word :=
  let x := noNan x
  let x := if 0 < c then noNan (if fLt 0 x then fMul x (znRecip p.repPen) else fMul x p.repPen) else x
  let x := noNan (fSub x (fMul p.freqPen (fOfInt c)))
  let x := if 0 < c then noNan (fSub x p.presPen) else x
  if p.heated then noNan (fMul x (znRecip p.temp)) else x

/-! ### The choice (R364) -/

/-- Candidates by value descending, then token id ascending: insertion into a sorted list. -/
def insertCandidate (c : Nat × Word) : List (Nat × Word) → List (Nat × Word)
  | [] => [c]
  | d :: ds => if fLt d.2 c.2 then c :: d :: ds else d :: insertCandidate c ds

/-- The first pair of a list at which the running sum of the second parts passes a test. -/
def firstSum (ok : Nat → Bool) : Nat → List (Nat × Nat) → Option (Nat × List (Nat × Nat))
  | _, [] => none
  | a, (i, e) :: t =>
    if ok (a + e) then some (i, [(i, e)])
    else (firstSum ok (a + e) t).map fun (j, kept) => (j, (i, e) :: kept)

/-- TOP_P × 2^24 rounded to an integer with ties to even (R364). -/
def p24 (topP : Word) : Nat := match fVal topP with
  | .fin _ m e => roundMag .rne m (e + 24)
  | _ => 0

/-- e_i as the integer of R149 (R364 steps 3 and 4). -/
def candidateInt (m : Word) (anchor : Int) (x : Word) : Nat :=
  let e := if fEq x m then fOne else znExp2 (fMul (fSub x m) fLog2e)
  match accTerm anchor (fVal e) with
  | .fin s => s.toNat
  | _ => 0

/-- The token that R363 and R364 choose from a logits row, or none where every logit is −∞. -/
def SampleParams.choose (p : SampleParams) (count : Nat → Nat) (logits : List Word) (position : Nat) : Option Nat :=
  let xs := (List.range logits.length).map fun i => (i, p.penalize (count i) (logits.getD i 0))
  let sorted := xs.foldl (fun t c => insertCandidate c t) []
  match sorted with
  | [] => none
  | (best, m) :: _ =>
    if !fLt fNegInf m then none
    else if !p.heated then some best
    else
      let k := if p.topK ≠ 0 then p.topK else if fEq p.topP fOne then sorted.length else 1024
      let cand := sorted.take k
      let anchor : Int := 1 + anchorG cand.length
      let es := cand.map fun (i, x) => (i, candidateInt m anchor x)
      let total := es.foldl (fun a c => a + c.2) 0
      let kept := if fLt p.topP fOne then
          (match firstSum (fun a => decide (ceilDiv (p24 p.topP * total) (2 ^ 24) ≤ a)) 0 es with
            | some (_, ks) => ks
            | none => es)
        else es
      let t := kept.foldl (fun a c => a + c.2) 0
      let threshold := (znDraw p.seed position * t) >>> 24
      (firstSum (fun a => decide (threshold < a)) 0 (sortBy (·.1) kept)).map (·.1)

/-! ### Count tables (R367) -/

/-- A request with any penalty in effect. -/
def SampleParams.penalized (p : SampleParams) : Bool :=
  !fEq p.repPen fOne || !fEq p.freqPen 0 || !fEq p.presPen 0

/-- COUNT_LOG2. -/
def countLog2 (vocab counted : Nat) : Nat := max 8 (ceilLog2 (2 * min vocab counted))

/-- Where a token's probe starts. -/
def countProbe (token log2 : Nat) : Nat := (token * 0x9E3779B1 % 2 ^ 32) >>> (32 - log2)

def tokenEmpty : Nat := 0xFFFFFFFF

/-- The place of a token in a count table: its entry, or the empty one that its probe meets first. -/
def State.countSlot (s : State) (n off log2 token : Nat) : Nat → Nat → Option (Nat × Nat)
  | 0, _ => none
  | fuel + 1, k =>
    let w := off + 8 * (k % 2 ^ log2)
    let bs := (s.winRead n w 8).1.bytes
    let t := numAt bs 0 4
    if t = token then some (w, numAt bs 4 4)
    else if t = tokenEmpty then some (w, 0)
    else s.countSlot n off log2 token fuel (k + 1)

/-- A token's count (R363); 0 for a request without penalties. -/
def State.countOf (s : State) (n : Nat) (q : Req) (token : Nat) : Nat :=
  if q.countLog2 = 0 then 0
  else match s.countSlot n q.countOff q.countLog2 token (2 ^ q.countLog2) (countProbe token q.countLog2) with
    | some (_, c) => c
    | none => 0

/-- Count a token once more; COUNT saturates (R367). -/
def State.countToken (s : State) (n : Nat) (q : Req) (token : Nat) : State :=
  if q.countLog2 = 0 then s
  else match s.countSlot n q.countOff q.countLog2 token (2 ^ q.countLog2) (countProbe token q.countLog2) with
    | some (w, c) => (s.winWrite n w (bytesOfNat 4 token ++ bytesOfNat 4 (min (c + 1) (2 ^ 32 - 1)))).1
    | none => s

/-- The sampler reads a request's count table before it samples for it: the first word that fails, and the state after
(R618). -/
def State.countsRead (s : State) (n : Nat) (q : Req) : Option (Nat × ReadFail) × State :=
  if q.countLog2 = 0 then (none, s) else s.readAll n [(q.countOff, 8 * 2 ^ q.countLog2)]

/-- A read of the weevil's, the scarab's or the sampler's own fails for a request: the request ends FAULT (R503, R618;
log 124). -/
def State.engineReadFails (s : State) (n i w : Nat) (f : ReadFail) : State :=
  (s.log (readInfo n 12 0 w f 0 ringNone 1)).endRequest n i 4

/-- A count table's place in the pool: the lowest that is free (R367). -/
def countPlace (pool bytes size : Nat) (used : List (Nat × Nat)) : Option Nat :=
  let at_ := (sortBy (·.1) used).foldl (fun (a : Nat) (off, len) => if a + size ≤ off then a else max a (alignUp (off + len) 64))
    (alignUp pool 64)
  if at_ + size ≤ pool + bytes then some at_ else none

end Sys2Proof.Machine
end

