-- ==== Sys2Proof/Machine/Kv.lean ====
section
/-! DEFINITION. The page pool of a serving partition: geometry, pages, page lists and the prefix tree
(R370 to R391, R397). -/

namespace Sys2Proof.Machine

/-! ### Geometry (R370 to R373) -/

def Srv.shape (e : Srv) : ServingShape := (e.hdr.map (·.shape)).getD
  { layers := 0, kvhLocal := 0, pageTokens := 16, headWidth := 32, kvFormat := 0, exact := true, budgetBeats := 0,
    tokensMax := 0, sMax := 0, vocab := 0, rennet := [], attn := [] }

/-- P: tokens of a page. -/
def Srv.pageTokens (e : Srv) : Nat := 2 ^ e.pageLog2

def kvPlanes (x : ServingShape) : Nat := x.layers * x.kvhLocal

/-- Window offset of page `p` of plane `q` (R371). -/
def Srv.pageAt (e : Srv) (p q : Nat) : Nat := e.pagePool + (p * (kvPlanes e.shape + 1) + q) * 32768
/-- Its structure page (R373). -/
def Srv.structAt (e : Srv) (p : Nat) : Nat := e.pageAt p (kvPlanes e.shape)
/-- Window offset of a structure slot, by page number × 496 + slot. -/
def Srv.slotAt (e : Srv) (idx : Nat) : Nat := e.structAt (idx / 496) + 0x400 + 64 * (idx % 496)

/-- Bytes of a slot of a key or value unit. -/
def kvSlotBytes (x : ServingShape) : Nat := x.headWidth * fmtWidth x.kvFormat.toNat / 8

/-- U: slots of a unit (R372). -/
def kvUnitSlots (x : ServingShape) : Nat :=
  let per := kvSlotBytes x + if fmtIsMx x.kvFormat.toNat then x.headWidth / 32 else 0
  2 ^ Nat.log2 (4096 / max 1 per)

/-- Window offset of the key or value slot of a page's token `j` (R372). -/
def Srv.kvAt (e : Srv) (page plane j : Nat) (value : Bool) : Nat :=
  let u := kvUnitSlots e.shape
  e.pageAt page plane + ((if value then 4 else 0) + j / u) * 4096 + j % u * kvSlotBytes e.shape

/-- Window offset of the scale bytes of that slot (R372). -/
def Srv.kvScaleAt (e : Srv) (page plane j : Nat) (value : Bool) : Nat :=
  let u := kvUnitSlots e.shape
  let k := e.shape.headWidth / 32
  e.pageAt page plane + ((if value then 4 else 0) + j / u) * 4096 + 4096 - u * k + j % u * k

/-- Slots of a page that one unit holds. -/
def Srv.unitTokens (e : Srv) : Nat := min (kvUnitSlots e.shape) e.pageTokens

/-- Whether the decode attention of a layer runs on the near-bank engines, else on vats: fast mode needs units and pages of
at least 32 slots (R304, R372). -/
def Srv.attnOnNbe (e : Srv) (a : AttnSite) : Bool :=
  a.onNbe && (e.shape.exact || (decide (32 ≤ kvUnitSlots e.shape) && decide (32 ≤ e.pageTokens)))

/-- A key or value converted to the format of the cache: its elements' codes, and a scale byte for every 32 of a
Microscaling format (R144, R146, R376). -/
def kvEncode (fmt : Nat) (vs : List Val) : List Nat × List Nat :=
  match fmtOf fmt with
  | none => ([], [])
  | some f =>
    if f.mx.isSome then
      let bs := ((List.range (ceilDiv vs.length 32)).map fun g => mxBlock f .rne ((vs.drop (32 * g)).take 32))
      (bs.flatMap (·.2), bs.map (·.1))
    else (vs.map (encodeVal f .rne), [])

/-- The window bytes of a vector of the cache: token `j` of a page in one plane (R372, R376). -/
def Srv.kvBytes (e : Srv) (page plane j : Nat) (value : Bool) (v : List Nat × List Nat) : List (Nat × List Byte) :=
  let x := e.shape
  (e.kvAt page plane j value, bytesOfNat (kvSlotBytes x) (packElems (fmtWidth x.kvFormat.toNat) v.1)) ::
    if fmtIsMx x.kvFormat.toNat then [(e.kvScaleAt page plane j value, v.2.map fun b => BitVec.ofNat 8 b)] else []

/-- The first of a sequence of numbers that passes a test. -/
def findFrom (ok : Nat → Bool) (step : Nat) : Nat → Nat → Option Nat
  | 0, _ => none
  | fuel + 1, k => if ok k then some k else findFrom ok step fuel (k + step)

/-- Structure pages that hold mask rows only (R373). -/
def Srv.reservedPages (e : Srv) : List Nat := e.maskPages.flatMap (·.2)

/-- `count` aligned structure slots for a page-list block (4) or a prefix node (1): the lowest that are free. -/
def Srv.freeSlot (e : Srv) (count : Nat) : Option Nat :=
  let used := e.slots
  let mask := e.reservedPages
  findFrom (fun i => (List.range count).all (fun j => !used.contains (i + j)) && !mask.contains (i / 496)) count
    (e.pageCount * 496 / count) 0

/-! ### Pages (R374, R375) -/

/-- A page number that names a page: neither a cocoon's entry nor unused (R378). -/
def pageReal (p : Nat) : Bool := decide (p < 0xFFFFFFFE)
def pageInCocoon : Nat := 0xFFFFFFFE

def Srv.page (e : Srv) (p : Nat) : PageState := tabGet {} e.pages p
def Srv.modPage (e : Srv) (p : Nat) (f : PageState → PageState) : Srv := { e with pages := tabMod {} e.pages p f }
def PageState.isFree (x : PageState) : Bool := x.refs == 0 && !x.node
def PageState.isShared (x : PageState) : Bool := decide (1 < x.refs) || x.node

/-- Free and reclaimable pages (R375). -/
def Srv.freePages (e : Srv) : Nat := e.pageCount - (e.pages.filter fun (_, x) => x.refs != 0).length

/-- Change a partition's engine. -/
def State.withSrv (s : State) (n : Nat) (e : Srv) : State := s.modSrv n fun _ => e

/-- Bytes of a prefix node (R386). -/
def PrefixNode.bytes (x : PrefixNode) (valid : Bool) : List Byte :=
  bytesOfNat 16 x.hash.toNat ++ bytesOfNat 8 x.parent ++ bytesOfNat 4 x.page ++ bytesOfNat 2 x.variant ++
    [if valid then 1 else 0, 0] ++ bytesOfNat 4 x.refs ++ bytesOfNat 4 x.children ++ bytesOfNat 8 x.lastUse ++
    bytesOfNat 4 x.depth ++ List.replicate 12 0

/-- Change a node, and write its structure slot. -/
def State.modNode (s : State) (n k : Nat) (f : PrefixNode → PrefixNode) : State :=
  match tabFind (s.srv n).nodes k with
  | none => s
  | some x => ((s.modSrv n fun e => { e with nodes := tabPut k (f x) e.nodes }).winWrite n k ((f x).bytes true)).1

/-- The oldest node that may be evicted (R390). -/
def Srv.evictable (e : Srv) (but : Option Nat) : Option Nat :=
  (e.nodes.foldl (fun (b : Option (Nat × Nat)) (k, x) =>
    if x.refs ≠ 0 ∨ x.children ≠ 0 ∨ but = some k then b
    else match b with
      | some (_, t) => if x.lastUse < t then some (k, x.lastUse) else b
      | none => some (k, x.lastUse)) none).map (·.1)

/-- Evict a node: its page is free, its slot is free, and its parent has one child less (R390). -/
def State.evict (s : State) (n k : Nat) : State :=
  match tabFind (s.srv n).nodes k with
  | none => s
  | some x =>
    let s1 := s.modNode n x.parent fun y => { y with children := y.children - 1 }
    let s2 := (s1.winWrite n k (x.bytes false)).1
    s2.modSrv n fun e =>
      let e1 := e.modPage x.page fun g => { g with node := false, isSealed := g.isSealed && g.refs != 0 }
      { e1 with nodes := tabErase k e1.nodes, slots := e1.slots.filter fun i => e1.slotAt i != k }

/-- Take the lowest free page, or the page of the node that is evicted for it; its token record is emptied (R373,
R375). -/
def State.takePage (s : State) (n : Nat) : Option (Nat × State) :=
  let e := s.srv n
  let go (s : State) (p : Nat) : Nat × State :=
    (p, ((s.modSrv n fun e =>
      { (e.modPage p fun _ => { refs := 1 }) with taken := e.taken ++ [p] }).winWrite n (e.structAt p)
        (List.replicate 1024 0xFF)).1)
  match findFrom (fun p => (e.page p).isFree) 1 e.pageCount 0 with
  | some p => some (go s p)
  | none =>
    match e.evictable none with
    | some k => (tabFind e.nodes k).map fun x => go (s.evict n k) x.page
    | none => none

/-- A page loses one reference, and the node that it was obtained through loses one (R389). -/
def State.dropPage (s : State) (n p : Nat) (node : Option Nat) : State :=
  let s1 := match node with
    | some k => s.modNode n k fun x => { x with refs := x.refs - 1 }
    | none => s
  if pageReal p then
    s1.modSrv n fun e =>
      let e1 := e.modPage p fun x => { x with refs := x.refs - 1 }
      if (e1.page p).isFree then { (e1.modPage p fun _ => {}) with released := e1.released ++ [p] } else e1
  else s1

/-! ### Page lists (R378 to R380) -/

/-- Append a page to a request's list; each edit counts (R380). -/
def State.listAdd (s : State) (n i p : Nat) (node : Option Nat) : State :=
  s.modReq n i fun q =>
    { q with list := q.list ++ [p], generation := q.generation + 1, listDirty := true,
             nodes := match node with | some k => tabPut q.list.length k q.nodes | none => q.nodes }

/-- Bytes of the block that holds entries `first` on (R378). -/
def Srv.blockBytes (e : Srv) (i : Nat) (q : Req) (b : Nat) : List Byte :=
  let first := 56 * b
  let pages := (q.list.drop first).take 56
  let next := match q.blocks[b + 1]? with | some idx => e.slotAt idx | none => 0
  bytesOfNat 4 0x54534C50 ++ bytesOfNat 4 q.generation.toNat ++ bytesOfNat 8 next ++ bytesOfNat 4 first ++
    bytesOfNat 2 pages.length ++ [0, 0] ++ bytesOfNat 4 i ++ [0, 0, 0, 0] ++ pages.flatMap (bytesOfNat 4) ++
    (List.replicate (56 - pages.length) (0xFFFFFFFF : Nat)).flatMap (bytesOfNat 4)

/-- Give a request as many blocks as its list needs. -/
def growBlocks (n i : Nat) : Nat → State → State
  | 0, s => s
  | fuel + 1, s =>
    let e := s.srv n
    let q := tabGet {} e.reqs i
    if max 1 (ceilDiv q.list.length 56) ≤ q.blocks.length then s
    else match e.freeSlot 4 with
      | none => s
      | some idx =>
        growBlocks n i fuel ((s.modSrv n fun e => { e with slots := [idx, idx + 1, idx + 2, idx + 3] ++ e.slots }).modReq n i
          fun q => { q with blocks := q.blocks ++ [idx] })

/-- Take the slots of blocks back. -/
def Srv.freeBlocks (e : Srv) (bs : List Nat) : Srv := { e with slots := e.slots.filter fun k => !bs.contains (k / 4 * 4) }

/-- Write a request's blocks, at a step boundary (R378). -/
def State.writeList (s : State) (n i : Nat) : State :=
  let q := tabGet {} (s.srv n).reqs i
  if q.state = .free ∨ !q.listDirty then s
  else
    let need := max 1 (ceilDiv q.list.length 56)
    let s1 := ((growBlocks n i need s).modSrv n fun e => e.freeBlocks (q.blocks.drop need)).modReq n i fun q =>
      { q with blocks := q.blocks.take need, listDirty := false }
    let e := s1.srv n
    let q1 := tabGet {} e.reqs i
    forAll (List.range q1.blocks.length) (fun b s =>
      (s.winWrite n (e.slotAt (q1.blocks.getD b 0)) (e.blockBytes i q1 b)).1) s1

/-- Every reference that a request's list holds goes (R343, R389). -/
def State.dropList (s : State) (n i : Nat) : State :=
  let q := tabGet {} (s.srv n).reqs i
  (forAll (List.range q.list.length) (fun k s => s.dropPage n (q.list.getD k 0) (tabFind q.nodes k)) s).modSrv n fun e =>
    e.freeBlocks q.blocks

/-! ### Token records (R373) -/

/-- A committed token of a request. -/
def Req.token (q : Req) (x : Nat) : Nat := if x < q.promptLen then q.prompt.getD x 0 else q.tokens.getD (x - q.promptLen) 0

/-- Tokens of the positions of list index `k` that lie from `lo` up to `hi`, from the page's record, or as committed where
the list has no such page yet; a slot that holds none gives none (R373, R392). -/
def State.pageTokensAt (s : State) (n : Nat) (q : Req) (lo hi k : Nat) :
    Option (Nat × ReadFail) × List (Option Nat) × State :=
  let e := s.srv n
  let a := max lo (k * e.pageTokens)
  let len := min hi ((k + 1) * e.pageTokens) - a
  match q.list[k]? with
  | none => (none, (List.range len).map fun j => some (q.token (a + j)), s)
  | some p =>
    let w := e.structAt p + 4 * (a - k * e.pageTokens)
    let (x, s1) := s.winRead n w (4 * len)
    (x.fail.map fun f => (w, f),
      (List.range len).map fun j => let t := numAt x.bytes (4 * j) 4; if t = 0xFFFFFFFF then none else some t, s1)

/-- Tokens of the positions from `lo` up to `hi` of a request, with the first read that fails. -/
def State.tokensAt (s : State) (n : Nat) (q : Req) (lo hi : Nat) : Option (Nat × ReadFail) × List (Option Nat) × State :=
  let p := (s.srv n).pageTokens
  ((List.range (ceilDiv hi p - lo / p)).map (lo / p + ·)).foldl (fun (f, ts, s) k =>
    let (g, us, s1) := s.pageTokensAt n q lo hi k
    (f.or g, ts ++ us, s1)) (none, [], s)

/-- Tokens of positions `lo ≤ x < hi` enter the records of the pages that the request holds. -/
def State.writeTokens (s : State) (n i lo hi : Nat) : State :=
  let e := s.srv n
  let q := tabGet {} e.reqs i
  forAll ((List.range (hi - lo)).map (lo + ·)) (fun x s =>
    match q.list[x / e.pageTokens]? with
    | some p =>
      if pageReal p then (s.winWrite n (e.structAt p + 4 * (x % e.pageTokens)) (bytesOfNat 4 (q.token x))).1 else s
    | none => s) s

/-! ### The prefix tree (R385 to R391) -/

/-- The hash of a block (R385). -/
def Srv.blockHash (e : Srv) (prev : BitVec 128) (variant : Nat) (tokens : List Nat) : BitVec 128 :=
  let m := bytesOfNat 16 prev.toNat ++ bytesOfNat 2 variant ++ bytesOfNat 2 e.pageTokens ++ tokens.flatMap (bytesOfNat 4)
  BitVec.ofNat 128 (natOfBytes ((digestBytes (hmacSha256 (digestBytes e.prefixKey) m)).take 16))

/-- One block hits (R387): the node, or a miss with the state after it. A token record that cannot be read is a miss too,
with a record of severity 0. -/
def State.lookupBlock (s : State) (n : Nat) (h : BitVec 128) (variant : Nat) (tokens : List Nat) (tag : Word) (ring : Nat) :
    Option (Nat × PrefixNode) × State :=
  let e := s.srv n
  match e.nodes.find? fun (_, x) => x.hash == h with
  | none => (none, s)
  | some (k, x) =>
    if x.variant ≠ variant then (none, s)
    else
      let w := e.structAt x.page
      let (r, s1) := s.winRead n w (4 * e.pageTokens)
      match r.fail with
      | some f => (none, s1.log (readInfo n 12 0 w f tag ring 0))
      | none => if r.bytes = tokens.flatMap (bytesOfNat 4) then (some (k, x), s1) else (none, s1)

/-- Look up the blocks of a prompt; the hits enter entry `i`'s list (R387). -/
def lookupPrefix (n i variant : Nat) (tag : Word) (ring : Nat) : Nat → Nat → BitVec 128 → List Nat → State → State
  | 0, _, _, _, s => s
  | fuel + 1, k, prev, tokens, s =>
    let e := s.srv n
    let block := tokens.take e.pageTokens
    let h := e.blockHash prev variant block
    match s.lookupBlock n h variant block tag ring with
    | (none, s1) => s1
    | (some (nk, x), s1) =>
      let s2 := s1.modNode n nk fun x => { x with refs := x.refs + 1, lastUse := s1.tmb.beat }
      let s3 := (s2.modSrv n fun e => e.modPage x.page fun g => { g with refs := g.refs + 1 }).listAdd n i x.page (some nk)
      lookupPrefix n i variant tag ring fuel (k + 1) h (tokens.drop e.pageTokens) s3

/-- Hashes of a request's page up to index `k` come from the node of the page before (R385, R388). -/
def State.insertNode (s : State) (n i k : Nat) : State :=
  let e := s.srv n
  let q := tabGet {} e.reqs i
  let p := q.list.getD k 0
  let parent : Option (Option (Nat × PrefixNode)) :=
    if k = 0 then some none
    else (e.nodes.find? fun (_, x) => x.page == q.list.getD (k - 1) 0).map some
  let held := (List.range k).any fun j => (e.page (q.list.getD j 0)).supplied
  match parent with
  | none => s
  | some par =>
    let tokens := (List.range e.pageTokens).map fun j => q.token (k * e.pageTokens + j)
    let h := e.blockHash (match par with | some (_, x) => x.hash | none => 0) q.variant tokens
    if (e.page p).isShared || (e.page p).supplied || held || e.nodes.any (fun (_, x) => x.hash == h) then s
    else
      let pk := par.map (·.1)
      let s1 := if (s.part n).prefixShare.toNat ≤ e.nodes.length then
          (match e.evictable pk with | some v => s.evict n v | none => s) else s
      let e1 := s1.srv n
      if (s.part n).prefixShare.toNat ≤ e1.nodes.length then s
      else match e1.freeSlot 1 with
        | none => s1
        | some idx =>
          let w := e1.slotAt idx
          let x : PrefixNode :=
            { hash := h, parent := pk.getD 0, page := p, variant := q.variant, refs := 1, children := 0,
              lastUse := s.tmb.beat, depth := k }
          let s2 := s1.modSrv n fun e =>
            { (e.modPage p fun g => { g with node := true }) with nodes := tabPut w x e.nodes, slots := idx :: e.slots }
          let s3 := (s2.winWrite n w (x.bytes true)).1.modReq n i fun q => { q with nodes := tabPut k w q.nodes }
          match pk with
          | some pw => s3.modNode n pw fun y => { y with children := y.children + 1 }
          | none => s3

/-- Seal the pages that a request has filled, and consider a node for each (R374, R388). -/
def State.sealPages (s : State) (n i : Nat) : State :=
  let q := tabGet {} (s.srv n).reqs i
  forAll (List.range (min q.list.length (q.cached / (s.srv n).pageTokens))) (fun k s =>
    let p := q.list.getD k 0
    if !pageReal p || ((s.srv n).page p).isSealed then s
    else (s.modSrv n fun e => e.modPage p fun x => { x with isSealed := true }).insertNode n i k) s

/-! ### Areas of the window (R332, R371, R373) -/

/-- An area of the window in device-bias pages, and where asked in working regions. -/
def State.areaOk (s : State) (n w len : Nat) (working : Bool) : Bool :=
  decide (0 < len) && (s.part n).inWindow w len && ((s.part n).segs w len).all fun (a, k) =>
    rangesCover (pageOf a) (pageOf (a + k - 1) + 1) s.mem.bias && !(working && s.guardedAt a)

/-- The lowest `need` pages whose structure plane lies in a stack. -/
def scanPages (at_ : Nat → Option Nat) (k : Nat) : Nat → Nat → Nat → List Nat
  | _, 0, _ => []
  | 0, _, _ => []
  | fuel + 1, need + 1, p => if at_ p = some k then p :: scanPages at_ k fuel need (p + 1) else scanPages at_ k fuel (need + 1) (p + 1)

/-- Structure pages that an engine reserves for mask rows, by stack; none where a stack has too few (R373). -/
def State.reserveMasks (s : State) (n : Nat) (e : Srv) : Option (Tab (List Nat)) :=
  let len := e.pageCount * (kvPlanes e.shape + 1) * 32768
  let inStacks := (((s.part n).segs e.pagePool len).map fun (a, _) => stackOf a).dedup
  let need := ceilDiv e.batchMax 15
  let at_ (p : Nat) : Option Nat := ((s.part n).dpa (e.structAt p)).map stackOf
  let found := (sortBy (fun k : Nat => k) inStacks).map fun k => (k, scanPages at_ k e.pageCount need 0)
  if found.all fun (_, ps) => ps.length == need then some found else none

end Sys2Proof.Machine
end

