-- ==== Sys2Proof/Machine/Launch.lean ====
section
/-! DEFINITION. LAUNCH: its checks, the measurement of programs, and the job it makes (R19, R86 to R90, R427, R548, R610). -/

namespace Sys2Proof.Machine

/-! ### The configuration of a partition (R19) -/

/-- MAJOR of the running firmware (R19, R534). -/
def State.firmwareMajor (s : State) : Half :=
  match s.sec.image with
  | some bs => BitVec.ofNat 16 (natOfBytes ((bs.drop 6).take 2))
  | none => 0

/-- The route tables of a partition's ports (R427). -/
def State.routeTables (s : State) (n : Nat) : List (Nat × List (Nat × BitVec 128)) :=
  (bitsSet (s.part n).portSet).map fun k => (k, (s.port k).routes)

/-- The device's part of a partition's configuration record (R19, R427, R456, R592). -/
def State.config (s : State) (n : Nat) : DeviceConfig :=
  let p := s.part n
  { islands := p.islands, stackSet := p.stackSet,
    regions := p.regionList.map fun r => (r, (s.region r).guarded),
    firmwareMajor := s.firmwareMajor, lcEnable := p.lcEnable, portSet := p.portSet, routes := s.routeTables n,
    saveBase := p.saveBase, saveStride := p.saveStride }

/-! ### Measurement (R548) -/

/-- A program is measured for its partition (R548). -/
def State.measure (s : State) (n : Nat) (h : ProgHeader) : State :=
  s.modPart n fun p =>
    if p.progLog.any fun m => m.config == h.fingerprint then p
    else
      { p with
        chain := sha256 (digestBytes p.chain ++ digestBytes h.imageDigest ++ digestBytes h.fingerprint)
        count := p.count + 1
        progLog := if p.progLog.length < 64 then
            p.progLog ++ [{ digest := h.imageDigest, config := h.fingerprint }] else p.progLog }

/-! ### The checks of R610 -/

def launchChecks (d : Bits512) : List FieldCheck :=
  let count := dfield d 0x18 4
  [.range 0x18 (decide (1 ≤ count) && decide (count ≤ 65536)), .zero 0x1C 4, .zero 0x28 24]

/-- One argument entry: tensor, reserved bytes and window offset (R87). -/
def argEntry (bs : List Byte) (k : Nat) : Nat × Nat × Nat :=
  let num (off len : Nat) : Nat := natOfBytes ((bs.drop (16 * k + off)).take len)
  (num 0 4, num 4 4, num 8 8)

/-- The argument table binds every tensor that it must exactly once, each to a range of the window (R87). Reserved bytes of
an entry that are not zero fail it too: DESIGN CHOICE, as R87 names no status for them (log 116). -/
def argsOk (p : Part) (h : ProgHeader) (bs : List Byte) (count : Nat) : Bool :=
  let es := (List.range count).map (argEntry bs)
  decide (count = h.args.length) &&
  (h.args.all fun a => (es.filter fun e => e.1 == a.tensor.toNat).length == 1) &&
  es.all fun (t, z, w) => z == 0 &&
    match h.args.find? fun a => a.tensor.toNat == t with
    | some a => p.inWindow w a.size
    | none => false

/-- The record of a settled program's header that cannot be read, at PROGRAM: MEM_POISON where its first bytes are
marked, else MEM_UE (R511, R610; log 117). -/
def State.headerUnread (s : State) (n path w : Nat) : ErrInfo :=
  match s.firstFail 0 ((s.part n).segs w 4096) with
  | some (o, d) => readInfo n path 0 w { off := o, dpa := d, spent := false } 0 ringNone 1
  | none => readInfo n path 0 w { off := 0, dpa := ((s.part n).dpa w).getD 0, spent := true } 0 ringNone 1

/-- The class of a program is refused (R462, R463). -/
def classRefused (p : Part) (h : ProgHeader) : Bool :=
  if h.latencyCritical then !p.lcEnable else p.lcEnable && decide (1 < h.devices)

/-- A job of a LAUNCH that passed every check (R88, R461). -/
def State.newJob (s : State) (n r : Nat) (d : Desc) (h : ProgHeader) : State :=
  let s1 := s.stamped
  let id := s1.nextJob
  let asked := dfield d.bits 0x20 8
  let j : Job :=
    { id := id, part := n, ring := r, desc := d.id, tag := descTag d.bits, program := dfield d.bits 8 8, hdr := h,
      startBeat := 0, askedBeat := asked, state := .waiting, readyStamp := s1.stamp, preemptStamp := 0, beat := 0,
      beatSub := 0, holdQuanta := 0, ended := [], yieldStep := 0, serving := false }
  (({ s1 with nextJob := id + 1, jobs := tabPut id j s1.jobs }).setDesc n r d.id (.launch id)).settleJobs n

/-- Checks 6 and 7 of R610, and the start. LOCK of a root reads FREE (R447), which is not LOCKED (log 28). -/
def State.launchReady (s : State) (n r : Nat) (d : Desc) (h : ProgHeader) : State :=
  let asked := dfield d.bits 0x20 8
  if 1 < h.devices ∧ s.tmb.lock ≠ .locked then s.complete n r d.id { status := statusFault }
  else if asked ≠ 0 ∧ asked < s.tmb.beat then s.complete n r d.id { status := statusLateStart }
  else s.newJob n r d h

/-- Checks 2 to 5 of R610. -/
def State.launch (s : State) (n r : Nat) (d : Desc) (hdr : Option ProgHeader) : State :=
  let p := s.part n
  let w := dfield d.bits 8 8
  let args := dfield d.bits 0x10 8
  let count := dfield d.bits 0x18 4
  let refuse (s : State) (st : Nat) : State := s.complete n r d.id { status := st }
  if w % 4096 ≠ 0 ∨ args % 64 ≠ 0 ∨ !p.inWindow w 1 ∨ !p.inWindow args (16 * count) then refuse s statusBadAddress
  else match hdr with
    | none => s.failDesc n r d (s.headerUnread n 16 w) { status := statusPoisonRead }
    | some h =>
      if !p.inWindow w h.size then refuse s statusBadAddress
      else if h.config ≠ s.config n ∨ classRefused p h then refuse s statusConfigMismatch
      else if dfield d.bits 0x20 8 = 0 ∧ 1 < h.devices then
        (s.measure n h).complete n r d.id { status := statusBadDescriptor, detail := 0x20 }
      else match s.descRead n r d 16 args (16 * count) with
        | (none, s1) => s1
        | (some bs, s1) =>
          if argsOk p h bs count then (s1.measure n h).launchReady n r d h else refuse s1 statusBadArgs

/-- LAUNCH (R610); `hdr` is the settled program's header, none where its read fails. -/
def execLaunch (r : RingRef) (hdr : Option ProgHeader) (s : State) (errs : Errs := []) :=
  actOn errs (whenRunning fun s =>
  s.startDesc r.vf.val r.ring.val (· == 0x01) launchChecks fun d s => s.launch r.vf.val r.ring.val d hdr) s

end Sys2Proof.Machine
end

