-- ==== Sys2Proof/Machine/Serving.lean ====
section
/-! DEFINITION. The descriptors of the serving engine and of the cache: starting and stopping the engine, submission and
admission, variants, cocoon buffers, and what waits for a step boundary (R330 to R356, R367, R383, R399, R400). -/

namespace Sys2Proof.Machine

/-! ### Requests as bytes (R341) -/

/-- A request-table entry's 128 bytes; a FREE entry is zero. -/
def reqBytes (e : Srv) (q : Req) : List Byte :=
  if q.state = .free then List.replicate 128 0
  else
    let bit (b : Bool) (k : Nat) : Nat := if b then 2 ^ k else 0
    let n (len v : Nat) : List Byte := bytesOfNat len v
    n 1 q.state.code ++ n 1 (bit q.latency 0) ++ n 1 q.priority ++
      n 1 (bit q.penalizePrompt 0 + bit q.speculate 1 + bit q.hostPaused 2) ++ n 2 q.tenant ++ n 2 q.variant ++
      n 8 q.tag.toNat ++ n 8 q.seed.toNat ++ n 8 q.promptOff ++ n 4 q.promptLen ++ n 4 q.maxNew ++
      n 4 (min q.cached q.promptLen) ++ n 4 q.generated ++
      n 8 (match q.blocks.head? with | some idx => e.slotAt idx | none => 0) ++ n 4 q.generation.toNat ++
      n 4 q.list.length ++ n 8 q.countOff ++ n 1 q.countLog2 ++ n 1 q.ring ++ n 2 q.topK ++ n 4 q.temp.toNat ++
      n 4 q.topP.toNat ++ n 4 q.repPen.toNat ++ n 4 q.freqPen.toNat ++ n 4 q.presPen.toNat ++
      (List.range 4).flatMap (fun k => n 4 (q.stop.getD k 0).toNat) ++ n 8 q.deadline ++ n 4 q.cocoon.toNat ++ n 4 0

/-- The fields that a request block sets. -/
def reqOfBlock (bs : List Byte) : Req :=
  let w (off : Nat) : Word := BitVec.ofNat 32 (numAt bs off 4)
  { latency := numAt bs 1 1 == 1, priority := numAt bs 2 1, penalizePrompt := (numAt bs 3 1).testBit 0,
    speculate := (numAt bs 3 1).testBit 1, tenant := numAt bs 4 2, variant := numAt bs 6 2,
    tag := BitVec.ofNat 64 (numAt bs 8 8), seed := BitVec.ofNat 64 (numAt bs 0x10 8), promptOff := numAt bs 0x18 8,
    promptLen := numAt bs 0x20 4, maxNew := numAt bs 0x24 4, ring := numAt bs 0x49 1, topK := numAt bs 0x4A 2,
    temp := w 0x4C, topP := w 0x50, repPen := w 0x54, freqPen := w 0x58, presPen := w 0x5C,
    stop := (List.range 4).map fun k => w (0x60 + 4 * k), deadline := numAt bs 0x70 8 }

def fFinite (x : Word) : Bool := (fVal x).isFin

/-- A live request: its entry is not FREE (R342). -/
def Req.live (q : Req) : Bool := q.state != .free
/-- A live request whose end is not decided. -/
def Req.going (q : Req) : Bool := q.live && q.state != .done

def Srv.find (e : Srv) (tag : DWord) : Option (Nat × Req) := e.reqs.find? fun (_, q) => q.live && q.tag == tag

/-- Rules of a request block (R338, R339, R341, R351). -/
def State.blockChecks (s : State) (n : Nat) (bs : List Byte) : List FieldCheck :=
  let q := reqOfBlock bs
  let zero (off len : Nat) : FieldCheck := .range off (numAt bs off len == 0)
  let params := q.params
  [zero 0x00 1, .range 1 (decide (numAt bs 1 1 ≤ 1)), .range 2 (decide (q.priority ≤ 7)), .bits 3 1 0xFC,
   .range 4 (decide (q.tenant < (s.part n).qcount.toNat)), .range 8 ((s.srv n).find q.tag).isNone,
   .range 0x18 (q.promptOff % 4 == 0), .range 0x20 (decide (1 ≤ q.promptLen) && decide (q.promptLen ≤ 2 ^ 31)),
   .range 0x24 (decide (1 ≤ q.maxNew) && decide (q.maxNew ≤ 2 ^ 31)), zero 0x28 4, zero 0x2C 4, zero 0x30 8, zero 0x38 4,
   zero 0x3C 4, zero 0x40 8, zero 0x48 1, .range 0x49 (decide (q.ring ≤ 7) && (s.ring n q.ring).enable),
   .range 0x4A (decide (q.topK ≤ 1024)), .range 0x4C (fEq params.temp 0 || (fFinite params.temp && fLt 0 params.temp)),
   .range 0x50 (fLt 0 params.topP && !fLt fOne params.topP), .range 0x54 (fFinite params.repPen && fLt 0 params.repPen),
   .range 0x58 (fFinite params.freqPen), .range 0x5C (fFinite params.presPen), zero 0x78 4, .zero 0x7C 4]

/-! ### The common gate (R57, R84, R330) -/

/-- Addresses first, then whether the engine runs here, and as the lead where it must (R84, R330). -/
def State.srvGate (s : State) (n r : Nat) (d : Desc) (addrOk needLead : Bool) (f : State → State) : State :=
  let e := s.srv n
  if !addrOk then s.complete n r d.id { status := statusBadAddress }
  else if e.state = .off ∨ (needLead ∧ !e.lead) then s.complete n r d.id { status := statusBadDescriptor }
  else f s

/-- A descriptor that takes effect at the next step boundary. -/
def State.hold (s : State) (n r : Nat) (d : Desc) : State := s.setDesc n r d.id .serving

/-- DETAIL of a field of the block at descriptor offset 0x08 (R118). -/
def blockDetail (off : Nat) : Nat := 0x00080000 + off

/-! ### Cocoon sizes (R401, R403) -/

/-- List indices of a request's private pages. -/
def Srv.privateIdx (e : Srv) (q : Req) : List Nat :=
  (List.range q.list.length).filter fun k =>
    let p := q.list.getD k 0
    pageReal p && !(e.page p).isShared

/-- Bytes of a request's count table. -/
def Req.countBytes (q : Req) : Nat := if q.countLog2 = 0 then 0 else 8 * 2 ^ q.countLog2

/-- Bytes of the header area (R401). -/
def cocoonHeader (pages bufs : Nat) : Nat := alignUp (256 + 4 * pages + 4 * bufs) 4096

/-- Bytes of a cocoon's body on this member: the lead's count table and `k` page images (R401). -/
def Srv.cocoonBodyBytes (e : Srv) (q : Req) (k : Nat) : Nat :=
  (if e.lead then q.countBytes else 0) + k * (kvPlanes e.shape * 32768 + 4096)

/-- Buffers of a cocoon of `k` pages: the smallest number that holds its stream (R401). -/
def Srv.cocoonBufs (e : Srv) (q : Req) (k : Nat) : Option Nat :=
  match e.bufLog2 with
  | none => none
  | some b =>
    findFrom (fun m => decide (cocoonHeader k m + e.cocoonBodyBytes q k ≤ m * 2 ^ b)) 1 65536 1

def Srv.freeBufs (e : Srv) : List Nat := (e.bufs.filter fun (_, x) => !x.2).map (·.1)

/-- A request's cocoon fits the pool (R403). -/
def Srv.cocoonFits (e : Srv) (q : Req) : Bool := match e.cocoonBufs q (e.privateIdx q).length with
  | some m => decide (m ≤ e.freeBufs.length)
  | none => false

/-! ### Admission (R353 to R355) -/

/-- A request that may be paused for another (R355, R403). -/
def Srv.isVictim (e : Srv) (for_ : Req) (q : Req) : Bool :=
  (q.state == .waiting || q.state == .prefill || q.state == .decode) && !(q.latency && q.deadline != 0) &&
    !(q.latency && decide (for_.priority ≤ q.priority)) && e.cocoonFits q

/-- Victims in the order of R355. -/
def Srv.victims (e : Srv) (for_ : Req) (but : Nat) : List (Nat × Req) :=
  let vs := e.reqs.filter fun (i, q) => i != but && e.isVictim for_ q
  let latest := sortBy (fun x : Nat × Req => e.nextOrder - x.2.order) vs
  sortBy (fun x : Nat × Req => 2 * x.2.priority + if x.2.latency then 1 else 0) latest

/-- Prompt tokens that a request still has to prefill once the step under way has committed. -/
def Srv.remaining (e : Srv) (i : Nat) (q : Req) : Nat :=
  q.promptLen - q.cached - match e.placed.find? fun p => p.entry == i with
    | some p => if p.isPrefill then p.tokens else 0
    | none => 0

/-- Token slots that a request wants, drafts apart (R358). -/
def Srv.wants (e : Srv) (i : Nat) (q : Req) : Nat := max 1 (min e.chunk (e.remaining i q))

/-- Placing one more latency-critical request would exceed BATCH_MAX or TOKENS_MAX (R354). -/
def Srv.overfull (e : Srv) (i : Nat) : Bool :=
  let lc := e.reqs.filter fun (k, q) =>
    q.latency && (k == i || q.state == .waiting || q.state == .prefill || q.state == .decode || q.state == .resuming)
  decide (e.batchMax < lc.length) || decide (e.tokensMax < (lc.map fun (k, q) => e.wants k q).sum)

def Srv.reserved (e : Srv) : Nat := (e.reqs.map fun (_, q) => q.reserved).sum

/-- Pages that R355 could take for a request. -/
def Srv.pausable (e : Srv) (q : Req) (i : Nat) : Nat := ((e.victims q i).map fun (_, v) => (e.privateIdx v).length).sum

def State.divisor (s : State) (n : Nat) : Nat := (s.slot (s.part n).swarm.toNat).divisor
/-- Beats from one boundary to the next (R357). -/
def State.stepPeriod (s : State) (n : Nat) : Nat := (s.srv n).stepBeats * s.divisor n

/-- Pages that a latency-critical request with a deadline needs (R354). -/
def Srv.pagesNeed (e : Srv) (q : Req) (h : Nat) : Nat :=
  ceilDiv (q.promptLen + q.maxNew) e.pageTokens - h / e.pageTokens

/-- The next boundary at or after the present beat (R357). -/
def State.boundaryBeat (s : State) (n : Nat) : Nat :=
  let first := (s.srv n).nextBoundary
  let period := max 1 (s.stepPeriod n)
  first + ceilDiv (s.tmb.beat - first) period * period

/-- Beat at which its last token would be committed (R354). -/
def State.finish (s : State) (n : Nat) (q : Req) (h : Nat) : Nat :=
  let e := s.srv n
  s.boundaryBeat n + (ceilDiv (q.promptLen - h) e.chunk + q.maxNew - 1) * s.stepPeriod n

/-- Why admission refuses a request, or the pages that it reserves (R353, R354). -/
def State.admission (s : State) (n i : Nat) (q : Req) (h : Nat) : Nat ⊕ Nat :=
  let e := s.srv n
  let critical := match e.hdr with | some x => x.latencyCritical | none => false
  if q.deadline ≠ 0 ∧ !critical then .inl 2
  else if !q.latency || q.deadline = 0 then .inr 0
  else
    let need := e.pagesNeed q h
    if e.freePages + e.pausable q i - e.reserved < need then .inl 1
    else if q.deadline < s.finish n q h ∨ e.overfull i then .inl 2
    else .inr need

/-- Count-table size and place of an accepted request (R367). -/
def State.countTable (s : State) (n : Nat) (q : Req) : Option (Nat × Nat) :=
  let e := s.srv n
  let log2 := countLog2 e.vocab (q.maxNew + if q.penalizePrompt then q.promptLen else 0)
  (countPlace e.countPool e.countBytes (8 * 2 ^ log2) e.counts).map fun off => (off, log2)

/-- Cocoon buffers return to the pool. -/
def Srv.releaseBufs (e : Srv) (bufs : List Nat) : Tab (DWord × Bool) :=
  e.bufs.map fun (k, a, u) => (k, a, u && !bufs.contains k)

/-- An entry leaves the table with all that it holds (R343). -/
def State.freeEntry (s : State) (n i : Nat) : State :=
  let q := tabGet {} (s.srv n).reqs i
  let held := match q.saved with | some c => c.held | none => []
  let fresh := match q.saved with | some c => c.newPages | none => []
  let s1 := forAll fresh (fun p s => s.dropPage n p none) (s.dropList n i)
  s1.modSrv n fun e =>
    { e with reqs := tabErase i e.reqs, counts := e.counts.filter fun c => q.countLog2 == 0 || c.1 != q.countOff,
             bufs := e.releaseBufs held }

/-! ### REQ_SUBMIT (R338, R339) -/

def reqSubmitChecks (_ : Bits512) : List FieldCheck := [.zero 0x10 48]

def Srv.reqAt (e : Srv) (i : Nat) : Req := tabGet {} e.reqs i

/-- Prompt, prefix lookup, admission and acceptance: orders 4 to 6 of R339. -/
def State.takeIn (s : State) (n r : Nat) (d : Desc) (q : Req) : State :=
  let e := s.srv n
  match findFrom (fun k => !(tabGet {} e.reqs k).live) 1 (s.part n).entries.toNat 0 with
  | none => s.complete n r d.id { status := statusTableFull }
  | some i =>
    match s.descRead n r d 12 q.promptOff (4 * q.promptLen) with
    | (none, s1) => s1
    | (some bs, s1) =>
      let prompt := (List.range q.promptLen).map fun k => numAt bs (4 * k) 4
      let q0 : Req :=
        { q with state := .waiting, prompt := prompt, order := e.nextOrder, cocoon := 0xFFFFFFFF, listDirty := true }
      let s2 := s1.modSrv n fun e => { e with reqs := tabPut i q0 e.reqs, nextOrder := e.nextOrder + 1 }
      let s3 := lookupPrefix n i q.variant (descTag d.bits) r ((q.promptLen - 1) / e.pageTokens) 0 0 prompt s2
      let h := (tabGet {} (s3.srv n).reqs i).list.length * e.pageTokens
      let s3 := s3.modReq n i fun q => { q with cached := h }
      let refuse (why : Nat) : State :=
        (s3.freeEntry n i).complete n r d.id { status := statusAdmissionRefused, detail := why }
      match s3.admission n i ((s3.srv n).reqAt i) h with
      | .inl why => refuse why
      | .inr need =>
        if !q0.params.penalized then
          (s3.modReq n i fun q => { q with reserved := need }).complete n r d.id { result := i, detail := h }
        else match s3.countTable n q0 with
          | none => refuse 3
          | some (off, log2) =>
            let empty := (List.replicate (2 ^ log2) [0xFF, 0xFF, 0xFF, 0xFF, 0, 0, 0, 0]).flatten
            let s4 := (s3.modSrv n fun e => { e with counts := (off, 8 * 2 ^ log2) :: e.counts }).modReq n i fun q =>
              { q with reserved := need, countOff := off, countLog2 := log2 }
            (s4.winWrite n off empty).1.complete n r d.id { result := i, detail := h }

/-- A registered variant that is not leaving, or the base (R339, R349). -/
def Srv.variantOk (e : Srv) (v : Nat) : Bool := v == 0 || match tabFind e.variants v with
  | some x => !x.leaving
  | none => false

def State.submit (s : State) (n r : Nat) (d : Desc) : State :=
  let w := dfield d.bits 8 8
  s.srvGate n r d (w % 64 == 0 && (s.part n).inWindow w 128) true fun s =>
    if (s.srv n).state ≠ .running then s.complete n r d.id { status := statusBadDescriptor }
    else match s.descRead n r d 12 w 128 with
      | (none, s1) => s1
      | (some bs, s1) =>
        let q := reqOfBlock bs
        if !(s.part n).inWindow q.promptOff (4 * q.promptLen) then s1.complete n r d.id { status := statusBadAddress }
        else match firstBad bs (s1.blockChecks n bs) with
          | some off => s1.complete n r d.id { status := statusBadDescriptor, detail := blockDetail off }
          | none =>
            if !(s1.srv n).variantOk q.variant then s1.complete n r d.id { status := statusBadVariant }
            else s1.takeIn n r d q

/-! ### Descriptors that wait for the boundary (R344, R346, R347, R383) -/

def reqCancelChecks (_ : Bits512) : List FieldCheck := [.zero 0x10 48]

def reqControlChecks (d : Bits512) : List FieldCheck :=
  let op := dfield d 0x10 1
  [.range 0x10 (decide (1 ≤ op) && decide (op ≤ 4)), .zero 0x11 7, .range 0x18 (op != 3 || decide (dfield d 0x18 8 ≤ 7)),
   .zero 0x20 32]

/-- A REQ_CONTROL with this OP starts; one with an OP that no row names is refused by any of them (R346). -/
def State.control (s : State) (n r op : Nat) : State :=
  match s.startable n r with
  | some d =>
    let k := dfield d.bits 0x10 1
    if k = op ∨ k = 0 ∨ 4 < k then
      s.startDesc n r (· == 0x22) reqControlChecks fun d s => s.srvGate n r d true true fun s => s.hold n r d
    else s
  | none => s

def reqReadChecks (d : Bits512) : List FieldCheck :=
  [.range 0x0C (decide (1 ≤ dfield d 0x0C 4) && decide (dfield d 0x0C 4 ≤ 65536)), .zero 0x18 40]

def State.reqRead (s : State) (n r : Nat) (d : Desc) : State :=
  let dst := dfield d.bits 0x10 8
  let count := dfield d.bits 0x0C 4
  s.srvGate n r d (dst % 64 == 0 && (s.part n).inWindow dst (128 * count)) true fun s =>
    if (s.part n).entries.toNat < dfield d.bits 8 4 + count then
      s.complete n r d.id { status := statusBadDescriptor, detail := 0x08 }
    else s.hold n r d

def pageUpdateChecks (d : Bits512) : List FieldCheck :=
  [.range 0x20 (decide (1 ≤ dfield d 0x20 4) && decide (dfield d 0x20 4 ≤ 65536)), .zero 0x24 28]

def State.startPageUpdate (s : State) (n r : Nat) (d : Desc) : State :=
  let w := dfield d.bits 0x18 8
  s.srvGate n r d (w % 4 == 0 && (s.part n).inWindow w (4 * dfield d.bits 0x20 4)) true fun s => s.hold n r d

/-! ### Variants (R348, R349) -/

def variantRegChecks (d : Bits512) : List FieldCheck :=
  let v := dfield d 8 2
  let c := dfield d 0x0C 4
  [.range 8 (decide (1 ≤ v) && decide (v ≤ 4095)), .zero 0x0A 2, .range 0x0C (decide (1 ≤ c) && decide (c ≤ 4096)),
   .zero 0x18 40]

/-- A BF16 NaN. -/
def bf16Nan (x : Nat) : Bool := decide (0x7F80 < x % 2 ^ 15)

/-- Tile starts never fall, and within a tile POS rises (R183). -/
def deltaOk (starts : List Nat) (es : List Word) (count : Nat) : Bool :=
  let pairs := starts.zip (starts.drop 1)
  starts.head? == some 0 && starts.getLast? == some count && (pairs.all fun (a, b) => decide (a ≤ b)) &&
    (es.all fun e => !bf16Nan (rennetVal e) && field e 10 6 == 0) &&
    pairs.all fun (a, b) =>
      let t := (es.drop a).take (b - a)
      (t.zip (t.drop 1)).all fun (x, y) => decide (rennetPos x < rennetPos y)

/-- Bytes of the window that a delta record's check reads; a range that leaves the window is a broken record. -/
def State.deltaBytes (s : State) (n r : Nat) (d : Desc) (w len : Nat) : Option (Option (List Byte)) × State :=
  if len = 0 then (some (some []), s)
  else if !(s.part n).inWindow w len then (some none, s)
  else match s.descRead n r d 12 w len with
    | (some bs, s1) => (some (some bs), s1)
    | (none, s1) => (none, s1)

/-- Check one delta record (R181 to R183): its tensor where it is good; the outer none where a read failed and the
descriptor has ended. -/
def State.checkDelta (s : State) (n r : Nat) (d : Desc) (w : Nat) : Option (Option Word) × State :=
  match s.deltaBytes n r d w 64 with
  | (none, s1) => (none, s1)
  | (some none, s1) => (some none, s1)
  | (some (some h), s1) =>
    let tensor := BitVec.ofNat 32 (numAt h 4 4)
    let tiles := numAt h 0x10 8
    let count := numAt h 0x18 8
    let headOk := numAt h 0 4 == 0x544E4552 && decide (numAt h 8 1 ≤ 1) && numAt h 9 7 == 0 && numAt h 0x30 16 == 0 &&
      numAt h 0x20 8 % 64 == 0 && numAt h 0x28 8 % 64 == 0 &&
      (s.srv n).shape.rennet.any fun t => t.tensor == tensor && t.tiles == tiles
    if !headOk then (some none, s1)
    else match s1.deltaBytes n r d (w + numAt h 0x20 8) (4 * (tiles + 1)) with
      | (none, s2) => (none, s2)
      | (some none, s2) => (some none, s2)
      | (some (some st), s2) =>
        match s2.deltaBytes n r d (w + numAt h 0x28 8) (4 * count) with
        | (none, s3) => (none, s3)
        | (some none, s3) => (some none, s3)
        | (some (some es), s3) =>
          let starts := (List.range (tiles + 1)).map fun k => numAt st (4 * k) 4
          let words := (List.range count).map fun k => BitVec.ofNat 32 (numAt es (4 * k) 4)
          (some (if deltaOk starts words count then some tensor else none), s3)

/-- Check every record of a list in order (R348). -/
def checkDeltas (n r : Nat) (d : Desc) : List Nat → List (Word × Nat) → State → Option (List (Word × Nat)) × State
  | [], acc, s => (some acc, s)
  | w :: ws, acc, s =>
    match s.checkDelta n r d w with
    | (none, s1) => (none, s1)
    | (some none, s1) =>
      (none, s1.complete n r d.id { status := statusBadDescriptor, detail := 0x00020000 + acc.length })
    | (some (some t), s1) =>
      if acc.any fun x => x.1 == t then
        (none, s1.complete n r d.id { status := statusBadDescriptor, detail := 0x00020000 + acc.length })
      else checkDeltas n r d ws (acc ++ [(t, w)]) s1

def State.variantReg (s : State) (n r : Nat) (d : Desc) : State :=
  let v := dfield d.bits 8 2
  let w := dfield d.bits 0x10 8
  let count := dfield d.bits 0x0C 4
  s.srvGate n r d ((s.part n).inWindow w (8 * count)) false fun s =>
    match s.descRead n r d 12 w (8 * count) with
    | (none, s1) => s1
    | (some bs, s1) =>
      match checkDeltas n r d ((List.range count).map fun k => numAt bs (8 * k) 8) [] s1 with
      | (none, s2) => s2
      | (some ds, s2) =>
        if (tabFind (s2.srv n).variants v).isSome then
          s2.complete n r d.id { status := statusBadDescriptor, detail := 0x08 }
        else (s2.modSrv n fun e => { e with variants := tabPut v { deltas := ds, leaving := false } e.variants }).complete
          n r d.id {}

def variantUnregChecks (_ : Bits512) : List FieldCheck := [.zero 0x0A 54]

/-- Descriptors of one opcode that the engine holds, in the order of fetch. -/
def State.heldDescs (s : State) (n : Nat) (ops : List Nat) : List (Nat × Desc) :=
  let all := (List.range 8).flatMap fun r =>
    ((s.ring n r).descs.filter fun d => d.state == .serving && ops.contains (descOpcode d.bits)).map fun d => (r, d)
  sortBy (fun x : Nat × Desc => x.2.id) all

/-- Variants that no live request names any more leave, and their VARIANT_UNREGs complete (R349). -/
def State.settleVariants (s : State) (n : Nat) : State :=
  forAll (s.heldDescs n [0x25]) (fun (r, d) s =>
    let v := dfield d.bits 8 2
    if (s.srv n).reqs.any fun (_, q) => q.live && q.variant == v then s
    else (s.modSrv n fun e => { e with variants := tabErase v e.variants }).complete n r d.id {}) s

def State.variantUnreg (s : State) (n r : Nat) (d : Desc) : State :=
  let v := dfield d.bits 8 2
  s.srvGate n r d true false fun s =>
    match tabFind (s.srv n).variants v with
    | some x =>
      if x.leaving then s.complete n r d.id { status := statusBadVariant }
      else ((s.modSrv n fun e => { e with variants := tabPut v { x with leaving := true } e.variants }).hold n r d).settleVariants n
    | none => s.complete n r d.id { status := statusBadVariant }

/-! ### SERVE_START and SERVE_STOP (R332 to R337) -/

def serveStartChecks (_ : Bits512) : List FieldCheck := [.zero 0x10 48]

/-- The engine that a configuration block describes. -/
def srvOf (bs : List Byte) (h : ProgHeader) : Srv :=
  { state := .running, lead := decide (h.devices ≤ 1) || h.position == numAt bs 0x14 2, program := numAt bs 0 8,
    hdr := some h, stepBeats := numAt bs 8 4, tokensMax := numAt bs 0x0C 2, batchMax := numAt bs 0x0E 2,
    chunk := numAt bs 0x10 2, pageLog2 := numAt bs 0x12 1, variantsMax := numAt bs 0x13 1, leadPos := numAt bs 0x14 2,
    specMax := numAt bs 0x16 2, vocab := numAt bs 0x18 4, pagePool := numAt bs 0x20 8, pageCount := numAt bs 0x28 4,
    countPool := numAt bs 0x30 8, countBytes := numAt bs 0x38 8 }

/-- Ranges and rules of a configuration block (R332, R333, R334, R370, R371, R373). -/
def State.configChecks (s : State) (n : Nat) (bs : List Byte) (h : ProgHeader) : List FieldCheck :=
  let e := srvOf bs h
  let x := h.shape
  [.range 0x00 h.serving, .range 0x08 (decide (x.budgetBeats + 1000 ≤ e.stepBeats)),
   .range 0x0C (decide (32 ≤ e.tokensMax) && decide (e.tokensMax ≤ 4096) && e.tokensMax % 32 == 0 && e.tokensMax == x.tokensMax),
   .range 0x0E (decide (8 ≤ e.batchMax) && decide (e.batchMax ≤ 4096) && e.batchMax % 8 == 0),
   .range 0x10 (decide (1 ≤ e.chunk) && decide (e.chunk ≤ e.tokensMax)),
   .range 0x12 (decide (4 ≤ e.pageLog2) && decide (e.pageLog2 ≤ 8) && 2 ^ e.pageLog2 == x.pageTokens),
   .range 0x13 (decide (e.variantsMax ≤ 16)), .range 0x14 (decide (e.leadPos < max 1 h.devices)),
   .range 0x16 (decide (e.specMax ≤ 64)),
   .range 0x18 (decide (32 ≤ e.vocab) && decide (e.vocab ≤ 262144) && e.vocab % 32 == 0 && e.vocab == x.vocab), .zero 0x1C 4,
   .range 0x20 (e.pagePool % 0x10000 == 0 && (e.pageCount == 0 || s.areaOk n e.pagePool (e.pageCount * (kvPlanes x + 1) * 32768) true)),
   .range 0x28 (decide (1024 ≤ e.pageCount) && decide (e.pageCount ≤ 1048576) && (s.reserveMasks n e).isSome), .zero 0x2C 4,
   .range 0x30 (e.countBytes == 0 || s.areaOk n e.countPool e.countBytes false), .range 0x38 (e.countBytes % 4096 == 0),
   .zero 0x40 64]

/-- The engine starts (R329, R332, R465, R548, R550). -/
def State.engineStart (s : State) (n r : Nat) (d : Desc) (e : Srv) (h : ProgHeader) (masks : Tab (List Nat)) : State :=
  let period := e.stepBeats * s.divisor n
  let e1 : Srv :=
    { e with prefixKey := Config.prefixKeyDraw s.freshCount, maskPages := masks,
             nextBoundary := (s.tmb.beat / period + 1) * period }
  let s1 := (s.drew.measure n h).withSrv n e1
  let s2 := if h.latencyCritical then s1.preemptFor n h else s1
  s2.complete n r d.id {}

def State.serveStart (s : State) (n r : Nat) (d : Desc) (hdr : Option ProgHeader) : State :=
  let p := s.part n
  let w := dfield d.bits 8 8
  let refuse (s : State) (st detail : Nat) : State := s.complete n r d.id { status := st, detail := detail }
  if w % 64 ≠ 0 ∨ !p.inWindow w 128 then refuse s statusBadAddress 0
  else match s.descRead n r d 12 w 128 with
    | (none, s1) => s1
    | (some bs, s1) =>
      let prog := numAt bs 0 8
      if !p.inWindow prog 1 then refuse s1 statusBadAddress 0
      else match hdr with
        | none => s1.failDesc n r d (s1.headerUnread n 12 prog) { status := statusPoisonRead }
        | some h =>
          if !p.inWindow prog h.size then refuse s1 statusBadAddress 0
          else if (s1.srv n).state ≠ .off then refuse s1 statusBadDescriptor 0x0008
          else if s1.sec.entropyFail then refuse s1 statusBadDescriptor 0xFFFF
          else if h.config ≠ s1.config n ∨ (h.latencyCritical ∧ !p.lcEnable) then refuse s1 statusConfigMismatch 0
          else
            let e := srvOf bs h
            match firstBad bs (s1.configChecks n bs h) with
            | some off => refuse s1 statusBadDescriptor (blockDetail off)
            | none => s1.engineStart n r d e h ((s1.reserveMasks n e).getD [])

def serveStopChecks (d : Bits512) : List FieldCheck := [.range 8 (decide (dfield d 8 1 ≤ 1)), .zero 9 55]

/-- SERVE_STOP (R336, R337): a stopped engine completes it at once; a member's waits for the plan. -/
def State.serveStop (s : State) (n r : Nat) (d : Desc) : State :=
  let e := s.srv n
  if e.state = .off then s.complete n r d.id {}
  else
    let next : EngState := if dfield d.bits 8 1 = 1 ∨ e.state = .aborting then .aborting else .draining
    let s1 := s.hold n r d
    if e.lead then s1.modSrv n fun e => { e with state := next } else s1

/-- The engine stops: its waiting SERVE_STOPs complete, its tables, tree and key are gone, and its footprint is free
(R336, R337, R400, R465, R550). -/
def State.engineStop (s : State) (n : Nat) : State :=
  let s1 := s.withSrv n {}
  let s2 := forAll (s1.heldDescs n [0x25, 0x27]) (fun (r, d) s => s.complete n r d.id {}) s1
  s2.settleJobs n

/-! ### Cocoon buffers (R399, R400) -/

def cocoonSupplyChecks (d : Bits512) : List FieldCheck :=
  [.range 0x10 (decide (1 ≤ dfield d 0x10 4) && decide (dfield d 0x10 4 ≤ 65536)),
   .range 0x14 (decide (21 ≤ dfield d 0x14 1) && decide (dfield d 0x14 1 ≤ 30)), .zero 0x15 43]

/-- Buffers enter the lowest free pool slots. -/
def addBufs : List DWord → Nat → Tab (DWord × Bool) → Tab (DWord × Bool)
  | [], _, t => t
  | a :: as, k, t =>
    match findFrom (fun i => (tabFind t i).isNone) 1 65536 k with
    | some i => addBufs as (i + 1) (tabPut i (a, false) t)
    | none => t

def State.cocoonSupply (s : State) (n r : Nat) (d : Desc) (addrs : Option (List DWord)) : State :=
  let e := s.srv n
  let log2 := dfield d.bits 0x14 1
  let count := dfield d.bits 0x10 4
  let refuse (off : Nat) : State := s.complete n r d.id { status := statusBadDescriptor, detail := off }
  if 65536 < e.bufs.length + count then refuse 0x10
  else if e.bufLog2.isSome ∧ e.bufLog2 ≠ some log2 then refuse 0x14
  else match addrs with
    | none => s.flagReadFails n r d (BitVec.ofNat 64 (dfield d.bits 8 8))
    | some as =>
      let as := as.take count
      let s1 := (s.hostAsk (n + 1) (BitVec.ofNat 64 (dfield d.bits 8 8))).modRing n r fun g => { g with flagTries := 0 }
      if as.any fun a => a.toNat % 2 ^ log2 != 0 then s1.complete n r d.id { status := statusBadAddress }
      else
        let bufs := addBufs as 0 e.bufs
        (s1.modSrv n fun e => { e with bufLog2 := some log2, bufs := bufs }).complete n r d.id { result := bufs.length }

def cocoonReclaimChecks (d : Bits512) : List FieldCheck :=
  [.range 0x10 (decide (1 ≤ dfield d 0x10 4) && decide (dfield d 0x10 4 ≤ 65536)), .zero 0x14 44]

/-- Up to COUNT free buffers return to the host (R400). -/
def State.reclaim (s : State) (n r : Nat) (d : Desc) : State :=
  let e := s.srv n
  let ks := e.freeBufs.take (dfield d.bits 0x10 4)
  let bytes := ks.flatMap fun k => bytesOfNat 8 (tabGet (0, false) e.bufs k).1.toNat
  let s1 := s.modSrv n fun e => { e with bufs := e.bufs.filter fun (k, _) => !ks.contains k }
  let s2 := if ks.isEmpty then s1 else s1.hostPut (n + 1) (BitVec.ofNat 64 (dfield d.bits 8 8)) bytes
  s2.complete n r d.id { result := ks.length }

/-! ### The rows -/

/-- REQ_SUBMIT (R339). -/
def execReqSubmit (r : RingRef) (s : State) (errs : Errs := []) :=
  actOn errs (whenRunning fun s =>
  s.startDesc r.vf.val r.ring.val (· == 0x20) reqSubmitChecks fun d s => s.submit r.vf.val r.ring.val d) s
/-- REQ_CANCEL (R344). -/
def execReqCancel (r : RingRef) := act (whenRunning fun s =>
  s.startDesc r.vf.val r.ring.val (· == 0x21) reqCancelChecks fun d s =>
    s.srvGate r.vf.val r.ring.val d true true fun s => s.hold r.vf.val r.ring.val d)
/-- REQ_CONTROL with OP 1 (R346). -/
def execReqControlPause (r : RingRef) := act (whenRunning fun s => s.control r.vf.val r.ring.val 1)
/-- REQ_CONTROL with OP 2 (R346). -/
def execReqControlResume (r : RingRef) := act (whenRunning fun s => s.control r.vf.val r.ring.val 2)
/-- REQ_CONTROL with OP 3 (R346). -/
def execReqControlPriority (r : RingRef) := act (whenRunning fun s => s.control r.vf.val r.ring.val 3)
/-- REQ_CONTROL with OP 4 (R346). -/
def execReqControlDeadline (r : RingRef) := act (whenRunning fun s => s.control r.vf.val r.ring.val 4)
/-- REQ_READ (R347). -/
def execReqRead (r : RingRef) := act (whenRunning fun s =>
  s.startDesc r.vf.val r.ring.val (· == 0x23) reqReadChecks fun d s => s.reqRead r.vf.val r.ring.val d)
/-- VARIANT_REG (R348). -/
def execVariantReg (r : RingRef) (s : State) (errs : Errs := []) :=
  actOn errs (whenRunning fun s =>
  s.startDesc r.vf.val r.ring.val (· == 0x24) variantRegChecks fun d s => s.variantReg r.vf.val r.ring.val d) s
/-- VARIANT_UNREG (R349). -/
def execVariantUnreg (r : RingRef) := act (whenRunning fun s =>
  s.startDesc r.vf.val r.ring.val (· == 0x25) variantUnregChecks fun d s => s.variantUnreg r.vf.val r.ring.val d)
/-- SERVE_START (R332); `hdr` is the header of the settled program at PROGRAM. -/
def execServeStart (r : RingRef) (hdr : Option ProgHeader) (s : State) (errs : Errs := []) :=
  actOn errs (whenRunning fun s =>
  s.startDesc r.vf.val r.ring.val (· == 0x26) serveStartChecks fun d s => s.serveStart r.vf.val r.ring.val d hdr) s
/-- SERVE_STOP (R336). -/
def execServeStop (r : RingRef) := act (whenRunning fun s =>
  s.startDesc r.vf.val r.ring.val (· == 0x27) serveStopChecks fun d s => s.serveStop r.vf.val r.ring.val d)
/-- PAGE_UPDATE (R383). -/
def execPageUpdate (r : RingRef) := act (whenRunning fun s =>
  s.startDesc r.vf.val r.ring.val (· == 0x30) pageUpdateChecks fun d s => s.startPageUpdate r.vf.val r.ring.val d)
/-- COCOON_SUPPLY (R399); `addrs` is what host memory returns at ADDRS. -/
def execCocoonSupply (r : RingRef) (addrs : Option (List DWord)) := act (whenRunning fun s =>
  s.startDesc r.vf.val r.ring.val (· == 0x31) cocoonSupplyChecks fun d s => s.cocoonSupply r.vf.val r.ring.val d addrs)
/-- COCOON_RECLAIM (R400): at the next boundary, or at once where no engine runs. -/
def execCocoonReclaim (r : RingRef) := act (whenRunning fun s =>
  s.startDesc r.vf.val r.ring.val (· == 0x32) cocoonReclaimChecks fun d s =>
    if (s.srv r.vf.val).state = .off then s.reclaim r.vf.val r.ring.val d else s.hold r.vf.val r.ring.val d)

end Sys2Proof.Machine
end

