-- ==== Sys2Proof/Machine/Boundary.lean ====
section
/-! DEFINITION. What the serving engine does at a step boundary, orders 1 and 2: releases, cocoons, controls, resumes, draft
trees and placement (R343 to R347, R351, R352, R355 to R361, R383, R384, R392, R393, R397, R402 to R405). -/

namespace Sys2Proof.Machine

def Srv.req (e : Srv) (i : Nat) : Req := tabGet {} e.reqs i

/-- SRV_QUEUE takes effect at a step boundary (R591). -/
def State.latchQueues (s : State) (n : Nat) : State :=
  let p := s.part n
  let own (k : Nat) : Bool := decide (p.qbase.toNat ≤ k) && decide (k < p.qbase.toNat + p.qcount.toNat)
  let others := s.queuesNow.filter fun x => !own x.1
  { s with queuesNow := (s.queues.filter fun x => own x.1).foldl (fun t x => tabPut x.1 x.2 t) others }

/-- A tenant's queue as this step sees it. -/
def State.tenantQueue (s : State) (n t : Nat) : TenantQueue := tabGet {} s.queuesNow ((s.part n).qbase.toNat + t)

/-! ### Releases (R343, R349, R397) -/

/-- Entries whose final record is gone leave the table. -/
def State.releaseDone (s : State) (n : Nat) : State :=
  let s1 := s.settleCancels n
  (forAll (s1.srv n).reqs (fun (i, q) s => if s1.finalGone n q then s.freeEntry n i else s) s1).settleVariants n

/-- The last page of a list goes back. -/
def State.dropLast (s : State) (n i : Nat) : State :=
  let q := (s.srv n).req i
  let k := q.list.length - 1
  (s.dropPage n (q.list.getD k 0) (tabFind q.nodes k)).modReq n i fun q =>
    { q with list := q.list.take k, nodes := tabErase k q.nodes, generation := q.generation + 1, listDirty := true }

/-- Pages that hold only tentative slots go back after the commit that rejected them (R397). -/
def trimPages (n i keep : Nat) : Nat → State → State
  | 0, s => s
  | fuel + 1, s => if ((s.srv n).req i).list.length ≤ keep then s else trimPages n i keep fuel (s.dropLast n i)

def State.endDraft (s : State) (n i : Nat) : State :=
  let q := (s.srv n).req i
  if q.draft.isEmpty then s
  else
    let keep := ceilDiv (q.nextPos - 1) (s.srv n).pageTokens
    (if q.going then trimPages n i keep q.list.length s else s).modReq n i fun q => { q with draft := [] }

/-! ### Cocoons (R402 to R405) -/

/-- Buffers taken for a request's cocoon of the pages at the list indices `idx` hold it, on this member as many of them as its
stream needs (R401, R402). -/
def State.beginCocoon (s : State) (n i : Nat) (bufs idx : List Nat) : State :=
  let e := s.srv n
  let q := e.req i
  let c : Cocoon :=
    { bufs := bufs.take ((e.cocoonBufs q idx.length).getD bufs.length), held := bufs,
      saved := idx.map fun k => (k, (e.page (q.list.getD k 0)).isSealed),
      shared := q.list.length - idx.length, generation := q.generation, written := false, parked := false, size := 0,
      newPages := [], tries := 0, restored := false, failed := false }
  (s.modSrv n fun e => { e with bufs := e.bufs.map fun (k, a, u) => (k, a, u || bufs.contains k) }).modReq n i fun q =>
    { q with saved := some c }

/-- A request is paused: buffers are taken, and its pages are to be written (R402 step 1). -/
def State.pause (s : State) (n i : Nat) : State :=
  let e := s.srv n
  let idx := e.privateIdx (e.req i)
  match e.cocoonBufs (e.req i) idx.length with
  | none => s
  | some m => (s.beginCocoon n i (e.freeBufs.take m) idx).modReq n i fun q => { q with state := .paused, pausedFrom := q.state }

/-- The saved pages are free and the list names none of them (R402 step 3). -/
def State.park (s : State) (n i : Nat) (c : Cocoon) : State :=
  let q := (s.srv n).req i
  let s1 := forAll c.saved (fun (k, _) s => s.dropPage n (q.list.getD k 0) (tabFind q.nodes k)) s
  s1.drew.modReq n i fun q =>
    { q with list := c.saved.foldl (fun l x => l.set x.1 pageInCocoon) q.list, generation := q.generation + 1,
             listDirty := true, saved := some { c with parked := true },
             nodes := c.saved.foldl (fun t x => tabErase x.1 t) q.nodes, cocoon := Config.freeBits s1.freshCount 32 }

/-- The new pages enter the list, the buffers return, and the request runs on (R404 step 3). -/
def State.unpark (s : State) (n i : Nat) (c : Cocoon) : State :=
  let pairs := c.saved.zip c.newPages
  let s1 := s.modSrv n fun e =>
    { (pairs.foldl (fun e x => e.modPage x.2 fun g => { g with isSealed := x.1.2 }) e) with
        bufs := e.releaseBufs c.held }
  s1.modReq n i fun q =>
    { q with list := pairs.foldl (fun l x => l.set x.1.1 x.2) q.list, generation := q.generation + 1, listDirty := true,
             saved := none, cocoon := 0xFFFFFFFF, state := q.pausedFrom }

/-- What every member has finished takes effect (R402 step 3, R404 step 3, R405); a request that the host paused while it
was resuming is paused again (R346). -/
def State.cocoonStep (s : State) (n i : Nat) : State :=
  let q := (s.srv n).req i
  match q.saved with
  | none => s
  | some c =>
    if !q.going then s
    else if c.failed then s.endRequest n i 4
    else if q.state = .paused ∧ c.written ∧ !c.parked then s.park n i c
    else if q.state = .resuming ∧ c.restored then
      let s1 := s.unpark n i c
      if q.hostPaused then s1.pause n i else s1
    else s

/-! ### Cancels, controls, reads and page updates (R344 to R347, R383, R384) -/

def State.applyCancel (s : State) (n r : Nat) (d : Desc) : State :=
  match (s.srv n).find (BitVec.ofNat 64 (dfield d.bits 8 8)) with
  | none => s.complete n r d.id { status := statusUnknownRequest }
  | some (i, q) =>
    let note (s : State) (st : Nat) : State := s.modReq n i fun q => { q with cancels := q.cancels ++ [(r, d.id, st)] }
    (if q.state = .done then note s statusAlreadyFinished else note (s.endRequest n i 3) statusCancelled).settleCancels n

/-- A live request whose end is not decided, by tag. -/
def Srv.findGoing (e : Srv) (tag : DWord) : Option (Nat × Req) := e.reqs.find? fun (_, q) => q.going && q.tag == tag

def State.applyControl (s : State) (n r : Nat) (d : Desc) : State :=
  let value := dfield d.bits 0x18 8
  let done (s : State) (st : Nat) : State := s.complete n r d.id { status := st }
  match (s.srv n).findGoing (BitVec.ofNat 64 (dfield d.bits 8 8)) with
  | none => done s statusUnknownRequest
  | some (i, q) =>
    match dfield d.bits 0x10 1 with
    | 1 =>
      if q.state = .paused ∨ q.state = .resuming then done (s.modReq n i fun q => { q with hostPaused := true }) statusOk
      else if (s.srv n).cocoonFits q then
        done ((s.pause n i).modReq n i fun q => { q with hostPaused := true }) statusOk
      else done s statusCocoonFull
    | 2 => done (s.modReq n i fun q => { q with hostPaused := false }) statusOk
    | 3 => done (s.modReq n i fun q => { q with priority := value }) statusOk
    | _ => done (s.modReq n i fun q => { q with deadline := value }) statusOk

def State.applyRead (s : State) (n r : Nat) (d : Desc) : State :=
  let e := s.srv n
  let first := dfield d.bits 8 4
  let bytes := (List.range (dfield d.bits 0x0C 4)).flatMap fun k => reqBytes e (e.req (first + k))
  (s.winWrite n (dfield d.bits 0x10 8) bytes).1.complete n r d.id { result := s.tmb.beat }

/-- The rules of R384 in their order: the offset of the field named by the first that fails. -/
def Srv.updateBad (e : Srv) (q : Req) (index : Nat) (ps : List Nat) : Option Nat :=
  let full := q.cached / e.pageTokens
  let entryOk (k : Nat) : Bool :=
    let p := ps.getD k 0
    let x := e.page p
    if index + k < full then x.isFree || x.isSealed else x.isFree && !(ps.take k).contains p
  if q.state = .paused ∨ q.state = .resuming then some 0x08
  else if q.list.length < index then some 0x14
  else if max q.list.length (index + ps.length) * e.pageTokens < q.cached then some 0x20
  else if !(ps.all fun p => decide (p < e.pageCount)) || !((List.range ps.length).all entryOk) then some 0x18
  else none

/-- One entry of a list is replaced or appended (R383, R384, R389). -/
def State.setEntry (s : State) (n i k p : Nat) : State :=
  let e := s.srv n
  let q := e.req i
  let full := q.cached / e.pageTokens
  let s1 := s.modSrv n fun e => e.modPage p fun x =>
    { x with refs := x.refs + 1, isSealed := x.isSealed || decide (k < full), supplied := x.supplied || x.isFree }
  if k < q.list.length then
    (s1.dropPage n (q.list.getD k 0) (tabFind q.nodes k)).modReq n i fun q =>
      { q with list := q.list.set k p, nodes := tabErase k q.nodes }
  else s1.modReq n i fun q => { q with list := q.list ++ [p] }

def State.applyUpdate (s : State) (n r : Nat) (d : Desc) : State :=
  let index := dfield d.bits 0x14 4
  let count := dfield d.bits 0x20 4
  match (s.srv n).findGoing (BitVec.ofNat 64 (dfield d.bits 8 8)) with
  | none => s.complete n r d.id { status := statusUnknownRequest }
  | some (i, q) =>
    if dfield d.bits 0x10 4 ≠ q.generation.toNat then s.complete n r d.id { status := statusStaleGeneration }
    else match s.descRead n r d 12 (dfield d.bits 0x18 8) (4 * count) with
      | (none, s1) => s1
      | (some bs, s1) =>
        let ps := (List.range count).map fun k => numAt bs (4 * k) 4
        match (s1.srv n).updateBad q index ps with
        | some off => s1.complete n r d.id { status := statusBadDescriptor, detail := off }
        | none =>
          let s2 := (forAll (List.range count) (fun k s => s.setEntry n i (index + k) (ps.getD k 0)) s1).modReq n i
            fun q => { q with generation := q.generation + 1, listDirty := true }
          s2.complete n r d.id { result := (q.generation + 1).toNat }

/-- Descriptors that were ready before the boundary, in the order of fetch (R357 order 1, R383, R400). -/
def State.applyHeld (s : State) (n : Nat) : State :=
  forAll (s.heldDescs n [0x21, 0x22, 0x23, 0x30, 0x32]) (fun (r, d) s => match descOpcode d.bits with
    | 0x21 => s.applyCancel n r d
    | 0x22 => s.applyControl n r d
    | 0x23 => s.applyRead n r d
    | 0x30 => s.applyUpdate n r d
    | _ => s.reclaim n r d) s

/-- Requests whose ring is disabled, and every request under a SERVE_STOP with MODE 1, end ABORTED (R336, R361). -/
def State.endAborted (s : State) (n : Nat) : State :=
  (forAll (s.srv n).reqs (fun (i, q) s =>
    if q.going && ((s.srv n).state == .aborting || !(s.ring n q.ring).enable) then s.endRequest n i 7 else s) s).settleCancels n

/-! ### Draft trees (R392, R393) -/

/-- Add a chain below a node: equal prefixes merge, and at most `limit` nodes stand. -/
def addChain (limit : Nat) : List Nat → Nat → Nat → List DraftNode → List DraftNode
  | [], _, _, ns => ns
  | t :: ts, parent, depth, ns =>
    match ns.findIdx? fun x => x.parent == parent && x.token == t with
    | some k => addChain limit ts (k + 1) (depth + 1) ns
    | none =>
      if limit ≤ ns.length then ns
      else addChain limit ts (ns.length + 1) (depth + 1) (ns ++ [{ token := t, parent := parent, depth := depth }])

/-- Number nodes by depth, and within one depth by first proposal. -/
def renumber (ns : List DraftNode) : List DraftNode :=
  let order := sortBy (fun k : Nat => (ns.getD k { token := 0, parent := 0, depth := 0 }).depth) (List.range ns.length)
  order.map fun k =>
    let x := ns.getD k { token := 0, parent := 0, depth := 0 }
    { x with parent := if x.parent = 0 then 0 else order.idxOf (x.parent - 1) + 1 }

/-- The chain that follows an occurrence: the known tokens, at most 8. -/
def chainFrom (ts : List (Option Nat)) (k : Nat) : List Nat := (((ts.drop k).take 8).takeWhile Option.isSome).filterMap id

/-- The draft tree that the weevil finds in the tokens `ts` of the positions from `lo` up to the root `pos`, before the slots
left to the request bound it (R392, R393). -/
def Srv.treeOf (e : Srv) (pos lo : Nat) (ts : List (Option Nat)) : List DraftNode :=
    let limit := min e.specMax 63
    let at_ (x : Nat) : Option Nat := (ts[x - lo]?).join
    let key := (at_ (pos - 1), at_ pos)
    let hits := ((List.range (pos - 1 - lo)).reverse.filter fun k =>
      key.1.isSome && key.2.isSome && at_ (lo + k) == key.1 && at_ (lo + k + 1) == key.2).take 4
    let all := hits.foldl (fun ns k => addChain e.specMax (chainFrom ts (k + 2)) 0 1 ns) []
    let u := e.unitTokens
    let unit := u - (pos + 1) % u
    let group := if e.shape.exact then unit else 32 - (pos + 1) % 32
    (renumber all).take (min limit (min unit group))

/-- The draft tree of a request from the token records (R392). A read that fails ends the request. -/
def State.draftTree (s : State) (n i : Nat) : List DraftNode × State :=
  let e := s.srv n
  let q := e.req i
  let pos := q.nextPos - 1
  if q.state ≠ .decode ∨ !q.speculate ∨ e.specMax = 0 ∨ pos = 0 then ([], s)
  else
    match s.tokensAt n q (pos - 4095) (pos + 1) with
    | (some (w, f), _, s1) => ([], s1.engineReadFails n i w f)
    | (none, ts, s1) => (e.treeOf pos (pos - 4095) ts, s1)

/-! ### Placement (R351, R352, R355, R358, R361) -/

/-- A request that may be placed, with the slots that it wants and its draft tree. -/
structure Cand where
  entry : Nat
  want : Nat
  tree : List DraftNode
deriving DecidableEq, Repr

/-- A batch in the making: the state, and what is left of the step. -/
structure Batch where
  st : State
  /-- token slots, requests and logits rows left -/
  tok : Nat
  reqs : Nat
  rows : Nat
  /-- records already due at each ring -/
  due : Tab Nat
  variants : List Nat
  placed : List Placed

/-- A paused, waiting or ended request is no candidate; neither is a WAITING one of a queue on HOLD (R351, R358). -/
def State.runnable (s : State) (n : Nat) (q : Req) : Bool :=
  !q.hostPaused && match q.state with
    | .waiting => !(s.tenantQueue n q.tenant).hold
    | .prefill => true
    | .decode => true
    | _ => false

def State.cand (s : State) (n i : Nat) : Cand × State :=
  let q := (s.srv n).req i
  let (tree, s1) := s.draftTree n i
  ({ entry := i, tree := tree,
     want := if q.state = .decode then 1 + tree.length else max 1 (min (s.srv n).chunk (q.promptLen - q.cached)) }, s1)

/-- Every request that may run, as a candidate. -/
def State.cands (s : State) (n : Nat) : List (Cand × Req) × State :=
  ((s.srv n).reqs.filter fun (_, q) => s.runnable n q).foldl (fun (cs, s) (i, q) =>
    let (c, s1) := s.cand n i
    (cs ++ [(c, q)], s1)) ([], s)

/-- Pages that a step up to position `last` still needs. -/
def Srv.pagesFor (e : Srv) (q : Req) (last : Nat) : Nat := last / e.pageTokens + 1 - q.list.length

/-- Pages that pauses under way will free. -/
def Srv.coming (e : Srv) : Nat :=
  ((e.reqs.filter fun (_, q) => q.state == .paused).map fun (_, q) => match q.saved with
    | some c => if c.parked || c.failed then 0 else c.saved.length
    | none => 0).sum

/-- Pages that a request may take: free ones that no other request has reserved (R354). -/
def Srv.avail (e : Srv) (q : Req) : Nat := e.freePages - (e.reserved - q.reserved)

/-- Private pages of every other request (R355). -/
def Srv.othersPrivate (e : Srv) (i : Nat) : Nat :=
  ((e.reqs.filter fun (k, q) => k != i && q.live).map fun (_, q) => (e.privateIdx q).length).sum

/-- Pause victims until enough pages are on their way (R355). -/
def pauseFor (n need : Nat) : List (Nat × Req) → State → State
  | [], s => s
  | (v, _) :: vs, s =>
    let e := s.srv n
    if need ≤ e.coming then s
    else if (e.privateIdx (e.req v)).isEmpty || !e.cocoonFits (e.req v) then pauseFor n need vs s
    else pauseFor n need vs (s.pause n v)

/-- A request in need of pages that are not free (R355). -/
def State.lacksPages (s : State) (n i need : Nat) : State :=
  let e := s.srv n
  let q := e.req i
  if e.freePages + e.othersPrivate i < need then s.endRequest n i 6
  else pauseFor n (need - e.avail q) (e.victims q i) s

/-- Take pages for a request. -/
def givePages (n i : Nat) : Nat → State → State
  | 0, s => s
  | k + 1, s =>
    match s.takePage n with
    | some (p, s1) =>
      givePages n i k ((s1.listAdd n i p none).modReq n i fun q => { q with reserved := q.reserved - 1 })
    | none => s

/-- What a request would use of the step with `w` slots. -/
def placing (q : Req) (c : Cand) (w rows : Nat) : Placed × List DraftNode :=
  let tree := c.tree.take (min (w - 1) (rows - 1))
  let isDecode := q.state == .decode
  let tokens := if isDecode && w != 0 then 1 + tree.length else w
  let last := !isDecode && q.promptLen ≤ q.cached + tokens
  ({ entry := c.entry, position := if isDecode then q.nextPos - 1 else q.cached, tokens := tokens,
     samples := if isDecode then tokens else if last then 1 else 0, variant := q.variant, isPrefill := !isDecode,
     lastChunk := last, tree := !tree.isEmpty }, tree)

/-- Token-stream records that a placement could produce (R340, R361). -/
def recordsDue (p : Placed) (tree : List DraftNode) : Nat :=
  if p.samples = 0 then 0 else ceilDiv (1 + tree.foldl (fun m x => max m x.depth) 0) 4

/-- A variant fits the step (R332, R358). -/
def Batch.variantFits (b : Batch) (n v : Nat) : Bool :=
  v == 0 || b.variants.contains v || decide (b.variants.length < (b.st.srv n).variantsMax)

/-- A request that was placed in this step and has just been paused leaves the batch, with what it would have used
(R355, R402). -/
def Batch.withoutPaused (b : Batch) (n : Nat) : Batch :=
  let e := b.st.srv n
  let (out, kept) := b.placed.partition fun p => (e.req p.entry).state == .paused
  let recs (p : Placed) : Nat × Nat := ((e.req p.entry).ring, recordsDue p (e.req p.entry).draft)
  { st := forAll out (fun p s => s.modReq n p.entry fun q => { q with draft := [] }) b.st
    tok := b.tok + (out.map (·.tokens)).sum
    reqs := b.reqs + out.length
    rows := b.rows + (out.map (·.samples)).sum
    due := out.foldl (fun t p => tabSet 0 t (recs p).1 (tabGet 0 t (recs p).1 - (recs p).2)) b.due
    variants := ((kept.map (·.variant)).filter (· != 0)).dedup
    placed := kept }

/-- The weevil reads the prompt tokens of a chunk again (R338): the first read that fails, and the state after. -/
def State.readPrompt (s : State) (n i lo len : Nat) : Option (Nat × ReadFail) × State :=
  let w := ((s.srv n).req i).promptOff + 4 * lo
  let (x, s1) := s.winRead n w (4 * len)
  (x.fail.map fun f => (w, f), s1.modReq n i fun q =>
    { q with prompt := q.prompt.take lo ++ ((List.range len).map fun k => numAt x.bytes (4 * k) 4) ++ q.prompt.drop (lo + len) })

/-- A request that this step skips: it is not runnable, its variant or its logits rows do not fit, or its ring lacks
room for its records (R334, R358, R361). -/
def Batch.skips (b : Batch) (n : Nat) (c : Cand) (w : Nat) : Bool :=
  let q := (b.st.srv n).req c.entry
  let (p, tree) := placing q c w b.rows
  let recs := recordsDue p tree
  b.rows < p.samples || !b.st.runnable n q || !b.variantFits n q.variant ||
    (decide (0 < recs) && decide ((b.st.ring n q.ring).room < tabGet 0 b.due q.ring + recs))

/-- Place a request, or leave it out: the batch, and the slots that it took. The loop of R358 places best-effort requests
with no slot too, once the slots have run out within one queue. -/
def Batch.place (b : Batch) (n : Nat) (c : Cand) (w : Nat) : Batch × Nat :=
  let s := b.st
  let e := s.srv n
  let q := e.req c.entry
  let (p, tree) := placing q c w b.rows
  let recs := recordsDue p tree
  if b.reqs == 0 || b.skips n c w then (b, 0)
  else
    let need := if p.tokens = 0 then 0 else e.pagesFor q (p.position + p.tokens - 1)
    if e.avail q < need then
      (({ b with st := (s.lacksPages n c.entry need).settleCancels n }).withoutPaused n, 0)
    else match if p.isPrefill then s.readPrompt n c.entry p.position p.tokens else (none, s) with
    | (some (a, f), s0) => ({ b with st := (s0.engineReadFails n c.entry a f).settleCancels n }, 0)
    | (none, s0) =>
      let s1 := (givePages n c.entry need s0).modReq n c.entry fun q =>
        { q with state := if q.state = .waiting then .prefill else q.state, draft := tree }
      let s2 := if q.state = .decode then s1.writeTokens n c.entry q.cached q.nextPos else s1
      let vs := if p.variant = 0 ∨ b.variants.contains p.variant then b.variants else b.variants ++ [p.variant]
      ({ st := s2, tok := b.tok - p.tokens, reqs := b.reqs - 1, rows := b.rows - p.samples,
         due := tabSet 0 b.due q.ring (tabGet 0 b.due q.ring + recs), variants := vs, placed := b.placed ++ [p] }, p.tokens)

/-- Latency-critical requests in the order of R352. -/
def lcOrder (cs : List (Cand × Req)) : List Cand :=
  let older := sortBy (fun x : Cand × Req => x.2.order) cs
  (sortBy (fun x : Cand × Req => 7 - x.2.priority) older).map (·.1)

/-- The next tenant queue after the pointer, wrapping (R358). -/
def nextQueue (ptr : Nat) (cs : List (Nat × Cand)) : Option Nat :=
  let qs := sortBy (fun k : Nat => k) (cs.map (·.1))
  match qs.find? fun q => decide (ptr < q) with
  | some q => some q
  | none => qs.head?

/-- Serve one queue while its deficit lasts: what is left of it, and of the batch; a skipped request stays (R358). -/
def serveQueue (n : Nat) : List Cand → Nat → Batch → List Cand × Nat × Batch
  | [], d, b => ([], d, b)
  | c :: cs, d, b =>
    let w := min c.want b.tok
    if b.skips n c w then
      let (left, d1, b1) := serveQueue n cs d b
      (c :: left, d1, b1)
    else if d < w ∨ b.reqs = 0 then (c :: cs, d, b)
    else
      let (b1, used) := b.place n c w
      serveQueue n cs (d - used) b1

/-- Deficit round-robin over the tenant queues (R358). -/
def roundRobin (n : Nat) : Nat → List (Nat × Cand) → Batch → Batch
  | 0, _, b => b
  | fuel + 1, cs, b =>
    if b.tok = 0 ∨ b.reqs = 0 then b
    else match nextQueue (b.st.srv n).ptr (cs.filter fun x => !b.skips n x.2 (min x.2.want b.tok)) with
      | none => b
      | some q =>
        let mine := (cs.filter fun x => x.1 == q).map (·.2)
        let d := tabGet 0 (b.st.srv n).deficits q + 16 * (b.st.tenantQueue n q).weight.toNat
        let (left, d1, b1) := serveQueue n mine d b
        let d2 := if left.all fun c => b1.skips n c (min c.want b1.tok) then 0 else d1
        let st := b1.st.modSrv n fun e => { e with deficits := tabSet 0 e.deficits q d2, ptr := q }
        roundRobin n fuel ((cs.filter fun x => x.1 != q) ++ left.map fun c => (q, c)) { b1 with st := st }

/-- Build the batch of a step (R357 order 2, R358). -/
def State.placeAll (s : State) (n : Nat) : Batch :=
  let e := s.srv n
  let (all, s) := s.cands n
  let lc := all.filter fun x => x.2.latency
  let be := sortBy (fun x : Cand × Req => x.2.order) (all.filter fun x => !x.2.latency)
  let b0 : Batch :=
    { st := s, tok := e.tokensMax, reqs := e.batchMax, rows := e.shape.sMax, due := [], variants := [], placed := [] }
  let order := lcOrder (lc.filter fun x => x.2.state != .waiting) ++ lcOrder (lc.filter fun x => x.2.state == .waiting)
  let b1 := order.foldl (fun b c => if b.tok = 0 then b else (b.place n c (min c.want b.tok)).1) b0
  roundRobin n (257 * (be.length + 1)) (be.map fun x => (x.2.tenant, x.1)) b1

/-! ### Resumes (R356, R404) -/

/-- Paused requests that may resume, in the order of R356. -/
def Srv.resumable (e : Srv) : List (Nat × Req) :=
  let rs := e.reqs.filter fun (_, q) => q.state == .paused && !q.hostPaused && match q.saved with
    | some c => c.parked && !c.failed
    | none => false
  let older := sortBy (fun x : Nat × Req => x.2.order) rs
  sortBy (fun x : Nat × Req => 2 * (7 - x.2.priority) + if x.2.latency then 0 else 1) older

/-- Take pages that no list holds yet. -/
def takePages (n : Nat) : Nat → State → List Nat × State
  | 0, s => ([], s)
  | k + 1, s =>
    match s.takePage n with
    | some (p, s1) =>
      let (ps, s2) := takePages n k s1
      (p :: ps, s2)
    | none => ([], s)

/-- Resume requests while the free pages cover the cocoon and the next step's need (R356, R404 step 1). -/
def resumeAll (n : Nat) : List (Nat × Req) → State → State
  | [], s => s
  | (i, q) :: rs, s =>
    let e := s.srv n
    match q.saved with
    | none => resumeAll n rs s
    | some c =>
      let w := if q.pausedFrom = .decode then 1 else max 1 (min e.chunk (q.promptLen - q.cached))
      let need := c.saved.length + e.pagesFor q (q.cached + w - 1)
      if e.avail q < need then s
      else
        let (ps, s1) := takePages n c.saved.length s
        resumeAll n rs (s1.modReq n i fun q => { q with state := .resuming, saved := some { c with newPages := ps } })

end Sys2Proof.Machine
end

