-- ==== Sys2Proof/Machine/Plans.lean ====
section
/-! DEFINITION. What a step boundary makes: mask rows, page-list snapshots, the tensors that the engine binds, its own jobs
on the near-bank engines, step plans and the start of the step program (R288, R299, R329, R334, R337, R357 orders 2 to 4,
R359, R380, R381, R394 to R396). -/

namespace Sys2Proof.Machine

/-! ### Mask rows (R395) -/

/-- Bits of a mask row. -/
def bitMap (len : Nat) (bits : List Nat) : List Byte := bytesOfNat len (bits.foldl (fun a k => a ||| 2 ^ k) 0)

/-- A node's own slot and its ancestors' slots of the unit. -/
def ancestors (draft : List DraftNode) (slot : Nat → Nat) : Nat → Nat → List Nat
  | 0, _ => []
  | fuel + 1, k =>
    if k = 0 then []
    else slot k :: ancestors draft slot fuel (draft.getD (k - 1) { token := 0, parent := 0, depth := 0 }).parent

/-- The 2,112 bytes of a mask row of a draft tree below the root at `pos` (R395). -/
def Srv.maskBytes (e : Srv) (pos : Nat) (draft : List DraftNode) : List Byte :=
  let u := e.unitTokens
  let slot (i : Nat) : Nat := (pos + i) % u
  let committed := List.range ((pos + 1) % u)
  bitMap 32 committed ++ List.replicate 32 0 ++ (List.range 64).flatMap fun k =>
    bitMap 32 (if k ≤ draft.length then ancestors draft slot 64 k else [])

/-- The reserved structure page of a stack that holds mask row `r` (R373, R395). -/
def Srv.maskPage (e : Srv) (stack r : Nat) : Option Nat := (tabGet [] e.maskPages stack)[r / 15]?

/-- The mask row of a placed request with a tree is written in every stack (R373, R395). -/
def State.writeMask (s : State) (n : Nat) (p : Placed) : State :=
  let e := s.srv n
  let q := e.req p.entry
  match q.maskRow with
  | some r =>
    if !p.tree then s
    else forAll e.maskPages (fun (k, _) s => match e.maskPage k r with
      | some g => (s.winWrite n (e.structAt g + 0x400 + r % 15 * 2112) (e.maskBytes p.position q.draft)).1
      | none => s) s
  | none => s

/-- Requests with a draft tree in this step keep or take a mask row, the lowest that is free; every other request gives its
row back (R395). -/
def State.assignRows (s : State) (n : Nat) (placed : List Placed) : State :=
  let speculates (i : Nat) : Bool := placed.any fun p => p.entry == i && p.tree
  let s1 := s.modSrv n fun e =>
    { e with reqs := e.reqs.map fun (i, q) => (i, if speculates i then q else { q with maskRow := none }) }
  forAll (placed.filter (·.tree)) (fun p s => s.modSrv n fun e =>
    let free := findFrom (fun r => !(e.reqs.any fun (_, q) => q.maskRow == some r)) 1 e.batchMax 0
    { e with reqs := tabMod {} e.reqs p.entry fun q => { q with maskRow := q.maskRow.or free } }) s1

/-! ### The tensors of a step and its snapshot (R334, R359, R380, R394) -/

/-- An entry of the length table (R359). -/
def lengthEntry (p : Placed) : BitVec 128 :=
  let flags := (if p.isPrefill then 1 else 0) + (if p.lastChunk then 2 else 0) + if p.tree then 4 else 0
  BitVec.ofNat 128 (p.entry + p.position * 2 ^ 32 + p.tokens * 2 ^ 64 + p.samples * 2 ^ 80 + p.variant * 2 ^ 96 +
    flags * 2 ^ 112)

/-- The length table: an entry for each placed request, and beyond them zero but for ENTRY (R359). -/
def Srv.lengthTable (e : Srv) : List (BitVec 128) :=
  e.placed.map lengthEntry ++ List.replicate (e.batchMax - e.placed.length) 0xFFFFFFFF

/-- Token ids of a placed request's slots: a chunk of its prompt, or its root and the nodes of its tree (R334, R394). -/
def Srv.slotTokens (e : Srv) (p : Placed) : List Nat :=
  let q := e.req p.entry
  (List.range p.tokens).map fun j =>
    if p.isPrefill then q.token (p.position + j)
    else if j = 0 then q.token p.position
    else (q.draft.getD (j - 1) { token := 0, parent := 0, depth := 0 }).token

/-- Entry, physical position and sequence position of a placed request's slots (R394). -/
def Srv.slotPlaces (e : Srv) (p : Placed) : List (Nat × Nat × Nat) :=
  let q := e.req p.entry
  (List.range p.tokens).map fun j =>
    (p.entry, p.position + j, p.position +
      if p.tree then (if j = 0 then 0 else (q.draft.getD (j - 1) { token := 0, parent := 0, depth := 0 }).depth) else j)

/-- The token slots whose logits go to a placed request's rows, where its slots begin at `first` (R334, R359). -/
def sampleSlots (first : Nat) (p : Placed) : List Int :=
  (List.range p.samples).map fun (r : Nat) => if p.isPrefill then ((first + p.tokens - 1 : Nat) : Int) else ((first + r : Nat) : Int)

/-- Rows of logits in placement order. -/
def sampleRows : Nat → List Placed → List Int
  | _, [] => []
  | first, p :: ps => sampleSlots first p ++ sampleRows (first + p.tokens) ps

/-- What the engine binds to the tensors of R334 for this step; `tokens` are the ids of the counted slots. -/
def Srv.boundOf (e : Srv) (tokens : List Nat) : Bound :=
  let rows := sampleRows 0 e.placed
  { tokens := tokens, lengths := e.lengthTable, sampleIdx := rows ++ List.replicate (e.shape.sMax - rows.length) (-1),
    slots := e.placed.flatMap e.slotPlaces }

/-- The weevil copies the page lists of the placed requests into the step's snapshot and binds the step's tensors (R334,
R357 order 2, R380). -/
def State.bindStep (s : State) (n : Nat) (tokens : List Nat) : State :=
  s.modSrv n fun e =>
    { e with bound := e.boundOf tokens,
             lists := e.placed.foldl (fun t p => tabPut p.entry ((e.req p.entry).generation, (e.req p.entry).list) t) [] }

/-! ### The engine's jobs on the near-bank engines (R288, R299, R306, R381, R395, R396) -/

/-- A record of the engine: header and body (R288). The header's NBEs are the owners of the units that it names. -/
def engineRecord (kind : Nat) (exact : Bool) (owners : List Nat) (stack act actBytes dst stride : Nat) (body : List Byte) :
    BitVec 1024 :=
  let mask := owners.dedup.foldl (fun a k => a ||| 2 ^ k) 0
  BitVec.ofNat 1024 (natOfBytes (bytesOfNat 1 kind ++ bytesOfNat 1 (if exact then 1 else 0) ++ bytesOfNat 2 mask ++
    bytesOfNat 1 stack ++ bytesOfNat 3 0 ++ bytesOfNat 4 act ++ bytesOfNat 4 actBytes ++ bytesOfNat 8 dst ++
    bytesOfNat 4 stride ++ bytesOfNat 4 0 ++ body))

/-- The engine offers a job to its near-bank engines (R288, R290). -/
def State.offerJob (s : State) (n : Nat) (job : Option Nat) (record : BitVec 1024) (list pairs : List Byte) : State :=
  { s with nextNbeJob := s.nextNbeJob + 1,
           nbeJobs := tabPut s.nextNbeJob { record := record, off := 0, part := n, issuer := none, flag := none, job := job,
                                            own := some (list, pairs), phase := .offered } s.nbeJobs }

/-- Stack of a window offset of a partition. -/
def State.stackAt (s : State) (n w : Nat) : Nat := stackOf (((s.part n).dpa w).getD 0)

/-- Groups of things by stack, ascending. -/
def byStack {α : Type} (at_ : α → Nat) (xs : List α) : List (Nat × List α) :=
  ((List.range 8).map fun k => (k, xs.filter fun x => at_ x == k)).filter fun x => !x.2.isEmpty

/-- Where a list or a table that the engine made stands: no rule says, so its offset is a free value (log 123). -/
def freePlace (draw k : Nat) : List Byte := bytesOf (Config.freeAt draw k 64) 8

/-- Units of a request that hold the slots of its accepted moves, in every plane (R396). -/
def Srv.moveUnits (e : Srv) (list : List Nat) (moves : List (Nat × Nat)) : List Nat :=
  let x := (moves.headD (0, 0)).2
  let page := list.getD (x / e.pageTokens) 0
  let unit := x % e.pageTokens / kvUnitSlots e.shape * 4096
  (List.range (kvPlanes e.shape)).flatMap fun k => [e.pageAt page k + unit, e.pageAt page k + 16384 + unit]

/-- A MOVE in every stack that holds some of those units (R306, R396). -/
def State.offerMoves (s : State) (n : Nat) (job : Option Nat) (list : List Nat) (moves : List (Nat × Nat)) : State :=
  let e := s.srv n
  let u := e.unitTokens
  let pairs := moves.flatMap fun (a, b) => bytesOfNat 2 (a % u) ++ bytesOfNat 2 (b % u)
  let groups := byStack (s.stackAt n) (e.moveUnits list moves)
  if moves.isEmpty then s
  else forAll groups (fun (k, units) s =>
    let body := freePlace s.freshCount 0 ++ bytesOfNat 4 units.length ++ bytesOfNat 4 (kvSlotBytes e.shape) ++
      freePlace s.freshCount 1 ++ bytesOfNat 4 moves.length
    s.drew.offerJob n job (engineRecord 4 false (units.map ownerNbe) k 0 0 0 0 body) (units.flatMap (bytesOfNat 8)) pairs) s

/-- Entries of the unit list of one plane: every key unit that holds a slot below `length`, in list order (R299, R381); `mask`
is the row of the units that hold a slot past `root`. -/
def Srv.planeUnits (e : Srv) (list : List Nat) (plane length rows : Nat) (mask : Option (Nat × Nat)) : List UnitEntry :=
  let u := e.unitTokens
  (List.range (ceilDiv length u)).map fun i =>
    let first := i * u
    let key := e.pageAt (list.getD (first / e.pageTokens) 0) plane + first % e.pageTokens / kvUnitSlots e.shape * 4096
    let slots := min u (length - first)
    { key := key, val := key + 16384, index0 := first, slots := slots, qhead := 0, qcount := rows, num := i,
      mask := match mask with
        | some (root, r) => if root + 1 < first + slots then r % 15 else 0xFFFFFFFF
        | none => 0xFFFFFFFF }

/-- One attention of a plane: the query rows, the length that they see, and for a draft tree its root and mask row. -/
structure AttnSpan where
  plane : Nat
  list : List Nat
  rows : Nat
  length : Nat
  mask : Option (Nat × Nat)
deriving DecidableEq, Repr

/-- What a placed request attends in a plane: a tree in one job under its mask, any other slot in a job of its own, which
reaches its own position (R377, R395; log 123). -/
def Srv.spans (e : Srv) (plane : Nat) (p : Placed) : List AttnSpan :=
  let list := (tabGet ((0 : Word), []) e.lists p.entry).2
  if p.tokens = 0 then []
  else if p.tree then
    [{ plane := plane, list := list, rows := p.tokens, length := p.position + p.tokens,
       mask := (e.req p.entry).maskRow.map fun r => (p.position, r) }]
  else (List.range p.tokens).map fun j => { plane := plane, list := list, rows := 1, length := p.position + j + 1, mask := none }

/-- The ATTN_SCORE or ATTN_VALUE of one span in one stack (R288, R299 to R303). -/
def State.offerAttn (s : State) (n : Nat) (job : Option Nat) (a : AttnSite) (x : AttnSpan) (stack : Nat)
    (es : List UnitEntry) (kind : Nat) : State :=
  let e := s.srv n
  let h := e.shape
  let row := alignUp (packedBytes h.headWidth a.qfmt.toNat) 64
  let stat := if kind = 3 then alignUp (4 + if h.exact then 2 + 2 * h.headWidth else 0) 64 else 0
  let (act, dst, stride) := Config.attnPlace e.program a.layer s.nextNbeJob kind
  let maskOff := match x.mask with
    | some (_, r) => (match e.maskPage stack r with | some g => e.structAt g + 0x400 | none => 0)
    | none => 0
  let body := freePlace s.freshCount 0 ++ bytesOfNat 4 es.length ++ bytesOfNat 2 h.headWidth ++ bytesOfNat 1 h.kvFormat.toNat ++
    bytesOfNat 1 a.qfmt.toNat ++ bytesOfNat 4 a.scale.toNat ++ bytesOfNat 1 x.rows ++ bytesOfNat 3 0 ++ bytesOfNat 8 maskOff ++
    bytesOfNat 8 x.length
  s.drew.offerJob n job
    (engineRecord kind h.exact (es.flatMap fun u => [ownerNbe u.key, ownerNbe u.val]) stack act.toNat (x.rows * (row + stat))
      dst.toNat stride.toNat body)
    (es.flatMap UnitEntry.bytes) []

/-- Both jobs of a span in every stack that holds some of its units; a list has at most 65,536 entries (R300). -/
def State.offerSpan (s : State) (n : Nat) (job : Option Nat) (a : AttnSite) (x : AttnSpan) : State :=
  let units := (s.srv n).planeUnits x.list x.plane x.length x.rows x.mask
  let groups := (byStack (fun u => s.stackAt n u.key) units).flatMap fun (k, es) =>
    (List.range (ceilDiv es.length 65536)).map fun i => (k, (es.drop (65536 * i)).take 65536)
  forAll groups (fun (k, es) s => (s.offerAttn n job a x k es 2).offerAttn n job a x k es 3) s

/-- The weevil builds the attention records of the step from its snapshots and issues them to the near-bank engines: for each
layer that is placed there, each local head, each query head of that head and each placed request (R288, R357 order 3,
R380). -/
def State.offerAttention (s : State) (n : Nat) (job : Option Nat) : State :=
  let e := s.srv n
  let sites := e.shape.attn.filter e.attnOnNbe
  let work := sites.flatMap fun a => (List.range e.shape.kvhLocal).flatMap fun h => (List.range a.heads).flatMap fun _ =>
    e.placed.flatMap fun p => (e.spans (a.layer * e.shape.kvhLocal + h) p).map fun x => (a, x)
  forAll work (fun (a, x) s => s.offerSpan n job a x) s

/-! ### Step plans and the step program (R329, R337, R357 orders 3 and 4) -/

/-- Committed tokens of a request: those of its prompt that are in the cache, and those that it generated. -/
def Req.known (q : Req) : Nat := if q.promptLen ≤ q.cached then q.nextPos else q.cached

/-- What a plan says of one request. -/
def Srv.planEntry (e : Srv) (i : Nat) : PlanEntry :=
  let q := e.req i
  { entry := i, row := BitVec.ofNat 1024 (natOfBytes (reqBytes e q)), variant := BitVec.ofNat 16 q.variant,
    pages := q.list.map (BitVec.ofNat 32), moves := q.moves,
    length := (e.placed.find? fun p => p.entry == i).map lengthEntry,
    committed := (List.range (q.known - q.planned)).map fun k => (q.planned + k, q.token (q.planned + k)),
    draft := q.draft.map fun d => (d.token, d.parent, d.depth), maskRow := q.maskRow }

/-- The plan of this boundary: every entry, those that left the table as FREE ones, and the edits. -/
def Srv.planOf (e old : Srv) (stop : Bool) : StepPlan :=
  let keys := e.reqs.map (·.1)
  let gone := (old.reqs.map (·.1)).filter fun k => !keys.contains k
  let placed := e.placed.map (·.entry)
  let rest := (keys ++ gone).filter fun k => !placed.contains k
  let was (k : Nat) : ReqState := (old.req k).state
  { entries := (placed ++ rest).map e.planEntry, taken := e.taken, released := e.released,
    pauses := e.reqs.filterMap fun (i, q) => if q.state = .paused ∧ was i ≠ .paused ∧ was i ≠ .resuming then
        q.saved.map fun c => (i, c.held, c.saved.map (·.1)) else none,
    resumes := e.reqs.filterMap fun (i, q) => if q.state = .resuming ∧ was i ≠ .resuming then
        q.saved.map fun c => (i, c.newPages) else none,
    pageStates := (e.pages.filter fun (_, x) => x.isSealed || x.node).map fun (p, x) => (p, x.isSealed, x.node),
    tokens := e.bound.tokens, stop := stop }

/-- The lead sends its plan where the engine spans several devices. -/
def State.sendPlan (s : State) (n : Nat) (old : Srv) (stop : Bool) : State :=
  let e := s.srv n
  let many := match e.hdr with | some h => decide (1 < h.devices) | none => false
  let s1 := if many then s.emit (.plan n (e.planOf old stop)) else s
  s1.modSrv n fun e => { e with reqs := e.reqs.map fun (i, q) => (i, { q with planned := q.known }) }

/-- The step program's run begins once its footprint is free and its MOVEs are complete (R357 order 4, R396, R465). -/
def State.startStep (s : State) (n : Nat) : State :=
  match (s.srv n).hdr with
  | none => s
  | some h =>
    let s1 := s.stamped
    let id := s1.nextJob
    let j : Job :=
      { id := id, part := n, ring := 0, desc := 0, tag := 0, program := (s.srv n).program, hdr := h, startBeat := 0,
        askedBeat := s.tmb.beat, state := .waiting, readyStamp := s1.stamp, preemptStamp := 0, beat := 0, beatSub := 0,
        holdQuanta := 0, ended := [], yieldStep := 0, serving := true }
    (({ s1 with nextJob := id + 1, jobs := tabPut id j s1.jobs }).modSrv n fun e =>
      { e with stepJob := some id, inStep := true, stepFault := false }).settleJobs n

/-- Order 3 and the start of order 4 on one member: the moves of the plan's requests come before the step's attention records,
and a step without a placed request runs no program (R357, R396). -/
def State.runStep (s : State) (n : Nat) (moves : List (List Nat × List (Nat × Nat))) : State :=
  let runs := !(s.srv n).placed.isEmpty
  let job := if runs then some s.nextJob else none
  let s1 := forAll moves (fun (list, m) s => s.offerMoves n job list m) s
  if runs then (s1.startStep n).offerAttention n job else s1

/-! ### The boundary (R357) -/

/-- Every request of the table, in entry order. -/
def State.eachReq (s : State) (n : Nat) (f : Nat → State → State) : State :=
  forAll ((s.srv n).reqs.map (·.1)) (fun i s => f i s) s

/-- Once a request's moves are issued, every committed token but the last has its place in the cache (R396). -/
def State.movesIssued (s : State) (n i : Nat) : State :=
  s.modReq n i fun q => if q.moves.isEmpty || !q.going then q else { q with moves := [], cached := q.nextPos - 1 }

/-- Orders 2 to 4 with the engine still running: the batch, the plan and the start of the step program. -/
def State.buildStep (s : State) (n : Nat) (old : Srv) : State :=
  let b := (resumeAll n (s.srv n).resumable s).placeAll n
  let s1 := (b.st.modSrv n fun e => { e with placed := b.placed }).assignRows n b.placed
  let s2 := forAll b.placed (fun p s => s.writeMask n p) (s1.eachReq n fun i s => s.writeList n i)
  let s3 := (s2.bindStep n (b.placed.flatMap (s2.srv n).slotTokens)).sendPlan n old false
  let moves := ((s3.srv n).reqs.filter fun (_, q) => q.going).map fun (_, q) => (q.list, q.moves)
  let s4 := (s3.eachReq n fun i s => s.movesIssued n i).modSrv n fun e => { e with taken := [], released := [] }
  s4.runStep n moves

/-- STEP_BOUNDARY at the lead (R357). A boundary does not fall within a step, and it waits in a hold (R438). -/
def State.stepBoundary (s : State) (n : Nat) : State :=
  let old := s.srv n
  if old.state = .off ∨ !old.lead ∨ old.inStep ∨ s.engineMoves n ∨ s.inHold (s.part n).swarm.toNat then s
  else
    let b := s.boundaryBeat n
    let s0 := ((s.advanceTo b).modSrv n fun e => { e with nextBoundary := b + s.stepPeriod n }).latchQueues n
    let s1 := s0.eachReq n fun i s => s.sealPages n i
    let s2 := s1.eachReq n fun i s => (s.endDraft n i).cocoonStep n i
    let s3 := ((s2.applyHeld n).releaseDone n).endAborted n
    let e := s3.srv n
    if (e.state == .draining || e.state == .aborting) && e.reqs.isEmpty then (s3.sendPlan n old true).engineStop n
    else s3.buildStep n old

/-- STEP_BOUNDARY (R357). -/
def execStepBoundary (n : Fin 16) (s : State) (errs : Errs := []) :=
  actOn errs (whenRunning fun s => s.stepBoundary n.val) s

end Sys2Proof.Machine
end

