-- ==== Sys2Proof/Machine/Steps.lean ====
section
/-! DEFINITION. The end of a step, members that follow a lead's plan, cocoons in host memory, and host reads that time
out (R329, R337, R350, R357 orders 5 to 8, R360 to R367, R401 to R405, R508). -/

namespace Sys2Proof.Machine

/-! ### Sampling and commit (R357 orders 5 to 8, R360, R363, R365, R366) -/

/-- What a step commits for one request: tokens, accepted draft nodes, and the END reason that it decides. -/
structure Walk where
  tokens : List Nat
  nodes : List Nat
  ending : Option Nat
deriving DecidableEq, Repr

/-- Sample from the root down the accepted path (R365, R366); `row` gives the logits of each node's position. -/
def State.walk (s : State) (n : Nat) (q : Req) (row : Nat → List Word) : Nat → Nat → List Nat → List Nat → Walk
  | 0, _, ts, ns => { tokens := ts, nodes := ns, ending := none }
  | fuel + 1, node, ts, ns =>
    let count (t : Nat) : Nat := if q.countLog2 = 0 then 0 else min (s.countOf n q t + ts.count t) (2 ^ 32 - 1)
    match q.params.choose count (row node) (q.nextPos + ts.length) with
    | none => { tokens := ts, nodes := ns, ending := some 5 }
    | some t =>
      let ts := ts ++ [t]
      if q.stop.contains (BitVec.ofNat 32 t) then { tokens := ts, nodes := ns, ending := some 2 }
      else if q.maxNew ≤ q.generated + ts.length then { tokens := ts, nodes := ns, ending := some 1 }
      else match q.draft.findIdx? fun x => x.parent == node && x.token == t with
        | some k => s.walk n q row fuel (k + 1) ts (ns ++ [k + 1])
        | none => { tokens := ts, nodes := ns, ending := none }

/-- Tokens in groups of at most four. -/
def fours : Nat → List Nat → List (List Nat)
  | 0, _ => []
  | fuel + 1, ts => if ts.isEmpty then [] else ts.take 4 :: fours fuel (ts.drop 4)

/-- Token-stream records of a commit: the last one carries END (R340). -/
def commitRecords (q : Req) (w : Walk) (late : Bool) : List Owed :=
  let groups := match fours w.tokens.length w.tokens with
    | [] => [[]]
    | gs => gs
  (List.range groups.length).map fun k =>
    let flags := (if q.firstSent ∨ k ≠ 0 then 0 else 1) + if late then 2 else 0
    let reason := if k + 1 = groups.length then w.ending.getD 0 else 0
    { body := .token (tokenRecord q.tag (groups.getD k []) (q.nextPos + 4 * k) reason flags), irq := false }

/-- Moves that bring accepted nodes to the slots after the root (R396). -/
def movesOf (pos : Nat) (nodes : List Nat) : List (Nat × Nat) :=
  ((List.range nodes.length).map fun k => (nodes.getD k 0, k + 1)).filterMap fun (a, k) =>
    if k < a then some (pos + a, pos + k) else none

/-- Leading accepted nodes that already stand in their slots. -/
def inPlace (nodes : List Nat) : Nat :=
  ((List.range nodes.length).takeWhile fun k => nodes.getD k 0 == k + 1).length

/-- Tokens commit: the table, the counts, the token records and the stream records (R357 orders 6 to 8, R374). -/
def State.commitTokens (s : State) (n i pos : Nat) (w : Walk) : State :=
  let q := (s.srv n).req i
  let late := q.deadline != 0 && decide (q.deadline < s.tmb.beat)
  let moves := movesOf pos w.nodes
  let last := q.nextPos + w.tokens.length
  let s1 := s.modReq n i fun q =>
    { q with state := if w.ending.isSome then .done else .decode, ending := w.ending, tokens := q.tokens ++ w.tokens,
             generated := q.generated + w.tokens.length, firstSent := true, moves := moves,
             reserved := if w.ending.isSome then 0 else q.reserved,
             cached := if moves.isEmpty then pos + 1 + w.nodes.length else pos + 1 + inPlace w.nodes }
  let s2 := forAll w.tokens (fun t s => s.countToken n q t) s1
  let s3 := s2.writeTokens n i q.nextPos last
  if w.tokens.isEmpty && w.ending.isNone then s
  else forAll (commitRecords q w late) (fun o s => s.owe n q.ring o) s3

/-- Prompt tokens enter the counts as they are prefilled; those found in the prefix tree count too (R367). -/
def State.countPrompt (s : State) (n i upto : Nat) : State :=
  let q := (s.srv n).req i
  if !q.penalizePrompt then s
  else (forAll ((q.prompt.take upto).drop q.promptCounted) (fun t s => s.countToken n q t) s).modReq n i fun q =>
    { q with promptCounted := max q.promptCounted upto }

/-- One placed request of a step that ended well; `row` gives its logits rows. -/
def State.commitPlaced (s : State) (n : Nat) (p : Placed) (row : Nat → List Word) : State :=
  let q := (s.srv n).req p.entry
  if !q.going then s
  else
    let upto := p.position + p.tokens
    let s1 := if p.isPrefill then
        ((s.countPrompt n p.entry upto).writeTokens n p.entry p.position upto).modReq n p.entry fun q => { q with cached := upto }
      else s
    if p.samples = 0 then s1
    else
      let q1 := (s1.srv n).req p.entry
      match s1.countsRead n q1 with
      | (some (a, f), s2) => s2.engineReadFails n p.entry a f
      | (none, s2) =>
        let w := s2.walk n q1 row (q1.draft.length + 1) 0 [] []
        s2.commitTokens n p.entry (upto - if p.isPrefill then 1 else p.tokens) w

/-- First logits row of each placed request (R334, R359). -/
def rowStarts : Nat → List Placed → List (Placed × Nat)
  | _, [] => []
  | r, p :: ps => (p, r) :: rowStarts (r + p.samples) ps

/-- A logits row; what the program leaves unwritten holds free values (R334, R616). -/
def logitsRow (draw vocab : Nat) (logits : Option (List (List Word))) (r : Nat) : List Word :=
  let given := ((logits.getD [])[r]?).getD []
  (List.range vocab).map fun i => (given[i]?).getD (Config.freeAt draw (r * vocab + i) 32)

/-- A vector of the cache is written; a partial check word that is lost fails the step (R263). -/
def State.putKv (s : State) (n : Nat) (x : Nat × List Byte) : State :=
  let (s1, dropped) := s.winWrite n x.1 x.2
  match dropped with
  | [] => s1
  | d :: _ =>
    (s1.log { code := 0x0106, severity := 1, part := n, path := 3, addrKind := 1, addr := (s.part n).offsetOf d,
              detail1 := d }).modSrv n fun e => { e with stepFault := true }

/-- A KV_APPEND of the step program (R376): the keys and values of the counted token slots enter the pages of the step's
snapshot at their physical positions, tentative slots included (R372, R380, R394); a sealed page is never written. -/
def State.appendKv (s : State) (n : Nat) (a : KvAppend) : State :=
  let e := s.srv n
  let x := e.shape
  let vals (fmt : BitVec 6) (codes : List Nat) : List Val := codes.map (elemVal ((fmtOf fmt.toNat).getD fmtFp32))
  let vec (fmt : BitVec 6) (rows : List (List (List Nat))) (t h : Nat) : List Nat × List Nat :=
    kvEncode x.kvFormat.toNat (vals fmt ((rows.getD t []).getD h []))
  let slots := (List.range e.bound.slots.length).zip e.bound.slots
  forAll slots (fun (t, i, pos, _) s =>
    let page := (tabGet ((0 : Word), []) e.lists i).2.getD (pos / e.pageTokens) pageInCocoon
    if !pageReal page || (e.page page).isSealed then s
    else forAll (List.range x.kvhLocal) (fun h s =>
      let at_ (value : Bool) (v : List Nat × List Nat) : List (Nat × List Byte) :=
        e.kvBytes page (a.layer * x.kvhLocal + h) (pos % e.pageTokens) value v
      forAll (at_ false (vec a.keyFmt a.keys t h) ++ at_ true (vec a.valFmt a.vals t h)) (fun w s => s.putKv n w) s) s) s

/-- The step program has ended: its run's footprint is free. -/
def State.endStepJob (s : State) (n : Nat) : State := match (s.srv n).stepJob with
  | some id => s.endJob id .idle {}
  | none => s

/-- STEP_PROGRAM_END (R357 orders 5 to 8, R360): `appends` are the KV_APPENDs of the program that no SST of its vats has
performed yet. -/
def State.stepEnd (s : State) (n : Nat) (logits : Option (List (List Word))) (appends : List KvAppend) : State :=
  if (s.srv n).state = .off ∨ !(s.srv n).inStep ∨ s.engineMoves n then s
  else
    let s0 := if (s.srv n).stepFault then s else forAll appends (fun a s => s.appendKv n a) s
    let s1 := s0.endStepJob n
    let e := s1.srv n
    let placed := e.placed
    let clear (s : State) : State := s.modSrv n fun e =>
      { e with inStep := false, stepFault := false, placed := [], bound := {}, lists := [] }
    if !e.lead then clear s1
    else if e.stepFault then
      (clear (forAll placed (fun p s => s.endRequest n p.entry 4) s1)).settleCancels n
    else
      (clear (forAll (rowStarts 0 placed) (fun (p, r) s =>
        s.commitPlaced n p fun k => logitsRow s1.freshCount e.vocab logits (r + k)) s1.drew)).settleCancels n

/-! ### Members (R329, R337, R350) -/

/-- The request that a plan's row describes, over what the replica holds. -/
def replicaReq (old : Req) (bs : List Byte) (p : PlanEntry) : Req :=
  let q := reqOfBlock bs
  let st : ReqState := match numAt bs 0 1 with
    | 1 => .waiting
    | 2 => .prefill
    | 3 => .decode
    | 4 => .paused
    | 5 => .resuming
    | _ => .done
  { q with state := st, hostPaused := (numAt bs 3 1).testBit 2, generated := numAt bs 0x2C 4,
           generation := BitVec.ofNat 32 (numAt bs 0x38 4), countOff := numAt bs 0x40 8, countLog2 := numAt bs 0x48 1,
           cocoon := BitVec.ofNat 32 (numAt bs 0x78 4), list := p.pages.map (·.toNat), blocks := old.blocks,
           saved := old.saved, moves := p.moves, cached := numAt bs 0x28 4, listDirty := true, maskRow := p.maskRow,
           draft := p.draft.map fun (t, a, d) => { token := t, parent := a, depth := d } }

/-- One entry of a plan enters the replica; a FREE row takes it out. -/
def Srv.takeEntry (e : Srv) (p : PlanEntry) : Srv :=
  let bs := bytesOf p.row 128
  let old := e.req p.entry
  let bufs := e.releaseBufs (match old.saved with | some c => c.held | none => [])
  if numAt bs 0 1 = 0 then { (e.freeBlocks old.blocks) with reqs := tabErase p.entry e.reqs, bufs := bufs }
  else { e with reqs := tabPut p.entry (replicaReq old bs p) e.reqs }

/-- REFS of every page, from the replica's lists (R374). -/
def Srv.recount (e : Srv) : Srv :=
  let held := (e.reqs.flatMap fun (_, q) => q.list.filter pageReal) ++
    e.reqs.flatMap fun (_, q) => match q.saved with | some c => c.newPages | none => []
  let zero := e.pages.map fun (k, x) => (k, { x with refs := 0 })
  { e with pages := held.foldl (fun t p => tabMod {} t p fun x => { x with refs := x.refs + 1 }) zero }

/-- SEALED and NODE of every page, as the plan says (R374). -/
def Srv.takeStates (e : Srv) (xs : List (Nat × Bool × Bool)) : Srv :=
  let clear := e.pages.map fun (k, x) => (k, { x with isSealed := false, node := false })
  { e with pages := xs.foldl (fun t (p, a, b) => tabMod {} t p fun x => { x with isSealed := a, node := b }) clear }

/-- A plan's length entry as a placed request. -/
def placedOf (i : Nat) (x : BitVec 128) : Placed :=
  let f (lo len : Nat) : Nat := (x.toNat >>> lo) % 2 ^ len
  { entry := i, position := f 32 32, tokens := f 64 16, samples := f 80 16, variant := f 96 16, isPrefill := x.getLsbD 112,
    lastChunk := x.getLsbD 113, tree := x.getLsbD 114 }

/-- A page's token record takes a committed token. -/
def State.planToken (s : State) (n : Nat) (list : List Word) (x t : Nat) : State :=
  let e := s.srv n
  match list[x / e.pageTokens]? with
  | some p => if pageReal p.toNat then (s.winWrite n (e.structAt p.toNat + 4 * (x % e.pageTokens)) (bytesOfNat 4 t)).1 else s
  | none => s

/-- A member's cocoon of a pause or a resume that the plan names (R402, R404). -/
def State.planCocoon (s : State) (n : Nat) (plan : StepPlan) : State :=
  let s1 := forAll plan.pauses (fun (i, bufs, idx) s => s.beginCocoon n i bufs idx) s
  forAll plan.resumes (fun (i, pages) s => s.modReq n i fun q =>
    { q with saved := q.saved.map fun c => { c with newPages := pages } }) s1

/-- A member's cocoon is over once the lead's row is neither PAUSED nor RESUMING: its buffers return. -/
def Srv.dropCocoons (e : Srv) : Srv :=
  let past (q : Req) : Bool := q.saved.isSome && q.state != .paused && q.state != .resuming
  let bufs := e.reqs.flatMap fun (_, q) => if past q then (match q.saved with | some c => c.held | none => []) else []
  { e with bufs := e.releaseBufs bufs,
           reqs := e.reqs.map fun (i, q) => (i, if past q then { q with saved := none } else q) }

/-- A variant that a placed request names and this member has not registered (R350). -/
def Srv.missingVariant (e : Srv) (plan : StepPlan) : Option Nat :=
  plan.entries.findSome? fun p =>
    if p.length.isSome && p.variant.toNat != 0 && (tabFind e.variants p.variant.toNat).isNone then some p.variant.toNat else none

/-- COCOON_RECLAIMs of a member take effect (R400). -/
def State.memberReclaims (s : State) (n : Nat) : State := forAll (s.heldDescs n [0x32]) (fun (r, d) s => s.reclaim n r d) s

/-- STEP_PLAN (R329): a member applies the plan to its replica and runs the step. -/
def State.stepPlan (s : State) (n : Nat) (plan : StepPlan) : State :=
  let e := s.srv n
  if e.state = .off ∨ e.lead ∨ e.inStep ∨ s.engineMoves n then s
  else if plan.stop then (s.memberReclaims n).engineStop n
  else
    let empty := List.replicate 1024 (0xFF : Byte)
    let s1 := forAll plan.taken (fun p s => (s.winWrite n (e.structAt p) empty).1) s
    let s2 := s1.modSrv n fun e => (plan.entries.foldl Srv.takeEntry e).takeStates plan.pageStates
    let s3 := (s2.planCocoon n plan).modSrv n fun e =>
      { (e.recount.dropCocoons) with placed := plan.entries.filterMap fun p => p.length.map (placedOf p.entry) }
    let s4 := forAll plan.entries (fun p s => forAll p.committed (fun (x, t) s => s.planToken n p.pages x t) s) s3
    let s5 := (s4.eachReq n fun i s => s.writeList n i).settleVariants n
    let s6 := (forAll (s5.srv n).placed (fun p s => s.writeMask n p) s5).bindStep n plan.tokens
    let s7 := s6.memberReclaims n
    let moves := plan.entries.map fun p => (p.pages.map (·.toNat), p.moves)
    match e.missingVariant plan with
    | some v =>
      let (seq, s8) := (forAll moves (fun (list, m) s => s.offerMoves n none list m) s7).logError
        { code := 0x0602, severity := 1, part := n, path := 12, detail0 := v }
      (s8.originAbort n seq).modSrv n fun e => { e with inStep := true, stepFault := true }
    | none => s7.runStep n moves

/-! ### Cocoons in host memory (R401, R402, R404, R405, R511, R512) -/

/-- The header of a cocoon with a given DIGEST (R401). -/
def cocoonHead (e : Srv) (i : Nat) (q : Req) (c : Cocoon) (beat : Nat) (digest : List Byte) : List Byte :=
  let n (len v : Nat) : List Byte := bytesOfNat len v
  let fixed := n 4 0x4E434F43 ++ n 2 1 ++ n 2 (match e.hdr with | some h => h.position | none => 0) ++ n 8 q.tag.toNat ++
    n 4 i ++ n 4 c.generation.toNat ++ n 4 c.saved.length ++ n 4 c.shared ++ n 4 (kvPlanes e.shape) ++ n 4 c.bufs.length ++
    n 8 beat ++ digest ++ n 8 (if e.lead then q.countBytes else 0) ++ List.replicate 168 0
  let all := fixed ++ c.saved.flatMap (fun x => n 4 x.1) ++ c.bufs.flatMap (n 4)
  all ++ List.replicate (cocoonHeader c.saved.length c.bufs.length - all.length) 0

/-- Window ranges that a page image holds: each plane, then the token record. -/
def Srv.imageRanges (e : Srv) (p : Nat) : List (Nat × Nat) :=
  (List.range (kvPlanes e.shape)).map (fun k => (e.pageAt p k, 32768)) ++ [(e.structAt p, 1024)]

/-- Window ranges of a cocoon's body with the free bytes that follow each. -/
def Srv.cocoonRanges (e : Srv) (q : Req) (pages : List Nat) : List (Nat × Nat) :=
  (if e.lead && q.countBytes != 0 then [(q.countOff, q.countBytes)] else []) ++ pages.flatMap e.imageRanges

/-- The body of a cocoon: its ranges as they stand, with the unused rest of each page's last 4 KiB free. -/
def State.cocoonBody (s : State) (n : Nat) (q : Req) (pages : List Nat) : List Byte :=
  let e := s.srv n
  let rd (w len : Nat) : List Byte := (s.winRead n w len).1.bytes
  let count := if e.lead && q.countBytes != 0 then rd q.countOff q.countBytes else []
  count ++ pages.flatMap fun p =>
    (e.imageRanges p).flatMap (fun x => rd x.1 x.2) ++ bytesOf (Config.freeAt s.freshCount p 24576) 3072

/-- Pieces of the stream by the buffer that takes them, in the order of the buffer list. -/
def bufferPieces (size : Nat) : List DWord → List Byte → List (DWord × List Byte)
  | [], _ => []
  | a :: as, bs => if bs.isEmpty then [] else (a, bs.take size) :: bufferPieces size as (bs.drop size)

/-- The order in which the stream is written: everything but DIGEST, then DIGEST (R402 step 2). -/
def digestLast : List (DWord × List Byte) → List (DWord × List Byte)
  | [] => []
  | (a, bs) :: t => (a, bs.take 0x30) :: (a + 0x50, bs.drop 0x50) :: t ++ [(a + 0x30, (bs.drop 0x30).take 32)]

/-- A request's cocoon can no longer be used (R405). -/
def State.cocoonFails (s : State) (n i : Nat) (info : ErrInfo) : State :=
  (s.log info).modReq n i fun q => { q with saved := q.saved.map fun c => { c with failed := true } }

/-- A cocoon's record about host memory. -/
def cocoonInfo (code n : Nat) (a : DWord) : ErrInfo :=
  { code := code, severity := 1, part := n, path := 8, addrKind := 3, addr := a.toNat }

def Srv.bufAddr (e : Srv) (c : Cocoon) : DWord := (tabGet (0, false) e.bufs (c.bufs.headD 0)).1

/-- A paused request by tag. -/
def Srv.findSaved (e : Srv) (tag : DWord) (st : ReqState) : Option (Nat × Req × Cocoon) :=
  e.reqs.findSome? fun (i, q) => if q.tag == tag && q.state == st then q.saved.map fun c => (i, q, c) else none

/-- Addresses of a cocoon's buffers, in stream order. -/
def Srv.bufAddrs (e : Srv) (c : Cocoon) : List DWord := c.bufs.map fun k => (tabGet (0, false) e.bufs k).1

/-- COCOON_WRITE_COMPLETE (R402 step 2); a MOVE of the plan comes before it. -/
def State.cocoonWritten (s : State) (n : Nat) (tag : DWord) (ok : Bool) : State :=
  let e := s.srv n
  match e.findSaved tag .paused with
  | none => s
  | some (i, q, c) =>
    if c.written || c.failed || s.engineMoves n then s
    else
      let pages := c.saved.map fun x => q.list.getD x.1 0
      match s.readAll n (e.cocoonRanges q pages) with
      | (some (w, f), s1) => s1.cocoonFails n i (readInfo n 12 0 w f 0 ringNone 1)
      | (none, s1) =>
        let body := s1.cocoonBody n q pages
        let digest := digestBytes (sha256 (cocoonHead e i q c s.tmb.beat (List.replicate 32 0) ++ body))
        let stream := cocoonHead e i q c s.tmb.beat digest ++ body
        let pieces := digestLast (bufferPieces (2 ^ e.bufLog2.getD 0) (e.bufAddrs c) stream)
        let s2 := forAll pieces (fun (a, bs) s => s.hostPut (n + 1) a bs) s1.drew
        if ok then s2.modReq n i fun q => { q with saved := some { c with written := true, size := stream.length } }
        else s2.cocoonFails n i (cocoonInfo 0x0202 n (e.bufAddr c))

/-- Page images and token records enter the new pages, and the lead's count table is restored (R404 step 2). -/
def restoreRanges (n : Nat) : List (Nat × Nat × Nat) → List Byte → State → State
  | [], _, s => s
  | (w, len, skip) :: t, bs, s =>
    let s1 := (s.winWrite n w (bs.take len)).1
    restoreRanges n t (bs.drop (len + skip)) s1

/-- MAGIC and DIGEST of a cocoon's stream hold (R401, R404). -/
def cocoonIntact (bs : List Byte) : Bool :=
  numAt bs 0 4 == 0x4E434F43 &&
    digestBytes (sha256 (bs.take 0x30 ++ List.replicate 32 0 ++ bs.drop 0x50)) == (bs.drop 0x30).take 32

/-- COCOON_READ_COMPLETE (R404 step 2, R405): the stream that host memory returns, or none where it returns poison or an
error completion. -/
def State.cocoonRead (s : State) (n : Nat) (tag : DWord) (stream : Option (List Byte)) : State :=
  let e := s.srv n
  match e.findSaved tag .resuming with
  | none => s
  | some (i, q, c) =>
    let s := if c.restored || c.failed then s else forAll (e.bufAddrs c) (fun a s => s.hostAsk (n + 1) a) s
    if c.restored || c.failed then s
    else match stream with
    | none =>
      if hostBudget ≤ c.tries + 1 then s.cocoonFails n i (cocoonInfo 0x0201 n (e.bufAddr c))
      else s.modReq n i fun q => { q with saved := some { c with tries := c.tries + 1 } }
    | some bs =>
      if !cocoonIntact (bs.take c.size) then s.cocoonFails n i (cocoonInfo 0x0601 n (e.bufAddr c))
      else
      let body := bs.drop (cocoonHeader c.saved.length c.bufs.length)
      let count := if e.lead && q.countBytes != 0 then [(q.countOff, q.countBytes, 0)] else []
      let pages := c.newPages.flatMap fun p =>
        (List.range (kvPlanes e.shape)).map (fun k => (e.pageAt p k, 32768, 0)) ++ [(e.structAt p, 1024, 3072)]
      (restoreRanges n (count ++ pages) body s).modReq n i fun q => { q with saved := some { c with restored := true } }

/-! ### HOST_COMPLETION_TIMEOUT (R508) -/

/-- A flag word's read fails: of a wait that is active, or of the descriptor that would start (R94, R97, R511). -/
def State.flagTimesOut (s : State) (n r : Nat) : State :=
  match s.activeWait n r, s.startable n r with
  | some (d, _, dl), _ => s.flagWait n r d none dl
  | none, some d =>
    let op := descOpcode d.bits
    let a := BitVec.ofNat 64 (dfield d.bits 8 8)
    if (op = 0x03 ∧ d.bits.getLsbD 0x100) ∨ (op = 0x04 ∧ d.bits.getLsbD 0x120) ∨ op = 0x31 then s.flagReadFails n r d a else s
  | none, none => s

/-- A device request to host memory timed out: one error completion against the budget of R506 (R508). -/
def State.hostTimesOut (s : State) (q : HostReq) : State := match q with
  | .doorbell r => s.ringEvent r.vf.val r.ring.val none
  | .descriptor r => s.fetchDesc r.vf.val r.ring.val none
  | .flagWord r => s.flagTimesOut r.vf.val r.ring.val
  | .cocoon n tag => s.cocoonRead n.val tag none

/-! ### The rows -/

/-- STEP_PLAN (R329). -/
def execStepPlan (n : Fin 16) (plan : StepPlan) (s : State) (errs : Errs := []) :=
  actOn errs (whenRunning fun s => s.stepPlan n.val plan) s
/-- STEP_PROGRAM_END (R357): `logits` are the rows of srv.logits that the program wrote. -/
def execStepProgramEnd (n : Fin 16) (logits : Option (List (List Word))) (s : State) (appends : List KvAppend := []) (errs : Errs := []) :=
  actOn errs (whenRunning fun s => s.stepEnd n.val logits appends) s
/-- COCOON_WRITE_COMPLETE (R402). -/
def execCocoonWriteComplete (n : Fin 16) (tag : DWord) (ok : Bool) (s : State) (errs : Errs := []) :=
  actOn errs (whenRunning fun s => s.cocoonWritten n.val tag ok) s
/-- COCOON_READ_COMPLETE (R404). -/
def execCocoonReadComplete (n : Fin 16) (tag : DWord) (readable : Bool) (stream : List Byte) :=
  actOn [] (whenRunning fun s => s.cocoonRead n.val tag (if readable then some stream else none))
/-- HOST_COMPLETION_TIMEOUT (R508). -/
def execHostCompletionTimeout (q : HostReq) := act (whenRunning fun s => s.hostTimesOut q)

end Sys2Proof.Machine
end

