-- ==== Sys2Proof/Machine/Fabric.lean ====
section
/-! DEFINITION. Fabric ports: frames, replays, training, failures, transfers and route tables
(R408 to R428, R441 to R445, R595). -/

namespace Sys2Proof.Machine

/-! ### Codewords (R411 to R416) -/

/-- Word `i` of a codeword with its parity bit: 33 bits, the 25 FILL bits standing before W0 (R412). -/
def cwWord (b : BitVec 5140) (i : Nat) : BitVec 33 := BitVec.ofNat 33 (b.toNat >>> (33 * (154 - i)))
def cwData (b : BitVec 5140) (i : Nat) : Word := BitVec.ofNat 32 ((cwWord b i).toNat / 2)

/-- Parity of a word: the sum of its bits is even. -/
def evenBits (w : BitVec 33) : Bool := parityBit w == 0

def cellKindOf (k : Nat) : CellKind := match k with
  | 1 => .head
  | 2 => .data
  | 3 => .last
  | _ => .idle

/-- A received frame's header and contents (R413 to R415). -/
structure Frame where
  seq : BitVec 12
  ack : BitVec 12
  av : Bool
  nak : Bool
  replay : Bool
  pause : Bool
  ctrl : Ctrl
  cells : List (CellKind × Bits512)
deriving DecidableEq, Repr

def cwCell (b : BitVec 5140) (k : Nat) : Bits512 :=
  BitVec.ofNat 512 ((List.range 16).foldl (fun a j => a + (cwData b (11 + 16 * k + j)).toNat * 2 ^ (32 * j)) 0)

def frameOf (b : BitVec 5140) : Frame :=
  let w0 := cwData b 0
  let w1 := cwData b 1
  let m : BitVec 128 := cwData b 2 ++ cwData b 3 ++ cwData b 4 ++ cwData b 5
  { seq := field w0 20 12, ack := field w0 8 12, av := w0.getLsbD 7, nak := w0.getLsbD 6, replay := w0.getLsbD 5,
    pause := w0.getLsbD 4, ctrl := { typ := field m 120 8, body := field m 0 120 },
    cells := (List.range 9).map fun k => (cellKindOf (field w1 (30 - 2 * k) 2).toNat, cwCell b k) }

/-- Low body bits of a control message that its type does not list (R414). -/
def ctrlUnlisted (t : Nat) : Nat := match t with
  | 0 => 120
  | 1 => 48
  | 2 => 93
  | 3 => 57
  | 4 => 70
  | 5 => 98
  | _ => 0

/-- Reserved bytes and bits of a head cell are zero (R415). -/
def headClean (h : Bits512) : Bool :=
  headField h 0x00 48 16 == 0 && headField h 0x08 10 6 == 0 && headField h 0x0A 10 6 == 0 && headField h 0x0C 4 4 == 0 &&
    headField h 0x0D 3 5 == 0 && headField h 0x0E 11 5 == 0 && headField h 0x10 31 1 == 0 && headField h 0x14 29 3 == 0 &&
    headField h 0x22 10 6 == 0 && headField h 0x28 0 192 == 0

/-- FILL, parity and every reserved bit of a codeword are good (R416). -/
def cwClean (b : BitVec 5140) : Bool :=
  let f := frameOf b
  field b 5115 25 == 0 && ((List.range 155).all fun i => evenBits (cwWord b i)) && field (cwData b 0) 0 4 == 0 &&
    field (cwData b 1) 0 14 == 0 && ((List.range 5).all fun i => cwData b (6 + i) == 0) &&
    f.ctrl.body.toNat % 2 ^ ctrlUnlisted f.ctrl.typ.toNat == 0 &&
    f.cells.all fun (k, c) => k != .head || headClean c

/-! ### The sender's side (R417, R418) -/

/-- A port's link starts anew: nothing is sent, held or half received. -/
def Port.relink (g : Port) : Port :=
  { g with sendSeq := 0, unacked := [], tries := 0, accepted := none, discarding := false, nakDue := false, partnerPause := false,
           outCells := [], outMsgs := [], arriving := none, arrived := [], inMsgs := [] }

/-- The beat moves to the alternate port, or LOCK is lost and every job of every swarm stops (R432). -/
def State.beaconsLost (s : State) : State :=
  let t := s.tmb
  if t.ctl.root ∨ t.lock = .lost then s
  else if !t.onAlt ∧ t.ctl.altEn ∧ (s.port t.ctl.altPort.toNat).state = .up then
    { s with tmb := { t with onAlt := true, missedBeacons := 0 } }
  else if t.lock = .free then s
  else
    let s1 := ({ s with tmb := { t with missedBeacons := 0, goodBeacons := 0 } }).setLock .lost
    let (seq, s2) := s1.logError { code := 0x0504, severity := 1, part := partDevice, path := 15, unit := t.upstream }
    forAll (List.range 16) (fun k s =>
      if (s.swarmJobs k).any fun j => s.abortable j && decide (1 < j.hdr.devices) then s.abortSwarm k 0 seq none
      else s.abortJobs k seq) s2

/-- A port fails (R441). -/
def State.failPort (s : State) (p : Nat) (c : PortCause) : State :=
  let owner := s.portOwner p
  let s1 := (s.modPort p Port.relink).setPortState p .down c
  let (seq, s2) := s1.logError
    { code := 0x0501, severity := 1, part := owner.getD partDevice, path := 11, unit := p, detail0 := c.code }
  let s3 := match owner with
    | some n => s2.abortSwarm (s.part n).swarm.toNat p seq (some p)
    | none => s2
  if s.tmb.upstream = p then s3.beaconsLost else s3

/-- Send every unacknowledged frame again, or fail on the ninth replay without an advance (R417, R418). -/
def State.replay (s : State) (p : Nat) : State :=
  let g := s.port p
  if 8 ≤ g.tries then s.failPort p .budget
  else
    let s1 := s.modPort p fun g => { g with tries := g.tries + 1, replayCount := g.replayCount + 1 }
    forAll g.unacked (fun f s => s.emitFrame p false true f) s1

/-- REPLAY_TIMEOUT (R417). -/
def State.replayTimeout (s : State) (p : Nat) : State :=
  let g := s.port p
  if g.unacked.isEmpty ∨ g.partnerPause ∨ (g.state ≠ .up ∧ g.state ≠ .training) then s else s.replay p

/-! ### The receiver's side (R413, R415, R416) -/

/-- A frame is discarded; the first of a run makes a NAK due, which leaves as soon as a frame may (R416, R417). -/
def State.discardFrame (s : State) (p : Nat) : State :=
  if (s.port p).discarding then s else (s.modPort p fun g => { g with discarding := true, nakDue := true }).pumped p

/-- One cell of an accepted frame. -/
def Port.cell (g : Port) (k : CellKind) (c : Bits512) : Port := match k with
  | .idle => g
  | .head => if c.getLsbD (8 * 0x0D + 2) then { g with arrived := g.arrived ++ [{ head := c, cells := [] }] }
             else { g with arriving := some { head := c, cells := [] } }
  | .data => { g with arriving := g.arriving.map fun t => { t with cells := t.cells ++ [c] } }
  | .last => match g.arriving with
    | some t => { g with arriving := none, arrived := g.arrived ++ [{ t with cells := t.cells ++ [c] }] }
    | none => g

/-- A TRAIN message tells the partner's place (R414, R421). -/
def Port.trained (g : Port) (c : Ctrl) : Port :=
  { g with partnerPos := BitVec.ofNat 10 (ctrlField c 119 110), partnerPort := BitVec.ofNat 4 (ctrlField c 109 106),
           partnerSwarm := some (BitVec.ofNat 4 (ctrlField c 105 102)), light := true }

/-- The unacknowledged frames after an ACK. -/
def ackedDrop (a : BitVec 12) (fs : List SentFrame) : List SentFrame :=
  if fs.any fun f => f.seq == a then (fs.dropWhile fun f => f.seq != a).drop 1 else fs

/-- An accepted frame (R413 to R417). -/
def State.acceptFrame (s : State) (p : Nat) (f : Frame) : State :=
  let g := s.port p
  let left := if f.av then ackedDrop f.ack g.unacked else g.unacked
  let s1 := s.modPort p fun g =>
    f.cells.foldl (fun g x => g.cell x.1 x.2)
      { g with accepted := some f.seq, discarding := false, unacked := left, partnerPause := f.pause, light := true,
               tries := if left.length < g.unacked.length then 0 else g.tries,
               inMsgs := if f.ctrl.typ = 0 then g.inMsgs else g.inMsgs ++ [f.ctrl] }
  let s2 := if f.nak then s1.replay p else s1
  s2.pumped p

/-- FRAME_RECEIVE (R416). -/
def State.receive (s : State) (p : Nat) (c : Codeword) : State :=
  let g := s.port p
  if g.state ≠ .up ∧ g.state ≠ .training then s
  else match c.corrected with
    | none => (s.modPort p fun g => { g with fecUncorr := g.fecUncorr + 1 }).discardFrame p
    | some k =>
      let s1 := s.modPort p fun g => { g with fecCorr := g.fecCorr + BitVec.ofNat 64 k }
      let f := frameOf c.bits
      let next := match g.accepted with
        | some a => f.seq == a + 1
        | none => true
      if !cwClean c.bits || !next || (g.discarding && !f.replay) then s1.discardFrame p else s1.acceptFrame p f

/-- Take the oldest received message of a type at a port. -/
def State.takeMsg (s : State) (p typ : Nat) : Option (Ctrl × State) :=
  match (s.port p).inMsgs.find? fun c => c.typ.toNat == typ with
  | some c => some (c, s.modPort p fun g => { g with inMsgs := g.inMsgs.erase c })
  | none => none

/-! ### Training and the port's controls (R408, R410, R421, R441, R443) -/

def State.laserOk (s : State) (p : Nat) : Bool := !s.pins.laserBad.contains (p / 2)
def State.portSwarm (s : State) (p : Nat) : Option (BitVec 4) := (s.portOwner p).map fun n => (s.part n).swarm

/-- TRAIN (R410). -/
def State.train (s : State) (p : Nat) : State :=
  match s.takeMsg p 5 with
  | some (c, s1) => if (s.port p).state = .training then s1.modPort p fun g => g.trained c else s1
  | none => s

/-- TRAINING_COMPLETE (R410, R421). -/
def State.trainDone (s : State) (p : Nat) : State :=
  let g := s.port p
  if g.state = .training ∧ s.laserOk p ∧ g.partnerSwarm.isSome ∧ g.partnerSwarm = s.portSwarm p then
    s.setPortState p .up .none_
  else s

/-- TRAINING_TIMEOUT (R409, R410, R421). -/
def State.trainTimeout (s : State) (p : Nat) (tooLong : Bool) : State :=
  let g := s.port p
  if g.state ≠ .training then s
  else if tooLong then s.failPort p .length
  else if g.partnerSwarm.isSome ∧ g.partnerSwarm ≠ s.portSwarm p then s.failPort p .swarm
  else s.failPort p .training

/-- LIGHT_LOSS (R441). -/
def State.lightLost (s : State) (p : Nat) : State :=
  if (s.port p).state = .up then (s.modPort p fun g => { g with light := false }).failPort p .light else s

/-- Training begins; the port tells its partner who it is (R410, R414). -/
def State.startTraining (s : State) (p : Nat) : State :=
  let s1 := (s.modPort p fun g => { g.relink with partnerSwarm := none }).setPortState p .training .none_
  let body := ctrlBody [(110, s.gen.fabPos.toNat), (106, p), (102, ((s.portSwarm p).getD 0).toNat)]
  s1.sendCtrl p { typ := 5, body := body }

/-- PORT_ENABLE (R410, R443). -/
def State.enablePort (s : State) (p : Nat) : State :=
  if (s.port p).enable then s
  else
    let s1 := s.modPort p fun g => { g with enable := true }
    if (s.port p).forceDown then s1.setPortState p .down .forced else s1.startTraining p

/-- PORT_DISABLE (R410, R443). -/
def State.disablePort (s : State) (p : Nat) : State :=
  (s.modPort p fun g => { g.relink with enable := false, light := false }).setPortState p .off .none_

/-- FORCE_DOWN (R443). -/
def State.forcePort (s : State) (p : Nat) : State :=
  let s1 := s.modPort p fun g => { g with forceDown := true }
  if (s.port p).enable then (s1.modPort p Port.relink).setPortState p .down .forced else s1

/-! ### Transfers (R424 to R428, R435) -/

/-- A transfer is dropped: one record, and an ABORT (R424, R425). -/
def State.dropTransfer (s : State) (p : Nat) (h : Bits512) (code detail : Nat) : State :=
  let (seq, s1) := s.logError
    { code := code, severity := 1, part := (s.portOwner p).getD partDevice, path := 11, unit := p, detail0 := detail }
  s1.abortSwarm (headField h 0x0C 0 4) p seq none

/-- A transit device sends a transfer on (R424). -/
def State.forward (s : State) (p : Nat) (t : Transfer) : State :=
  let route := headField t.head 0 0 64
  let out := route / 16 % 16
  let next := (route % 16 - 1) + (route / 2 ^ 8 % 2 ^ 40) * 16
  let head := t.head - BitVec.ofNat 512 route + BitVec.ofNat 512 next
  if (s.port out).state = .up ∧ s.portSwarm out = some (BitVec.ofNat 4 (headField t.head 0x0C 0 4)) then
    s.sendCells out { t with head := head }
  else s.dropTransfer p t.head 0x0502 0

/-- Lines of a transfer. -/
def transferLines (t : Transfer) : List Line :=
  (List.range (headField t.head 0x0E 0 11 + 1)).map fun i =>
    BitVec.ofNat 16384 ((List.range 32).foldl (fun a k => a + (t.cells.getD (32 * i + k) 0).toNat * 2 ^ (512 * k)) 0)

/-- The job of a swarm's partition that a transfer reaches (R425). -/
def State.destJob (s : State) (h : Bits512) : Option Job :=
  match s.jobOf (headField h 0x10 24 7) with
  | some j => if (s.part j.part).swarm.toNat = headField h 0x0C 0 4 then some j else none
  | none => none

/-- A transfer that passed every check waits for the port of its vat (R203, R425); a late one requests a hold
(R435). -/
def State.deliver (s : State) (t : Transfer) (j : Job) : State :=
  let h := t.head
  let v := headField h 0x10 24 7
  let flag := if h.getLsbD (8 * 0x0D) then some (v, headField h 0x14 0 24, headField h 0x14 24 5) else none
  let data := transferLines t
  let ls := inboundLines (.fabric h) (headField h 0x10 0 24) flag data.length (fun i => data.getD i 0) fun _ => none
  let s1 := s.modVat v fun x => { x with inbound := x.inbound ++ ls }
  let due := headField h 0x18 0 64
  if h.getLsbD (8 * 0x0D + 1) ∧ due < j.beat then
    (s1.requestHold (s.part j.part).swarm.toNat (j.beat - due) 1 (decide (j.hdr.devices ≤ 1))).2
  else s1

/-- A transfer at its destination (R425, R426). -/
def State.arrive (s : State) (p : Nat) (t : Transfer) : State :=
  let h := t.head
  match s.destJob h with
  | none => s.dropTransfer p h 0x0502 0
  | some j =>
    let mine := j.askedBeat % 2 ^ 32
    let its := headField h 0x24 0 32
    if headField h 0x08 0 10 ≠ s.gen.fabPos.toNat then s.dropTransfer p h 0x0502 0
    else if mine ≠ its then s.dropTransfer p h 0x0506 (mine * 2 ^ 32 + its)
    else s.deliver t j

/-- TRANSFER_RECEIVE (R424, R425): the oldest that arrived whole, acknowledgments for this device apart. -/
def State.transferReceive (s : State) (p : Nat) : State :=
  match (s.port p).arrived with
  | [] => s
  | t :: rest =>
    let hops := headField t.head 0 0 4
    let s1 := s.modPort p fun g => { g with arrived := rest }
    if hops ≠ 0 then s1.forward p t
    else if t.head.getLsbD (8 * 0x0D + 2) then s
    else s1.arrive p t

/-- TRANSFER_ACK (R425): the oldest arrival acknowledges a SEND of this device. -/
def State.transferAck (s : State) (p : Nat) : State :=
  match (s.port p).arrived with
  | [] => s
  | t :: rest =>
    let v := headField t.head 0x22 3 7
    let slot := headField t.head 0x22 0 3
    if headField t.head 0 0 4 ≠ 0 ∨ !t.head.getLsbD (8 * 0x0D + 2) then s
    else
      let s1 := s.modPort p fun g => { g with arrived := rest }
      match tabFind (s.vat v).xfers slot with
      | some x => if x.kind = .send ∧ x.departed.isSome then s1.xferDone v slot else s1
      | none => s1

/-- FAB_TIMEOUT (R428): the timer stands still in a hold and while a port replays. The block reaches the beat at which
FAB_CFG.TIMEOUT microseconds, of 250 beats each, have passed on it since the departure. -/
def State.fabTimeout (s : State) (v slot : Nat) : State :=
  match tabFind (s.vat v).xfers slot with
  | some t =>
    let sw := (s.part (s.vatPart v)).swarm.toNat
    let left := t.clock + 250 * s.gen.fabTimeout.toNat - tabGet 0 s.tmb.clocks sw
    if t.kind ≠ .send ∨ t.departed.isNone ∨ (left ≠ 0 ∧ (s.inHold sw ∨ s.replaying)) then s
    else (s.advance left).faultVat v { code := 0x0503, severity := 1, part := 0, path := 11, unit := t.route / 4096 }
  | none => s

/-! ### Route tables (R422, R427, R595) -/

/-- A job of a partition is running (R427). -/
def State.partBusy (s : State) (n : Nat) : Bool := s.jobs.any fun (_, j) => j.part == n && j.holds

/-- The window loads the entry that it selects. -/
def State.loadRoute (s : State) (n : Nat) : State :=
  let v := s.vf n
  let mine := s.portOwner v.rtPort.toNat == some n
  let e := if mine then s.route v.rtPort.toNat v.rtEntry.toNat else 0
  s.modVf n fun v =>
    { v with rtData := (List.range 4).foldl (fun t k => tabSet 0 t k (field e (32 * k) 32)) [],
             rtForeign := v.rtForeign || !mine }

/-- FAB_RT_SEL (R595). -/
def State.routeSelect (s : State) (n : Nat) (w : Word) : State :=
  (s.modVf n fun v => { v with rtAutoinc := w.getLsbD 31, rtPort := field w 16 4, rtEntry := field w 0 12 }).loadRoute n

/-- A write of FAB_RT_DATA[3] (R595). -/
def State.routeWrite (s : State) (n : Nat) (w : Word) : State :=
  let v := s.vf n
  let p := v.rtPort.toNat
  if s.portOwner p ≠ some n then s.modVf n fun v => { v with rtForeign := true }
  else if s.partBusy n then
    (s.modVf n fun v => { v with rtBusy := true }).modPort p fun g => { g with routeBusy := true }
  else
    let d (k : Nat) : Word := tabGet 0 v.rtData k
    let s1 := s.modPort p fun g => { g with routes := tabSet 0 g.routes v.rtEntry.toNat (w ++ d 2 ++ d 1 ++ d 0) }
    let s2 := s1.modVf n fun v =>
      { v with rtData := tabSet 0 v.rtData 3 w }
    if v.rtAutoinc then (s2.modVf n fun v => { v with rtEntry := v.rtEntry + 1 }).loadRoute n else s2

/-! ### The rows -/

/-- FRAME_RECEIVE (R416). -/
def execFrameReceive (p : Fin 16) (c : Codeword) := act (whenRunning fun s => s.receive p.val c)
/-- REPLAY_TIMEOUT (R417). -/
def execReplayTimeout (p : Fin 16) := act (whenRunning fun s => s.replayTimeout p.val)
/-- TRAIN (R410). -/
def execTrain (p : Fin 16) := act (whenRunning fun s => s.train p.val)
/-- TRAINING_COMPLETE (R410). -/
def execTrainingComplete (p : Fin 16) := act (whenRunning fun s => s.trainDone p.val)
/-- TRAINING_TIMEOUT (R410). -/
def execTrainingTimeout (p : Fin 16) (tooLong : Bool) := act (whenRunning fun s => s.trainTimeout p.val tooLong)
/-- LIGHT_LOSS (R441). -/
def execLightLoss (p : Fin 16) := act (whenRunning fun s => s.lightLost p.val)
/-- TRANSFER_RECEIVE (R425). -/
def execTransferReceive (p : Fin 16) := act (whenRunning fun s => s.transferReceive p.val)
/-- TRANSFER_ACK (R425). -/
def execTransferAck (p : Fin 16) := act (whenRunning fun s => s.transferAck p.val)
/-- FAB_TIMEOUT (R428). -/
def execFabTimeout (v : Fin 128) (slot : Fin 8) := act (whenRunning fun s => s.fabTimeout v.val slot.val)
/-- PORT_ENABLE (R443). -/
def execPortEnable (p : Fin 16) := act (whenRunning fun s => s.enablePort p.val)
/-- PORT_DISABLE (R443). -/
def execPortDisable (p : Fin 16) := act (whenRunning fun s => s.disablePort p.val)
/-- FORCE_DOWN (R443). -/
def execForceDown (p : Fin 16) := act (whenRunning fun s => s.forcePort p.val)
/-- FAB_RT_SEL (R595). -/
def execFabRtSel (n : Fin 16) (w : Word) := act (whenRunning fun s => s.routeSelect n.val w)
/-- FAB_RT_DATA_WRITE (R595). -/
def execFabRtDataWrite (n : Fin 16) (w : Word) := act (whenRunning fun s => s.routeWrite n.val w)

end Sys2Proof.Machine
end

