-- ==== Sys2Proof/Machine/Timebase.lean ====
section
/-! DEFINITION. The firefly timebase, holds, divisors and ABORTs (R429 to R441, R446 to R448). -/

namespace Sys2Proof.Machine

/-! ### Beacons (R429 to R432) -/

/-- A BEACON of the upstream port disciplines the beat (R431); `errorPs` is the phase error that it measures. -/
def State.discipline (s : State) (c : Ctrl) (errorPs : Nat) : State :=
  let t := s.tmb
  match t.lock with
  | .free | .lost =>
    ({ s with tmb := { t with beat := (ctrlField c 119 56 + 45) % 2 ^ 64, goodBeacons := 0, missedBeacons := 0 } }).setLock
      .acquiring
  | _ =>
    let good := if errorPs < 100 then t.goodBeacons + 1 else 0
    let s1 := { s with tmb := { t with goodBeacons := min good 16, missedBeacons := 0 } }
    if 16 ≤ good then s1.setLock .locked else s1

/-- BEACON (R431). -/
def State.beacon (s : State) (p errorPs : Nat) : State :=
  match s.takeMsg p 1 with
  | some (c, s1) =>
    if s.tmb.ctl.root ∨ s.tmb.upstream ≠ p ∨ (s.port p).state ≠ .up then s1 else s1.discipline c errorPs
  | none => s

/-- BEACON_LOSS (R432): four consecutive beacons did not come. -/
def State.beaconLoss (s : State) : State := if s.tmb.lock = .free then s else s.beaconsLost

/-- A BEACON for the boundary leaves an UP port before anything else (R414, R430). -/
def State.sendBeacon (s : State) (p : Nat) : State :=
  let off := (Config.freeAt s.freshCount p 8).toNat % 171
  let c : Ctrl := { typ := 1, body := ctrlBody [(56, s.tmb.beat), (48, off)] }
  (s.modPort p fun g => { g with outMsgs := c :: g.outMsgs }).pumped p

/-- QUANTUM_BOUNDARY (R429, R430, R446, R448, R453). -/
def State.quantumBoundary (s : State) : State :=
  let s1 := s.advanceTo (quantumAt (s.tmb.beat + 1))
  let t := s1.tmb
  let ctl := t.ctlNext.getD t.ctl
  let moved := ctl.upPort != t.ctl.upPort || ctl.altPort != t.ctl.altPort || ctl.root != t.ctl.root
  let t1 : Tmb :=
    { t with ctl := ctl, ctlNext := none, onAlt := t.onAlt && !moved, beatSetDue := false,
             beat := if t.beatSetDue ∧ ctl.root then t.beatSet.toNat else t.beat }
  let s2 := { s1 with tmb := t1 }
  let s3 := if ctl.root ∧ !t.ctl.root then s2.setLock .free else s2
  let s4 := { s3 with parts := s3.parts.map fun (n, p) => (n, { p with guardNow := p.guard, weightNow := p.weight }) }
  (forAll s4.upPorts (fun p s => s.sendBeacon p) s4).drew

/-! ### Holds and divisors (R435 to R440) -/

/-- HOLD_REQ (R436). -/
def State.holdReq (s : State) (p : Nat) : State :=
  match s.takeMsg p 2 with
  | none => s
  | some (c, s1) =>
    if s.tmb.ctl.root then
      s1.rootRequest (ctrlField c 119 116) (ctrlField c 115 108) (ctrlField c 107 105) (ctrlField c 102 93)
    else s1.sendUp c

/-- The beat nearest to the present one with these low 48 bits (R414). -/
def nearBeat (now low : Nat) : Nat :=
  let b := now / 2 ^ 48 * 2 ^ 48 + low
  if b + 2 ^ 47 < now then b + 2 ^ 48 else if now + 2 ^ 47 < b then b - 2 ^ 48 else b

/-- This device is a member of a swarm (R421). -/
def State.isMember (s : State) (slot : Nat) : Bool := !(s.swarmParts slot).isEmpty

/-- ANNOUNCE (R436, R437): it comes down the tree, through the upstream port; from another port it changes nothing. One
that arrives at its START is not before it (log 126). -/
def State.announce (s : State) (p : Nat) : State :=
  match s.takeMsg p 3 with
  | none => s
  | some (c, s1) =>
    let slot := ctrlField c 119 116
    let a : Announced :=
      { start := nearBeat s.tmb.beat (ctrlField c 115 68), quanta := ctrlField c 67 60, divisor := ctrlField c 59 57 }
    if s.tmb.ctl.root ∨ p ≠ s.tmb.upstream then s1
    else if a.start ≤ s.tmb.beat then
      let (seq, s2) := s1.logError
        { code := 0x0505, severity := 1, part := ((s.swarmParts slot).head?).getD partDevice, path := 15, unit := p }
      s2.abortSwarm slot 0 seq none
    else (if s.isMember slot then s1.noteAnnounce slot a else s1).sendAnnounce slot a

/-- The announced hold or divisor change that begins first. -/
def SwarmSlot.nextAnnounced (x : SwarmSlot) : Option Announced :=
  x.announced.foldl (fun m a => match m with
    | some b => if a.start < b.start then some a else some b
    | none => some a) none

/-- HOLD_START (R438, R439): with no quanta, only the divisor changes. -/
def State.holdStart (s : State) (slot : Nat) : State :=
  let x := s.slot slot
  match x.hold, x.nextAnnounced with
  | none, some a =>
    (s.advanceTo a.start).modSlot slot fun x =>
      let x := { x with announced := x.announced.filter fun b => b.start != a.start }
      if a.quanta = 0 then { x with divisor := max 1 a.divisor } else { x with hold := some a }
  | _, _ => s

/-- HOLD_END (R438 to R440). The step boundaries of serving engines wait as long as the hold lasted (log 127). -/
def State.holdEnd (s : State) (slot : Nat) : State :=
  match (s.slot slot).hold with
  | none => s
  | some a =>
    let s1 := s.advanceTo (a.start + 64 * a.quanta)
    let ids := (s1.swarmJobs slot).filter Job.begun |>.map (·.id)
    let s2 := (forAll ids (fun id s => s.modJob id fun j => { j with holdQuanta := j.holdQuanta + a.quanta }) s1).modSlot slot
      fun x => { x with hold := none, divisor := max 1 a.divisor,
                        ended := if x.requested = 0 then 0 else x.ended + a.quanta }
    let s3 := forAll (s.swarmParts slot) (fun n s => s.modSrv n fun e => { e with nextBoundary := e.nextBoundary + 64 * a.quanta }) s2
    if s.isMember slot then
      (s3.modSlot slot fun x =>
        { x with events := x.events + 1, quanta := x.quanta + BitVec.ofNat 64 a.quanta }).raise (0x0C + slot) a.quanta
    else s3

/-- ABORT (R441): an ABORT that was seen before changes nothing. -/
def State.abort (s : State) (p : Nat) : State :=
  match s.takeMsg p 4 with
  | none => s
  | some (c, s1) =>
    let slot := ctrlField c 119 116
    let key := (slot, ctrlField c 115 106, ctrlField c 105 102, ctrlField c 101 70)
    if s.tmb.abortsSeen.contains key then s1
    else (s1.floodAbort slot key.2.1 key.2.2.1 key.2.2.2 (some p)).abortJobs slot 0

/-! ### The rows -/

/-- BEACON (R431). -/
def execBeacon (p : Fin 16) (errorPs : Nat) := act (whenRunning fun s => s.beacon p.val errorPs)
/-- BEACON_LOSS (R432). -/
def execBeaconLoss := act (whenRunning fun s => s.beaconLoss)
/-- QUANTUM_BOUNDARY (R430). -/
def execQuantumBoundary := act (whenRunning fun s => s.quantumBoundary)
/-- HOLD_REQ (R436). -/
def execHoldReq (p : Fin 16) := act (whenRunning fun s => s.holdReq p.val)
/-- ANNOUNCE (R436). -/
def execAnnounce (p : Fin 16) := act (whenRunning fun s => s.announce p.val)
/-- HOLD_START (R438). -/
def execHoldStart (s : Fin 16) := act (whenRunning fun t => t.holdStart s.val)
/-- HOLD_END (R440). -/
def execHoldEnd (s : Fin 16) := act (whenRunning fun t => t.holdEnd s.val)
/-- ABORT (R441). -/
def execAbort (p : Fin 16) := act (whenRunning fun s => s.abort p.val)

end Sys2Proof.Machine
end

