-- ==== Sys2Proof/Machine/Partitions.lean ====
section
/-! DEFINITION. Enabling and tearing down partitions, function resets, halts from outside, and slowdown counters
(R66, R449 to R459, R475, R476, R504, R523, R548, R586). -/

namespace Sys2Proof.Machine

/-! ### Enabling (R449, R454) -/

/-- Other partitions that are not OFF. -/
def State.others (s : State) (n : Nat) : List Part := ((List.range 16).filter (· != n)).filterMap fun k =>
  if (s.part k).state = .off then none else some (s.part k)

/-- Entries of the window table are VALID from 0 on without a gap, and name no region twice (R454 check 7). -/
def Part.winOk (p : Part) : Bool :=
  let valid := p.win.filter fun x => x.2.1
  let regions : List Nat := valid.map fun x => x.2.2
  decide (0 < p.regionCount) && valid.length == p.regionCount && decide regions.Nodup

/-- Two queue ranges meet. -/
def queuesMeet (a b : Part) : Bool :=
  decide (max a.qbase.toNat b.qbase.toNat < min (a.qbase.toNat + a.qcount.toNat) (b.qbase.toNat + b.qcount.toNat))

/-- The checks of R454 in their order: the first that fails, or 0. -/
def State.enableError (s : State) (n : Nat) : Nat :=
  let p := s.part n
  let os := s.others n
  let total (f : Part → Nat) : Nat := f p + (os.map f).sum
  if s.gen.numVfs ≤ n then 1
  else if p.islands = 0 ∨ os.any (fun o => o.islands &&& p.islands != 0) then 2
  else if os.any (fun o => o.stackSet &&& p.stackSet != 0) then 3
  else if p.channels = 0 ∨ os.any (fun o => o.channels &&& p.channels != 0) then 4
  else if os.any (fun o => o.portSet &&& p.portSet != 0) then 5
  else if 1024 < p.qbase.toNat + p.qcount.toNat ∨ os.any (queuesMeet p) then 6
  else if !p.winOk ∨ os.any (fun o => p.regionList.any o.regionList.contains) then 7
  else if 65536 < total (fun o => o.entries.toNat) ∨ 1048576 < total (fun o => o.prefixShare.toNat) then 8
  else 0

/-- Vats of a partition. -/
def Part.vats (p : Part) : List Nat := (List.range 128).filter fun v => p.islands.getLsbD (v / 2)
/-- NBEs of a partition's stacks. -/
def Part.nbes (p : Part) : List Nat := (List.range 128).filter fun k => p.stackSet.getLsbD (k / 16)

/-- NBE queues and score buffers are empty (R454, R457). -/
def State.clearNbes (s : State) (p : Part) : State := { s with nbes := p.nbes.foldl (fun t k => tabErase k t) s.nbes }

/-- Islands of a partition (R482). -/
def Part.islandList (p : Part) : List Nat :=
  (bitsSet p.islands) ++ (List.range 32).filterMap fun i => if p.stackSet.getLsbD (i / 4) then some (64 + i) else none

/-- A partition's islands wake: their sensors have not converted yet, and Hevos keeps point 3 on them where LC_ENABLE is
set (R482, R496, R502). -/
def State.wakePart (s : State) (p : Part) : State :=
  let s1 := forAll (bitsSet p.islands) (fun i s => forAll (List.range 4)
    (fun c s => s.modSensor (4 * i + c) fun x => { x with valid := false }) s) s
  forAll p.islandList (fun i s =>
    let s := s.modVpoint i fun v => { v with idleSince := some s.tmb.beat }
    if p.lcEnable && (s.vpoint i).auto && (s.vpoint i).point != 3 then s.setPoint i 3 else s) s1

/-- PARTITION_ENABLE (R454, R548). -/
def State.enablePart (s : State) (n : Nat) : State :=
  let p := s.part n
  if p.state ≠ .off then s
  else
    let e := s.enableError n
    if e ≠ 0 then s.modPart n fun p => { p with error := BitVec.ofNat 8 e, enable := false }
    else
      let own (k : Nat) : Bool := decide (p.qbase.toNat ≤ k) && decide (k < p.qbase.toNat + p.qcount.toNat)
      let s1 := forAll p.vats (fun v s => s.modVat v fun _ => { run := .clearing }) ((s.clearNbes p).wakePart p)
      let s2 := { s1 with queues := s1.queues.filter (fun x => !own x.1), queuesNow := s1.queuesNow.filter fun x => !own x.1 }
      s2.modPart n fun p =>
        { p with state := .active, enable := true, error := 0, chain := 0, count := 0, progLog := [], haltSeq := 0,
                 discard := false, haltAfterTeardown := false }

/-! ### Teardown (R456, R457, R523) -/

/-- The serving engine stops as under SERVE_STOP with MODE 1, and its table is empty at once (R457 steps 3 and 5). -/
def State.tearEngine (s : State) (n : Nat) : State :=
  let held := if (s.srv n).state = .off then s
    else if (s.srv n).lead then s.applyHeld n else s.memberReclaims n
  let s1 := held.endRequests n 7
  let cancels := (s1.srv n).reqs.flatMap fun (_, q) => q.cancels
  (forAll cancels (fun (r, d, st) s => s.complete n r d { status := st }) s1).engineStop n

/-- Steps 1 to 5 of teardown. -/
def State.teardown (s : State) (n : Nat) : State :=
  let p := s.part n
  if p.state ≠ .active ∧ p.state ≠ .halted then s.modPart n fun p => { p with enable := false }
  else
    let flood := (s.swarmJobs p.swarm.toNat).any s.abortable
    let isJob (d : Desc) : Bool := match d.state with
      | .launch _ => true
      | _ => false
    let s1 := s.modPart n fun p => { p with state := .teardown, enable := false, tearWait := true }
    let s2 := forAll (List.range 8) (fun r s => s.ringDisabled n r) s1
    let s3 := (s2.dropJobs n .idle).endDescs n s isJob statusAborted 0
    let s4 := if flood then s3.originAbort n 0 else s3
    let s5 := settleFences n 64 (s4.tearEngine n)
    forAll (bitsSet p.portSet) (fun k s => (s.disablePort k).modPort k fun g => { g with routes := [] }) s5

/-- Every descriptor that ran on has completed, and every ring's records are written or discarded (R102, R457 step 6). -/
def State.descsDone (s : State) (n : Nat) : Bool :=
  (List.range 8).all fun r => (s.ring n r).descs.isEmpty && (s.ring n r).owed.isEmpty

/-- A region's host-bias pages flip, each of their lines taken first (R62), it is scrubbed, and its pages return to host bias (R266, R457 step 6). -/
def State.scrubRegion (s : State) (k : Nat) : State :=
  let lo := k * 2 ^ 28
  let hi := lo + 2 ^ 28
  let s1 := forAll (s.hostLines [(lo, 2 ^ 28)]) State.takeLine s
  let m := s1.mem.scrub lo hi
  { s1 with mem := { m with bias := rangesSub (pageOf lo) (pageOf hi) m.bias } }

/-- A VF's registers return to their reset values (R586). -/
def State.resetVf (s : State) (n : Nat) : State :=
  { s with vfs := tabErase n s.vfs, evc := { s.evc with queues := tabErase (n + 1) s.evc.queues },
           gen := { s.gen with held := s.gen.held.filter fun h => h.1 != n + 1 },
           msix := tabErase (n + 1) s.msix }

/-- TEARDOWN_COMPLETE (R457 steps 6 to 8, R523, R548). -/
def State.tornDown (s : State) (n : Nat) : State :=
  let p := s.part n
  if p.state ≠ .teardown ∨ !s.descsDone n then s
  else
    let s1 := forAll p.regionList (fun k s => s.scrubRegion k) s
    let s2 := forAll p.vats (fun v s => { s with vats := tabErase v s.vats }) ((s1.dropNbeJobs fun k => k.part == n).clearNbes p)
    let s3 := { s2 with done := s2.done.filter fun d => d.vf != n }.modPart n fun p =>
      { p with state := if p.haltAfterTeardown then .halted else .off, haltAfterTeardown := false, tearWait := false,
               discard := false, chain := 0, count := 0, progLog := [] }
    if (s3.vf n).flr then s3.resetVf n else s3

/-- VF_FLR (R456, R586). -/
def State.vfReset (s : State) (n : Nat) : State :=
  let s1 := s.teardown n
  if (s1.part n).state = .teardown then s1.modVf n fun v => { v with flr := true } else s1.resetVf n

/-- VF_ENABLE_CLEAR (R456). -/
def State.vfsOff (s : State) : State :=
  let s1 := forAll (List.range 16) (fun n s => s.teardown n) s
  { s1 with gen := { s1.gen with numVfs := 0 } }

/-! ### Halts from outside (R66, R504, R523) -/

/-- SRAM_UNCORRECTABLE (R504). -/
def State.sramBad (s : State) (o : SramOwner) : State := match o with
  | .part n =>
    let (seq, s1) := s.logError { code := 0x0801, severity := 2, part := n.val, path := 14 }
    s1.haltPartition n.val seq
  | .device =>
    let (seq, s1) := s.logError { code := 0x0802, severity := 3, part := partDevice, path := 14 }
    s1.haltDevice seq

/-- IDE_FAIL (R66, R505). The mode of a CXL stream, containment or skid, decides when received data is released, not what
follows a failure (CXL 2.0; log 129). -/
def State.ideFails (s : State) (_stream : Nat) : State :=
  let (seq, s1) := s.logError { code := 0x0204, severity := 3, part := partDevice, path := 8 }
  s1.haltDevice seq

/-! ### Slowdown (R475, R476, R591) -/

/-- BUSY / (BUSY − WAIT) with 8 fraction bits, saturating; no rule says how the quotient is rounded. -/
def slowdownRatio (draw busy wait : Nat) : Half :=
  if busy = 0 then 0x0100
  else if busy ≤ wait then 0xFFFF
  else
    let n := 256 * busy
    let d := busy - wait
    let up := if n % d = 0 then 0 else (Config.freeBits draw 1).toNat
    BitVec.ofNat 16 (min 0xFFFF (n / d + up))

/-- SLOWDOWN_UPDATE (R475, R476): the beats of the last whole millisecond by counter. -/
def State.slowdown (s : State) (n busy wait stk net host srv : Nat) : State :=
  let b (k : Nat) : DWord := BitVec.ofNat 64 k
  let s1 := s.drew.modPart n fun p =>
    { p with busy := p.busy + b busy, wait := p.wait + b wait, waitStk := p.waitStk + b stk, waitNet := p.waitNet + b net,
             waitHost := p.waitHost + b host, waitSrv := p.waitSrv + b srv, ratio := slowdownRatio s.freshCount busy wait,
             limitNow := p.limit }
  let p := s1.part n
  if p.limitNow ≠ 0 ∧ p.limitNow < p.ratio then s1.raise (0x1C + n) p.ratio.toNat else s1

/-! ### The rows -/

/-- PARTITION_ENABLE (R454). -/
def execPartitionEnable (n : Fin 16) := act (whenRunning fun s => s.enablePart n.val)
/-- PARTITION_TEARDOWN (R457). -/
def execPartitionTeardown (n : Fin 16) := act (whenRunning fun s => s.teardown n.val)
/-- TEARDOWN_COMPLETE (R458). -/
def execTeardownComplete (n : Fin 16) := act (whenRunning fun s => s.tornDown n.val)
/-- VF_FLR (R456). -/
def execVfFlr (n : Fin 16) := act (whenRunning fun s => s.vfReset n.val)
/-- VF_ENABLE_CLEAR (R456). -/
def execVfEnableClear := act (whenRunning State.vfsOff)
/-- SRAM_UNCORRECTABLE (R504). -/
def execSramUncorrectable (o : SramOwner) := act (whenRunning fun s => s.sramBad o)
/-- IDE_FAIL (R66). -/
def execIdeFail (stream : Fin 3) := act (whenRunning fun s => s.ideFails stream.val)
/-- SLOWDOWN_UPDATE (R476). -/
def execSlowdownUpdate (n : Fin 16) (busy wait stk net host srv : Nat) :=
  act (whenRunning fun s => s.slowdown n.val busy wait stk net host srv)

end Sys2Proof.Machine
end

