-- ==== Sys2Proof/Machine/Power.lean ====
section
/-! DEFINITION. Throttling, beat division, voltage points, temperature sensors, the thermal limit and shutdown
(R482 to R502). -/

namespace Sys2Proof.Machine

/-! ### The waits of R490 and R497 -/

/-- f stands at its floor. -/
def Pwr.atFloor (p : Pwr) : Bool := p.fNum * 16 == p.floor * p.fDen

/-- The beat from which a condition has held. -/
def since (beat : Nat) (cond : Bool) (was : Option Nat) : Option Nat := if cond then some (was.getD beat) else none

/-- Note which conditions of R490 and R497 hold now. -/
def State.noteWaits (s : State) : State :=
  let p := s.pwr
  let b := s.tmb.beat
  let unmet := decide (p.divReq = 4) && p.atFloor && decide (p.cap < p.p1ms)
  { s with
    pwr := { p with
      highSince := since b (p.atFloor && decide (p.target < 4 * p.p10us)) p.highSince
      hotSince := since b s.thm.limitActive p.hotSince
      lowSince := since b (decide (10 * p.p1ms ≤ 9 * p.cap) && !s.thm.limitActive) p.lowSince
      unmet := if unmet then some (p.unmet.getD (b, false)) else none } }

/-! ### Throttling (R490 to R494) -/

/-- A fraction in lowest terms. -/
def reduced (n d : Nat) : Nat × Nat := (n / max 1 (Nat.gcd n d), d / max 1 (Nat.gcd n d))

/-- f_goal of R494, as a fraction: the floor under the thermal limit. -/
def Pwr.goal (p : Pwr) (limit : Bool) : Nat × Nat :=
  let excess := 4 * p.p10us - p.target
  let n := p.target - p.gain * excess
  if limit || decide (n * 16 < p.floor * p.target) then reduced p.floor 16 else reduced n p.target

/-- f moves toward its goal, at most SLEW / 64 (R494). -/
def Pwr.moved (p : Pwr) (goal : Nat × Nat) : Nat × Nat :=
  let (n, d) := goal
  let up := (64 * p.fNum + p.slew * p.fDen, 64 * p.fDen)
  let down := (64 * p.fNum - p.slew * p.fDen, 64 * p.fDen)
  if p.fNum * d ≤ n * p.fDen then (if n * up.2 ≤ up.1 * d then goal else reduced up.1 up.2)
  else (if down.1 * d ≤ n * down.2 then goal else reduced down.1 down.2)

/-- THROTTLE_UPDATE (R494), with P_10US of the period that ends. -/
def State.throttle (s : State) (p10us : Nat) : State :=
  let p := { s.pwr with p10us := p10us }
  let f := p.moved (p.goal s.thm.limitActive)
  ({ s with pwr := { p with fNum := f.1, fDen := f.2 } }).noteWaits

/-- Clamp a number. -/
def clamp (x lo hi : Nat) : Nat := max lo (min x hi)

/-- T stays within 0.75 CAP and CAP (R494). -/
def Pwr.settleTarget (p : Pwr) : Pwr := { p with target := clamp p.target (3 * p.cap) (4 * p.cap) }

/-- POWER_TRIM (R492, R494), with P_1MS and the input energy in mJ of the millisecond that ends. -/
def State.trim (s : State) (p1ms energyMj : Nat) : State :=
  let p := s.pwr
  let t := p.target + 4 * p.cap - 4 * p1ms
  ({ s with pwr := { p with p1ms := p1ms, energy := p.energy + BitVec.ofNat 64 energyMj,
                            capped := p.capped || decide (p.cap < p1ms), target := clamp t (3 * p.cap) (4 * p.cap) } }).noteWaits

/-- CAP_UNMET (R490): one record for each time that the cap stays missed. -/
def State.capUnmet (s : State) : State :=
  match s.pwr.unmet with
  | some (b, false) =>
    let s1 := s.advanceTo (b + 10000 * beatsPerUs)
    (({ s1 with pwr := { s1.pwr with unmet := some (b, true) } }).log
      { code := 0x0701, severity := 0, part := partDevice, path := 13 }).raise 0x2D s.pwr.p1ms
  | _ => s

/-! ### Beat division (R497) -/

/-- The earlier of two beats. -/
def earlier : Option Nat → Option Nat → Option Nat
  | some a, some b => some (min a b)
  | some a, none => some a
  | none, b => b

/-- DIV_REQ_CHANGE (R497): up after 1 ms, down after 100 ms. -/
def State.divReqChange (s : State) (up : Bool) : State :=
  let p := s.pwr
  if !p.divAuto then s
  else if up then
    match earlier p.highSince p.hotSince with
    | some b => if p.divReq < 4 then ((s.advanceTo (b + 1000 * beatsPerUs)).setDivReq (p.divReq + 1)).noteWaits else s
    | none => s
  else
    match p.lowSince with
    | some b =>
      if max p.minDiv s.leastDivisor < p.divReq then
        ((s.advanceTo (b + 100000 * beatsPerUs)).setDivReq (p.divReq - 1)).noteWaits else s
    | none => s

/-! ### Voltage points (R485, R496) -/

/-- The partition whose enable holds an island on (R482). -/
def State.islandPart (s : State) (i : Nat) : Option Nat :=
  (List.range 16).find? fun n => (s.part n).state != .off && (s.part n).islandList.contains i

/-- A running job holds the island. -/
def State.islandBusy (s : State) (i : Nat) : Bool := s.jobs.any fun (_, j) => j.holds && j.islands.contains i

/-- VPOINT_IDLE (R496). -/
def State.vpointIdle (s : State) (i : Nat) : State :=
  match s.islandPart i, (s.vpoint i).idleSince with
  | some n, some b =>
    if (s.part n).lcEnable || !(s.vpoint i).auto || s.islandBusy i then s
    else (s.advanceTo (b + 100 * beatsPerUs)).setPoint i 0
  | _, _ => s

/-- Hevos chooses the point of an island whose AUTO was set (R496). -/
def State.autoPoint (s : State) (i : Nat) : State :=
  let lc := match s.islandPart i with | some n => (s.part n).lcEnable | none => false
  if (s.vpoint i).auto && (s.vpoint i).point != 3 && (lc || s.islandBusy i) then s.setPoint i 3 else s

/-- VOLTAGE_RISE_COMPLETE (R485). -/
def State.voltageRisen (s : State) (i : Nat) : State := s.modVpoint i fun v => { v with rising := none }

/-! ### Sensors (R498, R499) -/

/-- Neighbours of a sensor (R499). -/
def sensorNeighbours (k : Nat) : List Nat :=
  if k < 256 then
    let i := k / 4
    let c := k % 4
    let row := i % 32 / 8
    let col := i % 8
    let die := i / 32 * 32
    let at_ (r q : Nat) : Nat := 4 * (die + 8 * r + q) + c
    ((List.range 4).filter (· != c)).map (4 * i + ·) ++
      (if 0 < row then [at_ (row - 1) col] else []) ++ (if row < 3 then [at_ (row + 1) col] else []) ++
      (if 0 < col then [at_ row (col - 1)] else []) ++ (if col < 7 then [at_ row (col + 1)] else [])
  else
    let m := (k - 256) % 20
    let b := k - m
    if m < 16 then
      (if 2 ≤ m then [b + m - 2] else []) ++ (if 1 ≤ m then [b + m - 1] else []) ++
        (if m ≤ 14 then [b + m + 1] else []) ++ (if m ≤ 13 then [b + m + 2] else []) ++
        (if m = 0 then (List.range 4).map (b + 16 + ·) else [])
    else ((List.range 4).map (b + 16 + ·)).filter (· != k) ++ [b]

/-- Beats of a sensor's conversion period (R275, R498). -/
def State.sensorPeriod (s : State) (k : Nat) : Nat := if k < 256 then s.thm.period * beatsPerUs else 1000 * beatsPerUs

/-- Raw readings of the neighbours that count (R499). -/
def State.neighbourReadings (s : State) (k : Nat) : List Nat :=
  (sensorNeighbours k).filterMap fun j =>
    match (s.sensor j).last with
    | some b => if s.tmb.beat ≤ b + 2 * s.sensorPeriod j then some (s.sensor j).raw.toNat else none
    | none => none

/-- The median (R499). -/
def median (xs : List Nat) : Option Nat := (sortBy id xs)[xs.length / 2]?

/-- The island of a sensor; none for a DRAM layer (R480, R498). -/
def sensorIsland (k : Nat) : Option Nat :=
  if k < 256 then some (k / 4)
  else
    let m := (k - 256) % 20
    if m < 16 then none else some (64 + 4 * ((k - 256) / 20) + (m - 16))

/-- Whether a sensor can convert: those of an island that is off do not (R482, R498). -/
def State.sensorOn (s : State) (k : Nat) : Bool := decide (256 ≤ k) || (s.islandPart (k / 4)).isSome

/-- SENSOR_CONVERSION (R498). -/
def State.convert (s : State) (k : Nat) : State :=
  if s.sensorOn k then s.modSensor k fun x => { x with converting := true } else s

/-- A sensor turns suspect: one record and its source (R499). -/
def State.tellSuspect (s : State) (k : Nat) : State :=
  (s.log { code := 0x0702, severity := 0, part := partDevice, path := 13, unit := k }).raise 0x2E k

/-- The cross-check of a reading (R499); with fewer than three neighbours only the ends of the range are judged. -/
def State.crossCheck (s : State) (k raw : Nat) : State :=
  let xs := s.neighbourReadings k
  let old := s.sensor k
  let ends := decide (raw = 0) || decide (760 ≤ raw)
  let med := (median xs).getD 0
  let far := decide (med + 32 < raw) || decide (raw + 32 < med)
  let checked := decide (3 ≤ xs.length)
  let bad := ends || (checked && far)
  let good := if bad then 0 else if checked then min 16 (old.good + 1) else old.good
  let suspect := bad || (old.suspect && decide (good < 16))
  let eff : BitVec 12 :=
    if !suspect then BitVec.ofNat 12 raw
    else match median xs with
      | some m => BitVec.ofNat 12 m
      | none => old.effective
  let s1 := s.modSensor k fun x =>
    { x with raw := BitVec.ofNat 12 raw, valid := true, converting := false, last := some s.tmb.beat, suspect := suspect,
             good := good, effective := eff }
  if suspect ∧ !old.suspect then s1.tellSuspect k else s1

/-! ### Rates and refresh (R275, R487) -/

/-- The rate monitor reads below the guaranteed rate plus 3 % (R487). -/
def State.ageIsland (s : State) (i : Nat) : State :=
  let t := tabGet 0 s.flash.agingTrim i
  if t < 30 then { s with flash := { s.flash with agingTrim := tabSet 0 s.flash.agingTrim i (min 30 (t + 5)) } }
  else (s.log { code := 0x0703, severity := 0, part := partDevice, path := 13, unit := i }).raise 0x2F i

/-- Readings of a stack's sensors that are not suspect (R275). -/
def State.stackReadings (s : State) (k : Nat) : List Nat :=
  (List.range 20).filterMap fun m =>
    let x := s.sensor (256 + 20 * k + m)
    if x.suspect || !x.valid then none else some x.effective.toNat

/-- A stack's refresh rate follows its sensors (R275): 85 °C and 82 °C. -/
def State.judgeStack (s : State) (k : Nat) : State :=
  let xs := s.stackReadings k
  let hot := xs.any fun t => decide (500 < t)
  let cool := xs.all fun t => decide (t ≤ 488)
  s.modStk k fun r => { r with hot := r.hot || hot, coolSince := since s.tmb.beat cool r.coolSince }

/-! ### The thermal limit and shutdown (R500, R501) -/

/-- A temperature in whole °C as a code of 12 bits (R502). -/
def tempCode (c : Nat) : Nat := 4 * (c + 40)

/-- The hottest effective reading with the lowest of its sensors (R502). -/
def State.hottest (s : State) : Nat × Nat :=
  s.thm.sensors.foldl (fun (k, t) (j, x) => if t < x.effective.toNat then (j, x.effective.toNat) else (k, t)) (0, 0)

/-- The thermal limit comes into force, or its end draws near (R500). -/
def State.judgeHeat (s : State) : State :=
  let t := s.hottest.2
  let enters := !s.thm.limitActive && decide (tempCode s.thm.limit ≤ t)
  let below := decide (t < tempCode (s.thm.limit - 5))
  let s1 := { s with thm := { s.thm with limitActive := s.thm.limitActive || enters,
                                         belowSince := since s.tmb.beat below s.thm.belowSince } }
  (if enters then s1.raise 0x30 1 else s1).noteWaits

/-- THERMAL_LIMIT_CLEAR (R500). -/
def State.limitClears (s : State) : State :=
  match s.thm.limitActive, s.thm.belowSince with
  | true, some b =>
    let s1 := s.advanceTo (b + 100000 * beatsPerUs)
    (({ s1 with thm := { s1.thm with limitActive := false } }).raise 0x30 0).noteWaits
  | _, _ => s

/-- The island regulators and the memory supply switch off, and the host link drops: what runs stops, and stack contents
are lost (R264, R501, R603). Hevos goes on. -/
def State.powerOff (s : State) (m : Mode) : State :=
  ({ s with vats := [], nbes := [], nbeJobs := [], jobs := [], rereads := [], hostWaits := [],
            mem := { s.mem with cells := [], zeroed := [], marked := [] },
            pins := { s.pins with mode := m, link := .down, linkWidth := 0, linkRate := 0, supplyOn := false } }).emit .linkDown

/-- Shutdown at 110.00 °C (R501). -/
def State.shutdown (s : State) (k : Nat) : State :=
  let s1 := s.powerOff .thermalOff
  { s1 with
    pins := { s1.pins with thermtripLow := true }
    flash := { s1.flash with trips := s1.flash.trips + 1, tripSensor := BitVec.ofNat 9 k,
                             log := s1.flash.log ++ [(1, k, s1.tmb.beat)] } }

/-- What is judged anew when a sensor's reading or its being suspect changes: its stack's refresh rate, the thermal limit
and the shutdown (R275, R500, R501). -/
def State.judgeSensor (s : State) (k : Nat) : State :=
  let s1 := (if 256 ≤ k then s.judgeStack ((k - 256) / 20) else s).judgeHeat
  if tempCode 110 ≤ s1.hottest.2 then s1.shutdown s1.hottest.1 else s1

/-- CONVERSION_TIMEOUT (R275, R499 to R501). -/
def State.convertTimeout (s : State) (k : Nat) : State :=
  let x := s.sensor k
  if !x.converting then s
  else
    let eff : BitVec 12 := match median (s.neighbourReadings k) with
      | some m => BitVec.ofNat 12 m
      | none => x.effective
    let s1 := s.modSensor k fun x => { x with converting := false, suspect := true, good := 0, effective := eff }
    (if x.suspect then s1 else s1.tellSuspect k).judgeSensor k

/-- CONVERSION_RESULT (R275, R487, R499 to R501). The raw reading is the factory-corrected one plus USER_OFFSET (R560). -/
def State.converted (s : State) (k raw : Nat) (rateLow : Bool) : State :=
  if !(s.sensor k).converting then s
  else
    let s1 := s.crossCheck k raw
    let s2 := match rateLow, sensorIsland k with
      | true, some i => s1.ageIsland i
      | _, _ => s1
    s2.judgeSensor k

/-! ### The rows -/

/-- THROTTLE_UPDATE (R494). -/
def execThrottleUpdate (p10us : Half) := act (whenRunning fun s => s.throttle p10us.toNat)
/-- POWER_TRIM (R494). -/
def execPowerTrim (p1ms : Half) (energyMj : Nat) := act (whenRunning fun s => s.trim p1ms.toNat energyMj)
/-- CAP_UNMET (R490). -/
def execCapUnmet := act (whenRunning State.capUnmet)
/-- DIV_REQ_CHANGE (R497). -/
def execDivReqChange (up : Bool) := act (whenRunning fun s => s.divReqChange up)
/-- VPOINT_IDLE (R496). -/
def execVpointIdle (i : Fin 96) := act (whenRunning fun s => s.vpointIdle i.val)
/-- VOLTAGE_RISE_COMPLETE (R485). -/
def execVoltageRiseComplete (i : Fin 96) := act (whenRunning fun s => s.voltageRisen i.val)
/-- SENSOR_CONVERSION (R498). -/
def execSensorConversion (k : Fin 416) := act (whenRunning fun s => s.convert k.val)
/-- CONVERSION_RESULT (R499). -/
def execConversionResult (k : Fin 416) (raw : BitVec 12) (rateLow : Bool) :=
  act (whenRunning fun s => s.converted k.val raw.toNat rateLow)
/-- CONVERSION_TIMEOUT (R499). -/
def execConversionTimeout (k : Fin 416) := act (whenRunning fun s => s.convertTimeout k.val)
/-- THERMAL_LIMIT_CLEAR (R500). -/
def execThermalLimitClear := act (whenRunning State.limitClears)

end Sys2Proof.Machine
end

