-- ==== Sys2Proof/Machine/Regs.lean ====
section
/-! DEFINITION. The register maps: where each register lies, and the value that a read returns
(R577 to R582, R587 to R595 and the field tables of the chapters that they cite). -/

namespace Sys2Proof.Machine

/-! ### The PF map (R587) -/

/-- A register of the PF; `hi` names the high half of a 64-bit one. -/
inductive PfReg where
  | genId | genCaps | genStatus | genUnlock | mgtStatus
  | part (n off : Nat)
  | win (n j : Nat)
  | region (k : Nat) | refresh (k : Nat) | scrub | bucket (k : Nat)
  | ceCount (k : Nat) (hi : Bool) | ueCount (k : Nat) (hi : Bool)
  | queue (q : Nat) | prefixShare (n : Nat)
  | fabCfg | portCtl (p : Nat) | portStatus (p : Nat)
  | replayCount (p : Nat) (hi : Bool) | fecCorr (p : Nat) (hi : Bool) | fecUncorr (p : Nat) (hi : Bool)
  | tmbCtl | tmbStatus | tmbBeat (hi : Bool) | tmbBeatSet (hi : Bool)
  | holdEvents (k : Nat) (hi : Bool) | holdQuanta (k : Nat) (hi : Bool)
  | pwrCap | pwrPower | pwrStatus | beCtl | divCtl | overrunLast | energy (hi : Bool) | overruns (hi : Bool)
  | vpoint (i : Nat)
  | thmCtl | thmStatus | lastTrip | sensor (k : Nat)
  | errStatus | errProduce | errConsume | overflowCount (hi : Bool) | sramCe (hi : Bool) | errLog (k j : Nat)
  | evcSrc (j : Nat) | evcPending (t k : Nat) | evcClaim (t : Nat) | evcComplete (t : Nat) | evcThresh (t : Nat)
  | evcRunning (t : Nat) | evcFilter (j : Nat) | pfMode
  | qBase (hi : Bool) | qCtl | qHead | qTail | qLost
  | secStatus | secFw | tstMux
deriving DecidableEq, Repr

/-- The index of an offset in an array of registers. -/
def regIdx (off base stride count : Nat) : Option Nat :=
  if base ≤ off ∧ (off - base) % stride = 0 ∧ (off - base) / stride < count then some ((off - base) / stride) else none

/-- The same for 64-bit registers: index and half. -/
def regIdx64 (off base count : Nat) : Option (Nat × Bool) :=
  (regIdx off base 4 (2 * count)).map fun k => (k / 2, decide (k % 2 = 1))

/-- Registers below 0x6_0000. -/
def pfRegLow (off : Nat) : Option PfReg :=
  if off = 0x10000 then some .genId else if off = 0x10004 then some .genCaps
  else if off = 0x10008 then some .genStatus else if off = 0x1000C then some .genUnlock
  else if off = 0x10010 then some .mgtStatus
  else if 0x11000 ≤ off ∧ off < 0x12000 ∧ off % 4 = 0 then some (.part ((off - 0x11000) / 0x100) (off % 0x100))
  else if 0x20000 ≤ off ∧ off < 0x40000 ∧ off % 4 = 0 then some (.win ((off - 0x20000) / 0x2000) (off % 0x2000 / 4))
  else ((regIdx off 0x40000 4 2048).map PfReg.region)
    <|> ((regIdx off 0x42000 4 8).map PfReg.refresh)
    <|> (if off = 0x42020 then some .scrub else none)
    <|> ((regIdx off 0x42040 4 8).map PfReg.bucket)
    <|> ((regIdx64 off 0x42080 8).map fun x => .ceCount x.1 x.2)
    <|> ((regIdx64 off 0x420C0 8).map fun x => .ueCount x.1 x.2)
    <|> ((regIdx off 0x50000 4 1024).map PfReg.queue)
    <|> ((regIdx off 0x51000 4 16).map PfReg.prefixShare)

/-- Fabric and timebase registers. -/
def pfRegFabric (off : Nat) : Option PfReg :=
  if off = 0x60000 then some .fabCfg else if off = 0x61000 then some .tmbCtl else if off = 0x61004 then some .tmbStatus
  else ((regIdx off 0x60100 4 16).map PfReg.portCtl)
    <|> ((regIdx off 0x60200 4 16).map PfReg.portStatus)
    <|> ((regIdx64 off 0x60400 16).map fun x => .replayCount x.1 x.2)
    <|> ((regIdx64 off 0x60480 16).map fun x => .fecCorr x.1 x.2)
    <|> ((regIdx64 off 0x60500 16).map fun x => .fecUncorr x.1 x.2)
    <|> ((regIdx64 off 0x61008 1).map fun x => .tmbBeat x.2)
    <|> ((regIdx64 off 0x61010 1).map fun x => .tmbBeatSet x.2)
    <|> ((regIdx64 off 0x61080 16).map fun x => .holdEvents x.1 x.2)
    <|> ((regIdx64 off 0x61100 16).map fun x => .holdQuanta x.1 x.2)

/-- Power and temperature registers. -/
def pfRegPower (off : Nat) : Option PfReg :=
  if off = 0x70000 then some .pwrCap else if off = 0x70004 then some .pwrPower else if off = 0x70008 then some .pwrStatus
  else if off = 0x7000C then some .beCtl else if off = 0x70010 then some .divCtl
  else if off = 0x70014 then some .overrunLast
  else if off = 0x71000 then some .thmCtl else if off = 0x71004 then some .thmStatus
  else if off = 0x71008 then some .lastTrip
  else ((regIdx64 off 0x70018 1).map fun x => .energy x.2)
    <|> ((regIdx64 off 0x70020 1).map fun x => .overruns x.2)
    <|> ((regIdx off 0x70100 4 96).map PfReg.vpoint)
    <|> ((regIdx off 0x72000 4 416).map PfReg.sensor)

/-- Error-log, event, security and test registers. -/
def pfRegHigh (off : Nat) : Option PfReg :=
  if off = 0x80000 then some .errStatus else if off = 0x80004 then some .errProduce
  else if off = 0x80008 then some .errConsume
  else if 0x81000 ≤ off ∧ off < 0x82000 ∧ off % 4 = 0 then some (.errLog ((off - 0x81000) / 64) (off % 64 / 4))
  else if off = 0x90700 then some .pfMode else if off = 0x90808 then some .qCtl else if off = 0x9080C then some .qHead
  else if off = 0x90810 then some .qTail else if off = 0x90814 then some .qLost
  else if off = 0xA0000 then some .secStatus else if off = 0xA0004 then some .secFw
  else if off = 0xB0000 then some .tstMux
  else ((regIdx64 off 0x80010 1).map fun x => .overflowCount x.2)
    <|> ((regIdx64 off 0x80018 1).map fun x => .sramCe x.2)
    <|> ((regIdx off 0x90000 4 256).map PfReg.evcSrc)
    <|> ((regIdx off 0x90400 4 24).map fun k => .evcPending (k / 8) (k % 8))
    <|> ((regIdx off 0x90500 16 3).map PfReg.evcClaim)
    <|> ((regIdx off 0x90504 16 3).map PfReg.evcComplete)
    <|> ((regIdx off 0x90508 16 3).map PfReg.evcThresh)
    <|> ((regIdx off 0x9050C 16 3).map PfReg.evcRunning)
    <|> ((regIdx off 0x90600 4 2).map PfReg.evcFilter)
    <|> ((regIdx64 off 0x90800 1).map fun x => .qBase x.2)

/-- The register at an offset of the PF's BAR0; none where the map names none, and where CXL 2.0 lays the registers
out (R587). -/
def pfReg (off : Nat) : Option PfReg :=
  if off < 0x60000 then pfRegLow off else if off < 0x70000 then pfRegFabric off
  else if off < 0x80000 then pfRegPower off else pfRegHigh off

/-! ### The VF map (R593) -/

/-- A register of a VF. -/
inductive VfReg where
  | sqBase (r : Nat) (hi : Bool) | cqBase (r : Nat) (hi : Bool) | dbAddr (r : Nat) (hi : Bool)
  | ringCfg (r : Nat) | ringIrq (r : Nat) | ringCtl (r : Nat) | ringStatus (r : Nat) | ringFetch (r : Nat)
  | ringCompl (r : Nat)
  | qBase (hi : Bool) | qCtl | qHead | qTail | qLost
  | errSeq | errRec (j : Nat) | vfId | slowdown | rtSel | rtStatus | rtData (k : Nat)
deriving DecidableEq, Repr

/-- A register of ring `r`, by its offset in the ring's 64 bytes. -/
def ringReg (r o : Nat) : Option VfReg :=
  match o with
  | 0x00 => some (.sqBase r false)
  | 0x04 => some (.sqBase r true)
  | 0x08 => some (.cqBase r false)
  | 0x0C => some (.cqBase r true)
  | 0x10 => some (.dbAddr r false)
  | 0x14 => some (.dbAddr r true)
  | 0x18 => some (.ringCfg r)
  | 0x1C => some (.ringIrq r)
  | 0x20 => some (.ringCtl r)
  | 0x24 => some (.ringStatus r)
  | 0x28 => some (.ringFetch r)
  | 0x2C => some (.ringCompl r)
  | _ => none

/-- The register at an offset of a VF's BAR0. -/
def vfReg (off : Nat) : Option VfReg :=
  if off < 0x200 then ringReg (off / 0x40) (off % 0x40)
  else if off = 0x400 then some (.qBase false) else if off = 0x404 then some (.qBase true)
  else if off = 0x408 then some .qCtl else if off = 0x40C then some .qHead else if off = 0x410 then some .qTail
  else if off = 0x414 then some .qLost else if off = 0x500 then some .errSeq else if off = 0x600 then some .vfId
  else if off = 0x604 then some .slowdown else if off = 0x700 then some .rtSel else if off = 0x704 then some .rtStatus
  else ((regIdx off 0x540 4 16).map VfReg.errRec) <|> ((regIdx off 0x710 4 4).map VfReg.rtData)

/-! ### Values -/

/-- A register word from fields given as (lowest bit, value). -/
def regWord (fs : List (Nat × Nat)) : Word := BitVec.ofNat 32 (fs.foldl (fun a (k, v) => a + v * 2 ^ k) 0)

def bit01 (b : Bool) : Nat := if b then 1 else 0

/-- One half of a 64-bit register. -/
def half64 (x : Nat) (hi : Bool) : Word := BitVec.ofNat 32 (if hi then x / 2 ^ 32 else x)

/-- The 64 bytes of an error record (R516). -/
def ErrRec.bytes (r : ErrRec) : List Byte :=
  bytesOfNat 4 r.seq.toNat ++ bytesOfNat 2 r.code ++ bytesOfNat 1 r.severity ++
    bytesOfNat 1 (bit01 r.nested + 2 * bit01 r.lostBefore + 4 * r.addrKind) ++ bytesOfNat 4 r.prior.toNat ++
    bytesOfNat 1 r.part ++ bytesOfNat 1 r.path ++ bytesOfNat 2 r.unit ++ bytesOfNat 8 r.beat ++ bytesOfNat 8 r.addr ++
    bytesOfNat 4 r.tag.toNat ++ bytesOfNat 1 r.ring ++ [0, 0, 0] ++ bytesOfNat 8 r.detail0 ++ bytesOfNat 8 r.detail1 ++
    bytesOfNat 8 0

/-- 64 zero bytes. -/
def zeros64 : List Byte := List.replicate 64 0

def wordAt (bs : List Byte) (j : Nat) : Word := BitVec.ofNat 32 (natOfBytes ((bs.drop (4 * j)).take 4))

def PartState.code : PartState → Nat
  | .off => 0
  | .active => 1
  | .teardown => 2
  | .halted => 3

/-- GEN_PART_SLOWDOWN[n] (R476): LIMIT reads as it is in force. -/
def State.slowdownWord (s : State) (n : Nat) : Word :=
  regWord [(16, (s.part n).ratio.toNat), (0, (s.part n).limitNow.toNat)]

/-- A register of partition block `n` (R450 to R452, R475, R476, R589, R590). -/
def State.partWord (s : State) (n off : Nat) : Word :=
  let p := s.part n
  match off with
  | 0x00 => regWord [(20, p.swarm.toNat), (2, bit01 p.guardNow), (1, bit01 p.lcEnable), (0, bit01 p.enable)]
  | 0x04 => regWord [(8, p.error.toNat), (0, p.state.code)]
  | 0x08 => half64 p.islands.toNat false
  | 0x0C => half64 p.islands.toNat true
  | 0x10 => regWord [(0, p.stackSet.toNat)]
  | 0x14 => p.channels
  | 0x18 => regWord [(0, p.portSet.toNat)]
  | 0x1C => regWord [(16, p.qbase.toNat), (0, p.qcount.toNat)]
  | 0x20 => regWord [(0, p.weightNow.toNat)]
  | 0x24 => s.slowdownWord n
  | 0x28 => regWord [(0, p.entries.toNat)]
  | 0x30 => half64 (p.saveBase.toNat * 4096) false
  | 0x34 => half64 (p.saveBase.toNat * 4096) true
  | 0x38 => regWord [(0, p.saveStride.toNat)]
  | 0x40 => half64 p.busy.toNat false
  | 0x44 => half64 p.busy.toNat true
  | 0x48 => half64 p.wait.toNat false
  | 0x4C => half64 p.wait.toNat true
  | 0x50 => half64 p.waitStk.toNat false
  | 0x54 => half64 p.waitStk.toNat true
  | 0x58 => half64 p.waitNet.toNat false
  | 0x5C => half64 p.waitNet.toNat true
  | 0x60 => half64 p.waitHost.toNat false
  | 0x64 => half64 p.waitHost.toNat true
  | 0x68 => half64 p.waitSrv.toNat false
  | 0x6C => half64 p.waitSrv.toNat true
  | _ => 0

/-- FAB_PORT_STATUS[p] (R408, R444): LASER_OK reads 0 while the engine's shutter is closed. -/
def State.portStatusWord (s : State) (p : Nat) : Word :=
  let g := s.port p
  let lit := (s.port (p / 2 * 2)).enable || (s.port (p / 2 * 2 + 1)).enable
  regWord [(28, g.partnerPort.toNat), (18, g.partnerPos.toNat), (12, g.cause.code), (11, bit01 g.routeBusy),
           (10, bit01 (lit && s.laserOk p)), (9, bit01 g.light), (0, g.state.code)]

def lockCode : Lock → Nat
  | .free => 0
  | .acquiring => 1
  | .locked => 2
  | .lost => 3

/-- BE_RATE (R492): 256 f, rounded to a neighbour that no rule names. -/
def State.beRate (s : State) : Nat :=
  let n := 256 * s.pwr.fNum
  let d := max 1 s.pwr.fDen
  n / d + (if n % d = 0 then 0 else (Config.freeBits s.freshCount 1).toNat)

def State.pwrStatusWord (s : State) : Word :=
  regWord [(8, s.beRate), (7, bit01 s.pwr.capped), (6, bit01 s.thm.limitActive), (0, s.pwr.divReq)]

/-- PWR_VPOINT[i] (R495). -/
def State.vpointWord (s : State) (i : Nat) : Word :=
  let v := s.vpoint i
  regWord [(16, (tabGet 0 s.otp.factoryTrim i).toNat), (8, tabGet 0 s.flash.agingTrim i), (7, bit01 v.auto), (0, v.point)]

/-- THM_STATUS (R502). -/
def State.thmStatusWord (s : State) : Word :=
  let (k, t) := s.hottest
  regWord [(16, k), (8, (t - 160) / 4), (0, bit01 s.thm.limitActive)]

/-- THM_SENSOR[k] (R502). -/
def State.sensorWord (s : State) (k : Nat) : Word :=
  let x := s.sensor k
  regWord [(31, bit01 x.suspect), (30, bit01 x.valid), (16, x.raw.toNat), (0, x.effective.toNat)]

/-- ERR_STATUS (R517). -/
def State.errStatusWord (s : State) : Word :=
  regWord [(8, s.err.opened), (6, s.err.lostSeverity), (3, bit01 s.err.halted), (2, bit01 s.err.overflow)]

/-- EVC_PENDING[t][k] (R565). -/
def State.pendingWord (s : State) (t k : Nat) : Word :=
  regWord ((List.range 32).map fun j => (j, bit01 (tabFind (s.evc.target t).counts (32 * k + j)).isSome))

/-- SEC_STATUS (R552). -/
def State.secStatusWord (s : State) : Word :=
  regWord [(16, s.otp.revoked.toNat), (8, s.otp.counter), (2, bit01 s.sec.entropyFail), (0, if s.sec.debug then 2 else 0)]

/-- A little-endian field of an image header (R534). -/
def imgField (img : List Byte) (off len : Nat) : Nat := natOfBytes ((img.drop off).take len)

/-- SEC_FW_VERSION (R552). -/
def State.fwWord (s : State) : Word := match s.sec.image with
  | some img => regWord [(24, imgField img 0x08 1), (16, imgField img 0x0A 1), (0, imgField img 0x06 2)]
  | none => 0

/-- GEN_STATUS (R588). -/
def State.genStatusWord (s : State) : Word :=
  regWord [(2, bit01 s.gen.armed), (1, bit01 s.gen.refused), (0, bit01 s.gen.ready)]

/-- A firmware update is under way (R559). -/
def UpdState.busy : UpdState → Bool
  | .requested => true
  | .verified _ => true
  | _ => false

def State.mgtStatusWord (s : State) : Word :=
  regWord [(24, s.mgt.i3cEid.toNat), (16, s.mgt.vdmEid.toNat), (1, bit01 s.mgt.update.busy), (0, bit01 s.mgt.running)]

/-- EVC_Q_CTL (R571). -/
def EvQueue.ctlWord (q : EvQueue) : Word := regWord [(31, bit01 q.enable), (0, q.log2.toNat)]

def State.stackWord (s : State) : PfReg → Word
  | .region k => regWord [(1, bit01 (s.region k).scrub), (0, bit01 (s.region k).guarded)]
  | .refresh k => regWord [(2, bit01 (s.stk k).hot), (1, bit01 (s.stk k).forceDoubleNow), (0, bit01 (s.stk k).allBankNow)]
  | .scrub => regWord [(8, s.gen.scrubPeriod.toNat), (0, bit01 s.gen.scrubEnable)]
  | .bucket k => regWord [(16, (s.stk k).leak.toNat), (8, (s.stk k).level.toNat), (0, (s.stk k).limit.toNat)]
  | .ceCount k hi => half64 (s.stk k).ceCount.toNat hi
  | .ueCount k hi => half64 (s.stk k).ueCount.toNat hi
  | _ => 0

/-- TMB_CTL (R446), as it is in force. -/
def TmbCtl.word (c : TmbCtl) : Word :=
  regWord [(20, c.altPort.toNat), (16, c.upPort.toNat), (15, bit01 c.altEn), (14, bit01 c.outEn), (13, bit01 c.seedIn),
           (12, bit01 c.root), (0, c.holdLead.toNat)]

/-- What a read of a PF register shows; fields that a read clears are cleared by the rows of their own. -/
def State.pfWord (s : State) (r : PfReg) : Word :=
  match r with
  | .genId => regWord [(16, 0x0002), (8, s.otp.stepping.toNat)]
  | .genCaps => 0x10081040
  | .genStatus => s.genStatusWord
  | .genUnlock => 0
  | .mgtStatus => s.mgtStatusWord
  | .part n off => s.partWord n off
  | .win n j =>
    let x := tabGet (false, 0) (s.part n).win j
    regWord [(15, bit01 x.1), (0, x.2)]
  | .queue q => let x := tabGet {} s.queuesNow q; regWord [(8, bit01 x.hold), (0, x.weight.toNat)]
  | .prefixShare n => regWord [(0, (s.part n).prefixShare.toNat)]
  | .fabCfg => regWord [(16, s.gen.fabTimeout.toNat), (0, s.gen.fabPos.toNat)]
  | .portCtl p => regWord [(1, bit01 (s.port p).forceDown), (0, bit01 (s.port p).enable)]
  | .portStatus p => s.portStatusWord p
  | .replayCount p hi => half64 (s.port p).replayCount.toNat hi
  | .fecCorr p hi => half64 (s.port p).fecCorr.toNat hi
  | .fecUncorr p hi => half64 (s.port p).fecUncorr.toNat hi
  | .tmbCtl => s.tmb.ctl.word
  | .tmbStatus =>
    regWord [(8, (List.range 16).foldl (fun m k => max m (s.slot k).divisor) 1), (2, bit01 s.tmb.onAlt), (0, lockCode s.tmb.lock)]
  | .tmbBeat hi => half64 s.tmb.beat hi
  | .tmbBeatSet hi => half64 s.tmb.beatSet.toNat hi
  | .holdEvents k hi => half64 (s.slot k).events.toNat hi
  | .holdQuanta k hi => half64 (s.slot k).quanta.toNat hi
  | .pwrCap => regWord [(0, s.pwr.cap)]
  | .pwrPower => regWord [(16, s.pwr.p1ms), (0, s.pwr.p10us)]
  | .pwrStatus => s.pwrStatusWord
  | .beCtl => regWord [(8, s.pwr.gain), (4, s.pwr.floor), (0, s.pwr.slew)]
  | .divCtl => regWord [(3, bit01 s.pwr.divAuto), (0, s.pwr.minDiv)]
  | .overrunLast => regWord [(16, s.pwr.overrunLast.1), (0, s.pwr.overrunLast.2)]
  | .energy hi => half64 s.pwr.energy.toNat hi
  | .overruns hi => half64 s.pwr.overruns.toNat hi
  | .vpoint i => s.vpointWord i
  | .thmCtl => regWord [(16, s.thm.limit), (8, s.thm.period)]
  | .thmStatus => s.thmStatusWord
  | .lastTrip => regWord [(16, s.flash.trips.toNat), (0, s.flash.tripSensor.toNat)]
  | .sensor k => s.sensorWord k
  | .errStatus => s.errStatusWord
  | .errProduce => BitVec.ofNat 32 s.err.produce
  | .errConsume => BitVec.ofNat 32 s.err.consume
  | .overflowCount hi => half64 s.err.overflowCount.toNat hi
  | .sramCe hi => half64 s.err.sramCe.toNat hi
  | .errLog k j => match tabFind s.err.slots k with | some x => wordAt x.bytes j | none => 0
  | .evcSrc j => regWord [(8, (s.evc.source j).route.toNat), (0, (s.evc.source j).prio.toNat)]
  | .evcPending t k => s.pendingWord t k
  | .evcClaim _ => 0
  | .evcComplete _ => 0
  | .evcThresh t => regWord [(0, (s.evc.target t).thresh.toNat)]
  | .evcRunning t => regWord [(4, (s.evc.target t).running.length), (0, (s.evc.target t).level)]
  | .evcFilter j => regWord [(8, bit01 (tabGet false s.evc.level j)), (0, (tabGet 16 s.evc.cycles j).toNat)]
  | .pfMode => regWord [(0, bit01 s.evc.pfQueueMode)]
  | .qBase hi => half64 (s.evq 0).base.toNat hi
  | .qCtl => (s.evq 0).ctlWord
  | .qHead => (s.evq 0).head
  | .qTail => (s.evq 0).tail
  | .qLost => (s.evq 0).lost
  | .secStatus => s.secStatusWord
  | .secFw => s.fwWord
  | .tstMux => regWord [(31, bit01 s.tst.enable), (16, s.tst.group.toNat), (0, s.tst.unit.toNat)]
  | r => s.stackWord r

/-- The record that a VF reads in ERR_VF_REC (R520). -/
def State.vfRecord (s : State) (n : Nat) : List Byte :=
  let seq := (s.vf n).errVfSeq
  match s.err.slots.find? fun (_, x) => x.seq == seq && x.part == n && x.path != 13 with
  | some (_, x) => x.bytes
  | none => zeros64

/-- HIF_RING_STATUS[r] (R594). -/
def State.ringStatusWord (s : State) (n r : Nat) : Word :=
  let g := s.ring n r
  regWord [(8, g.stopCause.toNat), (4, g.badField.toNat), (1, bit01 g.stopped), (0, bit01 g.enable)]

/-- FAB_RT_STATUS (R595). -/
def State.rtStatusWord (s : State) (n : Nat) : Word :=
  regWord [(1, bit01 (s.vf n).rtBusy), (0, bit01 (s.vf n).rtForeign)]

/-- What a read of a register of VF n + 1 shows. -/
def State.vfWord (s : State) (n : Nat) (r : VfReg) : Word :=
  let v := s.vf n
  match r with
  | .sqBase r hi => half64 (s.ring n r).cfg.sqBase.toNat hi
  | .cqBase r hi => half64 (s.ring n r).cfg.cqBase.toNat hi
  | .dbAddr r hi => half64 (s.ring n r).cfg.dbAddr.toNat hi
  | .ringCfg r =>
    let c := (s.ring n r).cfg
    regWord [(16, c.irqMode.toNat), (8, c.cqLog2.toNat), (0, c.sqLog2.toNat)]
  | .ringIrq r => let c := (s.ring n r).cfg; regWord [(16, c.irqTime.toNat), (0, c.irqCount.toNat)]
  | .ringCtl r => regWord [(0, bit01 (s.ring n r).enable)]
  | .ringStatus r => s.ringStatusWord n r
  | .ringFetch r => (s.ring n r).fetch
  | .ringCompl r => (s.ring n r).compl
  | .qBase hi => half64 (s.evq (n + 1)).base.toNat hi
  | .qCtl => (s.evq (n + 1)).ctlWord
  | .qHead => (s.evq (n + 1)).head
  | .qTail => (s.evq (n + 1)).tail
  | .qLost => (s.evq (n + 1)).lost
  | .errSeq => v.errVfSeq
  | .errRec j => wordAt (s.vfRecord n) j
  | .vfId => regWord [(16, (s.part n).state.code), (0, n)]
  | .slowdown => s.slowdownWord n
  | .rtSel => regWord [(31, bit01 v.rtAutoinc), (16, v.rtPort.toNat), (0, v.rtEntry.toNat)]
  | .rtStatus => s.rtStatusWord n
  | .rtData k => tabGet 0 v.rtData k

/-- A word of the recovery mailbox, all that the PF's BAR0 holds in the fallback (R540, R541). -/
def State.mailboxWord (s : State) (off : Nat) : Word :=
  match off with
  | 0x00 => regWord [(0, s.sec.rcvCause)]
  | 0x08 => half64 s.sec.rcvAddr.toNat false
  | 0x0C => half64 s.sec.rcvAddr.toNat true
  | 0x10 => s.sec.rcvSize
  | 0x1C => regWord [(8, s.sec.rcvCode), (0, s.sec.rcvState)]
  | _ => 0

/-- What a 32-bit read of an offset of the PF's BAR0 shows (R577, R578). -/
def State.pfRead (s : State) (off : Nat) : Word := match pfReg off with
  | some r => s.pfWord r
  | none => 0

/-- What a 32-bit read of an offset of VF n + 1's BAR0 shows. -/
def State.vfRead (s : State) (n off : Nat) : Word := match vfReg off with
  | some r => s.vfWord n r
  | none => 0

/-- What a 32-bit read of an offset of a function's BAR2 shows: the MSI-X table, and from the middle on the pending bits
(R51; log 109). -/
def State.bar2Read (s : State) (fn off : Nat) : Word :=
  let m := s.msixOf fn
  let half := if fn = 0 then 0x8000 else 0x800
  let v := tabGet {} m.vecs (off / 16)
  if half ≤ off then
    let first := (off - half) * 8
    regWord ((List.range 32).map fun k =>
      (k, bit01 (decide (first + k < vectorsOfFn fn) && (tabGet {} m.vecs (first + k)).pending)))
  else if vectorsOfFn fn ≤ off / 16 then 0
  else match off % 16 with
    | 0 => field v.addr 0 32
    | 4 => field v.addr 32 32
    | 8 => v.data
    | 12 => regWord [(0, bit01 v.masked)]
    | _ => 0

end Sys2Proof.Machine
end

