-- ==== Sys2Proof/Machine/Security.lean ====
section
/-! DEFINITION. Firmware images, recovery through the host, keys, SPDM, measurements, DOE, CDAT and IDE keys
(R64 to R67, R530 to R553). -/

namespace Sys2Proof.Machine

/-! ### Images (R534 to R536) -/

/-- Where `len` bytes of an image are all zero. -/
def imgZero (img : List Byte) (off len : Nat) : Bool := imgField img off len == 0

def imgSize (img : List Byte) : Nat := imgField img 0x10 8
def imgSvn (img : List Byte) : Nat := imgField img 0x0C 1

/-- Check 1 of R536. -/
def headerOkImage (img : List Byte) : Bool :=
  imgField img 0 4 == 0x57465648 && imgField img 4 2 == 256 && decide (8192 ≤ imgSize img) &&
    decide (imgSize img ≤ 2 ^ 25) && imgSize img % 4096 == 0 && decide (imgSize img ≤ img.length) &&
    decide (imgField img 0x0E 1 < 16) && imgZero img 0x0F 1 && imgZero img 0x18 8 && imgZero img 0xC0 64

/-- Check 2 of R536 passes. -/
def keyOk (o : Otp) (img : List Byte) : Bool :=
  let k := imgField img 0x0D 1
  decide (k < 4) && sha256 ((img.drop 0x20).take 64) == Config.otpKeyHash k && !o.revoked.getLsbD k &&
    !(imgField img 0x0E 1).testBit k

/-- A big-endian 64-byte value. -/
def bits512Of (bs : List Byte) : Bits512 := BitVec.ofNat 512 (natOfBytes bs.reverse)

/-- Check 3 of R536 passes (R535). -/
def signatureOk (img : List Byte) : Bool :=
  let signed := img.take 0x60 ++ List.replicate 64 0 ++ (img.take 0x100).drop 0xA0
  ecdsaVerify (bits512Of ((img.drop 0x20).take 64)) (sha256 signed) (bits512Of ((img.drop 0x60).take 64))

/-- The code of R536: the first check that fails, or 0. -/
def imageCode (o : Otp) (img : List Byte) : Nat :=
  if !headerOkImage img then 0x10
  else if !keyOk o img then 0x11
  else if !signatureOk img then 0x12
  else if sha256 ((img.take (imgSize img)).drop 256) != digestOf ((img.drop 0xA0).take 32) then 0x13
  else if imgSvn img < o.counter then 0x14
  else 0

/-- The image digest (R535). -/
def imageDigest (img : List Byte) : Bits256 := sha256 (img.take (imgSize img))

/-- Bytes of a text (R544). -/
def textBytes (t : String) : List Byte := t.toList.map fun c => BitVec.ofNat 8 c.toNat

/-- The seed of the DeviceID key (R544). -/
def deviceIdSeed : Bits256 := hmacSha256 Config.uds (textBytes "ZN2 DEVICEID")

/-- SHA-256 of the DeviceID public key (R544, R551). -/
def deviceIdDigest : Bits256 := sha256 (bytesOf (publicKey (privateKey deviceIdSeed)) 64).reverse

/-! ### Boot (R530, R532, R538, R605) -/

/-- What stays through a conventional reset: OTP, flash, the pins that others drive, and the model's own fields
(R586, R604). -/
def State.conventional (s : State) (m : Mode) : State :=
  { State.reset with
    pending := s.pending, freshCount := s.freshCount, stamp := s.stamp, out := s.out, otp := s.otp, flash := s.flash
    pins := { vinGood := s.pins.vinGood, vauxGood := s.pins.vauxGood, refclkStable := s.pins.refclkStable,
              perst := s.pins.perst, laserBad := s.pins.laserBad, mode := m } }

/-- The host link comes up: it trains at x16, x8 or x4, and at 32, 16 or 8 GT/s, whichever it reaches (R48). -/
def Pins.trained (p : Pins) (l : HostLink) (k : Nat) : Pins :=
  { p with link := l, linkWidth := 16 / 2 ^ (Config.linkWidth k).val, linkRate := 32 / 2 ^ (Config.linkRate k).val }

/-- The boot ROM enters the PCIe-only fallback, and retrains the link once (R67, R532, R605 step 4). -/
def State.fallback (s : State) (cause code : Nat) : State :=
  ({ s with pins := { s.pins.trained .pcieOnly s.out.length with mode := .recovery, retrained := true },
            sec := { s.sec with rcvCause := cause, rcvCode := code } }).emit .linkUp

/-- Hevos commits the SVN and the revocations: no fuse is ever cleared (R537, R538). -/
def Otp.commit (o : Otp) (img : List Byte) : Otp :=
  { o with counter := max o.counter (min 64 (imgSvn img)),
           revoked := o.revoked ||| BitVec.ofNat 4 (imgField img 0x0E 1) }

/-- A valid image starts: steps 3 to 7 of R530 and 5 to 8 of R605. -/
def State.bootImage (s : State) (img : List Byte) : State :=
  let debug := match s.flash.token with
    | some t => Config.tokenValid deviceIdDigest t
    | none => false
  ({ s with
     otp := s.otp.commit img
     pins := { s.pins.trained .cxl s.out.length with mode := .running, supplyOn := true }
     gen := { s.gen with ready := true }
     mgt := { s.mgt with running := true }
     sec := { s.sec with image := some (img.take 256), imageDigest := imageDigest img, debug := debug } }).emit .linkUp

/-- Power-up after a release of PERST# (R530, R532, R605); `entropyOk` is how the start-up health tests end. -/
def State.boot (s : State) (entropyOk : Bool) : State :=
  let s1 := s.conventional .inReset
  let img := s1.flash.slot
  if !entropyOk then s1.fallback 3 0
  else if imgField img 0 4 ≠ 0x57465648 then s1.fallback 1 0
  else if imageCode s1.otp img ≠ 0 then s1.fallback 2 (imageCode s1.otp img)
  else s1.bootImage img

/-! ### Recovery through the host (R540 to R543) -/

/-- Where a recovery upload stands (R541). -/
def rcvBusy : Nat := 1
def rcvDone : Nat := 2
def rcvFailed : Nat := 3

def State.setRcv (s : State) (state code : Nat) : State := { s with sec := { s.sec with rcvState := state, rcvCode := code } }

/-- SEC_RCV_GO (R542). -/
def State.rcvGo (s : State) : State :=
  if s.sec.rcvState = rcvBusy ∨ s.sec.rcvState = rcvDone then s
  else if s.sec.rcvCause = 3 then s.setRcv rcvFailed 0x18
  else s.setRcv rcvBusy 0

/-- RECOVERY_UPLOAD_COMPLETE (R542): what the first read of the buffer returned, how the erase and program operations
went, and what the second read returned. -/
def State.rcvComplete (s : State) (image : Option (List Byte)) (flashOk : Bool) (second : Option (List Byte)) : State :=
  if s.sec.rcvState ≠ rcvBusy then s
  else match (if s.gen.busMaster then image else none) with
    | none => s.setRcv rcvFailed 0x15
    | some img =>
      let code := imageCode s.otp img
      if code ≠ 0 then s.setRcv rcvFailed code
      else if !flashOk then ({ s with flash := { s.flash with slot := [] } }).setRcv rcvFailed 0x16
      else match second with
        | none => ({ s with flash := { s.flash with slot := [] } }).setRcv rcvFailed 0x15
        | some again =>
          let s1 := { s with flash := { s.flash with slot := again } }
          if imageCode s.otp again ≠ 0 then s1.setRcv rcvFailed 0x17 else s1.setRcv rcvDone 0

/-- A write of a word of the recovery mailbox (R540, R541, R582). -/
def State.mailboxWrite (s : State) (off : Nat) (w : Word) : State :=
  match off with
  | 0x08 => { s with gen := { s.gen with held := [(0, 0x08, w)] } }
  | 0x0C =>
    let lo := match s.gen.held with
      | (_, _, x) :: _ => x
      | [] => field s.sec.rcvAddr 0 32
    { s with gen := { s.gen with held := [] }, sec := { s.sec with rcvAddr := w ++ lo } }
  | 0x10 => { s with sec := { s.sec with rcvSize := w } }
  | 0x18 => if w.getLsbD 0 then s.rcvGo else s
  | _ => s

/-! ### Keys and signatures (R544, R546) -/

/-- The seed of the Alias key: HMAC-SHA-256 of the compound device identifier over image digest, SVN and debug state
(R544). -/
def State.aliasSeed (s : State) : Bits256 :=
  let cdi := hmacSha256 Config.uds (textBytes "ZN2 CDI")
  let svn := match s.sec.image with
    | some h => imgSvn h
    | none => 0
  hmacSha256 (digestBytes cdi) (digestBytes s.sec.imageDigest ++ bytesOfNat 1 svn ++ bytesOfNat 1 (bit01 s.sec.debug))

/-- The Alias key's signature over some bytes (R544, R546). -/
def State.signature (s : State) (bs : List Byte) : Bits512 :=
  ecdsaSign (privateKey s.aliasSeed) (Config.signNonce s.freshCount % (p256N - 1) + 1) (sha256 bs)

/-- The Alias key signs, and a draw is used. -/
def State.sign (s : State) (bs : List Byte) : Bits512 × State := (s.signature bs, s.drew)

/-- The certificate chain of slot 0; none in debug state (R545, R551). -/
def State.chainDer (s : State) : Option (List Byte) := match s.sec.debug, s.sec.image with
  | false, some h => some (Config.certChain s.sec.imageDigest (imgSvn h) (imgField h 0x06 6))
  | _, _ => none

/-! ### Measurements (R547, R548) -/

/-- Index of the running image's key. -/
def State.keyIndex (s : State) : Nat := match s.sec.image with
  | some h => imgField h 0x0D 1
  | none => 0

/-- Partition set-up registers and HDM decoders, by which measurement 5 is made (R547). -/
def State.setupWords (s : State) : List Nat :=
  ((List.range 16).flatMap fun n =>
    ([0x00, 0x08, 0x0C, 0x10, 0x14, 0x18, 0x1C, 0x20, 0x24, 0x28, 0x30, 0x34, 0x38].map fun o => (s.partWord n o).toNat) ++
      (s.part n).win.flatMap fun (k, v, r) => [k, bit01 v, r]) ++
  s.hdm.flatMap fun (k, d) => [k, bit01 d.committed, d.base, d.size, d.ew, d.gb, d.skip, d.pos]

/-- The IDE state of measurement 4: one bit for each stream that is on. -/
def State.ideBits (s : State) : Nat :=
  (List.range 3).foldl (fun a k => a + bit01 (tabGet {} s.sec.ide k).enabled * 2 ^ k) 0

/-- The value of a measurement block (R547); none where no block has the index. -/
def State.measurement (s : State) (i : Nat) : Option (List Byte) :=
  let h := s.sec.image.getD []
  if i = 1 then some (digestBytes Config.romDigest)
  else if i = 2 then some (digestBytes s.sec.imageDigest)
  else if i = 3 then some ((h.drop 0x06).take 6 ++ bytesOfNat 1 (imgSvn h) ++ bytesOfNat 1 s.otp.counter)
  else if i = 4 then some (bytesOfNat 1 s.otp.revoked.toNat ++ bytesOfNat 1 s.keyIndex ++ bytesOfNat 1 s.ideBits)
  else if i = 5 then some (digestBytes (sha256 (Config.setupBytes s.setupWords)))
  else if i = 6 then some (bytesOfNat 1 (if s.sec.debug then 2 else 0) ++ bytesOfNat 1 (bit01 s.sec.muxSeen))
  else if 0x10 ≤ i ∧ i < 0x20 then
    some (bytesOfNat 4 (s.part (i - 0x10)).count.toNat ++ digestBytes (s.part (i - 0x10)).chain)
  else if 0x20 ≤ i ∧ i < 0x30 then
    some ((s.part (i - 0x20)).progLog.flatMap fun m => digestBytes m.digest ++ digestBytes m.config)
  else none

/-- The indices that exist, ascending. -/
def measurementIndices : List Nat := [1, 2, 3, 4, 5, 6] ++ (List.range 32).map (0x10 + ·)

/-! ### SPDM (R546, R550, R551) -/

def State.spdm (s : State) (p : Transport) : Spdm := tabGet {} s.sec.spdm (match p with | .doe => 0 | .vdm => 1 | .i3c => 2)
def State.modSpdm (s : State) (p : Transport) (f : Spdm → Spdm) : State :=
  { s with sec := { s.sec with spdm := tabMod {} s.sec.spdm (match p with | .doe => 0 | .vdm => 1 | .i3c => 2) f } }

/-- Hevos answers on a transport: I3C while it runs, DOE and VDM while the host link is up as well (R64, R554). -/
def State.reachable (s : State) (p : Transport) : Bool := s.mgt.running && (p == .i3c || s.pins.link != .down)

/-- An effect that Hevos has when it is reached. -/
def onTransport (p : Transport) (f : State → State) (s : State) : State := if s.reachable p then f s else s

def State.tell (s : State) (p : Transport) (a : Answer) : State := s.emit (.answer p a)

/-- A request that needs agreed algorithms (R546). -/
def State.negotiated (s : State) (p : Transport) (f : State → State) : State :=
  if (s.spdm p).algorithmsDone then f s else s.tell p (.spdmError .unexpectedRequest)

/-- A request inside a session. -/
def State.inSession (s : State) (p : Transport) (f : State → State) : State :=
  if (s.spdm p).session then f s else s.tell p (.spdmError .unexpectedRequest)

/-- GET_VERSION starts the exchange anew. -/
def State.spdmVersion (s : State) (p : Transport) : State :=
  (s.modSpdm p fun _ => { versionDone := true }).tell p (.version [110, 120])

def State.spdmCapabilities (s : State) (p : Transport) : State :=
  if (s.spdm p).versionDone then (s.modSpdm p fun x => { x with capabilitiesDone := true }).tell p (.capabilities false)
  else s.tell p (.spdmError .unexpectedRequest)

def State.spdmAlgorithms (s : State) (p : Transport) : State :=
  if (s.spdm p).capabilitiesDone then (s.modSpdm p fun x => { x with algorithmsDone := true }).tell p .algorithms
  else s.tell p (.spdmError .unexpectedRequest)

def State.spdmDigests (s : State) (p : Transport) : State :=
  s.negotiated p fun s => s.tell p (.digests (s.chainDer.map sha256))

def State.spdmCertificate (s : State) (p : Transport) (offset length : Nat) : State :=
  s.negotiated p fun s => match s.chainDer with
    | some c =>
      if c.length ≤ offset then s.tell p (.spdmError .invalidRequest)
      else s.tell p (.certificate ((c.drop offset).take length) (c.length - offset - length))
    | none => s.tell p (.spdmError .invalidRequest)

/-- CHALLENGE is refused in debug state (R551). -/
def State.spdmChallenge (s : State) (p : Transport) (nonce : Bits256) : State :=
  s.negotiated p fun s =>
    if s.sec.debug then s.tell p (.spdmError .invalidRequest)
    else
      let (sig, s1) := s.sign (digestBytes nonce)
      s1.tell p (.challengeAuth sig)

/-- GET_MEASUREMENTS: one block, or every block for index 0xFF; a signed one is refused in debug state (R547, R551). -/
def State.spdmMeasurements (s : State) (p : Transport) (index : Nat) (signed : Bool) (nonce : Bits256) : State :=
  s.negotiated p fun s =>
    let idx := if index = 0xFF then measurementIndices else [index]
    let blocks := idx.filterMap fun i => (s.measurement i).map fun b => (i, b)
    if (blocks.isEmpty ∧ index ≠ 0) ∨ (signed ∧ s.sec.debug) then s.tell p (.spdmError .invalidRequest)
    else if signed then
      let (sig, s1) := s.sign ((blocks.flatMap fun (_, b) => b) ++ digestBytes nonce)
      s1.tell p (.measurements blocks (some sig))
    else s.tell p (.measurements blocks none)

/-- KEY_EXCHANGE: Unspecified once the DRBG has stopped (R550); slot 0 is empty in debug state (R551). -/
def State.spdmKeyExchange (s : State) (p : Transport) (exchange : Bits512) : State :=
  s.negotiated p fun s =>
    if s.sec.entropyFail then s.tell p (.spdmError .unspecified)
    else if s.sec.debug then s.tell p (.spdmError .invalidRequest)
    else
      let mine := Config.keyExchangeDraw s.freshCount
      let (sig, s1) := s.drew.sign (bytesOf exchange 64 ++ bytesOf mine 64)
      (s1.modSpdm p fun x => { x with handshake := true, session := false }).tell p (.keyExchange mine sig)

/-- FINISH; `verified` is whether the requester's proof over the exchange holds. -/
def State.spdmFinish (s : State) (p : Transport) (verified : Bool) : State :=
  if !(s.spdm p).handshake then s.tell p (.spdmError .unexpectedRequest)
  else if verified then (s.modSpdm p fun x => { x with handshake := false, session := true }).tell p .finish
  else (s.modSpdm p fun x => { x with handshake := false }).tell p (.spdmError .decryptError)

def State.spdmHeartbeat (s : State) (p : Transport) : State := s.inSession p fun s => s.tell p .heartbeatAck
def State.spdmKeyUpdate (s : State) (p : Transport) : State := s.inSession p fun s => s.tell p .keyUpdateAck
def State.spdmEnd (s : State) (p : Transport) : State :=
  s.inSession p fun s => (s.modSpdm p fun x => { x with session := false }).tell p .endSessionAck

/-! ### DOE and CDAT (R64, R65) -/

/-- DOE_DISCOVERY (R64). -/
def doeProtocolAt : Nat → Option DoeProtocol
  | 0 => some .discovery
  | 1 => some .cma
  | 2 => some .securedCma
  | 3 => some .cdat
  | _ => none

/-- CDAT_TABLE_ACCESS (R65). -/
def cdatEntryAt : Nat → Option CdatEntry
  | 0 => some (.dsmas 0 (2 ^ 39) false)
  | 1 => some (.dslbisLatency 240 240)
  | 2 => some (.dslbisBandwidth 64 64)
  | 3 => some .dsemtsSpecificPurpose
  | _ => none

/-! ### IDE keys (R549) -/

def State.modIde (s : State) (k : Nat) (f : IdeStream → IdeStream) : State :=
  { s with sec := { s.sec with ide := tabMod {} s.sec.ide k f } }

/-- IDE_KM_KEY_PROG: only inside a secured session on the PF's DOE mailbox. -/
def State.keyProg (s : State) (stream dir set : Nat) (key : Bits256) : State :=
  if (s.spdm .doe).session then
    (s.modIde stream fun x => { x with keys := x.keys.filter (fun k => !(k.1 == dir && k.2.1 == set)) ++ [(dir, set, key)] }).tell
      .doe (.keyProgAck true)
  else s.tell .doe (.keyProgAck false)

/-- KEY_SET_GO: the stream uses the key set from the next flit boundary on. -/
def State.keyGo (s : State) (stream dir set : Nat) : State :=
  let x := tabGet {} s.sec.ide stream
  if (s.spdm .doe).session && x.keys.any fun k => k.1 == dir && k.2.1 == set then
    (s.modIde stream fun x =>
      { x with active := x.active.filter (fun a => a.1 != dir) ++ [(dir, set)], enabled := true }).tell .doe (.keyGoAck true)
  else s.tell .doe (.keyGoAck false)

/-- A stream is disabled: its keys are erased (R549). -/
def State.ideSwitch (s : State) (stream : Nat) (on : Bool) : State :=
  if on then s.modIde stream fun x => { x with enabled := true } else s.modIde stream fun _ => {}

/-- ENTROPY_FAIL (R550): the DRBG stops until reset. -/
def State.entropyFails (s : State) : State := { s with sec := { s.sec with entropyFail := true } }

/-- An effect that only the PCIe-only fallback has (R67, R540). -/
def whenRecovery (f : State → State) (s : State) : State := if s.pins.mode == .recovery then f s else s

/-! ### The rows -/

/-- DOE_DISCOVERY (R64). -/
def execDoeDiscovery (index : Byte) :=
  act (onTransport .doe fun s => s.tell .doe (.doeProtocol index.toNat (doeProtocolAt index.toNat)))
/-- CDAT_TABLE_ACCESS (R65). -/
def execCdatTableAccess (entry : Half) :=
  act (onTransport .doe fun s => s.tell .doe (.cdat entry.toNat (cdatEntryAt entry.toNat)))
/-- GET_VERSION (R546). -/
def execGetVersion (p : Transport) := act (onTransport p fun s => s.spdmVersion p)
/-- GET_CAPABILITIES (R546). -/
def execGetCapabilities (p : Transport) := act (onTransport p fun s => s.spdmCapabilities p)
/-- NEGOTIATE_ALGORITHMS (R546). -/
def execNegotiateAlgorithms (p : Transport) := act (onTransport p fun s => s.spdmAlgorithms p)
/-- GET_DIGESTS (R546). -/
def execGetDigests (p : Transport) := act (onTransport p fun s => s.spdmDigests p)
/-- GET_CERTIFICATE (R545). -/
def execGetCertificate (p : Transport) (offset length : Half) :=
  act (onTransport p fun s => s.spdmCertificate p offset.toNat length.toNat)
/-- CHALLENGE (R546). -/
def execChallenge (p : Transport) (nonce : Bits256) := act (onTransport p fun s => s.spdmChallenge p nonce)
/-- GET_MEASUREMENTS (R547). -/
def execGetMeasurements (p : Transport) (index : Byte) (signed : Bool) (nonce : Bits256) :=
  act (onTransport p fun s => s.spdmMeasurements p index.toNat signed nonce)
/-- KEY_EXCHANGE (R546). -/
def execKeyExchange (p : Transport) (exchange : Bits512) := act (onTransport p fun s => s.spdmKeyExchange p exchange)
/-- FINISH (R546). -/
def execFinish (p : Transport) (verified : Bool) := act (onTransport p fun s => s.spdmFinish p verified)
/-- HEARTBEAT (R546). -/
def execHeartbeat (p : Transport) := act (onTransport p fun s => s.spdmHeartbeat p)
/-- KEY_UPDATE (R546). -/
def execKeyUpdate (p : Transport) := act (onTransport p fun s => s.spdmKeyUpdate p)
/-- END_SESSION (R546). -/
def execEndSession (p : Transport) := act (onTransport p fun s => s.spdmEnd p)
/-- IDE_KM_KEY_PROG (R549). -/
def execIdeKmKeyProg (stream : Fin 3) (dir keySet : Fin 2) (key : Bits256) :=
  act (onTransport .doe fun s => s.keyProg stream.val dir.val keySet.val key)
/-- KEY_SET_GO (R549). -/
def execKeySetGo (stream : Fin 3) (dir keySet : Fin 2) :=
  act (onTransport .doe fun s => s.keyGo stream.val dir.val keySet.val)
/-- SEC_RCV_GO (R542). -/
def execSecRcvGo := act (whenRecovery State.rcvGo)
/-- RECOVERY_UPLOAD_COMPLETE (R542). -/
def execRecoveryUploadComplete (image : Option (List Byte)) (flashOk : Bool) (second : Option (List Byte)) :=
  act (whenRecovery fun s => s.rcvComplete image flashOk second)
/-- ENTROPY_FAIL (R550). -/
def execEntropyFail := act (whenRunning State.entropyFails)

end Sys2Proof.Machine
end

