-- ==== Sys2Proof/Machine/Events.lean ====
section
/-! DEFINITION. Claims and completions of events, event queues, external inputs, and the registers that a read clears
(R517 to R520, R563 to R573, R580, R583 to R585, R588, R594, R595). -/

namespace Sys2Proof.Machine

/-! ### Claims (R567) -/

/-- A claim of a target: the word it reads, and the state after it. -/
def State.claim (s : State) (t : Nat) : Word × State :=
  match s.evc.best t (s.evc.target t).level with
  | none => (0, s)
  | some (k, p) =>
    (regWord [(31, 1), (8, p), (0, k)],
     s.evcDo fun e => (e.taken t k).modTarget t fun x => { x with running := (p, k) :: x.running })

/-- The source whose handling runs is completed; any other source is ignored (R567). -/
def State.finishEvent (s : State) (t k : Nat) : State :=
  match (s.evc.target t).running with
  | (_, j) :: rest => if j = k then s.evcDo fun e => e.modTarget t fun x => { x with running := rest } else s
  | [] => s

/-- EVC_CLAIM_READ: the PF claims for target 0 alone (R587). -/
def State.evcClaimRead (s : State) (t : Nat) : State :=
  if t = 0 then
    let (w, s1) := s.claim 0
    s1.emit (.regValue w)
  else s.emit (.regValue 0)

/-- EVC_COMPLETE_WRITE (R567, R587). -/
def State.evcCompleteWrite (s : State) (t : Nat) (w : Word) : State :=
  if t = 0 then s.finishEvent 0 (field w 0 8).toNat else s

/-- EVC_SRC_CLEAR (R564). -/
def State.evcSrcClear (s : State) (k : Nat) : State :=
  s.evcDo fun e => (List.range 3).foldl (fun e t => e.taken t k) e

/-- ALERT_OUT# is driven low (R565, R598). -/
def State.alertLow (s : State) : Bool := s.evc.line 2

/-! ### Event queues (R571) -/

/-- EVC_Q_HEAD_WRITE: the vector goes out again where records remain unread; room lets the PF's queue go on
(R571, R572). -/
def State.evqHead (s : State) (fn : Nat) (w : Word) : State :=
  let s1 := s.modEvq fn fun q => { q with head := w }
  let q := s1.evq fn
  let s2 := if q.enable ∧ q.tail ≠ w then s1.interrupt fn (evqVector fn) else s1
  if fn = 0 ∧ s2.evc.pfQueueMode then pfQueueServe 256 s2 else s2

/-- EVC_Q_CTL: a base that is not aligned or a LOG2 out of range leaves the queue disabled; enabling starts its counts
at 0 (R69, R571). -/
def State.evqCtl (s : State) (fn : Nat) (w : Word) : State :=
  let q := s.evq fn
  let on := w.getLsbD 31
  if q.enable then (if on then s else s.modEvq fn fun q => { q with enable := false })
  else
    let s1 := s.modEvq fn fun q => { q with log2 := field w 0 5 }
    let l := (field w 0 5).toNat
    if on ∧ q.base.toNat % 4096 = 0 ∧ 2 ≤ l ∧ l ≤ 16 then
      let s2 := s1.modEvq fn fun q => { q with enable := true, head := 0, tail := 0 }
      if fn = 0 ∧ s2.evc.pfQueueMode then pfQueueServe 256 s2 else s2
    else s1

/-- EVC_PF_MODE (R572). -/
def State.pfModeWrite (s : State) (w : Word) : State := s.evcDo fun e => { e with pfQueueMode := w.getLsbD 0 }

/-! ### External inputs (R569) -/

def State.extIn (s : State) (j : Nat) (low : Bool) : State :=
  let was := tabGet false s.evc.level j
  let s1 := { s with evc := { s.evc with level := tabSet false s.evc.level j low } }
  if low && !was then s1.raise (0x43 + j) j else s1

/-! ### Registers that a read clears (R580) -/

def State.readErrStatus (s : State) : State :=
  ({ s with err := { s.err with overflow := false, lostSeverity := 0 } }).emit (.regValue s.errStatusWord)

def State.readPwrStatus (s : State) : State :=
  ({ s.drew with pwr := { s.pwr with capped := false } }).emit (.regValue s.pwrStatusWord)

def State.readGenStatus (s : State) : State :=
  ({ s with gen := { s.gen with refused := false } }).emit (.regValue s.genStatusWord)

def State.readPortStatus (s : State) (p : Nat) : State :=
  (s.modPort p fun g => { g with routeBusy := false }).emit (.regValue (s.portStatusWord p))

def State.readRtStatus (s : State) (n : Nat) : State :=
  (s.modVf n fun v => { v with rtBusy := false, rtForeign := false }).emit (.regValue (s.rtStatusWord n))

def State.readRingStatus (s : State) (n r : Nat) : State :=
  (s.modRing n r fun g => { g with badField := 0 }).emit (.regValue (s.ringStatusWord n r))

def State.readQLost (s : State) (fn : Nat) : State :=
  (s.modEvq fn fun q => { q with lost := 0 }).emit (.regValue (s.evq fn).lost)

/-! ### The error log's consumer (R519, R521) -/

/-- ERR_CONSUME: a count from the present one to ERR_PRODUCE; records that it passes close. -/
def State.consume (s : State) (w : Word) : State :=
  let e := s.err
  let k := (w - BitVec.ofNat 32 e.consume).toNat
  if e.opened < k then s
  else
    let c := e.consume + k
    { s with err := { e with consume := c, openRecs := e.openRecs.filter fun o => decide (c ≤ o.idx) } }

/-! ### The key and the multiplexer (R574, R576, R583 to R585) -/

/-- GEN_UNLOCK (R583). -/
def State.unlock (s : State) (w : Word) : State :=
  { s with gen := { s.gen with armed := field w 0 16 == 0xA6E7#16 } }

/-- A write to a register that holds WK fields: it consumes the arm, or reports that there was none (R584, R585). -/
def State.keyed (s : State) (f : Bool → State → State) : State :=
  f s.gen.armed { s with gen := { s.gen with armed := false, refused := s.gen.refused || !s.gen.armed } }

/-- Units that a group of the multiplexer has (R575). -/
def muxUnits : Nat → Nat
  | 1 => 96
  | 2 => 64
  | 3 => 8
  | 4 => 16
  | 7 => 3
  | _ => 1

/-- TST_MUX_CTL_WRITE (R574 to R576). -/
def State.muxWrite (s : State) (w : Word) : State :=
  s.keyed fun armed s =>
    let g := field w 16 3
    let u := field w 0 7
    if !armed ∨ muxUnits g.toNat ≤ u.toNat then s
    else
      let on := w.getLsbD 31
      { s with tst := { enable := on, group := g, unit := u, stack := if g = 3 then u.toNat else s.tst.stack }
               sec := { s.sec with muxSeen := s.sec.muxSeen || on } }

/-! ### The rows -/

/-- Number of a function's event queue. -/
def Fn.queue : Fn → Nat
  | .pf => 0
  | .vf n => n.val + 1

/-- EVC_CLAIM_READ (R567). -/
def execEvcClaimRead (t : Fin 3) := act (whenRunning fun s => s.evcClaimRead t.val)
/-- EVC_COMPLETE_WRITE (R567). -/
def execEvcCompleteWrite (t : Fin 3) (w : Word) := act (whenRunning fun s => s.evcCompleteWrite t.val w)
/-- EVC_SRC_CLEAR (R564). -/
def execEvcSrcClear (j : Fin 256) := act (whenRunning fun s => s.evcSrcClear j.val)
/-- EVC_Q_HEAD_WRITE (R571). -/
def execEvcQHeadWrite (f : Fn) (w : Word) := act (whenRunning fun s => s.evqHead (Fn.queue f) w)
/-- EVC_Q_LOST_READ (R571). -/
def execEvcQLostRead (f : Fn) := act (whenRunning fun s => s.readQLost (Fn.queue f))
/-- EXT_IN_ASSERT (R569). -/
def execExtInAssert (j : Fin 2) := act (whenRunning fun s => s.extIn j.val true)
/-- EXT_IN_DEASSERT (R569). -/
def execExtInDeassert (j : Fin 2) := act (whenRunning fun s => s.extIn j.val false)
/-- HIF_RING_STATUS_READ (R594). -/
def execHifRingStatusRead (r : RingRef) := act (whenRunning fun s => s.readRingStatus r.vf.val r.ring.val)
/-- FAB_PORT_STATUS_READ (R444). -/
def execFabPortStatusRead (p : Fin 16) := act (whenRunning fun s => s.readPortStatus p.val)
/-- FAB_RT_STATUS_READ (R595). -/
def execFabRtStatusRead (n : Fin 16) := act (whenRunning fun s => s.readRtStatus n.val)
/-- PWR_STATUS_READ (R492). -/
def execPwrStatusRead := act (whenRunning State.readPwrStatus)
/-- ERR_STATUS_READ (R517). -/
def execErrStatusRead := act (whenRunning State.readErrStatus)
/-- GEN_STATUS_READ (R588). -/
def execGenStatusRead := act (whenRunning State.readGenStatus)
/-- ERR_CONSUME_WRITE (R519). -/
def execErrConsumeWrite (w : Word) := act (whenRunning fun s => s.consume w)
/-- ERR_VF_REC_READ (R520). -/
def execErrVfRecRead (n : Fin 16) := act (whenRunning fun s => s.emit (.regBytes (s.vfRecord n.val)))
/-- GEN_UNLOCK (R583). -/
def execGenUnlock (w : Word) := act (whenRunning fun s => s.unlock w)
/-- TST_MUX_CTL_WRITE (R574). -/
def execTstMuxCtlWrite (w : Word) := act (whenRunning fun s => s.muxWrite w)

end Sys2Proof.Machine
end

