-- ==== Sys2Proof/Machine/HostMem.lean ====
section
/-! DEFINITION. Host access to stack memory, re-reads, patrol scrub, correctable errors, refresh and the HDM decoders
(R54, R55, R251, R252, R259 to R263, R273 to R282, R509 to R511, R526, R608). -/

namespace Sys2Proof.Machine

/-! ### Check words of one access -/

/-- Words of an access that are named bad: uncorrectable, or in a working region any parity mismatch (R259, R260). -/
def badWords (guarded : Bool) (c : Conds) : List Nat :=
  (c.filter fun (_, x) => x == .bad || !guarded).map (·.1)

/-- Words of a guarded region with a single-bit error. -/
def singleWords (guarded : Bool) (c : Conds) : List Nat := if guarded then (c.filter fun (_, x) => x == .single).map (·.1) else []

/-- Check-word address of the 32-bit word `w` after `a`. -/
def wordAddr (guarded : Bool) (a w : Nat) : Nat := (a + 4 * w) / checkWord guarded * checkWord guarded

/-- Whether the check word of a 32-bit word is marked. -/
def State.wordMarked (s : State) (a w : Nat) : Bool := s.isMarked (a + 4 * w)

/-- Conditions of the granule that begins `off` bytes into an access. -/
def condsFrom (off : Nat) (c : Conds) : Conds :=
  (c.filter fun (w, _) => decide (off / 4 ≤ w) && decide (w < off / 4 + 8)).map fun (w, x) => (w - off / 4, x)

/-- The owner of a region for a record (R505). -/
def State.ownerPart (s : State) (a : Nat) : Nat := (s.owner (regionOf a)).getD partDevice

/-! ### HDM decoders (R54, R55, R251, R252) -/

/-- The device address behind a host address. -/
def State.hdmDpa (s : State) (hpa : DWord) : Option Nat :=
  ((List.range 4).findSome? fun k =>
    let d := tabGet {} s.hdm k
    if d.claims hpa.toNat then some (d.toDpa hpa.toNat) else none)

/-- The DPA base of a decoder: the end of the decoder below it plus its own skip (R252). -/
def State.hdmBase (s : State) (k skip : Nat) : Nat :=
  if k = 0 then skip else
    let d := tabGet ({} : Hdm) s.hdm (k - 1)
    d.dbase + d.size / 2 ^ d.ew + skip

/-- Whether a commit keeps the rules of R54 and R252. -/
def State.hdmOk (s : State) (k base size ew gb skip pos : Nat) : Bool :=
  let m := 2 ^ 28
  let below := tabGet ({} : Hdm) s.hdm (k - 1)
  let len := size / 2 ^ ew
  decide (ew ≤ 3) && decide (8 ≤ gb) && decide (gb ≤ 14) && decide (pos < 2 ^ ew) && decide (base % m = 0) &&
    decide (size % m = 0) && decide (size % 2 ^ ew = 0) && decide (len % m = 0) && decide (skip % m = 0) &&
    decide (base + size ≤ 2 ^ 64) && decide (s.hdmBase k skip + len ≤ 2 ^ 39) &&
    (k == 0 || (below.committed && decide (below.base + below.size ≤ base)))

/-- HDM_DECODER_COMMIT (R252): a committed decoder stays as it is. -/
def State.hdmCommit (s : State) (k base size ew gb skip pos : Nat) : State :=
  if (tabGet ({} : Hdm) s.hdm k).committed then s
  else if s.hdmOk k base size ew gb skip pos then
    { s with hdm := tabPut k { committed := true, error := false, base := base, size := size, ew := ew, gb := gb,
                               skip := skip, pos := pos, dbase := s.hdmBase k skip } s.hdm }
  else { s with hdm := tabMod {} s.hdm k fun d => { d with error := true } }

/-- No decoder claims an address (R55). -/
def State.hdmMiss (s : State) (hpa : DWord) : State :=
  s.log { code := 0x0107, severity := 0, part := partDevice, path := 9, addrKind := 3, addr := hpa.toNat }

/-! ### Host reads (R261, R262, R509, R525, R608) -/

/-- A granule is under re-read (R526). -/
def State.rereading (s : State) (a : Nat) : Bool := s.rereads.any fun r => r.dpa == a / 32 * 32
/-- The line or an earlier waiting access to it holds an access back (R526). -/
def State.hostHeld (s : State) (a : Nat) : Bool := s.rereading a || s.rereading (a + 32)

def poisonData (hpa : DWord) : Output := .memData hpa 0 true

/-- Deliver a host read: poison where a word is marked. -/
def State.hostDeliver (s : State) (hpa : DWord) (a : Nat) : State :=
  let bs := s.mem.read s.freshCount a 64
  let poison := (List.range 16).any fun w => s.wordMarked a w
  s.drew.emit (.memData hpa (BitVec.ofNat 512 (natOfBytes bs)) poison)

/-- A granule of a host read meets its words' conditions: corrected words are counted once, failing ones begin
re-reads (R608). -/
def State.hostGranule (s : State) (a : Nat) (c : Conds) : State :=
  let g := s.guardedAt a
  let bad := (badWords g c).filter fun w => !s.wordMarked a w
  let single := (singleWords g c).filter fun w => !s.wordMarked a w
  let s1 := if single.isEmpty then s else s.countCe (stackOf a)
  if bad.isEmpty then s1
  else { s1 with rereads := s1.rereads ++ [{ dpa := a, consumer := .host, tries := 0, failing := bad, recovered := false,
                                             counted := !single.isEmpty }] }

/-! ### Host writes (R262, R263) -/

/-- Bytes of one check word that a write covers. -/
def wordMask (be : BitVec 64) (off cw : Nat) : List Nat := (List.range cw).filter fun k => be.getLsbD (off + k)

/-- Parts of a host write's granule that cover a check word only in part, as device ranges: the controller reads them
(R263). -/
def hostParts (be : BitVec 64) (a off cw : Nat) : List (Nat × Nat) :=
  ((List.range (32 / cw)).map fun k => off + cw * k).filterMap fun o =>
    let n := (wordMask be o cw).length
    if n = 0 ∨ n = cw then none else some (a + o, cw)

/-- One check word of a host write: whole, merged, dropped, or marked (R262, R263). -/
def State.hostWord (s : State) (hpa : DWord) (a : Nat) (data : Bits512) (be : BitVec 64) (poison : Bool) (off : Nat) :
    State :=
  let cw := s.checkAt a
  let on := wordMask be off cw
  let put (s : State) : State := { s with mem := on.foldl (fun m k =>
    m.put (a + off + k) [field data (8 * (off + k)) 8]) s.mem }
  if on.isEmpty then s
  else if poison then s.markAt (a + off)
  else if on.length = cw then
    { s with mem := s.mem.replace (a + off) (bytesOf (field data (8 * off) (8 * cw)) cw) }
  else if s.isMarked (a + off) then
    s.log { code := 0x0106, severity := 0, part := s.ownerPart a, path := 9, addrKind := 3, addr := hpa.toNat,
            detail1 := a + off }
  else put s

/-- Carry a host write out: each granule's partial words are read, and found as `errs` says, before it is written
(R263, R267). -/
def State.hostStore (s : State) (hpa : DWord) (a : Nat) (data : Bits512) (be : BitVec 64) (poison : Bool)
    (errs : Errs) : State :=
  let cw := s.checkAt a
  let granule (off : Nat) (s : State) : State :=
    let parts := if poison then [] else hostParts be a off cw
    let s1 := ({ s with errs := errs }).meet parts
    forAll ((List.range (32 / cw)).map fun k => off + cw * k) (fun o s => s.hostWord hpa a data be poison o)
      { s1 with errs := s.errs }
  (granule 32 (granule 0 s)).emit (.memDone hpa)

/-! ### Host accesses in order (R261, R267, R509, R526) -/

def HostAcc.hpa : HostAcc → DWord
  | .read h _ => h
  | .write h _ _ _ _ => h

/-- A host access is served, or waits behind a granule under re-read: one that it found itself, or an earlier one. -/
def State.hostServe (w : HostAcc) (s : State) : State :=
  match s.hdmDpa w.hpa with
  | none => (s.hdmMiss w.hpa).emit (match w with
    | .read h _ => poisonData h
    | .write h .. => .memDone h)
  | some d =>
    let a := d / 64 * 64
    if s.hostHeld a then { s with hostWaits := s.hostWaits ++ [w] }
    else match w with
      | .read h c =>
        let s1 := (s.hostGranule a (condsFrom 0 c)).hostGranule (a + 32) (condsFrom 32 c)
        if s1.hostHeld a then { s1 with hostWaits := s1.hostWaits ++ [.read h []] } else s1.hostDeliver h a
      | .write h data be p e => s.hostStore h a data be p e

/-- HOST_MEM_READ (R261). -/
def State.hostRead (s : State) (hpa : DWord) (c : Conds) : State :=
  if s.err.halted then s.emit (poisonData hpa) else s.hostServe (.read hpa c)

/-- HOST_MEM_WRITE (R262). -/
def State.hostWrite (s : State) (hpa : DWord) (data : Bits512) (be : BitVec 64) (poison : Bool) (errs : Errs) : State :=
  if s.err.halted then s.emit (.memDone hpa) else s.hostServe (.write hpa data be poison errs)

/-- Host accesses whose granules are no longer held go on, in order (R509, R526). -/
def State.hostResume (s : State) : State := forAll s.hostWaits State.hostServe { s with hostWaits := [] }

/-! ### Re-reads (R261, R506, R510, R511, R608) -/

/-- The host address of a waiting read of this granule, for its record (R618). -/
def State.waitingHpa (s : State) (a : Nat) : Nat :=
  (s.hostWaits.findSome? fun w => match w with
    | .read h _ => (match s.hdmDpa h with
      | some d => if d / 64 = a / 64 then some h.toNat else none
      | none => none)
    | .write .. => none).getD 0

/-- A consumer in a partition's window whose read has failed for good (R511). -/
def ueInfo (n path unit w a sev : Nat) : ErrInfo :=
  { code := 0x0102, severity := sev, part := n, path := path, unit := unit, addrKind := 1, addr := w, detail1 := a }

/-- A vat's read fails: its step faults. -/
def State.vatReadFails (s : State) (v path a : Nat) : State :=
  let n := s.vatPart v
  s.faultVat v (ueInfo n path v ((s.part n).offsetOf a) a 1)

/-- The consequences for the consumer of a granule whose re-reads are spent (R511). -/
def State.readLost (s : State) (a : Nat) (words : List Nat) (c : Consumer) : State :=
  match c with
  | .host =>
    s.log { code := 0x0103, severity := 0, part := s.ownerPart a, path := 9, addrKind := 3, addr := s.waitingHpa a,
            detail1 := a }
  | .patrol =>
    forAll words (fun w s => s.log
      { code := 0x0104, severity := 0, part := s.ownerPart a, path := 10, unit := stackOf a, addrKind := 2,
        addr := wordAddr (s.guardedAt a) a w, detail1 := wordAddr (s.guardedAt a) a w }) s
  | .sld v => s.vatReadFails v.val 3 a
  | .expander v => s.vatReadFails v.val 6 a
  | .fetch v => s.vatTrap v.val .fetchUncorrectable none 0
  | .nbe id =>
    (match tabFind s.nbeJobs id with
      | none => s
      | some k =>
        let i := ueInfo k.part 4 (16 * stackOf a + ownerNbe a) ((s.part k.part).offsetOf a) a 1
        let s1 := { s with nbeJobs := tabPut id { k with phase := .failed } s.nbeJobs }
        match k.job with
        | some j => s1.faultJob j i
        | none => s1.log i)
  | .copy r id ch =>
    let n := r.vf.val
    (match (s.ring n r.ring.val).find id with
      | some d => (match d.state with
        | .copy cj =>
          (s.copyFails n r.ring.val d cj ch.val ((s.part n).offsetOf a) { off := 0, dpa := a, spent := true }).settleChannels n
        | _ => s)
      | none => s)
  | .descriptor r id path =>
    let n := r.vf.val
    (match (s.ring n r.ring.val).find id with
      | some d => s.failDesc n r.ring.val d (ueInfo n path.toNat 0 ((s.part n).offsetOf a) a 1) { status := statusPoisonRead }
      | none => s)
  | .prefixLookup n => s.log (ueInfo n.val 12 0 ((s.part n.val).offsetOf a) a 0)
  | .save id v =>
    (match tabFind s.jobs id with
      | some j => s.saveFails j 0x0304 v.val
      | none => s)
  | .restore id v =>
    (match tabFind s.jobs id with
      | some j => s.saveFails j 0x0305 v.val
      | none => s)

/-- Re-reads of one granule (R506). -/
def rereadBudget : Nat := 2

/-- GRANULE_REREAD (R261, R608): `c` is what this re-read finds in the granule's words. -/
def State.reread (s : State) (a : Nat) (consumer : Consumer) (c : Conds) : State :=
  if 2 ^ 39 ≤ a then s
  else
    let a := a / 32 * 32
    let g := s.guardedAt a
    let open_ (w : Nat) : Bool := decide (w < 8) && !s.wordMarked a w
    let now := (badWords g c).filter open_
    let old := s.rereads.find? fun r => r.dpa == a && r.consumer == consumer
    let was := match old with | some r => r.failing | none => now
    let failing := was.filter now.contains
    let single := (singleWords g c).filter fun w => open_ w && !was.contains w
    let counted := match old with | some r => r.counted | none => false
    let recovered := match old with
      | some r => r.recovered || decide (failing.length < r.failing.length)
      | none => failing.isEmpty
    let tries := (match old with | some r => r.tries | none => 0) + 1
    let others := s.rereads.filter fun r => !(r.dpa == a && r.consumer == consumer)
    let s := if counted || single.isEmpty then s else s.countCe (stackOf a)
    if failing.isEmpty then (({ s with rereads := others }).countCe (stackOf a)).hostResume
    else if tries < rereadBudget then
      { s with rereads := others ++ [{ dpa := a, consumer := consumer, tries := tries, failing := failing,
                                       recovered := recovered, counted := counted || !single.isEmpty }] }
    else
      let s1 := forAll failing (fun w s => s.markAt (a + 4 * w)) { s with rereads := others }
      let ues := if consumer = .patrol then failing.length else 1
      let s2 := forAll (List.range ues) (fun _ s => s.countUe (stackOf a)) s1
      let s3 := if recovered then s2.countCe (stackOf a) else s2
      (s3.readLost a failing consumer).hostResume

/-! ### Patrol, leak periods and refresh (R273 to R281) -/

/-- PATROL_SCRUB (R278). -/
def State.patrol (s : State) (d : Nat) (c : Conds) : State :=
  let a := d / 32 * 32
  if 2 ^ 39 ≤ a ∨ !s.gen.scrubEnable ∨ !(s.region (regionOf a)).scrub ∨ s.rereading a then s
  else
    let g := s.guardedAt a
    let bad := (badWords g c).filter fun w => decide (w < 8) && !s.wordMarked a w
    let single := (singleWords g c).filter fun w => decide (w < 8) && !s.wordMarked a w
    let s1 := if single.isEmpty then s else s.countCe (stackOf a)
    if bad.isEmpty then s1
    else { s1 with rereads := s1.rereads ++ [{ dpa := a, consumer := .patrol, tries := 0, failing := bad, recovered := false,
                                               counted := !single.isEmpty }] }

/-- Beats of a second (R3). -/
def beatsPerSecond : Nat := 250000000
/-- Beats of a millisecond. -/
def beatsPerMs : Nat := 250000

/-- CE_LEAK_PERIOD (R280). -/
def State.leakPeriod (s : State) (k : Nat) : State :=
  let r := s.stk k
  let ends := r.leakStart + r.leakNow.toNat * beatsPerSecond
  (s.advanceTo ends).modStk k fun r => { r with level := if r.level = 0 then 0 else r.level - 1, leakStart := ends, leakNow := r.leak }

/-- REFRESH (R273, R276): a refresh interval boundary puts the written mode in force. -/
def State.refresh (s : State) (k : Nat) : State :=
  s.modStk k fun r =>
    { r with forceDoubleNow := r.forceDouble, allBankNow := r.allBank,
             longInterval := r.allBankNow && (r.hot || r.forceDoubleNow) && !r.longInterval }

/-- REFRESH_NORMAL_RATE (R275). -/
def State.refreshNormal (s : State) (k : Nat) : State :=
  match (s.stk k).coolSince with
  | some b => (s.advanceTo (b + 10 * beatsPerMs)).modStk k fun r => { r with hot := false }
  | none => s

/-! ### The rows -/

/-- HOST_MEM_READ (R261). -/
def execHostMemRead (hpa : DWord) (conds : Conds) := act (whenRunning fun s => s.hostRead hpa conds)
/-- HOST_MEM_WRITE (R262). -/
def execHostMemWrite (hpa : DWord) (data : Bits512) (be : BitVec 64) (poison : Bool) (errs : Errs) :=
  act (whenRunning fun s => s.hostWrite hpa data be poison errs)
/-- HDM_DECODER_COMMIT (R252). -/
def execHdmDecoderCommit (d : Fin 4) (base size : DWord) (ew gb : Nat) (skip : DWord) (pos : Nat) :=
  act (whenRunning fun s => s.hdmCommit d.val base.toNat size.toNat ew gb skip.toNat pos)
/-- GRANULE_REREAD (R261). -/
def execGranuleReread (dpa : DWord) (consumer : Consumer) (conds : Conds) :=
  act (whenRunning fun s => s.reread dpa.toNat consumer conds)
/-- PATROL_SCRUB (R278). -/
def execPatrolScrub (dpa : DWord) (conds : Conds) := act (whenRunning fun s => s.patrol dpa.toNat conds)
/-- CE_LEAK_PERIOD (R280). -/
def execCeLeakPeriod (s : Fin 8) := act (whenRunning fun t => t.leakPeriod s.val)
/-- REFRESH (R273). -/
def execRefresh (s : Fin 8) (_pc : Fin 64) (_bank : Fin 32) := act (whenRunning fun t => t.refresh s.val)
/-- REFRESH_NORMAL_RATE (R275). -/
def execRefreshNormalRate (s : Fin 8) := act (whenRunning fun t => t.refreshNormal s.val)

end Sys2Proof.Machine
end

