-- ==== Sys2Proof/Machine/Manage.lean ====
section
/-! DEFINITION. Hevos on its MCTP bindings: platform monitoring, firmware update and the vendor commands
(R539, R554 to R562, R565). -/

namespace Sys2Proof.Machine

/-- An effect that Hevos has when it is reached on an MCTP binding (R554): DOE is none. -/
def onBinding (p : Transport) (f : State → State) (s : State) : State :=
  if p == .doe then s else onTransport p f s

/-! ### Endpoint and receiver (R554, R565) -/

def State.setEid (s : State) (p : Transport) (eid : Byte) : State :=
  let m := match p with
    | .i3c => { s.mgt with i3cEid := eid }
    | .vdm => { s.mgt with vdmEid := eid }
    | .doe => s.mgt
  ({ s with mgt := m }).tell p .mctpOk

def State.setReceiver (s : State) (p : Transport) (eid : Byte) : State :=
  (({ s with mgt := { s.mgt with receiver := some (p, eid) } }).tell p .pldmOk).evcDo id

/-! ### Sensors and the effecter (R557, R558) -/

/-- Hottest effective reading of some sensors, in whole °C rounded down, 0 below 0 °C (R502). -/
def State.hottestOf (s : State) (lo count : Nat) : Nat :=
  ((List.range count).foldl (fun m k => max m (s.sensor (lo + k)).effective.toNat) 0 - 160) / 4

/-- A sensor's value (R501, R557, R603); none where no sensor has the ID. -/
def State.sensorValue (s : State) (id : Nat) : Option Nat :=
  if id = 1 then some s.pwr.p1ms
  else if id = 2 then some s.pwr.energy.toNat
  else if id = 3 then some ((s.hottest.2 - 160) / 4)
  else if id = 4 ∨ id = 5 then some (s.hottestOf (128 * (id - 4)) 128)
  else if 6 ≤ id ∧ id ≤ 13 then some (s.hottestOf (256 + 20 * (id - 6)) 20)
  else if id = 20 then some (if s.pins.mode = .thermalOff then 2 else if s.thm.limitActive then 1 else 0)
  else if id = 21 then some (bit01 (s.err.halted || s.pins.mode == .brownout))
  else if id = 22 then some (match s.mgt.update with | .idle => 0 | .awaitingReset => 2 | _ => 1)
  else none

def State.sensorReading (s : State) (p : Transport) (id : Nat) : State :=
  s.tell p (match s.sensorValue id with | some v => .sensor v | none => .pldmUnknownId)

/-- The power cap is set; other values are ignored (R491). -/
def State.setCap (s : State) (w : Nat) : State :=
  if 600 ≤ w ∧ w ≤ 1800 then ({ s with pwr := ({ s.pwr with cap := w }).settleTarget }).noteWaits else s

def State.effecter (s : State) (p : Transport) (id value : Nat) : State :=
  if id ≠ 30 then s.tell p .pldmUnknownId
  else if 600 ≤ value ∧ value ≤ 1800 then (s.setCap value).tell p .pldmOk
  else s.tell p .pldmInvalidData

/-! ### Firmware update (R539, R559) -/

def State.setUpdate (s : State) (u : UpdState) (on : Option Transport) : State :=
  { s with mgt := { s.mgt with update := u, updateOn := on } }

/-- The answer goes to the binding on which the update runs. -/
def State.tellUpdate (s : State) (a : Answer) : State := match s.mgt.updateOn with
  | some p => s.tell p a
  | none => s

def State.requestUpdate (s : State) (p : Transport) : State :=
  if s.mgt.update.busy then s.tell p .alreadyInUpdateMode
  else (s.setUpdate .requested (some p)).tell p .pldmOk

/-- An effect of the update agent on the binding on which the update runs. -/
def onUpdate (f : State → State) (s : State) : State := match s.mgt.updateOn with
  | some p => onTransport p f s
  | none => s

/-- The update ends, and source 0x42 tells how (R559, R563). -/
def State.endUpdate (s : State) (u : UpdState) (code : Nat) : State := (s.setUpdate u none).raise 0x42 code

/-- The first pass over the whole image: the slot is not touched. -/
def State.verifyUpdate (s : State) (image : List Byte) : State :=
  if s.mgt.update ≠ .requested then s
  else
    let code := imageCode s.otp image
    let s1 := s.tellUpdate (.verifyResult code)
    if code = 0 then s1.setUpdate (.verified image) s.mgt.updateOn else s1.endUpdate .idle code

/-- The second pass, the read-back and its check; a failure leaves the slot invalid. -/
def State.applyImage (s : State) (ok : Bool) : State :=
  match s.mgt.update with
  | .verified img =>
    let slot := if ok then img else []
    let code := imageCode s.otp slot
    let s1 := ({ s with flash := { s.flash with slot := slot } }).tellUpdate (.applyResult (code == 0))
    s1.endUpdate (if code = 0 then .awaitingReset else .idle) code
  | _ => s

/-! ### Vendor commands (R560 to R562) -/

/-- Completion codes. -/
def venSuccess : Nat := 0
def venBusy : Nat := 2
def venInvalid : Nat := 3
def venNone : Nat := 5

/-- A response repeats the command and holds its code (R562). -/
def State.respond (s : State) (p : Transport) (cmd code : Nat) (data : List Byte) : State :=
  s.emit (.reply p (bytesOfNat 1 cmd ++ bytesOfNat 1 code ++ data))

def State.restoreFactory (s : State) (p : Transport) : State :=
  if s.parts.any (fun (_, x) => x.state != .off) ∨ s.mgt.update.busy then s.respond p 1 venBusy []
  else ({ s with flash := { s.flash with agingTrim := [], userOffset := [] } }).respond p 1 venSuccess []

def State.eventClaim (s : State) (p : Transport) : State :=
  let (w, s1) := s.claim 2
  s1.respond p 2 venSuccess (bytesOf w 4)

def State.eventComplete (s : State) (p : Transport) (k : Nat) : State := (s.finishEvent 2 k).respond p 3 venSuccess []

/-- READ_ERROR: the record while it is stored (R514, R520). -/
def State.readError (s : State) (p : Transport) (seq : Word) : State :=
  match s.err.slots.find? fun (_, x) => x.seq == seq with
  | some (_, x) => s.respond p 4 venSuccess x.bytes
  | none => s.respond p 4 venNone []

/-- SET_SENSOR_OFFSET, −4.00 °C to +4.00 °C (R560). -/
def State.sensorOffset (s : State) (p : Transport) (k : Nat) (offset : Byte) : State :=
  if 416 ≤ k ∨ offset.toInt < -16 ∨ 16 < offset.toInt then s.respond p 5 venInvalid []
  else ({ s with flash := { s.flash with userOffset := tabSet 0 s.flash.userOffset k offset } }).respond p 5 venSuccess []

/-! ### The rows -/

/-- SET_ENDPOINT_ID (R554). -/
def execSetEndpointId (p : Transport) (eid : Byte) := act (onBinding p fun s => s.setEid p eid)
/-- GET_SENSOR_READING (R557). -/
def execGetSensorReading (p : Transport) (id : Byte) := act (onBinding p fun s => s.sensorReading p id.toNat)
/-- SET_NUMERIC_EFFECTER_VALUE (R558). -/
def execSetNumericEffecterValue (p : Transport) (id : Byte) (value : Half) :=
  act (onBinding p fun s => s.effecter p id.toNat value.toNat)
/-- SET_EVENT_RECEIVER (R565). -/
def execSetEventReceiver (p : Transport) (eid : Byte) := act (onBinding p fun s => s.setReceiver p eid)
/-- REQUEST_UPDATE (R559). -/
def execRequestUpdate (p : Transport) := act (onBinding p fun s => s.requestUpdate p)
/-- VERIFY_COMPLETE (R559). -/
def execVerifyComplete (image : List Byte) := act (onUpdate fun s => s.verifyUpdate image)
/-- APPLY_COMPLETE (R539). -/
def execApplyComplete (ok : Bool) := act (onUpdate fun s => s.applyImage ok)
/-- ACTIVATE_FIRMWARE (R559). -/
def execActivateFirmware (p : Transport) := act (onBinding p fun s => s.tell p .activationNeedsReset)
/-- RESTORE_FACTORY (R561). -/
def execRestoreFactory (p : Transport) := act (onBinding p fun s => s.restoreFactory p)
/-- EVENT_CLAIM (R562). -/
def execEventClaim (p : Transport) := act (onBinding p fun s => s.eventClaim p)
/-- EVENT_COMPLETE (R562). -/
def execEventComplete (p : Transport) (source : Byte) := act (onBinding p fun s => s.eventComplete p source.toNat)
/-- READ_ERROR (R562). -/
def execReadError (p : Transport) (seq : Word) := act (onBinding p fun s => s.readError p seq)
/-- SET_SENSOR_OFFSET (R562). -/
def execSetSensorOffset (p : Transport) (sensor : Half) (offset : Byte) :=
  act (onBinding p fun s => s.sensorOffset p sensor.toNat offset)

end Sys2Proof.Machine
end

