-- ==== Sys2Proof/Machine/Pins.lean ====
section
/-! DEFINITION. Rails, PERST#, REFCLK, laser inputs and the TAP (R408, R551, R598 to R607). -/

namespace Sys2Proof.Machine

/-- A firmware write that a reset or a loss of power interrupts leaves the slot invalid; whether the write had begun is
open (R539, R543, R604). -/
def State.cutWrite (s : State) : State :=
  let cut := match s.mgt.update with
    | .verified _ => true
    | _ => s.pins.mode == .recovery && s.sec.rcvState == rcvBusy
  if cut && Config.freeBits s.freshCount 1 == 1#1 then { s.drew with flash := { s.flash with slot := [] } } else s.drew

/-- PERST_ASSERT (R604): nothing but OTP, flash and what others drive stays. -/
def State.perstAsserted (s : State) : State :=
  let s1 := s.cutWrite.conventional (if s.pins.mode = .unpowered then .unpowered else .inReset)
  let s2 := { s1 with pins := { s1.pins with perst := true } }
  if s.pins.link = .down then s2 else s2.emit .linkDown

/-- The conditions of R602 hold. -/
def Pins.ready (p : Pins) : Bool := !p.perst && p.vinGood && p.vauxGood && p.refclkStable

/-- A release takes effect once the conditions of R602 hold (R602, R605). -/
def State.tryBoot (s : State) (entropyOk : Bool) : State :=
  if s.pins.mode = .inReset ∧ s.pins.ready then s.boot entropyOk else s

/-- PERST_RELEASE (R602, R605). -/
def State.perstReleased (s : State) (entropyOk : Bool) : State :=
  ({ s with pins := { s.pins with perst := false } }).tryBoot entropyOk

/-- VIN_BROWNOUT (R603): out of reset the device switches off, and Hevos, where it runs, notes it in flash. -/
def State.vinFalls (s : State) : State :=
  let s1 := { s with pins := { s.pins with vinGood := false } }
  match s.pins.mode with
  | .running =>
    let s2 := s1.powerOff .brownout
    { s2 with flash := { s2.flash with log := s2.flash.log ++ [(2, 0, s2.tmb.beat)] } }
  | .recovery => s1.cutWrite.powerOff .brownout
  | _ => s1

/-- VIN_GOOD (R501, R603): a device that is off powers up again. -/
def State.vinReturns (s : State) (entropyOk : Bool) : State :=
  let s1 := { s with pins := { s.pins with vinGood := true } }
  match s.pins.mode with
  | .brownout => (s1.conventional .inReset).tryBoot entropyOk
  | .thermalOff => if s.pins.vinGood then s1 else (s1.conventional .inReset).tryBoot entropyOk
  | _ => s1.tryBoot entropyOk

/-- VAUX_LOSS (R603): the unpowered state at once. -/
def State.vauxFalls (s : State) : State :=
  let s1 := s.cutWrite.conventional .unpowered
  let s2 := { s1 with pins := { s1.pins with vauxGood := false, refclkStable := false } }
  if s.pins.link = .down then s2 else s2.emit .linkDown

/-- VAUX_GOOD (R601, R602): the unpowered state ends. -/
def State.vauxReturns (s : State) (entropyOk : Bool) : State :=
  let m : Mode := if s.pins.mode = .unpowered then .inReset else s.pins.mode
  ({ s with pins := { s.pins with vauxGood := true, mode := m } }).tryBoot entropyOk

/-- REFCLK_STABLE (R602). -/
def State.refclkSettles (s : State) (entropyOk : Bool) : State :=
  ({ s with pins := { s.pins with refclkStable := true } }).tryBoot entropyOk

/-- LASER_INPUT_CHANGE (R408). -/
def State.laserChange (s : State) (e : Nat) (ok : Bool) : State :=
  let others := s.pins.laserBad.filter (· != e)
  { s with pins := { s.pins with laserBad := if ok then others else sortBy id (others ++ [e]) } }

/-- TAP_INSTRUCTION (R551): boundary scan always, every other instruction in debug state alone. -/
def State.tap (s : State) (boundaryScan : Bool) (code : Half) : State :=
  if s.pins.mode = .unpowered then s
  else if boundaryScan ∨ s.sec.debug then s.drew.emit (.tdo (Config.tapData s.freshCount code))
  else s.emit .tapRefused

/-! ### The rows -/

/-- PERST_ASSERT (R604). -/
def execPerstAssert := act State.perstAsserted
/-- PERST_RELEASE (R605). -/
def execPerstRelease (entropyOk : Bool) := act fun s => s.perstReleased entropyOk
/-- VIN_BROWNOUT (R603). -/
def execVinBrownout := act State.vinFalls
/-- VIN_GOOD (R603). -/
def execVinGood (entropyOk : Bool) := act fun s => s.vinReturns entropyOk
/-- VAUX_LOSS (R603). -/
def execVauxLoss := act State.vauxFalls
/-- VAUX_GOOD (R601). -/
def execVauxGood (entropyOk : Bool) := act fun s => s.vauxReturns entropyOk
/-- REFCLK_STABLE (R602). -/
def execRefclkStable (entropyOk : Bool) := act fun s => s.refclkSettles entropyOk
/-- LASER_INPUT_CHANGE (R408). -/
def execLaserInputChange (e : Fin 8) (ok : Bool) := act fun s => s.laserChange e.val ok
/-- TAP_INSTRUCTION (R551). -/
def execTapInstruction (boundaryScan : Bool) (code : Half) := act fun s => s.tap boundaryScan code

end Sys2Proof.Machine
end

