-- ==== Sys2Proof/Machine/RegWrite.lean ====
section
/-! DEFINITION. REGISTER_WRITE: the writable fields of every register, the key, the locks, and 64-bit registers
(R258, R276, R279, R281, R351, R443 to R453, R476, R491, R495, R502, R564 to R572, R577 to R595). -/

namespace Sys2Proof.Machine

/-! ### 64-bit registers (R582) -/

/-- The low half held for a register, if one is. -/
def Gen.heldLow (g : Gen) (fn lo : Nat) : Option Word :=
  (g.held.find? fun h => h.1 == fn && h.2.1 == lo).map fun h => h.2.2

/-- No low half is held for a register. -/
def Gen.unhold (g : Gen) (fn lo : Nat) : Gen := { g with held := g.held.filter fun h => !(h.1 == fn && h.2.1 == lo) }

/-- A write of one half of a 64-bit register: the low half is held, and the high half updates the whole. -/
def State.wide (s : State) (fn lo : Nat) (hi : Bool) (w : Word) (cur : DWord) (put : DWord → State → State) : State :=
  if hi then put (w ++ (s.gen.heldLow fn lo).getD (field cur 0 32)) { s with gen := s.gen.unhold fn lo }
  else
    let g := s.gen.unhold fn lo
    { s with gen := { g with held := g.held ++ [(fn, lo, w)] } }

/-! ### Partitions (R450 to R453, R476, R590, R591) -/

/-- GEN_PART_CTL (R450, R453). -/
def State.partCtl (s : State) (n : Nat) (w : Word) : State :=
  let off := (s.part n).state == .off
  let s1 := s.modPart n fun p =>
    { p with guard := w.getLsbD 2, swarm := if off then field w 20 4 else p.swarm,
             lcEnable := if off then w.getLsbD 1 else p.lcEnable }
  if w.getLsbD 0 then s1.enablePart n else s1.teardown n

/-- A write to partition block `n`; most of it is locked while STATE is not OFF. -/
def State.partWrite (s : State) (n off : Nat) (w : Word) : State :=
  let lo := 0x11000 + 0x100 * n + off / 8 * 8
  let p := s.part n
  let locked := p.state != .off
  let set (f : Part → Part) : State := if locked then s else s.modPart n f
  match off with
  | 0x00 => s.partCtl n w
  | 0x08 => if locked then s else s.wide 0 lo false w p.islands fun _ s => s
  | 0x0C => if locked then s else s.wide 0 lo true w p.islands fun x s => s.modPart n fun p => { p with islands := x }
  | 0x10 => set fun p => { p with stackSet := field w 0 8 }
  | 0x14 => set fun p => { p with channels := w }
  | 0x18 => set fun p => { p with portSet := field w 0 16 }
  | 0x1C => set fun p => { p with qbase := field w 16 10, qcount := field w 0 11 }
  | 0x20 => if field w 0 8 = 0#8 then s else s.modPart n fun p => { p with weight := field w 0 8 }
  | 0x24 => s.modPart n fun p => { p with limit := field w 0 16 }
  | 0x28 => set fun p => { p with entries := field w 0 17 }
  | 0x30 => if locked then s else s.wide 0 lo false w 0 fun _ s => s
  | 0x34 => if locked then s else
      s.wide 0 lo true w (BitVec.ofNat 64 (p.saveBase.toNat * 4096)) fun x s => s.modPart n fun p => { p with saveBase := field x 12 27 }
  | 0x38 => set fun p => { p with saveStride := field w 0 11 }
  | _ => s

/-- GEN_PART_WIN[n][j] (R452, R453). -/
def State.winEntry (s : State) (n j : Nat) (w : Word) : State :=
  if (s.part n).state = .off then
    s.modPart n fun p => { p with win := tabSet (false, 0) p.win j (w.getLsbD 15, (field w 0 11).toNat) }
  else s

/-! ### Memory (R257, R258, R276, R279, R281) -/

/-- STK_REGION[k]: a change of GUARDED makes the region unwritten and clears SCRUB; a partition's region keeps it. -/
def State.regionWrite (s : State) (k : Nat) (w : Word) : State :=
  let scrub := w.getLsbD 1
  let guarded := w.getLsbD 0
  if guarded = (s.region k).guarded ∨ (s.owner k).isSome then s.modRegion k fun r => { r with scrub := scrub }
  else
    { s.modRegion k fun _ => { scrub := false, guarded := guarded } with
      mem := s.mem.forget (k * 2 ^ 28) ((k + 1) * 2 ^ 28) }

def State.refreshWrite (s : State) (k : Nat) (w : Word) : State :=
  s.keyed fun armed s => s.modStk k fun r =>
    { r with forceDouble := w.getLsbD 1, allBank := if armed then w.getLsbD 0 else r.allBank }

def State.scrubWrite (s : State) (w : Word) : State :=
  let p := field w 8 8
  { s with gen := { s.gen with scrubEnable := w.getLsbD 0,
                               scrubPeriod := if p = 0 ∨ 168 < p.toNat then s.gen.scrubPeriod else p } }

def State.bucketWrite (s : State) (k : Nat) (w : Word) : State :=
  s.modStk k fun r => { r with limit := field w 0 8, leak := if field w 16 16 = 0#16 then r.leak else field w 16 16 }

/-! ### Fabric and timebase (R443 to R448) -/

def State.fabCfgWrite (s : State) (w : Word) : State :=
  s.keyed fun armed s =>
    { s with gen := { s.gen with
        fabTimeout := if (field w 16 16).toNat < 200 then s.gen.fabTimeout else field w 16 16
        fabPos := if armed then field w 0 10 else s.gen.fabPos } }

/-- FAB_PORT_CTL[p] (R410, R443). -/
def State.portCtl (s : State) (p : Nat) (w : Word) : State :=
  let was := s.port p
  let s1 :=
    if w.getLsbD 1 && !was.forceDown then s.forcePort p
    else s.modPort p fun g => { g with forceDown := w.getLsbD 1 }
  if w.getLsbD 0 && !was.enable then s1.enablePort p
  else if !w.getLsbD 0 && was.enable then s1.disablePort p
  else s1

/-- TMB_CTL (R446): in force from the next quantum boundary on. -/
def State.tmbCtlWrite (s : State) (w : Word) : State :=
  s.keyed fun armed s =>
    if armed then
      let old := s.tmb.ctlNext.getD s.tmb.ctl
      let c : TmbCtl :=
        { altPort := field w 20 4, upPort := field w 16 4, altEn := w.getLsbD 15, outEn := w.getLsbD 14,
          seedIn := w.getLsbD 13, root := w.getLsbD 12,
          holdLead := if field w 0 8 = 0#8 then old.holdLead else field w 0 8 }
      { s with tmb := { s.tmb with ctlNext := some c } }
    else s

/-- TMB_BEAT_SET: the high half needs the key (R448, R584). -/
def State.beatSetWrite (s : State) (hi : Bool) (w : Word) : State :=
  if hi then
    s.keyed fun armed s =>
      if armed then s.wide 0 0x61010 true w s.tmb.beatSet fun x s => { s with tmb := { s.tmb with beatSet := x, beatSetDue := true } }
      else s
  else s.wide 0 0x61010 false w s.tmb.beatSet fun _ s => s

/-! ### Power and temperature (R491, R495, R502) -/

def State.beCtlWrite (s : State) (w : Word) : State :=
  let f (x old : Nat) : Nat := if x = 0 then old else x
  let p := s.pwr
  ({ s with pwr := { p with gain := f (field w 8 8).toNat p.gain, floor := f (field w 4 4).toNat p.floor,
                            slew := f (field w 0 4).toNat p.slew } }).noteWaits

def State.divCtlWrite (s : State) (w : Word) : State :=
  s.keyed fun armed s =>
    if armed then
      let m := (field w 0 3).toNat
      ({ s with pwr := { s.pwr with divAuto := w.getLsbD 3, minDiv := if 1 ≤ m ∧ m ≤ 4 then m else s.pwr.minDiv } }).settleDiv.noteWaits
    else s

/-- PWR_VPOINT[i]: a POINT takes effect only where AUTO was 0 (R495, R496). -/
def State.vpointWrite (s : State) (i : Nat) (w : Word) : State :=
  s.keyed fun armed s =>
    let was := s.vpoint i
    let s1 := s.modVpoint i fun v => { v with auto := w.getLsbD 7 }
    let s2 := if armed && !was.auto then s1.setPoint i (field w 0 2).toNat else s1
    (s2.autoPoint i).settleDiv

def State.thmCtlWrite (s : State) (w : Word) : State :=
  let l := (field w 16 8).toNat
  let p := (field w 8 8).toNat
  ({ s with thm := { s.thm with limit := if 80 ≤ l ∧ l ≤ 105 then l else s.thm.limit,
                                period := if 25 ≤ p then p else s.thm.period } }).judgeHeat

/-! ### Events (R564 to R572) -/

def State.evcSrcWrite (s : State) (j : Nat) (w : Word) : State :=
  let s1 := if w.getLsbD 16 then s.evcSrcClear j else s
  s1.evcDo fun e => { e with src := tabPut j { route := field w 8 3, prio := field w 0 4 } e.src }

def State.filterWrite (s : State) (j : Nat) (w : Word) : State :=
  if field w 0 8 = 0#8 then s else { s with evc := { s.evc with cycles := tabSet 16 s.evc.cycles j (field w 0 8) } }

/-- EVC_Q_BASE: locked while the queue is enabled (R69, R571). -/
def State.evqBase (s : State) (fn lo : Nat) (hi : Bool) (w : Word) : State :=
  if (s.evq fn).enable then s
  else s.wide fn lo hi w (s.evq fn).base fun x s => s.modEvq fn fun q => { q with base := x }

/-! ### The PF's registers -/

/-- A write to a PF register; a row of its own decides where it has one. -/
def State.pfWrite (s : State) (off : Nat) (r : PfReg) (w : Word) : State :=
  match r with
  | .genUnlock => s.unlock w
  | .part n o => s.partWrite n o w
  | .win n j => s.winEntry n j w
  | .region k => s.regionWrite k w
  | .refresh k => s.refreshWrite k w
  | .scrub => s.scrubWrite w
  | .bucket k => s.bucketWrite k w
  | .queue q =>
    { s with queues := tabMod {} s.queues q fun x =>
        { hold := w.getLsbD 8, weight := if field w 0 8 = 0#8 then x.weight else field w 0 8 } }
  | .prefixShare n => if (s.part n).state = .off then s.modPart n fun p => { p with prefixShare := field w 0 21 } else s
  | .fabCfg => s.fabCfgWrite w
  | .portCtl p => s.portCtl p w
  | .tmbCtl => s.tmbCtlWrite w
  | .tmbBeatSet hi => s.beatSetWrite hi w
  | .pwrCap => s.setCap (field w 0 11).toNat
  | .beCtl => s.beCtlWrite w
  | .divCtl => s.divCtlWrite w
  | .vpoint i => s.vpointWrite i w
  | .thmCtl => s.thmCtlWrite w
  | .errConsume => s.consume w
  | .evcSrc j => s.evcSrcWrite j w
  | .evcComplete t => s.evcCompleteWrite t w
  | .evcThresh t => s.evcDo fun e => e.modTarget t fun x => { x with thresh := field w 0 4 }
  | .evcFilter j => s.filterWrite j w
  | .pfMode => s.pfModeWrite w
  | .qBase hi => s.evqBase 0 (if hi then off - 4 else off) hi w
  | .qCtl => s.evqCtl 0 w
  | .qHead => s.evqHead 0 w
  | .tstMux => s.muxWrite w
  | _ => s

/-! ### The VFs' registers (R69, R594, R595) -/

/-- HIF_RING_CTL: writing 0 to ENABLE disables, whatever RESTART is; the doorbell line that a RESTART reads again
arrives as the ring's next event. -/
def State.ringCtl (s : State) (n r : Nat) (w : Word) : State :=
  if !w.getLsbD 0 then s.ringDisabled n r
  else if (s.ring n r).enable then (if w.getLsbD 1 then s.restartBegins n r else s)
  else s.ringEnabled n r

/-- A write to a field of a ring context, locked while the ring is enabled (R69). -/
def State.ringSet (s : State) (n r : Nat) (f : RingCfg → RingCfg) : State :=
  if (s.ring n r).enable then s else s.modRing n r fun g => { g with cfg := f g.cfg }

def State.ringWide (s : State) (n r lo : Nat) (hi : Bool) (w : Word) (cur : DWord) (f : DWord → RingCfg → RingCfg) : State :=
  if (s.ring n r).enable then s else s.wide (n + 1) lo hi w cur fun x s => s.ringSet n r (f x)

def State.vfWrite (s : State) (n off : Nat) (q : VfReg) (w : Word) : State :=
  let lo (hi : Bool) : Nat := if hi then off - 4 else off
  match q with
  | .sqBase r hi => s.ringWide n r (lo hi) hi w (s.ring n r).cfg.sqBase fun x c => { c with sqBase := x }
  | .cqBase r hi => s.ringWide n r (lo hi) hi w (s.ring n r).cfg.cqBase fun x c => { c with cqBase := x }
  | .dbAddr r hi => s.ringWide n r (lo hi) hi w (s.ring n r).cfg.dbAddr fun x c => { c with dbAddr := x }
  | .ringCfg r => s.ringSet n r fun c => { c with irqMode := field w 16 2, cqLog2 := field w 8 5, sqLog2 := field w 0 5 }
  | .ringIrq r => s.ringSet n r fun c => { c with irqTime := field w 16 10, irqCount := field w 0 9 }
  | .ringCtl r => s.ringCtl n r w
  | .qBase hi => s.evqBase (n + 1) (lo hi) hi w
  | .qCtl => s.evqCtl (n + 1) w
  | .qHead => s.evqHead (n + 1) w
  | .errSeq => s.modVf n fun v => { v with errVfSeq := w }
  | .rtSel => s.routeSelect n w
  | .rtData k => if k = 3 then s.routeWrite n w else s.modVf n fun v => { v with rtData := tabSet 0 v.rtData k w }
  | _ => s

/-! ### Controls of configuration space -/

/-- VF Enable with its number of VFs: clearing it tears partitions down; a number changes only while it is clear
(R454, R456). -/
def State.sriovWrite (s : State) (k : Nat) : State :=
  if k = 0 then s.vfsOff else if s.gen.numVfs = 0 then { s with gen := { s.gen with numVfs := k } } else s

/-- ATS of a function (R53). -/
def State.atsWrite (s : State) (f : Fn) (on : Bool) : State :=
  let others := s.gen.ats.filter (· != Fn.queue f)
  { s with gen := { s.gen with ats := if on then sortBy id (others ++ [Fn.queue f]) else others } }

/-! ### MSI-X (R51; log 109) -/

/-- MSI-X Enable and Function Mask of a function. -/
def State.msixWrite (s : State) (fn : Nat) (enable mask : Bool) : State :=
  (s.modMsix fn fun m => { m with enable := enable, mask := mask }).sendPending fn

/-- A write in BAR2: entry k of the table stands at 16k, with its address, data and mask bit; the pending bits are read
only. -/
def State.bar2Write (s : State) (fn off : Nat) (w : Word) : State :=
  let k := off / 16
  let set (f : MsixVec → MsixVec) : State := s.modMsix fn fun m => { m with vecs := tabMod {} m.vecs k f }
  if vectorsOfFn fn ≤ k then s
  else match off % 16 with
    | 0 => set fun v => { v with addr := field v.addr 32 32 ++ w }
    | 4 => set fun v => { v with addr := w ++ field v.addr 0 32 }
    | 8 => set fun v => { v with data := w }
    | 12 => (set fun v => { v with masked := w.getLsbD 0 }).sendPending fn
    | _ => s

/-- REGISTER_WRITE of a running device. -/
def State.regWrite (s : State) (t : RegTarget) (w : Word) : State :=
  match t with
  | .bar .pf off => (match pfReg off.toNat with | some r => s.pfWrite off.toNat r w | none => s)
  | .bar (.vf n) off => (match vfReg off.toNat with | some r => s.vfWrite n.val off.toNat r w | none => s)
  | .sriov k => s.sriovWrite k.val
  | .viralEnable on => { s with err := { s.err with viralOn := on } }
  | .busMaster on => { s with gen := { s.gen with busMaster := on } }
  | .ats f on => s.atsWrite f on
  | .ideStream k on => s.ideSwitch k.val on
  | .ideSkid on => { s with sec := { s.sec with skid := on } }
  | .msix f enable mask => s.msixWrite (Fn.queue f) enable mask
  | .bar2 f off => s.bar2Write (Fn.queue f) off.toNat w

/-- REGISTER_WRITE in the PCIe-only fallback: the mailbox, and Bus Master Enable (R540, R542). -/
def State.fallbackWrite (s : State) (t : RegTarget) (w : Word) : State :=
  match t with
  | .bar .pf off => s.mailboxWrite off.toNat w
  | .busMaster on => { s with gen := { s.gen with busMaster := on } }
  | _ => s

/-- REGISTER_WRITE (R578). -/
def execRegisterWrite (t : RegTarget) (w : Word) :=
  act fun s => whenRecovery (fun s => s.fallbackWrite t w) (whenRunning (fun s => s.regWrite t w) s)

end Sys2Proof.Machine
end

