-- ==== Sys2Proof/Machine/VatRows.lean ====
section
/-! DEFINITION. The rows of the bundle slots: each performs the operation of that one slot on the named vat, as a
bundle with no other slot does; only a CTL row moves the vat's next bundle address (R227 to R245; log 3, log 12). -/

namespace Sys2Proof.Machine

/-- A scalar row: a register gets the value that the operation computes from the registers (R234). -/
def sclRow (v : Fin 128) (rd : Fin 32) (f : State → Vat → DWord) : State → State :=
  whenRunning fun s => s.modVat v fun x => x.setSreg rd (f s x)

/-- A row of an array, weight, drain or vector slot: its check, or its effect on the vat. -/
def unitRow (v : Fin 128) (slot : Nat) (check : Vat → Option TrapCause) (f : Nat → Vat → Vat) : State → State :=
  whenRunning fun s =>
    match check (s.vat v) with
    | some c => s.vatTrap v c (some slot) 0
    | none => s.drew.modVat v fun x => f s.freshCount x

/-- A PORT row: its check, a parity mismatch of the line it reads, or its effect (R202, R235). -/
def portRow (v : Fin 128) (parity : Bool) (check : Vat → Option TrapCause) (f : Vat → PortOut) : State → State :=
  whenRunning fun s =>
    match check (s.vat v) with
    | some c => s.vatTrap v c (some 2) 0
    | none =>
      if parity then s.spdParity v 2 0
      else
        let out := f (s.vat v)
        (s.modVat v fun _ => out.vat).portFault v out.fault

/-- A CTL row: its check, or the choice of the next bundle; the bundle is a head and this slot (R221, R227). -/
def ctlRow (v : Fin 128) (c : Instr) : State → State :=
  whenRunning fun s =>
    let x0 := s.vat v
    let seq := x0.pc.toNat + 12
    match s.slotCheck v x0 seq c with
    | some t => s.vatTrap v t (some 0) (match c with | .trap _ imm => imm | _ => 0)
    | none => s.ctl v c x0 x0.pc.toNat seq

/-- An XCH row: its check, or its issue into a free transfer slot; with eight outstanding it waits (R222, R244). -/
def xchRow (v : Fin 128) (c : Instr) : State → State :=
  whenRunning fun s =>
    let x0 := s.vat v
    match s.checkXch v x0 c with
    | some t => s.vatTrap v t (some 7) 0
    | none => match x0.freeSlot with
      | some slot => s.xch v slot c x0
      | none => s

/-- BUNDLE (R221). -/
def execBundle (v : Fin 128) (parity : Bool) (s : State) (cacheParity : Bool := false) :=
  act (whenRunning fun s => s.bundle v parity cacheParity) s

/-! ### CTL -/

/-- JMP (R227, R228). -/
def execJmp (v : Fin 128) (imm : Word) := act (ctlRow v (.jmp v imm))
/-- BRZ (R227). -/
def execBrz (v : Fin 128) (ra : Fin 32) (imm : Word) := act (ctlRow v (.brz v ra imm))
/-- BRNZ (R227). -/
def execBrnz (v : Fin 128) (ra : Fin 32) (imm : Word) := act (ctlRow v (.brnz v ra imm))
/-- BRLT (R227). -/
def execBrlt (v : Fin 128) (ra rb : Fin 32) (imm : Word) := act (ctlRow v (.brlt v ra rb imm))
/-- LOOP (R229). -/
def execLoop (v : Fin 128) (ra : Fin 32) (imm : Word) := act (ctlRow v (.loop v ra imm))
/-- BSYNC (R230). -/
def execBsync (v : Fin 128) (ra : Fin 32) (imm : Word) := act (ctlRow v (.bsync v ra imm))
/-- WAITF (R231). -/
def execWaitf (v : Fin 128) (ra rb : Fin 32) (cond : Bool) (imm : Word) (s : State) (parity : Bool := false) :=
  act (ctlRow v (.waitf v ra rb cond imm parity)) s
/-- YIELD (R232). -/
def execYield (v : Fin 128) (imm : Word) := act (ctlRow v (.yield v imm))
/-- TRAP (R227, R246). -/
def execTrap (v : Fin 128) (imm : Word) := act (ctlRow v (.trap v imm))
/-- END (R233). -/
def execEndJob (v : Fin 128) := act (ctlRow v (.endJob v))

/-! ### SCL -/

/-- ADD (R234). -/
def execAdd (v : Fin 128) (rd ra rb : Fin 32) := act (sclRow v rd fun _ x => sclAdd x ra rb)
/-- SUB (R234). -/
def execSub (v : Fin 128) (rd ra rb : Fin 32) := act (sclRow v rd fun _ x => sclSub x ra rb)
/-- AND (R234). -/
def execAnd (v : Fin 128) (rd ra rb : Fin 32) := act (sclRow v rd fun _ x => sclAnd x ra rb)
/-- OR (R234). -/
def execOr (v : Fin 128) (rd ra rb : Fin 32) := act (sclRow v rd fun _ x => sclOr x ra rb)
/-- XOR (R234). -/
def execXor (v : Fin 128) (rd ra rb : Fin 32) := act (sclRow v rd fun _ x => sclXor x ra rb)
/-- SHL (R234). -/
def execShl (v : Fin 128) (rd ra rb : Fin 32) := act (sclRow v rd fun _ x => sclShl x ra rb)
/-- SHR (R234). -/
def execShr (v : Fin 128) (rd ra rb : Fin 32) := act (sclRow v rd fun _ x => sclShr x ra rb)
/-- SRA (R234). -/
def execSra (v : Fin 128) (rd ra rb : Fin 32) := act (sclRow v rd fun _ x => sclSra x ra rb)
/-- MUL (R234). -/
def execMul (v : Fin 128) (rd ra rb : Fin 32) := act (sclRow v rd fun _ x => sclMul x ra rb)
/-- SLT (R234). -/
def execSlt (v : Fin 128) (rd ra rb : Fin 32) := act (sclRow v rd fun _ x => sclSlt x ra rb)
/-- ADDI (R234). -/
def execAddi (v : Fin 128) (rd ra : Fin 32) (imm : Half) := act (sclRow v rd fun _ x => sclAddi x ra imm)
/-- SHLI16 (R234). -/
def execShli16 (v : Fin 128) (rd ra : Fin 32) (imm : Half) := act (sclRow v rd fun _ x => sclShli16 x ra imm)
/-- ANDI (R234). -/
def execAndi (v : Fin 128) (rd ra : Fin 32) (imm : Half) := act (sclRow v rd fun _ x => sclAndi x ra imm)
/-- SHLI (R234). -/
def execShli (v : Fin 128) (rd ra : Fin 32) (imm : Half) := act (sclRow v rd fun _ x => sclShli x ra imm)
/-- SHRI (R234). -/
def execShri (v : Fin 128) (rd ra : Fin 32) (imm : Half) := act (sclRow v rd fun _ x => sclShri x ra imm)
/-- RDB (R225, R234). -/
def execRdb (v : Fin 128) (rd : Fin 32) := act (sclRow v rd fun s _ => BitVec.ofNat 64 (s.jobBeat v))
/-- RDL (R234). -/
def execRdl (v : Fin 128) (rd : Fin 32) (imm : Half) := act (sclRow v rd fun _ x => sclRdl x imm)
/-- RDID (R234). -/
def execRdid (v : Fin 128) (rd : Fin 32) := act (sclRow v rd fun s _ => sclRdid v (s.vatIndex v))

/-! ### PORT -/

/-- LDA (R236). -/
def execLda (v : Fin 128) (a : PortArgs) (parity : Bool) :=
  act (portRow v parity (fun x => checkPort x a false false) fun x => portLda a x x)
/-- LDW (R236). -/
def execLdw (v : Fin 128) (a : PortArgs) (parity : Bool) :=
  act (portRow v parity (fun x => (checkPort x a false true).or (checkLdw x a)) fun x => portLdw a x x)
/-- LDV (R236). -/
def execLdv (v : Fin 128) (a : PortArgs) (parity : Bool) :=
  act (portRow v parity (fun x => (checkPair a true).or (checkPort x a false false)) fun x => portLdv a x x)
/-- STV (R236). -/
def execStv (v : Fin 128) (a : PortArgs) :=
  act (portRow v false (fun x => (checkPair a false).or (checkPort x a false false)) fun x => portStv a x x)
/-- LDS (R236). -/
def execLds (v : Fin 128) (a : PortArgs) (parity : Bool) :=
  act (portRow v parity (fun x => checkPort x a true false) fun x => portLds a x x)
/-- STS (R236). -/
def execSts (v : Fin 128) (a : PortArgs) :=
  act (portRow v false (fun x => checkPort x a true false) fun x => portSts a x x)
/-- LDD (R236). -/
def execLdd (v : Fin 128) (a : PortArgs) (parity : Bool) :=
  act (portRow v parity (fun x => checkPort x a false false) fun x => portLdd a x x)
/-- LDT (R236). -/
def execLdt (v : Fin 128) (a : PortArgs) (parity : Bool) :=
  act (portRow v parity (fun x => checkPort x a false false) fun x => portLdt a x x)

/-! ### ARR, WGT, DRN -/

/-- ARR_ISSUE (R238). -/
def execArrIssue (v : Fin 128) (a : ArrArgs) := act (unitRow v 3 (fun x => checkArr x a) fun draw x => arrIssue draw a x x)
/-- SWAP: waits, without a change, while a named shadow set is not full (R193, R222). -/
def execSwap (v : Fin 128) (amask : BitVec 8) :=
  act (unitRow v 4 (fun _ => none) fun _ x => if bundleWaits x [.swap v amask] then x else wgtSwap amask x)
/-- CFG (R239). -/
def execCfg (v : Fin 128) (amask : BitVec 8) (c : CfgArgs) :=
  act (unitRow v 4 (fun _ => checkCfg c) fun _ x => wgtCfg amask c x)
/-- CEIL (R239). -/
def execCeil (v : Fin 128) (amask : BitVec 8) (reg : Fin 32) :=
  act (unitRow v 4 (fun _ => none) fun _ x => wgtCeil amask reg x x)
/-- OVL (R239). -/
def execOvl (v : Fin 128) (amask : BitVec 8) (start count : BitVec 10) :=
  act (unitRow v 4 (fun _ => checkOvl start count) fun _ x => wgtOvl amask start count x)
/-- OVLU (R239). -/
def execOvlu (v : Fin 128) (amask : BitVec 8) (start count : BitVec 10) :=
  act (unitRow v 4 (fun _ => checkOvl start count) fun _ x => wgtOvlu amask start count x)
/-- OVLC (R239). -/
def execOvlc (v : Fin 128) (amask : BitVec 8) := act (unitRow v 4 (fun _ => none) fun _ x => wgtOvlc amask x)
/-- DRAIN (R197, R240). -/
def execDrain (v : Fin 128) (a : DrnArgs) := act (unitRow v 5 (fun x => checkDrn x a true) fun draw x => drnDrain draw a x)
/-- PRELOAD (R192, R240). -/
def execPreload (v : Fin 128) (a : DrnArgs) :=
  act (unitRow v 5 (fun x => checkDrn x a false) fun draw x => drnPreload draw a x x)
/-- SETRC (R240). -/
def execSetrc (v : Fin 128) (a : DrnArgs) := act (unitRow v 5 (fun _ => none) fun _ x => drnSetrc a x x)

/-! ### VEC -/

/-- FADD (R242). -/
def execFadd (v : Fin 128) (a : VecArgs) :=
  act (unitRow v 6 (fun _ => checkVec a) fun _ x => vecFadd a x x)
/-- FSUB (R242). -/
def execFsub (v : Fin 128) (a : VecArgs) :=
  act (unitRow v 6 (fun _ => checkVec a) fun _ x => vecFsub a x x)
/-- FMUL (R242). -/
def execFmul (v : Fin 128) (a : VecArgs) :=
  act (unitRow v 6 (fun _ => checkVec a) fun _ x => vecFmul a x x)
/-- FMAX (R242). -/
def execFmax (v : Fin 128) (a : VecArgs) :=
  act (unitRow v 6 (fun _ => checkVec a) fun _ x => vecFmax a x x)
/-- FMIN (R242). -/
def execFmin (v : Fin 128) (a : VecArgs) :=
  act (unitRow v 6 (fun _ => checkVec a) fun _ x => vecFmin a x x)
/-- FMA (R242). -/
def execFma (v : Fin 128) (a : VecArgs) :=
  act (unitRow v 6 (fun _ => checkVec a) fun _ x => vecFma a x x)
/-- FCMPLT (R242). -/
def execFcmplt (v : Fin 128) (a : VecArgs) :=
  act (unitRow v 6 (fun _ => checkVec a) fun _ x => vecFcmplt a x x)
/-- FCMPEQ (R242). -/
def execFcmpeq (v : Fin 128) (a : VecArgs) :=
  act (unitRow v 6 (fun _ => checkVec a) fun _ x => vecFcmpeq a x x)
/-- IADD (R242). -/
def execIadd (v : Fin 128) (a : VecArgs) :=
  act (unitRow v 6 (fun _ => checkVec a) fun _ x => vecIadd a x x)
/-- ISUB (R242). -/
def execIsub (v : Fin 128) (a : VecArgs) :=
  act (unitRow v 6 (fun _ => checkVec a) fun _ x => vecIsub a x x)
/-- IAND (R242). -/
def execIand (v : Fin 128) (a : VecArgs) :=
  act (unitRow v 6 (fun _ => checkVec a) fun _ x => vecIand a x x)
/-- IOR (R242). -/
def execIor (v : Fin 128) (a : VecArgs) :=
  act (unitRow v 6 (fun _ => checkVec a) fun _ x => vecIor a x x)
/-- IXOR (R242). -/
def execIxor (v : Fin 128) (a : VecArgs) :=
  act (unitRow v 6 (fun _ => checkVec a) fun _ x => vecIxor a x x)
/-- ISHL (R242). -/
def execIshl (v : Fin 128) (a : VecArgs) :=
  act (unitRow v 6 (fun _ => checkVec a) fun draw x => vecIshl draw a x x)
/-- ISHR (R242). -/
def execIshr (v : Fin 128) (a : VecArgs) :=
  act (unitRow v 6 (fun _ => checkVec a) fun draw x => vecIshr draw a x x)
/-- ISLT (R242). -/
def execIslt (v : Fin 128) (a : VecArgs) :=
  act (unitRow v 6 (fun _ => checkVec a) fun _ x => vecIslt a x x)
/-- CVTF (R242). -/
def execCvtf (v : Fin 128) (a : VecArgs) :=
  act (unitRow v 6 (fun _ => checkFmt a false) fun _ x => vecCvtf a x x)
/-- CVTI (R242). -/
def execCvti (v : Fin 128) (a : VecArgs) :=
  act (unitRow v 6 (fun _ => checkFmt a false) fun draw x => vecCvti draw a x x)
/-- MXQ (R242). -/
def execMxq (v : Fin 128) (a : VecArgs) :=
  act (unitRow v 6 (fun _ => checkFmt a true) fun _ x => vecMxq a x x)
/-- EXP2 (R242). -/
def execExp2 (v : Fin 128) (a : VecArgs) :=
  act (unitRow v 6 (fun _ => checkVec a) fun _ x => vecExp2 a x x)
/-- RCP (R242). -/
def execRcp (v : Fin 128) (a : VecArgs) :=
  act (unitRow v 6 (fun _ => checkVec a) fun _ x => vecRcp a x x)
/-- LOG (R242). -/
def execLog (v : Fin 128) (a : VecArgs) :=
  act (unitRow v 6 (fun _ => checkVec a) fun _ x => vecLog a x x)
/-- RSQRT (R242). -/
def execRsqrt (v : Fin 128) (a : VecArgs) :=
  act (unitRow v 6 (fun _ => checkVec a) fun _ x => vecRsqrt a x x)
/-- XADD (R242). -/
def execXadd (v : Fin 128) (a : VecArgs) :=
  act (unitRow v 6 (fun _ => checkVec a) fun draw x => vecXadd draw a x x)
/-- XCVT (R242). -/
def execXcvt (v : Fin 128) (a : VecArgs) :=
  act (unitRow v 6 (fun _ => checkSb a) fun draw x => vecXcvt draw a x x)
/-- RMAX (R242). -/
def execRmax (v : Fin 128) (a : VecArgs) :=
  act (unitRow v 6 (fun _ => checkVec a) fun _ x => vecRmax a x x)
/-- RSUM (R242). -/
def execRsum (v : Fin 128) (a : VecArgs) :=
  act (unitRow v 6 (fun _ => checkSb a) fun draw x => vecRsum draw a x x)

/-! ### XCH -/

/-- SLD (R244). -/
def execSld (v : Fin 128) (x : XchArgs) := act (xchRow v (.sld v x))
/-- SST (R244). -/
def execSst (v : Fin 128) (x : XchArgs) (parity : Bool) := act (xchRow v (.sst v x parity))
/-- PUT (R244). -/
def execPut (v : Fin 128) (x : XchArgs) (parity : Bool) := act (xchRow v (.put v x parity))
/-- SEND (R244). -/
def execSend (v : Fin 128) (x : XchArgs) (parity : Bool) := act (xchRow v (.send v x parity))
/-- NBJ (R244). -/
def execNbj (v : Fin 128) (x : XchArgs) := act (xchRow v (.nbj v x))

end Sys2Proof.Machine
end

