-- ==== Sys2Proof/Machine/Dispatch.lean ====
section
/-! DEFINITION. The command's effect, one arm per row of spec/opcode_table.json. -/

namespace Sys2Proof.Machine

def exec (i : Instr) (s : State) : Host.Outcome State Fault Refusal :=
  match i with
  | .nop r => Sys2Proof.Machine.execNop r s
  | .launch r hdr errs => Sys2Proof.Machine.execLaunch r hdr s errs
  | .fence r => Sys2Proof.Machine.execFence r s
  | .flagSet r old written errs => Sys2Proof.Machine.execFlagSet r old written s errs
  | .flagWait r word errs => Sys2Proof.Machine.execFlagWait r word s errs
  | .biasSet r => Sys2Proof.Machine.execBiasSet r s
  | .undefinedOpcode r => Sys2Proof.Machine.execUndefinedOpcode r s
  | .copy r errs => Sys2Proof.Machine.execCopy r s errs
  | .fill r errs => Sys2Proof.Machine.execFill r s errs
  | .relayout r errs => Sys2Proof.Machine.execRelayout r s errs
  | .gather r errs => Sys2Proof.Machine.execGather r s errs
  | .scatter r errs => Sys2Proof.Machine.execScatter r s errs
  | .reqSubmit r errs => Sys2Proof.Machine.execReqSubmit r s errs
  | .reqCancel r => Sys2Proof.Machine.execReqCancel r s
  | .reqControlPause r => Sys2Proof.Machine.execReqControlPause r s
  | .reqControlResume r => Sys2Proof.Machine.execReqControlResume r s
  | .reqControlPriority r => Sys2Proof.Machine.execReqControlPriority r s
  | .reqControlDeadline r => Sys2Proof.Machine.execReqControlDeadline r s
  | .reqRead r => Sys2Proof.Machine.execReqRead r s
  | .variantReg r errs => Sys2Proof.Machine.execVariantReg r s errs
  | .variantUnreg r => Sys2Proof.Machine.execVariantUnreg r s
  | .serveStart r hdr errs => Sys2Proof.Machine.execServeStart r hdr s errs
  | .serveStop r => Sys2Proof.Machine.execServeStop r s
  | .pageUpdate r => Sys2Proof.Machine.execPageUpdate r s
  | .cocoonSupply r addrs => Sys2Proof.Machine.execCocoonSupply r addrs s
  | .cocoonReclaim r => Sys2Proof.Machine.execCocoonReclaim r s
  | .ringEvent r line => Sys2Proof.Machine.execRingEvent r line s
  | .descriptorFetch r d => Sys2Proof.Machine.execDescriptorFetch r d s
  | .completionRecordWrite r ok => Sys2Proof.Machine.execCompletionRecordWrite r ok s
  | .irqTimeExpiry r => Sys2Proof.Machine.execIrqTimeExpiry r s
  | .ringEnable r => Sys2Proof.Machine.execRingEnable r s
  | .ringDisable r => Sys2Proof.Machine.execRingDisable r s
  | .restart r line => Sys2Proof.Machine.execRestart r line s
  | .flagLineLoss r word errs => Sys2Proof.Machine.execFlagLineLoss r word s errs
  | .flagWaitTimeout r => Sys2Proof.Machine.execFlagWaitTimeout r s
  | .hostCompletionTimeout q => Sys2Proof.Machine.execHostCompletionTimeout q s
  | .hostMemRead hpa conds => Sys2Proof.Machine.execHostMemRead hpa conds s
  | .hostMemWrite hpa data be poison errs => Sys2Proof.Machine.execHostMemWrite hpa data be poison errs s
  | .hdmDecoderCommit d base size ew gb skip pos => Sys2Proof.Machine.execHdmDecoderCommit d base size ew gb skip pos s
  | .vfFlr n => Sys2Proof.Machine.execVfFlr n s
  | .vfEnableClear => Sys2Proof.Machine.execVfEnableClear s
  | .ideFail stream => Sys2Proof.Machine.execIdeFail stream s
  | .doeDiscovery index => Sys2Proof.Machine.execDoeDiscovery index s
  | .cdatTableAccess entry => Sys2Proof.Machine.execCdatTableAccess entry s
  | .getVersion p => Sys2Proof.Machine.execGetVersion p s
  | .getCapabilities p => Sys2Proof.Machine.execGetCapabilities p s
  | .negotiateAlgorithms p => Sys2Proof.Machine.execNegotiateAlgorithms p s
  | .getDigests p => Sys2Proof.Machine.execGetDigests p s
  | .getCertificate p offset length => Sys2Proof.Machine.execGetCertificate p offset length s
  | .challenge p nonce => Sys2Proof.Machine.execChallenge p nonce s
  | .getMeasurements p index signed nonce => Sys2Proof.Machine.execGetMeasurements p index signed nonce s
  | .keyExchange p exchange => Sys2Proof.Machine.execKeyExchange p exchange s
  | .finish p verified => Sys2Proof.Machine.execFinish p verified s
  | .heartbeat p => Sys2Proof.Machine.execHeartbeat p s
  | .keyUpdate p => Sys2Proof.Machine.execKeyUpdate p s
  | .endSession p => Sys2Proof.Machine.execEndSession p s
  | .ideKmKeyProg stream dir keySet key => Sys2Proof.Machine.execIdeKmKeyProg stream dir keySet key s
  | .keySetGo stream dir keySet => Sys2Proof.Machine.execKeySetGo stream dir keySet s
  | .bundle v parity cacheParity => Sys2Proof.Machine.execBundle v parity s cacheParity
  | .jmp v imm => Sys2Proof.Machine.execJmp v imm s
  | .brz v ra imm => Sys2Proof.Machine.execBrz v ra imm s
  | .brnz v ra imm => Sys2Proof.Machine.execBrnz v ra imm s
  | .brlt v ra rb imm => Sys2Proof.Machine.execBrlt v ra rb imm s
  | .loop v ra imm => Sys2Proof.Machine.execLoop v ra imm s
  | .bsync v ra imm => Sys2Proof.Machine.execBsync v ra imm s
  | .bsyncRelease v => Sys2Proof.Machine.execBsyncRelease v s
  | .waitf v ra rb cond imm parity => Sys2Proof.Machine.execWaitf v ra rb cond imm s parity
  | .yield v imm => Sys2Proof.Machine.execYield v imm s
  | .trap v imm => Sys2Proof.Machine.execTrap v imm s
  | .endJob v => Sys2Proof.Machine.execEndJob v s
  | .add v rd ra rb => Sys2Proof.Machine.execAdd v rd ra rb s
  | .sub v rd ra rb => Sys2Proof.Machine.execSub v rd ra rb s
  | .and v rd ra rb => Sys2Proof.Machine.execAnd v rd ra rb s
  | .or v rd ra rb => Sys2Proof.Machine.execOr v rd ra rb s
  | .xor v rd ra rb => Sys2Proof.Machine.execXor v rd ra rb s
  | .shl v rd ra rb => Sys2Proof.Machine.execShl v rd ra rb s
  | .shr v rd ra rb => Sys2Proof.Machine.execShr v rd ra rb s
  | .sra v rd ra rb => Sys2Proof.Machine.execSra v rd ra rb s
  | .mul v rd ra rb => Sys2Proof.Machine.execMul v rd ra rb s
  | .slt v rd ra rb => Sys2Proof.Machine.execSlt v rd ra rb s
  | .addi v rd ra imm => Sys2Proof.Machine.execAddi v rd ra imm s
  | .shli16 v rd ra imm => Sys2Proof.Machine.execShli16 v rd ra imm s
  | .andi v rd ra imm => Sys2Proof.Machine.execAndi v rd ra imm s
  | .shli v rd ra imm => Sys2Proof.Machine.execShli v rd ra imm s
  | .shri v rd ra imm => Sys2Proof.Machine.execShri v rd ra imm s
  | .rdb v rd => Sys2Proof.Machine.execRdb v rd s
  | .rdl v rd imm => Sys2Proof.Machine.execRdl v rd imm s
  | .rdid v rd => Sys2Proof.Machine.execRdid v rd s
  | .lda v a parity => Sys2Proof.Machine.execLda v a parity s
  | .ldw v a parity => Sys2Proof.Machine.execLdw v a parity s
  | .ldv v a parity => Sys2Proof.Machine.execLdv v a parity s
  | .stv v a => Sys2Proof.Machine.execStv v a s
  | .lds v a parity => Sys2Proof.Machine.execLds v a parity s
  | .sts v a => Sys2Proof.Machine.execSts v a s
  | .ldd v a parity => Sys2Proof.Machine.execLdd v a parity s
  | .ldt v a parity => Sys2Proof.Machine.execLdt v a parity s
  | .arrIssue v a => Sys2Proof.Machine.execArrIssue v a s
  | .swap v amask => Sys2Proof.Machine.execSwap v amask s
  | .cfg v amask c => Sys2Proof.Machine.execCfg v amask c s
  | .ceil v amask reg => Sys2Proof.Machine.execCeil v amask reg s
  | .ovl v amask start count => Sys2Proof.Machine.execOvl v amask start count s
  | .ovlu v amask start count => Sys2Proof.Machine.execOvlu v amask start count s
  | .ovlc v amask => Sys2Proof.Machine.execOvlc v amask s
  | .drain v a => Sys2Proof.Machine.execDrain v a s
  | .preload v a => Sys2Proof.Machine.execPreload v a s
  | .setrc v a => Sys2Proof.Machine.execSetrc v a s
  | .fadd v a => Sys2Proof.Machine.execFadd v a s
  | .fsub v a => Sys2Proof.Machine.execFsub v a s
  | .fmul v a => Sys2Proof.Machine.execFmul v a s
  | .fmax v a => Sys2Proof.Machine.execFmax v a s
  | .fmin v a => Sys2Proof.Machine.execFmin v a s
  | .fma v a => Sys2Proof.Machine.execFma v a s
  | .fcmplt v a => Sys2Proof.Machine.execFcmplt v a s
  | .fcmpeq v a => Sys2Proof.Machine.execFcmpeq v a s
  | .iadd v a => Sys2Proof.Machine.execIadd v a s
  | .isub v a => Sys2Proof.Machine.execIsub v a s
  | .iand v a => Sys2Proof.Machine.execIand v a s
  | .ior v a => Sys2Proof.Machine.execIor v a s
  | .ixor v a => Sys2Proof.Machine.execIxor v a s
  | .ishl v a => Sys2Proof.Machine.execIshl v a s
  | .ishr v a => Sys2Proof.Machine.execIshr v a s
  | .islt v a => Sys2Proof.Machine.execIslt v a s
  | .cvtf v a => Sys2Proof.Machine.execCvtf v a s
  | .cvti v a => Sys2Proof.Machine.execCvti v a s
  | .mxq v a => Sys2Proof.Machine.execMxq v a s
  | .exp2 v a => Sys2Proof.Machine.execExp2 v a s
  | .rcp v a => Sys2Proof.Machine.execRcp v a s
  | .log v a => Sys2Proof.Machine.execLog v a s
  | .rsqrt v a => Sys2Proof.Machine.execRsqrt v a s
  | .xadd v a => Sys2Proof.Machine.execXadd v a s
  | .xcvt v a => Sys2Proof.Machine.execXcvt v a s
  | .rmax v a => Sys2Proof.Machine.execRmax v a s
  | .rsum v a => Sys2Proof.Machine.execRsum v a s
  | .sld v x => Sys2Proof.Machine.execSld v x s
  | .sst v x parity => Sys2Proof.Machine.execSst v x parity s
  | .put v x parity => Sys2Proof.Machine.execPut v x parity s
  | .send v x parity => Sys2Proof.Machine.execSend v x parity s
  | .nbj v x => Sys2Proof.Machine.execNbj v x s
  | .sendDepart v slot => Sys2Proof.Machine.execSendDepart v slot s
  | .inboundWrite v errs => Sys2Proof.Machine.execInboundWrite v s errs
  | .sstComplete v slot errs => Sys2Proof.Machine.execSstComplete v slot errs s
  | .icacheFill v errs => Sys2Proof.Machine.execIcacheFill v s errs
  | .yieldBarrier job => Sys2Proof.Machine.execYieldBarrier job s
  | .saveComplete job failed => Sys2Proof.Machine.execSaveComplete job failed s
  | .restore job => Sys2Proof.Machine.execRestore job s
  | .restoreComplete job failed => Sys2Proof.Machine.execRestoreComplete job failed s
  | .vatClear v => Sys2Proof.Machine.execVatClear v s
  | .jobStart job => Sys2Proof.Machine.execJobStart job s
  | .nbeJobAccept job errs => Sys2Proof.Machine.execNbeJobAccept job s errs
  | .matvec job parity errs => Sys2Proof.Machine.execMatvec job s parity errs
  | .attnScore job parity errs => Sys2Proof.Machine.execAttnScore job s parity errs
  | .attnValue job parity errs => Sys2Proof.Machine.execAttnValue job s parity errs
  | .move job errs => Sys2Proof.Machine.execMove job s errs
  | .nbeJobComplete job => Sys2Proof.Machine.execNbeJobComplete job s
  | .copyPieceComplete r id piece channel errs => Sys2Proof.Machine.execCopyPieceComplete r id piece channel errs s
  | .granuleReread dpa consumer conds => Sys2Proof.Machine.execGranuleReread dpa consumer conds s
  | .ceLeakPeriod s0 => Sys2Proof.Machine.execCeLeakPeriod s0 s
  | .patrolScrub dpa conds => Sys2Proof.Machine.execPatrolScrub dpa conds s
  | .refresh s0 pc bank => Sys2Proof.Machine.execRefresh s0 pc bank s
  | .refreshNormalRate s0 => Sys2Proof.Machine.execRefreshNormalRate s0 s
  | .stepBoundary n errs => Sys2Proof.Machine.execStepBoundary n s errs
  | .stepPlan n plan errs => Sys2Proof.Machine.execStepPlan n plan s errs
  | .stepProgramEnd n logits appends errs => Sys2Proof.Machine.execStepProgramEnd n logits s appends errs
  | .cocoonWriteComplete n tag ok errs => Sys2Proof.Machine.execCocoonWriteComplete n tag ok s errs
  | .cocoonReadComplete n tag readable stream => Sys2Proof.Machine.execCocoonReadComplete n tag readable stream s
  | .frameReceive p c => Sys2Proof.Machine.execFrameReceive p c s
  | .replayTimeout p => Sys2Proof.Machine.execReplayTimeout p s
  | .beacon p errorPs => Sys2Proof.Machine.execBeacon p errorPs s
  | .holdReq p => Sys2Proof.Machine.execHoldReq p s
  | .announce p => Sys2Proof.Machine.execAnnounce p s
  | .abort p => Sys2Proof.Machine.execAbort p s
  | .train p => Sys2Proof.Machine.execTrain p s
  | .trainingComplete p => Sys2Proof.Machine.execTrainingComplete p s
  | .trainingTimeout p tooLong => Sys2Proof.Machine.execTrainingTimeout p tooLong s
  | .lightLoss p => Sys2Proof.Machine.execLightLoss p s
  | .transferReceive p => Sys2Proof.Machine.execTransferReceive p s
  | .transferAck p => Sys2Proof.Machine.execTransferAck p s
  | .fabTimeout v slot => Sys2Proof.Machine.execFabTimeout v slot s
  | .quantumBoundary => Sys2Proof.Machine.execQuantumBoundary s
  | .beaconLoss => Sys2Proof.Machine.execBeaconLoss s
  | .holdStart s0 => Sys2Proof.Machine.execHoldStart s0 s
  | .holdEnd s0 => Sys2Proof.Machine.execHoldEnd s0 s
  | .portEnable p => Sys2Proof.Machine.execPortEnable p s
  | .portDisable p => Sys2Proof.Machine.execPortDisable p s
  | .forceDown p => Sys2Proof.Machine.execForceDown p s
  | .fabRtSel n w => Sys2Proof.Machine.execFabRtSel n w s
  | .fabRtDataWrite n w => Sys2Proof.Machine.execFabRtDataWrite n w s
  | .partitionEnable n => Sys2Proof.Machine.execPartitionEnable n s
  | .partitionTeardown n => Sys2Proof.Machine.execPartitionTeardown n s
  | .teardownComplete n => Sys2Proof.Machine.execTeardownComplete n s
  | .sramUncorrectable o => Sys2Proof.Machine.execSramUncorrectable o s
  | .slowdownUpdate n busy wait stk net host srv => Sys2Proof.Machine.execSlowdownUpdate n busy wait stk net host srv s
  | .throttleUpdate p10us => Sys2Proof.Machine.execThrottleUpdate p10us s
  | .powerTrim p1ms energyMj => Sys2Proof.Machine.execPowerTrim p1ms energyMj s
  | .capUnmet => Sys2Proof.Machine.execCapUnmet s
  | .divReqChange up => Sys2Proof.Machine.execDivReqChange up s
  | .vpointIdle i0 => Sys2Proof.Machine.execVpointIdle i0 s
  | .voltageRiseComplete i0 => Sys2Proof.Machine.execVoltageRiseComplete i0 s
  | .sensorConversion k => Sys2Proof.Machine.execSensorConversion k s
  | .conversionResult k raw rateLow => Sys2Proof.Machine.execConversionResult k raw rateLow s
  | .conversionTimeout k => Sys2Proof.Machine.execConversionTimeout k s
  | .thermalLimitClear => Sys2Proof.Machine.execThermalLimitClear s
  | .errConsumeWrite w => Sys2Proof.Machine.execErrConsumeWrite w s
  | .errVfRecRead n => Sys2Proof.Machine.execErrVfRecRead n s
  | .evcClaimRead t => Sys2Proof.Machine.execEvcClaimRead t s
  | .evcCompleteWrite t w => Sys2Proof.Machine.execEvcCompleteWrite t w s
  | .evcSrcClear j => Sys2Proof.Machine.execEvcSrcClear j s
  | .evcQHeadWrite f w => Sys2Proof.Machine.execEvcQHeadWrite f w s
  | .extInAssert j => Sys2Proof.Machine.execExtInAssert j s
  | .hifRingStatusRead r => Sys2Proof.Machine.execHifRingStatusRead r s
  | .fabPortStatusRead p => Sys2Proof.Machine.execFabPortStatusRead p s
  | .fabRtStatusRead n => Sys2Proof.Machine.execFabRtStatusRead n s
  | .pwrStatusRead => Sys2Proof.Machine.execPwrStatusRead s
  | .errStatusRead => Sys2Proof.Machine.execErrStatusRead s
  | .evcQLostRead f => Sys2Proof.Machine.execEvcQLostRead f s
  | .genStatusRead => Sys2Proof.Machine.execGenStatusRead s
  | .genUnlock w => Sys2Proof.Machine.execGenUnlock w s
  | .tstMuxCtlWrite w => Sys2Proof.Machine.execTstMuxCtlWrite w s
  | .registerWrite t w => Sys2Proof.Machine.execRegisterWrite t w s
  | .setEndpointId p eid => Sys2Proof.Machine.execSetEndpointId p eid s
  | .getSensorReading p id => Sys2Proof.Machine.execGetSensorReading p id s
  | .setNumericEffecterValue p id value => Sys2Proof.Machine.execSetNumericEffecterValue p id value s
  | .setEventReceiver p eid => Sys2Proof.Machine.execSetEventReceiver p eid s
  | .requestUpdate p => Sys2Proof.Machine.execRequestUpdate p s
  | .verifyComplete image => Sys2Proof.Machine.execVerifyComplete image s
  | .applyComplete ok => Sys2Proof.Machine.execApplyComplete ok s
  | .activateFirmware p => Sys2Proof.Machine.execActivateFirmware p s
  | .restoreFactory p => Sys2Proof.Machine.execRestoreFactory p s
  | .eventClaim p => Sys2Proof.Machine.execEventClaim p s
  | .eventComplete p source => Sys2Proof.Machine.execEventComplete p source s
  | .readError p seq => Sys2Proof.Machine.execReadError p seq s
  | .setSensorOffset p sensor offset => Sys2Proof.Machine.execSetSensorOffset p sensor offset s
  | .secRcvGo => Sys2Proof.Machine.execSecRcvGo s
  | .recoveryUploadComplete image flashOk second => Sys2Proof.Machine.execRecoveryUploadComplete image flashOk second s
  | .entropyFail => Sys2Proof.Machine.execEntropyFail s
  | .perstAssert => Sys2Proof.Machine.execPerstAssert s
  | .perstRelease entropyOk => Sys2Proof.Machine.execPerstRelease entropyOk s
  | .vinBrownout => Sys2Proof.Machine.execVinBrownout s
  | .vinGood entropyOk => Sys2Proof.Machine.execVinGood entropyOk s
  | .vauxLoss => Sys2Proof.Machine.execVauxLoss s
  | .lateStart job => Sys2Proof.Machine.execLateStart job s
  | .extInDeassert j => Sys2Proof.Machine.execExtInDeassert j s
  | .laserInputChange e ok => Sys2Proof.Machine.execLaserInputChange e ok s
  | .vauxGood entropyOk => Sys2Proof.Machine.execVauxGood entropyOk s
  | .refclkStable entropyOk => Sys2Proof.Machine.execRefclkStable entropyOk s
  | .tapInstruction boundaryScan code => Sys2Proof.Machine.execTapInstruction boundaryScan code s

end Sys2Proof.Machine
end

