-- ==== Sys2Proof/Machine/Encode.lean ====
section
/-! DEFINITION. The words of a bundle's slots, written from the same field tables as the decoder (R221, R227, R234,
R235, R238 to R241, R243). Fields that an operation leaves reserved or does not use are 0. -/

namespace Sys2Proof.Machine

/-- A field's value at bit `lo` of a slot's word. -/
def fieldAt {n : Nat} (x : BitVec n) (lo : Nat) : Nat := x.toNat * 2 ^ lo
/-- A register number at bit `lo`. -/
def regField (r : Fin 32) (lo : Nat) : Nat := r.val * 2 ^ lo
/-- One bit at bit `lo`. -/
def bitField (b : Bool) (lo : Nat) : Nat := b.toNat * 2 ^ lo

def ctlWord (op : BitVec 6) (ra rb : Fin 32) (cond : Bool) (imm : BitVec 32) : Nat :=
  fieldAt op 58 + regField ra 53 + regField rb 48 + bitField cond 47 + imm.toNat

/-- Register form of a scalar operation: IMM bits [10:0] are 0 (R234). -/
def sclWord (op : BitVec 6) (rd ra rb : Fin 32) : Nat :=
  fieldAt op 26 + regField rd 21 + regField ra 16 + regField rb 11

/-- Immediate form of a scalar operation: the low half is IMM. -/
def sclImmWord (op : BitVec 6) (rd ra : Fin 32) (imm : BitVec 16) : Nat :=
  fieldAt op 26 + regField rd 21 + regField ra 16 + imm.toNat

def portWord (op : BitVec 5) (a : PortArgs) : Nat :=
  fieldAt op 59 + fieldAt a.amask 51 + regField a.reg 46 + regField a.base 41 + regField a.inc 36 + bitField a.sel 35 +
    fieldAt a.count 31 + fieldAt a.msel 29 + regField a.vm 24 + a.offset.toNat

def arrWord (a : ArrArgs) : Nat :=
  fieldAt a.amask 24 + fieldAt a.row 18 + bitField a.sel 17 + fieldAt a.index 11 + bitField a.last 10 + bitField a.lx 9

/-- A WGT word whose low 20 bits are 0. -/
def wgtWord (op : BitVec 4) (m : BitVec 8) : Nat := fieldAt op 28 + fieldAt m 20

def cfgWord (m : BitVec 8) (k : CfgArgs) : Nat :=
  wgtWord 2 m + fieldAt k.wfmt 14 + fieldAt k.afmt 8 + bitField k.exact 7 + bitField k.quad 6 + bitField k.raw 5 +
    bitField k.rmode 4

def drnWord (op : BitVec 4) (a : DrnArgs) : Nat :=
  fieldAt op 28 + fieldAt a.amask 20 + fieldAt a.row 14 + regField a.reg 9 + bitField a.raw 8 + bitField a.qsel 7

def vecWord (op : BitVec 6) (a : VecArgs) : Nat :=
  fieldAt op 58 + regField a.vd 53 + regField a.va 48 + regField a.vb 43 + regField a.vc 38 + fieldAt a.fmt 32 +
    fieldAt a.rnd 30 + fieldAt a.gmask 22 + bitField a.sb 21

def xchWord (op : BitVec 5) (a : XchArgs) : Nat :=
  fieldAt op 59 + regField a.ra 54 + regField a.rb 49 + regField a.rf 44 + fieldAt a.fbit 39 + bitField a.flag 38 +
    bitField a.atbeat 37 + regField a.rt 32 + fieldAt a.lines 21

/-- Where a slot operation stands and how it is written: its vat, whether a read of it meets a parity mismatch, its
slot's number and its word. No other command has one. -/
def encodeSlot : Instr → Option (Fin 128 × Bool × Nat × Nat)
  | .jmp v imm => some (v, false, 0, ctlWord 0x01 0 0 false imm)
  | .brz v ra imm => some (v, false, 0, ctlWord 0x02 ra 0 false imm)
  | .brnz v ra imm => some (v, false, 0, ctlWord 0x03 ra 0 false imm)
  | .brlt v ra rb imm => some (v, false, 0, ctlWord 0x04 ra rb false imm)
  | .loop v ra imm => some (v, false, 0, ctlWord 0x08 ra 0 false imm)
  | .bsync v ra imm => some (v, false, 0, ctlWord 0x10 ra 0 false imm)
  | .waitf v ra rb cond imm parity => some (v, parity, 0, ctlWord 0x11 ra rb cond imm)
  | .yield v imm => some (v, false, 0, ctlWord 0x12 0 0 false imm)
  | .trap v imm => some (v, false, 0, ctlWord 0x18 0 0 false imm)
  | .endJob v => some (v, false, 0, ctlWord 0x19 0 0 false 0)
  | .add v rd ra rb => some (v, false, 1, sclWord 0x01 rd ra rb)
  | .sub v rd ra rb => some (v, false, 1, sclWord 0x02 rd ra rb)
  | .and v rd ra rb => some (v, false, 1, sclWord 0x03 rd ra rb)
  | .or v rd ra rb => some (v, false, 1, sclWord 0x04 rd ra rb)
  | .xor v rd ra rb => some (v, false, 1, sclWord 0x05 rd ra rb)
  | .shl v rd ra rb => some (v, false, 1, sclWord 0x06 rd ra rb)
  | .shr v rd ra rb => some (v, false, 1, sclWord 0x07 rd ra rb)
  | .sra v rd ra rb => some (v, false, 1, sclWord 0x08 rd ra rb)
  | .mul v rd ra rb => some (v, false, 1, sclWord 0x09 rd ra rb)
  | .slt v rd ra rb => some (v, false, 1, sclWord 0x0A rd ra rb)
  | .addi v rd ra imm => some (v, false, 1, sclImmWord 0x10 rd ra imm)
  | .shli16 v rd ra imm => some (v, false, 1, sclImmWord 0x11 rd ra imm)
  | .andi v rd ra imm => some (v, false, 1, sclImmWord 0x12 rd ra imm)
  | .shli v rd ra imm => some (v, false, 1, sclImmWord 0x13 rd ra imm)
  | .shri v rd ra imm => some (v, false, 1, sclImmWord 0x14 rd ra imm)
  | .rdb v rd => some (v, false, 1, sclImmWord 0x20 rd 0 0)
  | .rdl v rd imm => some (v, false, 1, sclImmWord 0x21 rd 0 imm)
  | .rdid v rd => some (v, false, 1, sclImmWord 0x22 rd 0 0)
  | .lda v a p => some (v, p, 2, portWord 0x01 a)
  | .ldw v a p => some (v, p, 2, portWord 0x02 a)
  | .ldv v a p => some (v, p, 2, portWord 0x03 a)
  | .stv v a => some (v, false, 2, portWord 0x04 a)
  | .lds v a p => some (v, p, 2, portWord 0x05 a)
  | .sts v a => some (v, false, 2, portWord 0x06 a)
  | .ldd v a p => some (v, p, 2, portWord 0x07 a)
  | .ldt v a p => some (v, p, 2, portWord 0x08 a)
  | .arrIssue v a => some (v, false, 3, arrWord a)
  | .swap v m => some (v, false, 4, wgtWord 1 m)
  | .cfg v m k => some (v, false, 4, cfgWord m k)
  | .ceil v m r => some (v, false, 4, wgtWord 3 m + regField r 15)
  | .ovl v m b n => some (v, false, 4, wgtWord 4 m + fieldAt b 10 + n.toNat)
  | .ovlu v m b n => some (v, false, 4, wgtWord 5 m + fieldAt b 10 + n.toNat)
  | .ovlc v m => some (v, false, 4, wgtWord 6 m)
  | .drain v a => some (v, false, 5, drnWord 1 a)
  | .preload v a => some (v, false, 5, drnWord 2 a)
  | .setrc v a => some (v, false, 5, drnWord 3 a)
  | .fadd v a => some (v, false, 6, vecWord 0x01 a)
  | .fsub v a => some (v, false, 6, vecWord 0x02 a)
  | .fmul v a => some (v, false, 6, vecWord 0x03 a)
  | .fmax v a => some (v, false, 6, vecWord 0x04 a)
  | .fmin v a => some (v, false, 6, vecWord 0x05 a)
  | .fma v a => some (v, false, 6, vecWord 0x06 a)
  | .fcmplt v a => some (v, false, 6, vecWord 0x07 a)
  | .fcmpeq v a => some (v, false, 6, vecWord 0x08 a)
  | .iadd v a => some (v, false, 6, vecWord 0x10 a)
  | .isub v a => some (v, false, 6, vecWord 0x11 a)
  | .iand v a => some (v, false, 6, vecWord 0x12 a)
  | .ior v a => some (v, false, 6, vecWord 0x13 a)
  | .ixor v a => some (v, false, 6, vecWord 0x14 a)
  | .ishl v a => some (v, false, 6, vecWord 0x15 a)
  | .ishr v a => some (v, false, 6, vecWord 0x16 a)
  | .islt v a => some (v, false, 6, vecWord 0x17 a)
  | .cvtf v a => some (v, false, 6, vecWord 0x20 a)
  | .cvti v a => some (v, false, 6, vecWord 0x21 a)
  | .mxq v a => some (v, false, 6, vecWord 0x22 a)
  | .exp2 v a => some (v, false, 6, vecWord 0x30 a)
  | .rcp v a => some (v, false, 6, vecWord 0x31 a)
  | .log v a => some (v, false, 6, vecWord 0x32 a)
  | .rsqrt v a => some (v, false, 6, vecWord 0x33 a)
  | .xadd v a => some (v, false, 6, vecWord 0x38 a)
  | .xcvt v a => some (v, false, 6, vecWord 0x39 a)
  | .rmax v a => some (v, false, 6, vecWord 0x3A a)
  | .rsum v a => some (v, false, 6, vecWord 0x3B a)
  | .sld v a => some (v, false, 7, xchWord 0x01 a)
  | .sst v a p => some (v, p, 7, xchWord 0x02 a)
  | .put v a p => some (v, p, 7, xchWord 0x03 a)
  | .send v a p => some (v, p, 7, xchWord 0x04 a)
  | .nbj v a => some (v, false, 7, xchWord 0x05 a)
  | _ => none

end Sys2Proof.Machine
end

