-- ==== Sys2Proof/Machine/Image.lean ====
section
/-! DEFINITION. The Sheveond image and the loader's checks (chapter 01, R25 to R43; R167 to R176, R179, R334, R370 for
tensors). The loader runs on the host: no command reaches it, and it is a function of an image and a configuration
record (R20). -/

namespace Sys2Proof.Machine

/-! ### Refusals (R43) -/

/-- The codes of R43, in the order of its table. -/
inductive LoadCode where
  | badMagic
  | badVersion
  | badSize
  | badDigest
  | reservedNonzero
  | badSection
  | unknownRequired
  | badTensor
  | badStep
  | order
  | badExchange
  | badYield
  | swarmSize
  | capacity
  | scratch
  | nbeGuarded
  | route
  | yieldDistance
  | liveSet
  | budget
deriving DecidableEq, Repr

def LoadCode.code : LoadCode → Nat
  | .badMagic => 0x0101
  | .badVersion => 0x0102
  | .badSize => 0x0103
  | .badDigest => 0x0104
  | .reservedNonzero => 0x0105
  | .badSection => 0x0106
  | .unknownRequired => 0x0107
  | .badTensor => 0x0201
  | .badStep => 0x0202
  | .order => 0x0203
  | .badExchange => 0x0204
  | .badYield => 0x0205
  | .swarmSize => 0x0301
  | .capacity => 0x0302
  | .scratch => 0x0303
  | .nbeGuarded => 0x0304
  | .route => 0x0305
  | .yieldDistance => 0x0306
  | .liveSet => 0x0307
  | .budget => 0x0308

structure LoadRefusal where
  code : LoadCode
  offset : Nat
deriving DecidableEq, Repr

/-- The offset reported for a configuration failure (R43). -/
def configFailure : Nat := 2 ^ 64 - 1

/-- What a settled program binds beside the image (R19): the device's part, with the route tables of the partition's
ports, the swarm with its axes, and this device's place on them. -/
structure LoadConfig where
  device : DeviceConfig
  swarm : Nat
  axes : List Nat
  position : List Nat
deriving DecidableEq, Repr

/-- Entries of the route tables of the partition's ports (R427). -/
def LoadConfig.routes (c : LoadConfig) : List (BitVec 128) := c.device.routes.flatMap fun (_, es) => es.map (·.2)

/-! ### The container (R25 to R30) -/

def zeroBytes (off len : Nat) : List (Nat × Nat) := (List.range len).map fun k => (off + k, 0xFF)

/-- Reserved bits of the header, as byte offsets and masks (R26): an AXIS_RANGE pair beyond AXIS_COUNT is reserved. -/
def headerReserved (img : List Byte) : List (Nat × Nat) :=
  [(0x0C, 0xF8)] ++ zeroBytes 0x0D 3 ++ zeroBytes 0x1E 2 ++ zeroBytes 0x21 3 ++
    (let used := min 3 (numAt img 0x20 1)
     zeroBytes (0x24 + 4 * used) (12 - 4 * used)) ++ zeroBytes 0x70 16

/-- An entry of the section table (R28). -/
structure Sect where
  entry : Nat
  typ : Nat
  required : Bool
  off : Nat
  size : Nat
deriving DecidableEq, Repr

def sectCount (img : List Byte) : Nat := numAt img 0x1C 2
def sectOff (img : List Byte) : Nat := numAt img 0x18 4

/-- The entries of the section table that lie in the image. -/
def sects (img : List Byte) : List Sect :=
  (List.range (sectCount img)).filterMap fun k =>
    let e := sectOff img + 32 * k
    if img.length < e + 32 then none
    else some { entry := e, typ := numAt img e 2, required := numAt img (e + 2) 1 % 2 = 1,
                off := numAt img (e + 8) 8, size := numAt img (e + 16) 8 }

def Sect.inside (x : Sect) (img : List Byte) : Bool := decide (x.off + x.size ≤ img.length)

/-- Entry size of a known section type; 1 where it has no entries (R29). -/
def sectUnit (typ : Nat) : Nat :=
  if typ = 2 ∨ typ = 3 then 64 else if typ = 4 then 32 else if typ = 5 then 16 else if typ = 8 then 4 else 1

def sectKnown (typ : Nat) : Bool := decide (1 ≤ typ) && decide (typ ≤ 9)

/-- The first section of a type. -/
def sectOf (img : List Byte) (typ : Nat) : Option Sect := (sects img).find? fun x => x.typ == typ

/-- Contents of the section of a type, none where it is missing or leaves the image. -/
def sectBytes (img : List Byte) (typ : Nat) : List Byte :=
  match sectOf img typ with
  | some x => if x.inside img then (img.drop x.off).take x.size else []
  | none => []

/-- Offsets in the image of the whole entries of a section. -/
def Sect.entries (x : Sect) : List Nat := (List.range (x.size / sectUnit x.typ)).map fun k => x.off + sectUnit x.typ * k

def entriesOf (img : List Byte) (typ : Nat) : List Nat :=
  match sectOf img typ with
  | some x => if x.inside img then x.entries else []
  | none => []

/-- Reserved bits of an entry, from its own offset (R28, R31, R34, R39, R41). -/
def entryReserved (typ : Nat) : List (Nat × Nat) :=
  if typ = 2 then [(0x0E, 0xF8), (0x0F, 0xFF)]
  else if typ = 3 then [(0x0B, 0xFE)] ++ zeroBytes 0x3A 6
  else if typ = 4 then [(0x06, 0xF8), (0x07, 0xFE)] ++ zeroBytes 0x14 12
  else if typ = 5 then zeroBytes 0x0C 4
  else []

def sectReserved : List (Nat × Nat) := [(0x02, 0xFE), (0x03, 0xFF)] ++ zeroBytes 0x04 4 ++ zeroBytes 0x18 8

/-! ### Attribute records (R37) -/

/-- An attribute record: where it begins in ATTRS, its key, type and values. -/
structure Attr where
  pos : Nat
  key : Nat
  typ : Nat
  vals : List Nat
deriving DecidableEq, Repr

/-- The records of a run of ATTRS, and whether the run holds whole records only. -/
def attrRun (bs : List Byte) (stop : Nat) : Nat → Nat → List Attr × Bool
  | 0, pos => ([], pos == stop)
  | fuel + 1, pos =>
    if pos = stop then ([], true)
    else if stop < pos + 8 then ([], false)
    else
      let n := numAt bs (pos + 3) 1
      let next := pos + 8 + 8 * n
      if stop < next then ([], false)
      else
        let r : Attr := { pos := pos, key := numAt bs pos 2, typ := numAt bs (pos + 2) 1,
                          vals := (List.range n).map fun k => numAt bs (pos + 8 + 8 * k) 8 }
        let (rs, ok) := attrRun bs stop fuel next
        (r :: rs, ok)

/-- The attribute records that a step entry names. -/
def stepAttrs (img : List Byte) (e : Nat) : List Attr × Bool :=
  let bs := sectBytes img 7
  let off := numAt img (e + 0x2C) 4
  let size := numAt img (e + 0x30) 4
  if bs.length < off + size then ([], size == 0) else attrRun bs (off + size) (size / 8 + 1) off

/-! ### Checks 1 to 7 -/

/-- Check 1 reads the bytes supplied (R43). -/
def magicBad (img : List Byte) : List Nat := fieldBad 0 (decide (4 ≤ img.length) && numAt img 0 4 == 0x44564853)

/-- A used AXIS_RANGE pair, as far as it is supplied; the minimum and the maximum are fields of their own (R26, R43). -/
def axisPairBad (img : List Byte) (i : Nat) : List Nat :=
  let a := 0x24 + 4 * i
  let lo := numAt img a 2
  let hi := numAt img (a + 2) 2
  fieldBad a ((decide (img.length < a + 2) || decide (1 ≤ lo)) && (decide (img.length < a + 4) || decide (lo ≤ hi))) ++
    fieldBad (a + 2) (decide (img.length < a + 4) || decide (hi ≤ 1024))

/-- Check 2. -/
def versionBad (img : List Byte) : List Nat :=
  let axes := numAt img 0x20 1
  let lo := numAt img 0x30 2
  let hi := numAt img 0x32 2
  fieldBad 0x04 (decide (6 ≤ img.length) && numAt img 4 2 == 1) ++
    fieldBad 0x08 (decide (12 ≤ img.length) && numAt img 8 4 == 128) ++
    fieldBad 0x20 (decide (img.length ≤ 0x20) || (decide (1 ≤ axes) && decide (axes ≤ 3))) ++
    (List.range (min 3 axes)).flatMap (axisPairBad img) ++
    fieldBad 0x30 (decide (img.length < 0x32) || (decide (1 ≤ lo) && decide (lo ≤ 1024))) ++
    fieldBad 0x32 (decide (img.length < 0x34) || (decide (lo ≤ hi) && decide (hi ≤ 1024)))

def sizeBad (img : List Byte) : List Nat :=
  fieldBad 0x10 (decide (128 ≤ img.length) && numAt img 0x10 8 == img.length)

/-- DIGEST of an image: SHA-256 with the field itself zero (R26, R27). -/
def programDigest (img : List Byte) : Bits256 := sha256 (img.take 0x40 ++ List.replicate 32 0 ++ img.drop 0x60)

def digestBad (img : List Byte) : List Nat :=
  fieldBad 0x40 (digestOf ((img.drop 0x40).take 32) == programDigest img)

/-- Every reserved bit of the header, the section table, the entries and the attribute records. -/
def reservedBits (img : List Byte) : List (Nat × Nat) :=
  let shift (e : Nat) (xs : List (Nat × Nat)) := xs.map fun (o, m) => (e + o, m)
  let attrs : List (Nat × Nat) := match sectOf img 7 with
    | none => []
    | some a => (entriesOf img 3).flatMap fun e => (stepAttrs img e).1.flatMap fun r => zeroBytes (a.off + r.pos + 4) 4
  headerReserved img ++ (sects img).flatMap (fun x => shift x.entry sectReserved) ++
    ((sects img).filter (·.inside img)).flatMap
      (fun x => if entryReserved x.typ = [] then [] else x.entries.flatMap fun e => shift e (entryReserved x.typ)) ++ attrs

/-- Check 5 reports the lowest byte with a reserved bit set. -/
def reservedBad (img : List Byte) : List Nat :=
  (minOf ((reservedBits img).filterMap fun (o, m) =>
    if numAt img o 1 &&& m = 0 then none else some o)).toList

/-- Two byte ranges share a byte. -/
def rangesShare (a b : Nat × Nat) : Bool := decide (max a.1 b.1 < min (a.1 + a.2) (b.1 + b.2))

/-- Offending entries of the section table, against the ranges and known types before them (R25, R29). -/
def sectsBad (img : List Byte) : List (Nat × Nat) → List Nat → List Sect → List Nat
  | _, _, [] => []
  | used, types, x :: xs =>
    fieldBad x.entry (x.off % 64 == 0 && x.inside img && !used.any (rangesShare (x.off, x.size)) &&
        (!sectKnown x.typ || (!types.contains x.typ && x.size % sectUnit x.typ == 0))) ++
      sectsBad img ((x.off, x.size) :: used) (x.typ :: types) xs

/-- Check 6. Where several parts of it fail at once, the section table's place is reported before SECT_COUNT, then the
entries in order, then a missing section (DESIGN CHOICE, log 128: R43 names one offset and gives no order). -/
def sectionBad (img : List Byte) : List Nat :=
  let n := sectCount img
  let t := sectOff img
  fieldBad 0x18 (t % 64 == 0 && decide (128 ≤ t) && decide (t + 32 * n ≤ img.length)) ++
    fieldBad 0x1C (decide (2 ≤ n) && decide (n ≤ 64)) ++
    sectsBad img [(0, 128), (t, 32 * n)] [] (sects img) ++
    fieldBad 0x1C ((sectOf img 2).isSome && (sectOf img 3).isSome)

/-- Check 7 (R30). -/
def unknownBad (img : List Byte) : List Nat := (sects img).flatMap fun x => fieldBad x.entry (sectKnown x.typ || !x.required)

/-! ### Tensors (R31 to R33, R612) -/

/-- A tensor entry and where it begins. -/
structure TensorDecl where
  entry : Nat
  id : Nat
  name : Nat
  fmt : Nat
  rank : Nat
  kind : Nat
  place : Nat
  splitDim : Nat
  splitAxis : Nat
  curd : Bool
  rennet : Bool
  guarded : Bool
  /-- extents used, outermost first, and the unused fields -/
  dims : List Nat
  unused : List Nat
  constOff : Nat
  constSize : Nat
deriving DecidableEq, Repr

def tensorAt (img : List Byte) (e : Nat) : TensorDecl :=
  let rank := numAt img (e + 0x09) 1
  let ext := (List.range 8).map fun k => numAt img (e + 0x10 + 4 * k) 4
  let fl := numAt img (e + 0x0E) 2
  { entry := e, id := numAt img e 4, name := numAt img (e + 4) 4, fmt := numAt img (e + 8) 1, rank := rank
    kind := numAt img (e + 0x0A) 1, place := numAt img (e + 0x0B) 1, splitDim := numAt img (e + 0x0C) 1
    splitAxis := numAt img (e + 0x0D) 1, curd := fl.testBit 0, rennet := fl.testBit 1, guarded := fl.testBit 2
    dims := ext.take rank, unused := ext.drop rank, constOff := numAt img (e + 0x30) 8, constSize := numAt img (e + 0x38) 8 }

def tensorDecls (img : List Byte) : List TensorDecl := (entriesOf img 2).map (tensorAt img)

def tensorNamed (ts : List TensorDecl) (id : Nat) : Option TensorDecl := ts.find? fun t => t.id == id

/-- No id: an unused slot or an absent name. -/
def noId : Nat := 0xFFFFFFFF

def TensorDecl.elems (t : TensorDecl) : Nat := t.dims.prod
def TensorDecl.inner (t : TensorDecl) : Nat := t.dims.getLastD 0
def TensorDecl.isSplit (t : TensorDecl) : Bool := t.place == 1

/-- AXIS_COUNT and the largest size that the image accepts for an axis (R14, R26). -/
def axisCount (img : List Byte) : Nat := numAt img 0x20 1
def axisMin (img : List Byte) (i : Nat) : Nat := numAt img (0x24 + 4 * i) 2
def axisMax (img : List Byte) (i : Nat) : Nat := numAt img (0x26 + 4 * i) 2

/-- A tensor's extents on one of the most devices that its axis accepts. -/
def TensorDecl.sliceDims (t : TensorDecl) (img : List Byte) : List Nat :=
  if t.isSplit then (List.range t.rank).map fun k =>
      if k = t.splitDim then t.dims.getD k 0 / axisMax img t.splitAxis else t.dims.getD k 0
  else t.dims

def utf8Tail (b : Byte) : Bool := decide (0x80 ≤ b.toNat) && decide (b.toNat < 0xC0)

/-- Well-formed UTF-8, by the number of bytes that each leading byte asks for. -/
def utf8Ok : Nat → List Byte → Bool
  | _, [] => true
  | 0, _ => false
  | fuel + 1, b :: bs =>
    let n := if b.toNat < 0x80 then 0 else if b.toNat < 0xC2 then 4 else if b.toNat < 0xE0 then 1
      else if b.toNat < 0xF0 then 2 else if b.toNat < 0xF5 then 3 else 4
    let c := (bs.getD 0 0).toNat
    let edge := (b.toNat != 0xE0 || decide (0xA0 ≤ c)) && (b.toNat != 0xED || decide (c < 0xA0)) &&
      (b.toNat != 0xF0 || decide (0x90 ≤ c)) && (b.toNat != 0xF4 || decide (c < 0x90))
    decide (n ≤ 3) && decide (n ≤ bs.length) && (bs.take n).all utf8Tail && edge && utf8Ok fuel (bs.drop n)

/-- The string at an offset of STRINGS, up to its NUL (R29, R31). -/
def stringAt (img : List Byte) (off : Nat) : Option (List Byte) :=
  let rest := (sectBytes img 1).drop off
  let str := rest.takeWhile (· ≠ 0)
  if str.length < rest.length ∧ utf8Ok str.length str then some str else none

def TensorDecl.str (t : TensorDecl) (img : List Byte) : Option (List Byte) :=
  if t.name = noId then none else stringAt img t.name

/-- Bytes of the constants of a parameter tensor without CURD (R612). -/
def TensorDecl.rawBytes (t : TensorDecl) : Nat :=
  let plane := t.elems * fmtWidth t.fmt / 8
  if fmtIsMx t.fmt then alignUp plane 64 + t.elems / 32 else plane

/-- The constants of a parameter tensor. -/
def TensorDecl.consts (t : TensorDecl) (img : List Byte) : List Byte :=
  ((sectBytes img 6).drop t.constOff).take t.constSize

/-! ### Curd constants (R169 to R176) -/

/-- Segments of a curd tensor, and the vectors of each (R175). -/
def TensorDecl.segments (t : TensorDecl) (img : List Byte) : Nat := if t.isSplit then axisMax img t.splitAxis else 1
def TensorDecl.segVectors (t : TensorDecl) (img : List Byte) : Nat := (t.sliceDims img).prod / 32

/-- Block `b` of a segment against R171 to R173 and R175; `tables` are the tensor's code tables. -/
def curdBlockOk (t : TensorDecl) (tables : List CodeTable) (perBlock vectors seg b : Nat) (blk : List Byte) : Bool :=
  let x : CurdBlock := BitVec.ofNat 32768 (natOfBytes blk)
  decide (blk.length = 4096) && numAt blk 0x02 1 == t.fmt && numAt blk 0x03 1 == 0 &&
    decide (curdTable x < tables.length) && curdVectors x == min perBlock (vectors - b * perBlock) &&
    decide (1 ≤ curdVectors x) && decide (1 ≤ curdPayloadBits x) && numAt blk 0x0C 4 == seg &&
    curdFirst x == b * perBlock * 32 && numAt blk 0x18 8 == 0 && numAt blk (0x20 + 124) 4 == 0 &&
    (match curdExpand (fun k => tables[k]?) x with | .elems _ => true | _ => false)

/-- The directory, the code tables, the segment table and every block of a curd tensor (R169, R170, R174, R176). -/
def TensorDecl.curdOk (t : TensorDecl) (img : List Byte) : Bool :=
  let c := t.consts img
  let count := numAt c 0x04 2
  let per := numAt c 0x06 2
  let segs := t.segments img
  let vecs := t.segVectors img
  let blocks := ceilDiv vecs per
  let tOff := numAt c 0x10 8
  let sOff := numAt c 0x18 8
  let bOff := numAt c 0x20 8
  let tables : List CodeTable := (List.range count).map fun k => BitVec.ofNat 1024 (numAt c (tOff + 128 * k) 128)
  decide (64 ≤ c.length) && numAt c 0 4 == 0x44525543 && decide (1 ≤ count) && decide (count ≤ 256) &&
    decide (1 ≤ per) && decide (per ≤ 984) && numAt c 0x08 4 == segs && numAt c 0x0C 4 == 0 &&
    numAt c 0x28 8 == segs * blocks && numAt c 0x30 16 == 0 &&
    [tOff, sOff, bOff].all (fun o => o % 64 == 0) && decide (tOff + 128 * count ≤ c.length) &&
    decide (sOff + 8 * segs ≤ c.length) && decide (bOff + 4096 * (segs * blocks) ≤ c.length) &&
    (t.sliceDims img).prod % 32 == 0 && tables.all (fun x => codeTableOk x (fmtWidth t.fmt)) &&
    (List.range segs).all (fun i => numAt c (sOff + 8 * i) 8 == i * blocks &&
      (List.range blocks).all fun b =>
        curdBlockOk t tables per vecs i b ((c.drop (bOff + 4096 * (i * blocks + b))).take 4096))

/-! ### Check 8 -/

/-- Placement of a tensor (R31, R32). -/
def TensorDecl.placeOk (t : TensorDecl) (img : List Byte) : Bool :=
  decide (t.place ≤ 2) && decide (t.splitAxis ≤ 2) &&
    (if t.isSplit then decide (t.splitDim < t.rank) && decide (t.splitAxis < axisCount img) &&
        t.dims.getD t.splitDim 0 % axisMax img t.splitAxis == 0
     else t.splitDim == 0)

/-- TFLAGS.RENNET (R179). -/
def TensorDecl.rennetOk (t : TensorDecl) (img : List Byte) : Bool :=
  let tile (ds : List Nat) := ds.getD (t.rank - 1) 0 % 32 == 0 && ds.getD (t.rank - 2) 0 % 32 == 0
  !t.rennet || (decide (2 ≤ t.rank) && tile t.dims && tile (t.sliceDims img))

/-- CONST_OFF, CONST_SIZE and what they name (R167, R174, R176, R612). -/
def TensorDecl.constsOk (t : TensorDecl) (img : List Byte) : Bool :=
  if t.kind ≠ 1 then !t.curd && t.constOff == 0 && t.constSize == 0
  else
    decide (t.constOff + t.constSize ≤ (sectBytes img 6).length) &&
      (if t.curd then [4, 6, 8].contains (fmtWidth t.fmt) && t.curdOk img
       else
        t.constSize == t.rawBytes &&
          (!fmtIsMx t.fmt ||
            (let plane := t.elems * fmtWidth t.fmt / 8
             (((t.consts img).drop plane).take (alignUp plane 64 - plane)).all (· == 0))))

/-- A tensor entry by itself. -/
def TensorDecl.ok (t : TensorDecl) (img : List Byte) : Bool :=
  fmtKnown t.fmt && decide (1 ≤ t.rank) && decide (t.rank ≤ 8) && decide (t.kind ≤ 5) &&
    t.dims.all (fun d => decide (0 < d)) && t.unused.all (· == 0) && t.inner % 32 == 0 &&
    (t.name == noId || (t.str img).isSome) && t.placeOk img && t.rennetOk img && t.constsOk img

/-- Entries in the order of the table, ids ascending. -/
def tensorsBad (img : List Byte) : Option Nat → List TensorDecl → List Nat
  | _, [] => []
  | prev, t :: ts =>
    fieldBad t.entry (t.ok img && (match prev with | some p => decide (p < t.id) | none => true)) ++
      tensorsBad img (some t.id) ts

/-- Bytes of an ASCII name. -/
def nameBytes (cs : List Char) : List Byte := cs.map fun c => BitVec.ofNat 8 c.toNat

/-- The tensors that a SERVING image must contain (R334). -/
inductive SrvTensor where
  | tokens
  | lengths
  | sampleIdx
  | logits
  | kv
deriving DecidableEq, Repr

def SrvTensor.name : SrvTensor → List Byte
  | .tokens => nameBytes ['s', 'r', 'v', '.', 't', 'o', 'k', 'e', 'n', 's']
  | .lengths => nameBytes ['s', 'r', 'v', '.', 'l', 'e', 'n', 'g', 't', 'h', 's']
  | .sampleIdx => nameBytes ['s', 'r', 'v', '.', 's', 'a', 'm', 'p', 'l', 'e', '_', 'i', 'd', 'x']
  | .logits => nameBytes ['s', 'r', 'v', '.', 'l', 'o', 'g', 'i', 't', 's']
  | .kv => nameBytes ['s', 'r', 'v', '.', 'k', 'v']

def srvTensors : List SrvTensor := [.tokens, .lengths, .sampleIdx, .logits, .kv]

def srvTensor (img : List Byte) (x : SrvTensor) : Option TensorDecl :=
  (tensorDecls img).find? fun t => t.str img == some x.name

/-- Slots of a unit: the largest power of two for which U slots fit in 4,096 bytes, scale bytes counted (R372). -/
def unitSlotsOf (fmt d : Nat) : Nat :=
  let slot := d * fmtWidth fmt / 8 + if fmtIsMx fmt then d / 32 else 0
  2 ^ Nat.log2 (4096 / slot)

/-- Formats that R300 allows for keys and values. -/
def kvFmtOk (c : Nat) : Bool := c == 0x08 || (fmtKnown c && decide (fmtWidth c ≤ 8) && !fmtIsInt c)

def between (lo hi x : Nat) : Bool := decide (lo ≤ x) && decide (x ≤ hi)

/-- Kind, format and extents of a tensor of R334; the ranges are those of R332, R341 and R370. -/
def srvTensorOk (img : List Byte) (x : SrvTensor) (t : TensorDecl) : Bool :=
  let d (k : Nat) := t.dims.getD k 0
  let dims (y : SrvTensor) := match srvTensor img y with | some u => u.dims | none => []
  match x with
  | .tokens => t.kind == 2 && t.fmt == 0x0B && t.rank == 1 && between 32 4096 (d 0) && d 0 % 32 == 0
  | .lengths => t.kind == 2 && t.fmt == 0x0B && t.rank == 1 && between 32 16384 (d 0) && d 0 % 32 == 0
  | .sampleIdx => t.kind == 2 && t.fmt == 0x0B && t.rank == 1 && d 0 % 32 == 0 && decide (d 0 ≤ (dims .tokens).getD 0 0)
  | .logits => t.kind == 3 && t.fmt == 0x0A && t.rank == 2 && d 0 == (dims .sampleIdx).getD 0 0 &&
      between 32 262144 (d 1) && d 1 % 32 == 0
  | .kv => t.kind == 4 && t.rank == 5 && kvFmtOk t.fmt && d 1 == 2 && [16, 32, 64, 128, 256].contains (d 3) &&
      between 32 256 (d 4) && d 4 % 32 == 0 && (!t.isSplit || t.splitDim == 2) && decide (d 3 ≤ 4 * unitSlotsOf t.fmt (d 4))

/-- MODE, CLASS and SERVING of FLAGS (R26). -/
def imageExact (img : List Byte) : Bool := (numAt img 0x0C 4).testBit 0
def imageLatency (img : List Byte) : Bool := (numAt img 0x0C 4).testBit 1
def imageServing (img : List Byte) : Bool := (numAt img 0x0C 4).testBit 2

/-- What R334 asks of a SERVING image. -/
def servingBad (img : List Byte) : List Nat :=
  if imageServing img then
    srvTensors.flatMap (fun x => match srvTensor img x with
      | none => [((sectOf img 2).map (·.off)).getD 0]
      | some t => fieldBad t.entry (srvTensorOk img x t)) ++
    (tensorDecls img).flatMap fun t =>
      fieldBad t.entry (!(t.kind == 2 || t.kind == 3) || (srvTensors.any fun x => srvTensor img x == some t))
  else []

/-- Check 8. -/
def tensorBad (img : List Byte) : List Nat := tensorsBad img none (tensorDecls img) ++ servingBad img

/-! ### Steps (R34 to R38, R613 to R615) -/

/-- A step entry and where it begins. -/
structure StepDecl where
  entry : Nat
  id : Nat
  op : Nat
  sub : Nat
  affinity : Nat
  nin : Nat
  nout : Nat
  yields : Bool
  ins : List Nat
  outs : List Nat
  attrs : List Attr
  /-- its attribute records are whole and lie in ATTRS -/
  whole : Bool
  depOff : Nat
  depCount : Nat
deriving DecidableEq, Repr

def stepAt (img : List Byte) (e : Nat) : StepDecl :=
  { entry := e, id := numAt img e 4, op := numAt img (e + 4) 2, sub := numAt img (e + 6) 2
    affinity := numAt img (e + 8) 1, nin := numAt img (e + 9) 1, nout := numAt img (e + 0x0A) 1
    yields := numAt img (e + 0x0B) 1 % 2 = 1, ins := (List.range 6).map fun k => numAt img (e + 0x0C + 4 * k) 4
    outs := (List.range 2).map fun k => numAt img (e + 0x24 + 4 * k) 4
    attrs := (stepAttrs img e).1, whole := (stepAttrs img e).2
    depOff := numAt img (e + 0x34) 4, depCount := numAt img (e + 0x38) 2 }

def stepDecls (img : List Byte) : List StepDecl := (entriesOf img 3).map (stepAt img)

/-- Input and output slots that hold a tensor (R34). -/
def StepDecl.inp (x : StepDecl) (k : Nat) : Option Nat :=
  if k < x.nin ∧ x.ins.getD k noId ≠ noId then some (x.ins.getD k noId) else none
def StepDecl.out (x : StepDecl) (k : Nat) : Option Nat :=
  if k < x.nout ∧ x.outs.getD k noId ≠ noId then some (x.outs.getD k noId) else none

def StepDecl.reads (x : StepDecl) : List Nat := (List.range 6).filterMap x.inp

def StepDecl.attr (x : StepDecl) (key : Nat) : Option Attr := x.attrs.find? fun r => r.key == key
/-- An attribute's value of TYPE 1. -/
def Attr.int (r : Attr) (k : Nat) : Int := signedOf 64 (r.vals.getD k 0)
/-- Its value of TYPE 2: FP32 in the low 4 bytes; of TYPE 3: a tensor id there. -/
def Attr.low (r : Attr) (k : Nat) : Nat := r.vals.getD k 0 % 2 ^ 32
def StepDecl.intAttr (x : StepDecl) (key : Nat) (absent : Int) : Int := ((x.attr key).map (·.int 0)).getD absent
def StepDecl.fpAttr (x : StepDecl) (key : Nat) (absent : Word) : Word :=
  ((x.attr key).map fun r => BitVec.ofNat 32 (r.low 0)).getD absent

/-- Tensors that a step writes: its outputs, and those that SAVE_STATS names (R37, R406). -/
def StepDecl.writes (x : StepDecl) : List Nat :=
  (List.range 2).filterMap x.out ++
    (match x.attr 0x000B with | some r => [r.low 0, r.low 1] | none => [])

/-- Opcodes and subcodes of R36. -/
def subcodesOf (op : Nat) : List Nat :=
  if op = 0x07 then [1, 2, 3] else if op = 0x09 ∨ op = 0x12 then [1, 2] else if 1 ≤ op ∧ op ≤ 0x12 then [0] else []

/-- Types, count (none for PERM, whose count is the rank) of a key, where it applies to a step (R37, R614). -/
def attrRule (op sub key : Nat) : Option (List Nat × Option Nat) :=
  let on (ok : Bool) (types : List Nat) (n : Option Nat) := if ok then some (types, n) else none
  if key = 0x0001 then on (op == 0x01 || op == 0x02) [1] (some 2)
  else if key = 0x0002 ∨ key = 0x0003 then on (op == 0x01) [1] (some 1)
  else if key = 0x0004 then on ([0x01, 0x03, 0x04, 0x05].contains op) [2] (some 1)
  else if key = 0x0005 then on (op == 0x03 || op == 0x05) [1] (some 1)
  else if key = 0x0006 then on (op == 0x06) [1] (some 1)
  else if key = 0x0007 then on ([0x07, 0x08, 0x09].contains op) [1] (some 1)
  else if key = 0x0008 then on (op == 0x0D || op == 0x0E) [1] (some 1)
  else if key = 0x0009 then on (op == 0x0E) [1] (some 1)
  else if key = 0x000A then on (op == 0x0A) [1] (some 1)
  else if key = 0x000B then on (op == 0x03) [3] (some 2)
  else if key = 0x000C then on (op == 0x09 || (op == 0x12 && sub == 2)) [2] (some 1)
  else if key = 0x000D then on (op == 0x0C) [1] none
  else if key = 0x000E then on (op == 0x10 || op == 0x04) [1] (some 1)
  else if key = 0x000F then on (op == 0x12 && sub == 1) [2] (some 1)
  else if key = 0x0010 ∨ key = 0x0011 then on (op == 0x12 && sub == 2) [2] (some 1)
  else if key = 0x0012 then on (op == 0x0F) [1, 2] (some 1)
  else none

/-- Keys that a step must carry (R614). -/
def attrsNeeded (op sub : Nat) : List Nat :=
  if op = 0x06 then [0x0006] else if op = 0x0C then [0x000D] else if op = 0x10 ∨ op = 0x04 then [0x000E]
  else if op = 0x0F then [0x0012] else if op = 0x12 ∧ sub = 2 then [0x000C, 0x0010, 0x0011] else []

/-- Values that an attribute may take on a step whose tensors have rank `rank` (R37, R613). -/
def attrValueOk (rank : Nat) (r : Attr) : Bool :=
  let v := r.int 0
  let upTo (n : Int) := decide (0 ≤ v) && decide (v ≤ n)
  if r.key = 0x0002 ∨ r.key = 0x0003 ∨ r.key = 0x0005 ∨ r.key = 0x0009 then upTo 1
  else if r.key = 0x0006 then decide (1 ≤ v) && upTo 10
  else if r.key = 0x0007 ∨ r.key = 0x0008 then upTo ((rank : Int) - 1)
  else if r.key = 0x000A then upTo 2
  else if r.key = 0x000E then decide (0 ≤ v)
  else true

/-- Offending attribute records of a step, by their places in ATTRS (R37, R614): keys that apply, each once, with their
type, count and a value that the key takes. -/
def attrsBad (op sub rank : Nat) : List Nat → List Attr → List Nat
  | _, [] => []
  | seen, r :: rs =>
    fieldBad r.pos (!seen.contains r.key && attrValueOk rank r &&
        (match attrRule op sub r.key with
          | none => false
          | some (types, n) => types.contains r.typ && r.vals.length == n.getD rank)) ++
      attrsBad op sub rank (r.key :: seen) rs

/-- Which inputs an operator takes: how many, and those it may go without (R34, R163, R164, R369, R376, R377, R613,
R615); ATTN_FWD reads queries, keys and values (log 105). The slots of R164's "only when MOMENTUM is not 0" are no
optional ones of R34: with MOMENTUM 0 they stand at or above NIN and NOUT (DESIGN CHOICE, log 128). -/
def inputsOf (x : StepDecl) : List (Nat × List Nat) :=
  if x.op = 0x01 ∨ x.op = 0x02 ∨ x.op = 0x04 ∨ x.op = 0x0D ∨ x.op = 0x0E ∨ x.op = 0x10 then [(2, [])]
  else if x.op = 0x03 then [(3, [])]
  else if x.op = 0x05 then (List.range 6).map fun k => (k + 1, [])
  else if x.op = 0x06 then [(if x.intAttr 0x0006 0 ≤ 5 then 2 else 1, [])]
  else if x.op = 0x09 then [(if x.sub = 1 then 2 else 3, [1, 2])]
  else if x.op = 0x0F then [(0, [])]
  else if x.op = 0x11 then [(3, [2])]
  else if x.op = 0x12 then [(if x.sub = 2 ∨ !fEq (x.fpAttr 0x000F 0) 0 then 4 else 3, [])]
  else [(1, [])]

/-- Outputs that an operator writes. -/
def outputsOf (x : StepDecl) : List Nat :=
  if x.op = 0x05 then [1, 2] else if x.op = 0x12 ∧ (x.sub = 2 ∨ !fEq (x.fpAttr 0x000F 0) 0) then [2] else [1]

/-- NIN, NOUT and the slots (R34). -/
def StepDecl.slotsOk (x : StepDecl) (ts : List TensorDecl) : Bool :=
  let known (i : Nat) := (tensorNamed ts i).isSome
  let inOk (n : Nat) (opt : List Nat) : Bool :=
    decide (x.nin ≤ n) && (List.range 6).all fun k =>
      let i := x.ins.getD k noId
      if k < x.nin then (i != noId && known i) || (i == noId && opt.contains k)
      else i == noId && (decide (n ≤ k) || opt.contains k)
  decide (x.nin ≤ 6) && decide (x.nout ≤ 2) && (inputsOf x).any (fun (n, opt) => inOk n opt) &&
    (outputsOf x).any (fun n => x.nout == n) &&
    (List.range 2).all fun k => let i := x.outs.getD k noId; if k < x.nout then i != noId && known i else i == noId

/-- `count` ids of LISTS from an index on (R29, R34, R41). -/
def listAt (img : List Byte) (off count : Nat) : Option (List Nat) :=
  let bs := sectBytes img 8
  if bs.length < 4 * (off + count) then none else some ((List.range count).map fun k => numAt bs (4 * (off + k)) 4)

/-- The fields of a step entry by themselves: opcode and subcode, affinity, slots that hold a tensor or nothing, and
ranges of ATTRS and LISTS. -/
def StepDecl.fieldsOk (x : StepDecl) (img : List Byte) (ts : List TensorDecl) : Bool :=
  let held (n : Nat) (xs : List Nat) := (List.range xs.length).all fun k =>
    let i := xs.getD k noId
    i == noId || (decide (k < n) && (tensorNamed ts i).isSome)
  (subcodesOf x.op).contains x.sub && decide (x.affinity ≤ 3) && decide (x.nin ≤ 6) && decide (x.nout ≤ 2) &&
    held x.nin x.ins && held x.nout x.outs && x.whole && (x.depCount == 0 || (listAt img x.depOff x.depCount).isSome)

/-- Formats that may stand in a product (R150). -/
def productOk (a b : TensorDecl) : Bool := fmtIsInt a.fmt == fmtIsInt b.fmt

/-- Contracted dimensions of a MATMUL or MATVEC of rank `r` (R613). -/
def StepDecl.contract (x : StepDecl) (r : Nat) : Int × Int :=
  match x.attr 0x0001 with
  | some a => (a.int 0, a.int 1)
  | none =>
    if x.op = 0x02 then ((r : Int) - 1, (r : Int) - 1)
    else (if x.intAttr 0x0002 0 = 1 then (r : Int) - 2 else (r : Int) - 1,
          if x.intAttr 0x0003 0 = 1 then (r : Int) - 1 else (r : Int) - 2)

/-- The other of the last two dimensions. -/
def freeDim (r : Nat) (c : Int) : Nat := if c = (r : Int) - 1 then r - 2 else r - 1

def matmulOk (x : StepDecl) (a b o : TensorDecl) : Bool :=
  let r := a.rank
  let (ca, cb) := x.contract r
  let last (c : Int) := decide (c = (r : Int) - 1) || decide (c = (r : Int) - 2)
  decide (2 ≤ r) && b.rank == r && o.rank == r && productOk a b && last ca && last cb &&
    !((x.attr 0x0001).isSome && ((x.attr 0x0002).isSome || (x.attr 0x0003).isSome)) &&
    a.dims.take (r - 2) == b.dims.take (r - 2) && a.dims.take (r - 2) == o.dims.take (r - 2) &&
    a.dims.getD ca.toNat 0 == b.dims.getD cb.toNat 0 && o.dims.getD (r - 2) 0 == a.dims.getD (freeDim r ca) 0 &&
    o.dims.getD (r - 1) 0 == b.dims.getD (freeDim r cb) 0

/-- Shapes of ATTN_FWD (log 105) and of its statistics (R406). -/
def attnFwdOk (x : StepDecl) (ts : List TensorDecl) (q k v o : TensorDecl) : Bool :=
  let r := q.rank
  let lead (t : TensorDecl) := t.dims.take (r - 2)
  let stats (i : Nat) := match tensorNamed ts i with
    | some t => t.fmt == 0x0A && t.dims == q.dims.take (r - 1)
    | none => false
  decide (2 ≤ r) && k.rank == r && v.rank == r && o.rank == r && lead k == lead q && lead v == lead q && lead o == lead q &&
    productOk q k && k.dims.getD (r - 1) 0 == q.dims.getD (r - 1) 0 && v.dims.getD (r - 2) 0 == k.dims.getD (r - 2) 0 &&
    o.dims.getD (r - 2) 0 == q.dims.getD (r - 2) 0 && o.dims.getD (r - 1) 0 == v.dims.getD (r - 1) 0 &&
    !fmtIsInt v.fmt && (match x.attr 0x000B with | some a => stats (a.low 0) && stats (a.low 1) | none => true)

/-- Split as another tensor is, along the given dimensions, or neither split. -/
def splitAlike (a b : TensorDecl) (da db : Nat) : Bool :=
  if b.isSplit then a.isSplit && b.splitDim == db && a.splitDim == da && a.splitAxis == b.splitAxis else a.place == 0

/-- KV_APPEND (R376). -/
def kvAppendOk (img : List Byte) (x : StepDecl) (k v o : TensorDecl) : Bool :=
  let tok := match srvTensor img .tokens with | some t => t.dims.getD 0 0 | none => 0
  let part (t : TensorDecl) := fmtIsFloat t.fmt && !fmtIsMx t.fmt && t.dims == [tok, o.dims.getD 2 0, o.dims.getD 4 0] &&
    splitAlike t o 1 2
  imageServing img && srvTensor img .kv == some o && part k && part v && decide (x.intAttr 0x000E 0 < o.dims.getD 0 0)

/-- ATTN_DECODE (R377). -/
def attnDecodeOk (img : List Byte) (x : StepDecl) (q kv o : TensorDecl) : Bool :=
  let tok := match srvTensor img .tokens with | some t => t.dims.getD 0 0 | none => 0
  let fmtOk (c : Nat) := [0x04, 0x05, 0x08, 0x0A].contains c
  imageServing img && srvTensor img .kv == some kv && fmtOk q.fmt && fmtOk o.fmt && q.rank == 3 &&
    q.dims.getD 0 0 == tok && q.dims.getD 2 0 == kv.dims.getD 4 0 && q.dims.getD 1 0 % kv.dims.getD 2 0 == 0 &&
    o.dims == q.dims && splitAlike q kv 1 2 && splitAlike o kv 1 2 && decide (x.intAttr 0x000E 0 < kv.dims.getD 0 0)

/-- An input of an ELEMENTWISE broadcasts to the output (R615). -/
def broadcastOk (i o : TensorDecl) : Bool :=
  i.rank == o.rank && (i.dims.zip o.dims).all (fun (a, b) => a == b || a == 1) && (i.id != o.id || i.dims == o.dims)

/-- The reduced dimension (R614). -/
def StepDecl.reduceDim (x : StepDecl) (rank : Nat) : Nat := (x.intAttr 0x0007 ((rank : Int) - 1)).toNat
def StepDecl.indexDim (x : StepDecl) : Nat := (x.intAttr 0x0008 0).toNat
def StepDecl.perm (x : StepDecl) : List Nat :=
  match x.attr 0x000D with | some r => (List.range r.vals.length).map fun k => (r.int k).toNat | none => []

/-- GATHER and SCATTER (R128, R129, R131, R615): `a` has the indexed extent, `b` the number of indices. -/
def indexedOk (x : StepDecl) (a b i : TensorDecl) : Bool :=
  let d := x.indexDim
  i.rank == 1 && i.fmt == 0x0B && a.rank == b.rank && a.fmt == b.fmt && b.dims.getD d 0 == i.dims.getD 0 0 &&
    a.dims.eraseIdx d == b.dims.eraseIdx d && (!fmtIsMx a.fmt || decide (d + 1 < a.rank)) &&
    (x.intAttr 0x0009 0 == 0 || [0x08, 0x09, 0x0A, 0x0B, 0x0C].contains a.fmt)

/-- RELAYOUT (R127). -/
def relayoutOk (x : StepDecl) (a o : TensorDecl) : Bool :=
  let p := x.perm
  a.fmt == o.fmt && a.rank == o.rank && (List.range a.rank).all p.contains &&
    o.dims == p.map (fun k => a.dims.getD k 0) && (!fmtIsMx a.fmt || p.getLastD 0 + 1 == a.rank)

/-- SAMPLE (R369). -/
def sampleOk (img : List Byte) (l p o : TensorDecl) (c : Option TensorDecl) : Bool :=
  let r := l.dims.getD 0 0
  let all_ := [l, p, o] ++ c.toList
  !imageServing img && l.fmt == 0x0A && l.rank == 2 && p.fmt == 0x0B && p.dims == [r, 32] && o.fmt == 0x0B && o.dims == [r] &&
    (match c with | some t => t.fmt == 0x0B && t.dims == l.dims | none => true) &&
    all_.all (fun t => !t.isSplit || t.splitDim == 0) &&
    all_.all (fun t => t.isSplit == l.isSplit && (!t.isSplit || t.splitAxis == l.splitAxis))

def samePlace (a b : TensorDecl) : Bool :=
  a.place == b.place && (!a.isSplit || (a.splitDim == b.splitDim && a.splitAxis == b.splitAxis))

/-- UPDATE (R164). Where p is not split, the moments tensor has p's own placement (DESIGN CHOICE, log 128: R164 rules on
a split p alone). -/
def updateOk (x : StepDecl) (p g c : TensorDecl) (u : Option TensorDecl) : Bool :=
  (p.fmt == 0x0A || p.fmt == 0x08) && p.kind == 1 && !p.curd && decide (p.rank ≤ 7) && g.dims == p.dims && samePlace g p &&
    fmtIsFloat g.fmt && g.fmt != 0x15 && c.fmt == 0x0A && c.dims == [32] && c.place == 0 && x.out 0 == x.inp 0 &&
    (match u with
      | none => true
      | some t => x.out 1 == x.inp 3 && t.fmt == 0x0A &&
          (if x.sub = 1 then t.dims == p.dims && samePlace t p
           else t.dims == 2 :: p.dims && t.place == p.place &&
             (!p.isSplit || (t.splitDim == p.splitDim + 1 && t.splitAxis == p.splitAxis))))

/-- Shapes and formats of a step whose slots hold tensors. The extents of a NORM's gain and bias are not checked (DESIGN
CHOICE, log 128: R163 and R615 give none). -/
def StepDecl.shapeOk (x : StepDecl) (img : List Byte) (ts : List TensorDecl) : Bool :=
  let t (k : Nat) := (x.inp k).bind (tensorNamed ts)
  match t 0, t 1, (x.out 0).bind (tensorNamed ts) with
  | some a, some b, some o =>
    if x.op = 0x01 ∨ x.op = 0x02 then matmulOk x a b o
    else if x.op = 0x03 then (match t 2 with | some v => attnFwdOk x ts a b v o | none => false)
    else if x.op = 0x04 then attnDecodeOk img x a b o
    else if x.op = 0x05 then true
    else if x.op = 0x06 then broadcastOk a o && broadcastOk b o
    else if x.op = 0x09 then a.dims == o.dims
    else if x.op = 0x0D then indexedOk x a o b
    else if x.op = 0x0E then indexedOk x o a b
    else if x.op = 0x10 then kvAppendOk img x a b o
    else if x.op = 0x11 then sampleOk img a b o (t 2)
    else if x.op = 0x12 then (match t 2 with | some c => updateOk x a b c (t 3) | none => false)
    else false
  | some a, none, some o =>
    if x.op = 0x05 then true
    else if x.op = 0x06 then broadcastOk a o
    else if x.op = 0x07 then decide (2 ≤ a.rank) && o.dims == a.dims.eraseIdx (x.reduceDim a.rank)
    else if x.op = 0x08 ∨ x.op = 0x09 ∨ x.op = 0x0A then a.dims == o.dims
    else if x.op = 0x0B then a.dims == o.dims && a.fmt == o.fmt
    else if x.op = 0x0C then relayoutOk x a o
    else false
  | none, none, some _ => x.op == 0x0F
  | _, _, _ => false

/-- A step may write a parameter only by UPDATE, a curd tensor never, and one of its inputs only in ELEMENTWISE and
UPDATE (R35, R47, R168). -/
def StepDecl.writesOk (x : StepDecl) (ts : List TensorDecl) : Bool :=
  x.writes.all fun i => match tensorNamed ts i with
    | none => false
    | some t => !t.curd && (t.kind != 1 || x.op == 0x12) && (!x.reads.contains i || x.op == 0x06 || x.op == 0x12)

/-- Arity, required attributes, outputs and shapes. -/
def StepDecl.ok (x : StepDecl) (img : List Byte) (ts : List TensorDecl) : Bool :=
  (attrsNeeded x.op x.sub).all (fun k => (x.attr k).isSome) && x.slotsOk ts && x.writesOk ts && x.shapeOk img ts

/-- Check 9: steps in table order, each id once (R34); of one step its fields, its attribute records, then the rest. -/
def stepsBad (img : List Byte) (ts : List TensorDecl) : List Nat → List StepDecl → List Nat
  | _, [] => []
  | seen, x :: xs =>
    let rank := match (x.inp 0).bind (tensorNamed ts) with | some t => t.rank | none => 0
    let base := ((sectOf img 7).map (·.off)).getD 0
    fieldBad x.entry (!seen.contains x.id && x.fieldsOk img ts) ++
      (attrsBad x.op x.sub rank [] x.attrs).map (base + ·) ++ fieldBad x.entry (x.ok img ts) ++
      stepsBad img ts (x.id :: seen) xs

def stepBad (img : List Byte) : List Nat := stepsBad img (tensorDecls img) [] (stepDecls img)

/-! ### Checks 10 to 12 -/

/-- A later step that writes what this one reads (R35). Of srv.kv a KV_APPEND writes and an ATTN_DECODE reads the one
layer that LAYER names (R376, R377; log 106). -/
def laterWriter (ts : List TensorDecl) (x : StepDecl) (later : List StepDecl) : Bool :=
  x.reads.any fun i =>
    let cache := match tensorNamed ts i with | some t => t.kind == 4 | none => false
    later.any fun y => y.writes.contains i && (!cache || y.intAttr 0x000E 0 == x.intAttr 0x000E 0)

def ordersBad (img : List Byte) (ts : List TensorDecl) : List Nat → List StepDecl → List Nat
  | _, [] => []
  | before, x :: xs =>
    fieldBad x.entry ((match listAt img x.depOff x.depCount with
        | some ds => ds.all before.contains
        | none => x.depCount == 0) && !laterWriter ts x xs) ++
      ordersBad img ts (x.id :: before) xs

/-- Check 10. -/
def orderBad (img : List Byte) : List Nat :=
  fieldBad 0x34 (((stepDecls img).head?.map (·.id)) == some (numAt img 0x34 4)) ++
    ordersBad img (tensorDecls img) [] (stepDecls img)

/-- An exchange entry (R39). -/
structure ExchangeDecl where
  entry : Nat
  id : Nat
  kind : Nat
  op : Nat
  axes : Nat
  exact : Bool
  src : Nat
  dst : Nat
  after : Nat
deriving DecidableEq, Repr

def exchangeAt (img : List Byte) (e : Nat) : ExchangeDecl :=
  { entry := e, id := numAt img e 4, kind := numAt img (e + 4) 1, op := numAt img (e + 5) 1
    axes := numAt img (e + 6) 1 % 8, exact := numAt img (e + 7) 1 % 2 = 1, src := numAt img (e + 8) 4
    dst := numAt img (e + 0x0C) 4, after := numAt img (e + 0x10) 4 }

def exchangeDecls (img : List Byte) : List ExchangeDecl := (entriesOf img 4).map (exchangeAt img)

/-- An exchange entry by itself (R39, R40): a device-local tensor is never exchanged (R14), and an exchange, which is no
UPDATE, writes no parameter (R47). -/
def ExchangeDecl.ok (x : ExchangeDecl) (img : List Byte) (ts : List TensorDecl) : Bool :=
  let reduces := x.kind == 1 || x.kind == 2
  let moved (i : Nat) := match tensorNamed ts i with | some t => t.place != 2 | none => false
  let written (i : Nat) := match tensorNamed ts i with | some t => t.kind != 1 | none => false
  between 1 6 x.kind && decide (x.op ≤ 3) && (reduces == (x.op != 0)) && decide (x.axes ≠ 0) &&
    decide (x.axes < 2 ^ axisCount img) && moved x.src && moved x.dst && written x.dst && (stepDecls img).any (fun y => y.id == x.after) &&
    (!x.exact || x.op == 1) && (!(imageExact img && x.op == 1) || x.exact)

def exchangesBad (img : List Byte) (ts : List TensorDecl) : List Nat → List ExchangeDecl → List Nat
  | _, [] => []
  | seen, x :: xs => fieldBad x.entry (!seen.contains x.id && x.ok img ts) ++ exchangesBad img ts (x.id :: seen) xs

/-- Check 11. -/
def exchangeBad (img : List Byte) : List Nat := exchangesBad img (tensorDecls img) [] (exchangeDecls img)

/-- A yield entry (R41). -/
structure YieldDecl where
  entry : Nat
  after : Nat
  liveOff : Nat
  liveCount : Nat
deriving DecidableEq, Repr

def yieldAt (img : List Byte) (e : Nat) : YieldDecl :=
  { entry := e, after := numAt img e 4, liveOff := numAt img (e + 4) 4, liveCount := numAt img (e + 8) 4 }

def yieldDecls (img : List Byte) : List YieldDecl := (entriesOf img 5).map (yieldAt img)

def YieldDecl.live (y : YieldDecl) (img : List Byte) : Option (List Nat) := listAt img y.liveOff y.liveCount

def yieldsBad (img : List Byte) (ts : List TensorDecl) : List Nat → List YieldDecl → List Nat
  | _, [] => []
  | seen, y :: ys =>
    fieldBad y.entry (!seen.contains y.after && (stepDecls img).any (fun x => x.id == y.after && x.yields) &&
        (match y.live img with
          | some ids => ids.all fun i => (tensorNamed ts i).isSome
          | none => false)) ++
      yieldsBad img ts (y.after :: seen) ys

/-- Check 12: the entries, then the steps that lack one. -/
def yieldBad (img : List Byte) : List Nat :=
  yieldsBad img (tensorDecls img) [] (yieldDecls img) ++
    (stepDecls img).flatMap fun x => fieldBad x.entry (!x.yields || (yieldDecls img).any fun y => y.after == x.id)

/-! ### Checks 13 to 20 -/

/-- Check 13 (R14). -/
def swarmBad (img : List Byte) (c : LoadConfig) : List Nat :=
  let n := axisCount img
  fieldBad configFailure (between (numAt img 0x30 2) (numAt img 0x32 2) c.swarm && c.axes.length == n &&
    (List.range n).all (fun i => between (axisMin img i) (axisMax img i) (c.axes.getD i 0)) && c.axes.prod == c.swarm)

/-- Vats of the partition, and the bytes of its window. -/
def LoadConfig.vats (c : LoadConfig) : Nat := 2 * (bitsSet c.device.islands).length
def LoadConfig.windowBytes (c : LoadConfig) : Nat := c.device.regions.length * 2 ^ 28

/-- Numbers that say a configuration record, for the checks that depend on how the loader settles. -/
def LoadConfig.numbers (c : LoadConfig) : List Nat :=
  [c.device.islands.toNat, c.device.stackSet.toNat, c.device.firmwareMajor.toNat, c.device.lcEnable.toNat,
   c.device.portSet.toNat, c.device.saveBase.toNat, c.device.saveStride.toNat, c.swarm] ++ c.axes ++ c.position ++
  c.device.regions.flatMap (fun (r, g) => [r, g.toNat]) ++ c.routes.map (·.toNat)

/-- A check whose outcome depends on tile shapes, placement, routes and worst-case durations, which no rule fixes
(R42, R43; log 107). -/
def settleBad (check : Nat) (img : List Byte) (c : LoadConfig) : List Nat :=
  (Config.settleCheck check img c.numbers).toList

/-- Bytes that a tensor's elements take on this device (R14, R105, R107); the KV cache lies in its own pool (R371). -/
def TensorDecl.deviceBytes (t : TensorDecl) (c : LoadConfig) : Nat :=
  if t.kind = 4 then 0
  else
    let n := t.elems / (if t.isSplit then max 1 (c.axes.getD t.splitAxis 1) else 1)
    n * fmtWidth t.fmt / 8 + if fmtIsMx t.fmt then n / 32 else 0

/-- Bytes of the save areas (R592). -/
def LoadConfig.saveBytes (c : LoadConfig) : Nat := c.vats * (c.device.saveStride.toNat * 4096)

/-- Tensors that must stand in the window together: every parameter, input, output and state, and one activation at a
time at the least; those that GUARDED asks for in guarded regions (R31, R43). -/
def tensorsFit (img : List Byte) (c : LoadConfig) : Bool :=
  let ts := tensorDecls img
  let bytes (p : TensorDecl → Bool) := ((ts.filter p).map (·.deviceBytes c)).sum
  let kept := bytes fun t => t.kind != 0
  let act := ((ts.filter fun t => t.kind == 0).map (·.deviceBytes c)).foldl max 0
  let guardedBytes := (c.device.regions.filter (·.2)).length * 2 ^ 28
  decide (kept + act + c.saveBytes ≤ c.windowBytes) &&
    decide (bytes (fun t => t.guarded && t.kind != 0) ≤ guardedBytes) &&
    ts.all fun t => !t.guarded || decide (t.deviceBytes c ≤ guardedBytes)

/-- Bytes of a yield point's live set on this device (R41). -/
def YieldDecl.liveBytes (y : YieldDecl) (img : List Byte) (c : LoadConfig) : Nat :=
  (((y.live img).getD []).eraseDups.filterMap (tensorNamed (tensorDecls img))).foldl (fun n t => n + t.deviceBytes c) 0

/-- Bytes of a save area with a number of lines (R213). -/
def saveAreaBytes (lines : Nat) : Nat := 0x1040 + alignUp (2 * lines) 64 + 2048 * lines

/-- STRIDE holds the save area of the vat that keeps the most lines of a live set, which are at least its share (R592);
a latency-critical program saves nothing (R44). -/
def strideHolds (img : List Byte) (c : LoadConfig) : Bool :=
  imageLatency img || (yieldDecls img).all fun y =>
    decide (saveAreaBytes (ceilDiv (y.liveBytes img c) (2048 * max 1 c.vats)) ≤ c.device.saveStride.toNat * 4096)

/-- Check 14: what fits no placement, and the part of R592 that needs none; then the rest. -/
def capacityBad (img : List Byte) (c : LoadConfig) : List Nat :=
  fieldBad configFailure (decide (c.device.saveBase.toNat * 4096 + c.saveBytes ≤ c.windowBytes) ||
      c.device.saveStride == 0) ++
    fieldBad configFailure (tensorsFit img c && strideHolds img c) ++ settleBad 14 img c

/-- A route-table entry that may be used: VALID, 1 to 12 hops, no reserved bit (R422). -/
def routeUsable (e : BitVec 128) : Bool :=
  e.getLsbD 63 && between 1 12 (field e 49 4).toNat && field e 0 5 == 0 && field e 96 32 == 0

/-- Check 17: an exchange whose group has other devices needs a route to one of them; then what depends on which (R43,
R422). -/
def routeBad (img : List Byte) (c : LoadConfig) : List Nat :=
  let groupSize (x : ExchangeDecl) : Nat := (List.range c.axes.length).foldl (fun n i => if x.axes.testBit i then n * c.axes.getD i 1 else n) 1
  (exchangeDecls img).flatMap (fun x => fieldBad x.entry (decide (groupSize x ≤ 1) || c.routes.any routeUsable)) ++
    if exchangeDecls img = [] then [] else settleBad 17 img c

/-- Check 19: a live set above 1 MiB for every vat together is above it on some vat; then what depends on tiling. -/
def liveSetBad (img : List Byte) (c : LoadConfig) : List Nat :=
  (yieldDecls img).flatMap (fun y => fieldBad y.entry (decide (y.liveBytes img c ≤ c.vats * 2 ^ 20))) ++ settleBad 19 img c

/-- Check 16: a near-bank step's output that its flag places in a guarded region, or that finds no working region
(R35); then what depends on placement. -/
def nbeGuardedBad (img : List Byte) (c : LoadConfig) : List Nat :=
  let working := c.device.regions.any fun (_, g) => !g
  (stepDecls img).flatMap (fun x => fieldBad x.entry (x.affinity != 2 ||
      (List.range 2).all fun k => match (x.out k).bind (tensorNamed (tensorDecls img)) with
        | some t => !t.guarded && working
        | none => true)) ++ settleBad 16 img c

/-- The first failure, in the order of R43. -/
def firstFailure : List (LoadCode × (Unit → List Nat)) → Option LoadRefusal
  | [] => none
  | (c, f) :: rest => match f () with
    | o :: _ => some { code := c, offset := o }
    | [] => firstFailure rest

/-- Checks 1 to 12 read the image alone. -/
def imageChecks (img : List Byte) : List (LoadCode × (Unit → List Nat)) :=
  [(.badMagic, fun _ => magicBad img), (.badVersion, fun _ => versionBad img), (.badSize, fun _ => sizeBad img),
   (.badDigest, fun _ => digestBad img), (.reservedNonzero, fun _ => reservedBad img),
   (.badSection, fun _ => sectionBad img), (.unknownRequired, fun _ => unknownBad img),
   (.badTensor, fun _ => tensorBad img), (.badStep, fun _ => stepBad img), (.order, fun _ => orderBad img),
   (.badExchange, fun _ => exchangeBad img), (.badYield, fun _ => yieldBad img)]

/-- Checks 13 to 20 also read the configuration record; a latency-critical program skips 18 and 19, a best-effort one
20 (R44). -/
def configChecks (img : List Byte) (c : LoadConfig) : List (LoadCode × (Unit → List Nat)) :=
  let be := !imageLatency img
  [(.swarmSize, fun _ => swarmBad img c), (.capacity, fun _ => capacityBad img c),
   (.scratch, fun _ => settleBad 15 img c), (.nbeGuarded, fun _ => nbeGuardedBad img c),
   (.route, fun _ => routeBad img c),
   (.yieldDistance, fun _ => if be then settleBad 18 img c else []),
   (.liveSet, fun _ => if be && c.device.lcEnable then liveSetBad img c else []),
   (.budget, fun _ => if !be && numAt img 0x38 8 != 0 then settleBad 20 img c else [])]

/-- The loader: none accepts, and the settled program is then a function of the two arguments (R20, R43). -/
def loaderRefuses (img : List Byte) (c : LoadConfig) : Option LoadRefusal :=
  firstFailure (imageChecks img ++ configChecks img c)

/-! ### What a settled program's header says of its image -/

/-- Tensors that a LAUNCH binds: inputs, outputs and state (R87). -/
def boundTensors (img : List Byte) : List Nat :=
  ((tensorDecls img).filter fun t => t.kind == 2 || t.kind == 3 || t.kind == 5).map (·.id)

/-- State tensors that a program writes and parameters that it updates (R46, R47). -/
def exclusiveTensors (img : List Byte) : List Nat :=
  ((tensorDecls img).filter fun t =>
    (t.kind == 5 || t.kind == 1) && (stepDecls img).any fun x => x.writes.contains t.id).map (·.id)

/-- A header agrees with the image that was settled, the configuration record and this device's place (R15, R19, R27,
R34, R46, R47, R87, R370). -/
def headerAgrees (img : List Byte) (c : LoadConfig) (h : ProgHeader) : Prop :=
  h.imageDigest = programDigest img ∧ h.config = c.device ∧ h.latencyCritical = imageLatency img ∧
    h.serving = imageServing img ∧ h.devices = c.swarm ∧ h.shape.exact = imageExact img ∧
    h.shape.budgetBeats = numAt img 0x38 8 ∧ h.args.map (·.tensor.toNat) = boundTensors img ∧
    h.exclusive.map (·.toNat) = exclusiveTensors img ∧
    h.yields.map (·.1) = ((stepDecls img).filter (·.yields)).map (·.id)

end Sys2Proof.Machine
end

