-- ==== Sys2Proof/Machine/StepSem.lean ====
section
/-! DEFINITION. What the steps of a Sheveond program compute (chapters 01, 04, 11 and 12: R36 to R38, R147 to R166, R175,
R184, R369, R376, R377, R406, R612 to R619). In fast mode the order of additions is a plan's (R155). -/

namespace Sys2Proof.Machine

/-! ### Tensors -/

/-- A tensor's elements in row-major order and, for a Microscaling format, its scale bytes, one a vector (R105, R107). -/
structure TVal where
  fmt : Nat := 0
  dims : List Nat := []
  codes : List Nat := []
  scales : List Nat := []
deriving DecidableEq, Repr

/-- Row-major number of an index tuple. -/
def flatOf : List Nat → List Nat → Nat
  | _ :: ds, i :: is => i * ds.prod + flatOf ds is
  | _, _ => 0

/-- One element's value; EXACT80 stands in the descriptor window (R143, R154). -/
def TVal.val (t : TVal) (i : Nat) : Val := termVal (termOf t.fmt (t.codes.getD i 0) (t.scales.getD (i / 32) 0))

def TVal.count (t : TVal) : Nat := t.dims.prod
def TVal.vals (t : TVal) : List Val := (List.range t.count).map t.val

/-- An element converted to FP32 (R157, R164). -/
def TVal.fp (t : TVal) (i : Nat) : Word := fRn (t.val i)

/-- The ceiling of some elements of a row: of the stored scales for a Microscaling format, else of the values (R148). -/
def TVal.ceil (t : TVal) (idx : List Nat) : Option Int :=
  match fmtOf t.fmt with
  | some f =>
    if f.mx.isSome then
      (match idx with
        | [] => none
        | _ => some (((idx.map fun i => t.scales.getD (i / 32) 0).foldl max 0 : Nat) - 127 + f.cmax))
    else maxCeiling (idx.map t.val)
  | none => maxCeiling (idx.map t.val)

/-- A result before it is rounded to a format: a sum under its anchor, or a value. -/
inductive Res where
  | sum (anchor : Int) (a : AccVal)
  | val (v : Val)
deriving DecidableEq, Repr

def Res.value : Res → Val
  | .sum anchor a => accVal anchor a
  | .val v => v

/-- A result as EXACT80: a sum is brought into the window (R151, R154), a value placed on its grid (R619). -/
def Res.window (r : Rnd) : Res → Acc
  | .sum anchor a => accSat (accToWindow anchor a)
  | .val v => accSat (accTermIn r windowAnchor v)

/-- Vectors of 32, for a list of at most `fuel` vectors. -/
def vectorsOf {α : Type} : Nat → List α → List (List α)
  | 0, _ => []
  | n + 1, xs => if xs.isEmpty then [] else xs.take 32 :: vectorsOf n (xs.drop 32)

/-- A tensor from its results, rounded in a mode (R144, R146, R151, R619). -/
def TVal.of (fmt : Nat) (dims : List Nat) (r : Rnd) (xs : List Res) : TVal :=
  if fmt = codeExact80 then { fmt := fmt, dims := dims, codes := xs.map fun x => (x.window r).toNat, scales := [] }
  else match fmtOf fmt with
    | none => { fmt := fmt, dims := dims, codes := [], scales := [] }
    | some f =>
      if f.mx.isSome then
        let bs := (vectorsOf xs.length xs).map fun v => mxBlock f r (v.map Res.value)
        { fmt := fmt, dims := dims, codes := bs.flatMap (·.2), scales := bs.map (·.1) }
      else { fmt := fmt, dims := dims, codes := xs.map fun x => encodeVal f r x.value, scales := [] }

/-- The tensor that a curd parameter's constants spell: segment by segment, each holding its slice's elements in
row-major order, block by block (R175). -/
def TVal.ofCurd (t : TensorDecl) (img : List Byte) : TVal :=
  let c := t.consts img
  let per := 32 * numAt c 0x06 2
  let tOff := numAt c 0x10 8
  let sOff := numAt c 0x18 8
  let bOff := numAt c 0x20 8
  let store (k : Nat) : Option CodeTable := if k < numAt c 0x04 2 then some (BitVec.ofNat 1024 (numAt c (tOff + 128 * k) 128)) else none
  let sd := t.sliceDims img
  let segment (i : Nat) : List Nat := (List.range (ceilDiv sd.prod per)).flatMap fun b =>
    let blk := numAt c (sOff + 8 * i) 8 + b
    match curdExpand store (BitVec.ofNat 32768 (natOfBytes ((c.drop (bOff + 4096 * blk)).take 4096))) with
    | .elems ss => ss
    | _ => []
  let segs := (List.range (t.segments img)).map segment
  { fmt := t.fmt, dims := t.dims
    codes := (List.range t.elems).map fun n =>
      let idx := tupleOf t.dims n
      let width := sd.getD t.splitDim 1
      if t.isSplit then
        let i := idx.getD t.splitDim 0
        (segs.getD (i / width) []).getD (flatOf sd (idx.set t.splitDim (i % width))) 0
      else (segs.getD 0 []).getD n 0
    scales := if fmtIsMx t.fmt then (List.range (t.elems / 32)).map fun i => (Config.curdScale t.id i).toNat else [] }

/-- The tensor that the raw constants of a parameter spell (R105, R612). -/
def TVal.ofRaw (t : TensorDecl) (bs : List Byte) : TVal :=
  let w := fmtWidth t.fmt
  let x := natOfBytes bs
  let plane := alignUp (t.elems * w / 8) 64
  { fmt := t.fmt, dims := t.dims, codes := (List.range t.elems).map fun i => (x >>> (w * i)) % 2 ^ w,
    scales := if fmtIsMx t.fmt then (List.range (t.elems / 32)).map fun i => numAt bs (plane + i) 1 else [] }

/-- The tensor that the constants of a parameter spell (R175, R612). -/
def TVal.ofConsts (t : TensorDecl) (img : List Byte) : TVal :=
  if t.curd then TVal.ofCurd t img else TVal.ofRaw t (t.consts img)

/-! ### Variants (R180, R184, R185) -/

/-- Tile and position of the element with an index tuple (R180). -/
def tilePos (dims idx : List Nat) : Nat × Nat :=
  let r := dims.length
  let e (k : Nat) := dims.getD k 0
  let i (k : Nat) := idx.getD k 0
  let t := (List.range (r - 2)).foldl (fun t k => t * e k + i k) 0
  let t := t * (e (r - 2) / 32) + i (r - 2) / 32
  (t * (e (r - 1) / 32) + i (r - 1) / 32, i (r - 2) % 32 * 32 + i (r - 1) % 32)

/-- A parameter under a variant's delta, whose entries are given by tile and position as BF16 values (R184). -/
def TVal.withDelta (t : TVal) (replaceMode : Bool) (delta : Nat → Nat → Option Nat) : TVal :=
  match fmtOf t.fmt with
  | none => t
  | some f =>
    { t with
      codes := (List.range t.count).map fun n =>
        let w := t.codes.getD n 0
        let (tile, pos) := tilePos t.dims (tupleOf t.dims n)
        match delta tile pos with
        | none => w
        | some d => rennetApply f replaceMode (t.scales.getD (n / 32) 0) w d }

/-! ### Reductions (R147 to R156) -/

/-- The order in which a settled program adds the group sums of a step's reductions in fast mode: for a number of groups,
its tiles in order, each a list of groups (R155). -/
abbrev Plan := Nat → List (List Nat)

/-- One tile holds every group. -/
def onePlan : Plan := fun n => [List.range n]

/-- Groups summed tile by tile (R155). -/
def planSum (p : Plan) (gs : List (List Val)) : Word :=
  match (p gs.length).map fun tile => fastSum (tile.map fun g => gs.getD g []) with
  | [] => 0
  | x :: xs => xs.foldl fAdd x

/-- Groups of 32 consecutive indices, of the terms that are kept; a group without any is left out (R155). -/
def keptGroups (terms : List (Bool × Val)) : List (List Val) :=
  (vectorsOf terms.length terms).filterMap fun g =>
    let h := (g.filter (·.1)).map (·.2)
    if h.isEmpty then none else some h

/-- A reduction of the kept terms under the mode. The anchor is the whole reduction's: `ceiling` is that of all its
terms before g, and K counts them all (R148, R152, R153, R155). -/
def partRes (exact ints : Bool) (p : Plan) (ceiling : Option Int) (terms : List (Bool × Val)) : Res :=
  let kept := (terms.filter (·.1)).map (·.2)
  if ints then .sum 55 (accSum 55 kept)
  else if exact then
    let a := ceiling.getD 0 + anchorG terms.length
    .sum a (accSum a kept)
  else .val (fVal (planSum p (keptGroups terms)))

/-- A whole reduction. -/
def reduceRes (exact ints : Bool) (p : Plan) (ceiling : Option Int) (terms : List Val) : Res :=
  partRes exact ints p ceiling (terms.map fun v => (true, v))

/-- Consecutive indices of a contracted or reduced dimension that one device holds: first, and number. -/
abbrev Share := Nat × Nat

/-- The terms of a part of the indices. -/
def inPart (part : Share) (terms : List Val) : List (Bool × Val) :=
  terms.zipIdx.map fun (v, k) => (decide (part.1 ≤ k) && decide (k < part.1 + part.2), v)

/-- Sum of two ceilings, where both operands have one. -/
def ceilSum (a b : Option Int) : Option Int := match a, b with
  | some x, some y => some (x + y)
  | _, _ => none

/-- The element numbers along dimension `d` through the outer and inner indices of `o`, an index of the other ones. -/
def axisLine (dims : List Nat) (d : Nat) (o : List Nat) : List Nat :=
  (List.range (dims.getD d 0)).map fun k => flatOf dims (o.insertIdx d k)

/-! ### MATMUL and MATVEC (R613, R617) -/

/-- Element numbers of the row or column of an operand of rank `r` with batch indices `b`, free index `i` and contracted
dimension `c`. -/
def operandLine (dims : List Nat) (c : Int) (b : List Nat) (i : Nat) : List Nat :=
  axisLine dims c.toNat (b ++ [i])

/-- One output element before rounding, over the part of the contracted indices that a device holds. -/
def matmulElem (exact : Bool) (p : Plan) (part : Share) (a b : TVal) (ia ib : List Nat) : Res :=
  partRes exact (fmtIsInt a.fmt) p (ceilSum (a.ceil ia) (b.ceil ib))
    (inPart part (List.zipWith (fun i j => (a.val i).mul (b.val j)) ia ib))

/-- R617. -/
def scaledRes (scale : Option Word) (x : Res) : Res := match scale with
  | none => x
  | some c => .val (fVal (fMul (fRn x.value) c))

def matmulRes (exact : Bool) (p : Plan) (part : Share) (x : StepDecl) (a b : TVal) (dims : List Nat) : List Res :=
  let r := a.dims.length
  let (ca, cb) := x.contract r
  let scale := (x.attr 0x0004).map fun t => BitVec.ofNat 32 (t.low 0)
  (List.range dims.prod).map fun n =>
    let o := tupleOf dims n
    let bt := o.take (r - 2)
    scaledRes scale
      (matmulElem exact p part a b (operandLine a.dims ca bt (o.getD (r - 2) 0)) (operandLine b.dims cb bt (o.getD (r - 1) 0)))

/-! ### Element by element (R157 to R159, R615) -/

/-- Functions of two operands, and of one (R37). -/
def binaryFn (f : Nat) (a b : Word) : Word :=
  if f = 1 then fAdd a b else if f = 2 then fSub a b else if f = 3 then fMul a b else if f = 4 then fMax a b else fMin a b

def unaryFn (f : Nat) (a : Word) : Word :=
  if f = 6 then znExp2 a else if f = 7 then znLog a else if f = 8 then znRecip a else if f = 9 then znRsqrt a else silu a

/-- The element of an input that serves an output index: index 0 along a dimension of extent 1 (R615). -/
def broadcastAt (dims idx : List Nat) : Nat := flatOf dims ((dims.zip idx).map fun (d, i) => if d = 1 then 0 else i)

def elementwiseRes (x : StepDecl) (a : TVal) (b : Option TVal) (dims : List Nat) : List Res :=
  let f := (x.intAttr 0x0006 0).toNat
  (List.range dims.prod).map fun n =>
    let o := tupleOf dims n
    let u := a.fp (broadcastAt a.dims o)
    match b with
    | some t => .val (fVal (binaryFn f u (t.fp (broadcastAt t.dims o))))
    | none => .val (fVal (unaryFn f u))

/-! ### REDUCE, SOFTMAX and NORM (R122, R156, R160, R163) -/

def reduceStep (exact : Bool) (p : Plan) (part : Share) (x : StepDecl) (a : TVal) (dims : List Nat) : List Res :=
  let d := x.reduceDim a.dims.length
  (List.range dims.prod).map fun n =>
    let idx := axisLine a.dims d (tupleOf dims n)
    let terms := inPart part (idx.map a.val)
    if x.sub = 1 then partRes exact (fmtIsInt a.fmt) p (a.ceil idx) terms
    else match (terms.filter (·.1)).map (·.2) with
      | [] => .val (.fin false 0 0)
      | v :: rest => .val (rest.foldl (if x.sub = 2 then Val.max else Val.min) v)

/-- Results computed row by row along dimension `d`, in row-major order: `f` has the row's element numbers. -/
def byRows (dims : List Nat) (d : Nat) (f : List Nat → List Word) : List Res :=
  let outer := dims.eraseIdx d
  let rows := (List.range outer.prod).map fun n => f (axisLine dims d (tupleOf outer n))
  (List.range dims.prod).map fun n =>
    let i := tupleOf dims n
    .val (fVal ((rows.getD (flatOf outer (i.eraseIdx d)) []).getD (i.getD d 0) 0))

def softmaxRow (a : TVal) (idx : List Nat) : List Word := (rowStats (idx.map fun i => (a.fp i, true))).p

/-- 1/n rounded to FP32: enough bits of the quotient, the lowest of them sticky (R163). -/
def fRecipNat (n : Nat) : Word :=
  let s := 64 + Nat.log2 n
  let q := 2 ^ s / n
  fRn (.fin false (if 2 ^ s % n = 0 then q else q ||| 1) (-(s : Int)))

/-- rn of a sum in the long accumulator with the given ceiling. -/
def longSum (ceiling : Option Int) (vs : List Val) : Word := fRn (reduceRes true false onePlan ceiling vs).value

/-- R163; `gain` and `bias` are the optional inputs: their row-major element i, and 0 beyond their end, for no rule gives
or checks their extents (DESIGN CHOICE, log 128). -/
def normRow (sub : Nat) (eps : Word) (gain bias : Option (List Word)) (ceiling : Option Int) (xs : List Word) : List Word :=
  let rn := fRecipNat xs.length
  let twice (c : Option Int) := c.map (2 * ·)
  let squares (ws : List Word) := ws.map fun w => (fVal w).mul (fVal w)
  let centred :=
    if sub = 1 then xs
    else
      let mu := fMul (longSum ceiling (xs.map fVal)) rn
      xs.map fun v => fSub v mu
  let c := if sub = 1 then ceiling else maxCeiling (centred.map fVal)
  let w := fMul (longSum (twice c) (squares centred)) rn
  let r := znRsqrt (fAdd w eps)
  (List.range xs.length).map fun i =>
    let y := fMul (centred.getD i 0) r
    let y := match gain with | some g => fMul y (g.getD i 0) | none => y
    match bias with | some b => fAdd y (b.getD i 0) | none => y

def normRes (x : StepDecl) (a : TVal) (gain bias : Option TVal) : List Res :=
  let words (t : Option TVal) : Option (List Word) := t.map fun t => (List.range t.count).map t.fp
  byRows a.dims (x.reduceDim a.dims.length) fun idx =>
    normRow x.sub (x.fpAttr 0x000C 0) (words gain) (words bias) (a.ceil idx) (idx.map a.fp)

/-! ### Attention (R160 to R162, R377, R406) -/

/-- One key or value vector of a row: its elements, and the ceiling of each (of its block, for a Microscaling format). -/
structure KvVec where
  vals : List Val
  ceils : List (Option Int)
deriving DecidableEq, Repr

def KvVec.ceil (x : KvVec) : Option Int :=
  x.ceils.foldl (fun c d => match c, d with
    | none, d => d
    | c, none => c
    | some a, some b => some (max a b)) none

def TVal.vec (t : TVal) (idx : List Nat) : KvVec := { vals := idx.map t.val, ceils := idx.map fun i => t.ceil [i] }

/-- What a query row gives: M, L and the output before its format. -/
structure AttnRow where
  m : Word
  l : Word
  out : List Word
deriving DecidableEq, Repr

/-- A query vector: its elements, its ceiling, and whether they are integers. -/
structure QueryVec where
  vals : List Val
  ceil : Option Int
  ints : Bool
deriving DecidableEq, Repr

def TVal.query (t : TVal) (idx : List Nat) : QueryVec := { vals := idx.map t.val, ceil := t.ceil idx, ints := fmtIsInt t.fmt }

/-- The scaled scores of a row, with the keys that are live (R153, R161). -/
def scoreRow (exact : Bool) (p : Plan) (scale : Word) (q : QueryVec) (rows : List (KvVec × Bool)) : List (Word × Bool) :=
  rows.map fun (k, live) =>
    (fMul (fRn (reduceRes exact q.ints p (ceilSum q.ceil k.ceil) (List.zipWith Val.mul q.vals k.vals)).value) scale, live)

/-- One query row over its keys and values (R160, R161). `d` is the value width. -/
def attnRow (exact : Bool) (p : Plan) (scale : Word) (d : Nat) (q : QueryVec) (rows : List (KvVec × KvVec × Bool)) :
    AttnRow :=
  let xs := scoreRow exact p scale q (rows.map fun (k, _, live) => (k, live))
  let s := rowStats xs
  if fIsNan s.m then { m := s.m, l := s.l, out := List.replicate d qnan }
  else if s.l = 0 then { m := s.m, l := s.l, out := List.replicate d 0 }
  else
    let r := znRecip s.l
    let g := anchorG rows.length
    let channel (c : Nat) : Word :=
      let terms := (List.zip s.e rows).map fun (e, _, v, live) => (live, (fVal e).mul (v.vals.getD c (.fin false 0 0)))
      let cv := ((rows.filter fun (_, _, live) => live).map fun (_, v, _) => v.ceils.getD c none)
      let v :=
        if exact then
          let a : Int := 1 + ((KvVec.ceil { vals := [], ceils := cv }).getD 0) + g
          accVal a (accSum a ((terms.filter (·.1)).map (·.2)))
        else fVal (planSum p (keptGroups terms))
      fMul (fRn v) r
    { m := s.m, l := s.l, out := (List.range d).map channel }

/-- A row saved without a live key above −∞: M is −∞ and L is +0 (R160, R406). -/
def deadRow (m l : Word) : Bool := decide (fVal m = .inf true) && decide (l = 0)

/-- The p_i that ATTN_BWD forms again from saved statistics, by steps 4 to 6 of R160; +0 in a dead row, as the forward
pass gave them (R162). -/
def savedWeights (m l : Word) (xs : List (Word × Bool)) : List Word :=
  xs.map fun (x, live) =>
    if deadRow m l then 0 else fMul (if live then znExp2 (fMul (fSub x m) fLog2e) else 0) (znRecip l)

/-- Keys that the query row with index tuple `o` sees, along the rows of `k` (log 105). -/
def seenKeys (x : StepDecl) (k : TVal) (o : List Nat) : List (List Nat × Bool) :=
  let r := k.dims.length
  (List.range (k.dims.getD (r - 2) 0)).map fun j =>
    (o.take (r - 2) ++ [j], x.intAttr 0x0005 0 ≠ 1 || decide (j ≤ o.getD (r - 2) 0))

/-- ATTN_FWD: queries {…, Nq, D}, keys {…, Nk, D}, values {…, Nk, Dv}; under CAUSAL query i sees the keys up to i
(log 105). One result for each query row, in row-major order. -/
def attnFwd (exact : Bool) (p : Plan) (x : StepDecl) (q k v : TVal) : List AttnRow :=
  let r := q.dims.length
  let outer := q.dims.take (r - 1)
  (List.range outer.prod).map fun n =>
    let o := tupleOf outer n
    let qi := axisLine q.dims (r - 1) o
    let rows := (seenKeys x k o).map fun (at_, live) =>
      (k.vec (axisLine k.dims (r - 1) at_), v.vec (axisLine v.dims (r - 1) at_), live)
    attnRow exact p (x.fpAttr 0x0004 fOne) (v.dims.getD (r - 1) 0) (q.query qi) rows

/-- The weights of every query row, formed again from its saved M and L (R162). -/
def backWeights (exact : Bool) (p : Plan) (x : StepDecl) (q k m l : TVal) : List (List Word) :=
  let r := q.dims.length
  let outer := q.dims.take (r - 1)
  (List.range outer.prod).map fun n =>
    let o := tupleOf outer n
    let xs := scoreRow exact p (x.fpAttr 0x0004 fOne) (q.query (axisLine q.dims (r - 1) o))
      ((seenKeys x k o).map fun (at_, live) => (k.vec (axisLine k.dims (r - 1) at_), live))
    savedWeights (m.fp n) (l.fp n) xs

/-- Output `out` of an ATTN_BWD over queries, keys, values, the output's gradient, M and L: the gradient of the queries
where it has one output, of the keys and the values where it has two (log 105). A dead row's gradients are zero (R406);
the other elements are free values. -/
def attnBwd (exact : Bool) (p : Plan) (x : StepDecl) (ins : List TVal) (out : Nat) (dims : List Nat) : List Res :=
  let q := ins.getD 0 {}
  let m := ins.getD 4 {}
  let l := ins.getD 5 {}
  let ws := backWeights exact p x q (ins.getD 1 {}) m l
  let nq := q.dims.getD (q.dims.length - 2) 1
  let dead (n : Nat) : Bool := ins.length == 6 && deadRow (m.fp n) (l.fp n)
  (List.range dims.prod).map fun n =>
    let row := n / dims.getLastD 1
    let zero :=
      if x.nout = 1 then dead row
      else (List.range nq).all fun i => dead (row / dims.getD (dims.length - 2) 1 * nq + i)
    .val (if zero then .fin false 0 0 else fVal (Config.gradient ws (ins.map (·.codes)) out n))

/-! ### Data movement (R127 to R131, R615, R619) -/

/-- A plane of a tensor moved by an index list along dimension `d`; out of range gives zeros (R130, R615). -/
def gatherPlane (dims : List Nat) (d : Nat) (idx : List Int) (xs : List Nat) : List Nat :=
  let out := dims.set d idx.length
  (List.range out.prod).map fun n =>
    let o := tupleOf out n
    match inRange (idx.getD (o.getD d 0) 0) (dims.getD d 0) with
    | some i => xs.getD (flatOf dims (o.set d i)) 0
    | none => 0

/-- Slices of `src` applied to a plane in index order with a combining function of the old value and the new
ones in index order (R131). -/
def scatterPlane (dims : List Nat) (d : Nat) (idx : List Int) (f : Nat → List Nat → Nat) (src : List Nat) (dst : List Nat) :
    List Nat :=
  let sd := dims.set d idx.length
  (List.range dims.prod).map fun n =>
    let o := tupleOf dims n
    f (dst.getD n 0) ((List.range idx.length).filterMap fun j =>
      if inRange (idx.getD j 0) (dims.getD d 0) = some (o.getD d 0) then some (src.getD (flatOf sd (o.set d j)) 0) else none)

/-- Extents of a tensor's scale plane. -/
def scaleDims (dims : List Nat) : List Nat := dims.dropLast ++ [dims.getLastD 0 / 32]

def TVal.indices (t : TVal) : List Int := t.codes.map (signedOf 32)

def gatherStep (x : StepDecl) (a i : TVal) : TVal :=
  let d := x.indexDim
  { fmt := a.fmt, dims := a.dims.set d i.indices.length, codes := gatherPlane a.dims d i.indices a.codes,
    scales := if fmtIsMx a.fmt then gatherPlane (scaleDims a.dims) d i.indices a.scales else [] }

def scatterStep (x : StepDecl) (a i o : TVal) : TVal :=
  let d := x.indexDim
  let last (old : Nat) (xs : List Nat) : Nat := xs.getLastD old
  let f := if x.intAttr 0x0009 0 = 1 then accumulate o.fmt else last
  { o with
    codes := scatterPlane o.dims d i.indices f a.codes o.codes
    scales := if fmtIsMx o.fmt then scatterPlane (scaleDims o.dims) d i.indices last a.scales o.scales else o.scales }

def permutePlane (dims perm : List Nat) (xs : List Nat) : List Nat :=
  let out := perm.map fun k => dims.getD k 0
  (List.range out.prod).map fun n => xs.getD (flatOf dims (permuted perm (tupleOf out n))) 0

def relayoutStep (x : StepDecl) (a : TVal) : TVal :=
  { fmt := a.fmt, dims := x.perm.map fun k => a.dims.getD k 0, codes := permutePlane a.dims x.perm a.codes,
    scales := if fmtIsMx a.fmt then permutePlane (scaleDims a.dims) x.perm a.scales else [] }

/-- FILL (R38): TYPE 1 into EXACT80 is S itself. -/
def fillRes (x : StepDecl) : Res := match x.attr 0x0012 with
  | some r =>
    if r.typ = 1 then .sum windowAnchor (.fin (r.int 0)) else .val (fVal (BitVec.ofNat 32 (r.low 0)))
  | none => .val (.fin false 0 0)

/-- The value of a TYPE 1 constant for a destination other than EXACT80: the integer itself. -/
def fillStep (x : StepDecl) (fmt : Nat) (dims : List Nat) : TVal :=
  let r := match fillRes x with
    | .sum _ (.fin n) => if fmt = codeExact80 then .sum windowAnchor (.fin n) else .val (.fin (decide (n < 0)) n.natAbs 0)
    | r => r
  TVal.of fmt dims .rne (List.replicate dims.prod r)

/-- CONVERT (R145, R146, R619). -/
def convertStep (x : StepDecl) (a : TVal) (fmt : Nat) : TVal :=
  TVal.of fmt a.dims ((rndOf (x.intAttr 0x000A 0).toNat).getD .rne) (a.vals.map .val)

/-! ### SAMPLE (R369) -/

/-- Ranges of R341 that the parameters of a row must keep. -/
def SampleParams.ok (p : SampleParams) : Bool :=
  let finite (w : Word) := (fVal w).isFin
  decide (p.topK ≤ 1024) && (fEq p.temp 0 || (finite p.temp && fLt 0 p.temp)) && fLt 0 p.topP && !fLt fOne p.topP &&
    finite p.repPen && fLt 0 p.repPen && finite p.freqPen && finite p.presPen

/-- One row's token: −1 where every logit is −∞, −2 for parameters out of range, −3 where VALID is clear. -/
def sampleRow (ps : List Nat) (logits : List Word) (count : Nat → Nat) : Int :=
  let w (k : Nat) : Word := BitVec.ofNat 32 (ps.getD k 0)
  let p : SampleParams :=
    { seed := BitVec.ofNat 64 (ps.getD 0 0 + 2 ^ 32 * ps.getD 1 0), topK := ps.getD 3 0, temp := w 4, topP := w 5
      repPen := w 6, freqPen := w 7, presPen := w 8 }
  if ps.getD 9 0 % 2 = 0 then -3
  else if !p.ok then -2
  else match p.choose count logits (ps.getD 2 0) with
    | some t => (t : Int)
    | none => -1

def sampleStep (l p : TVal) (c : Option TVal) : TVal :=
  let rows := l.dims.getD 0 0
  let v := l.dims.getD 1 0
  { fmt := 0x0B, dims := [rows], scales := [],
    codes := (List.range rows).map fun r =>
      (sampleRow ((p.codes.drop (32 * r)).take 32) ((List.range v).map fun i => BitVec.ofNat 32 (l.codes.getD (r * v + i) 0))
        (fun i => match c with | some t => t.codes.getD (r * v + i) 0 | none => 0) % (2 ^ 32 : Nat)).toNat }

/-! ### UPDATE (R164 to R166) -/

/-- SGD for one element: the new p and u. -/
def sgdElem (lr wd momentum p g u : Word) : Word × Word :=
  let u := if fEq momentum 0 then u else fFma momentum u g
  let d := if fEq momentum 0 then g else u
  (fFma (fNeg lr) (fFma wd p d) p, u)

/-- AdamW for one element: the new p, m and v. -/
def adamwElem (lr wd bc1 bc2 beta1 beta2 eps p g m v : Word) : Word × Word × Word :=
  let m1 := fFma beta1 m (fMul (fSub fOne beta1) g)
  let v1 := fFma beta2 v (fMul (fSub fOne beta2) (fMul g g))
  let mh := fMul m1 bc1
  let vh := fMul v1 bc2
  let sq := if fEq vh 0 then 0 else fMul vh (znRsqrt vh)
  let q := znRecip (fAdd sq eps)
  (fFma (fNeg lr) (fFma mh q (fMul wd p)) p, m1, v1)

/-- The new parameter, and the new momentum or moments. -/
def updateStep (x : StepDecl) (p g c : TVal) (u : Option TVal) : TVal × Option TVal :=
  let n := p.count
  let w (ws : List Word) : List Res := ws.map fun y => .val (fVal y)
  let st (i : Nat) : Word := match u with | some t => t.fp i | none => 0
  if x.sub = 1 then
    let rs := (List.range n).map fun i => sgdElem (c.fp 0) (c.fp 1) (x.fpAttr 0x000F 0) (p.fp i) (g.fp i) (st i)
    (TVal.of p.fmt p.dims .rne (w (rs.map (·.1))), u.map fun t => TVal.of 0x0A t.dims .rne (w (rs.map (·.2))))
  else
    let rs := (List.range n).map fun i =>
      adamwElem (c.fp 0) (c.fp 1) (c.fp 2) (c.fp 3) (x.fpAttr 0x0010 0) (x.fpAttr 0x0011 0) (x.fpAttr 0x000C 0) (p.fp i) (g.fp i)
        (st i) (st (n + i))
    (TVal.of p.fmt p.dims .rne (w (rs.map (·.1))),
     u.map fun t => TVal.of 0x0A t.dims .rne (w (rs.map (·.2.1) ++ rs.map (·.2.2))))

/-! ### Cache steps (R376, R377) -/

/-- A request of the step: its first token slot and what the length table says (R359), and its draft tree. -/
structure BatchReq where
  entry : Nat
  slot : Nat
  tokens : Nat
  position : Nat
  /-- TREE: the nodes 1 to N (R392) -/
  tree : Option (List DraftNode)
deriving DecidableEq, Repr

/-- Where a vector of srv.kv stands: request, layer, 0 key or 1 value, head, physical position. -/
structure KvKey where
  entry : Nat
  layer : Nat
  half : Nat
  head : Nat
  pos : Nat
deriving DecidableEq, Repr

/-- Contents of srv.kv by vector, newest first: the element codes and scale bytes. -/
abbrev KvStore := List (KvKey × List Nat × List Nat)

/-- KV_APPEND (R376): slot j of a request goes to physical position POSITION + j, the root and the nodes of a tree
included (R394). -/
def kvAppend (x : StepDecl) (kvFmt : Nat) (keys values : TVal) (batch : List BatchReq) (kv : KvStore) : KvStore :=
  let layer := (x.intAttr 0x000E 0).toNat
  let cell (t : TVal) (half : Nat) (b : BatchReq) (j h : Nat) : KvKey × List Nat × List Nat :=
    let v := TVal.of kvFmt [t.dims.getD 2 0] .rne ((axisLine t.dims 2 [b.slot + j, h]).map fun i => .val (t.val i))
    ({ entry := b.entry, layer := layer, half := half, head := h, pos := b.position + j }, v.codes, v.scales)
  (batch.flatMap fun b => (List.range b.tokens).flatMap fun j => (List.range (keys.dims.getD 1 0)).flatMap fun h =>
    [cell keys 0 b j h, cell values 1 b j h]) ++ kv

/-- A node and its ancestors below the root. -/
def draftPath (nodes : List DraftNode) : Nat → Nat → List Nat
  | 0, _ => []
  | fuel + 1, i => if i = 0 then [] else i :: draftPath nodes fuel (match nodes[i - 1]? with | some d => d.parent | none => 0)

/-- Whether token slot `j` of a request sees the physical position `q` (R377, R394, R395). -/
def BatchReq.sees (b : BatchReq) (j q : Nat) : Bool := match b.tree with
  | none => decide (q ≤ b.position + j)
  | some nodes => decide (q ≤ b.position) || (draftPath nodes nodes.length j).contains (q - b.position)

/-- A number that tells a vector of srv.kv from every other, within the extents of R371 and R372. -/
def KvKey.number (k : KvKey) : Nat := (((k.pos * 2 + k.half) * 2 ^ 32 + k.layer) * 2 ^ 32 + k.head) * 4096

/-- A vector of the cache; one that was never written holds free values of its own (R616). -/
def kvVec (kvFmt d : Nat) (kv : KvStore) (k : KvKey) : KvVec :=
  let t : TVal := match kv.find? fun c => c.1 == k with
    | some (_, codes, scales) => { fmt := kvFmt, dims := [d], codes := codes, scales := scales }
    | none => { fmt := kvFmt, dims := [d],
                codes := (List.range d).map fun i => (Config.freeAt k.entry (k.number + i) (fmtWidth kvFmt)).toNat
                scales := (List.range (d / 32)).map fun i => (Config.freeAt k.entry (k.number + 2048 + i) 8).toNat }
  t.vec (List.range d)

/-- ATTN_DECODE (R377): the counted slots of `old` receive their rows. -/
def attnDecode (exact : Bool) (p : Plan) (x : StepDecl) (kvFmt kvh : Nat) (q : TVal) (batch : List BatchReq) (kv : KvStore)
    (old : TVal) : TVal :=
  let layer := (x.intAttr 0x000E 0).toNat
  let qh := q.dims.getD 1 0
  let d := q.dims.getD 2 0
  let f := (fmtOf old.fmt).getD fmtFp32
  let rows : List (Nat × List Nat) := batch.flatMap fun b => (List.range b.tokens).flatMap fun j => (List.range qh).map fun h =>
    let at_ (half pos : Nat) : KvKey := { entry := b.entry, layer := layer, half := half, head := h / (qh / kvh), pos := pos }
    let qi := axisLine q.dims 2 [b.slot + j, h]
    let ks := (List.range (b.position + b.tokens)).map fun pos => (kvVec kvFmt d kv (at_ 0 pos), kvVec kvFmt d kv (at_ 1 pos), b.sees j pos)
    ((b.slot + j) * qh + h,
      (attnRow exact p (x.fpAttr 0x0004 fOne) d (q.query qi) ks).out.map fun w => encodeVal f .rne (fVal w))
  { old with
    codes := (List.range old.count).map fun n => match rows.find? fun r => r.1 == n / d with
      | some (_, codes) => codes.getD (n % d) 0
      | none => old.codes.getD n 0 }

end Sys2Proof.Machine
end

