-- ==== Sys2Proof/Machine/Programs.lean ====
section
/-! DEFINITION. What a Sheveond program computes on the devices of its swarm (R12, R13, R36, R39, R40, R46, R47, R152,
R335, R434, R616): its steps in table order on every device, and the exchanges between them. The loader and the settled
schedule are no commands; these functions say what they must bring about. -/

namespace Sys2Proof.Machine

/-! ### One device -/

/-- A run of a program on one device. Every tensor is kept at its whole extents; of a split tensor the device's own slice
is what it holds, and the rest is read from the devices that hold it. -/
structure Run where
  exact : Bool
  /-- tensors, whose initial contents are what was bound, loaded or left in their storage (R616) -/
  tensors : Tab TVal
  /-- what a step formed for a tensor before rounding it: in the mode, and as exact sums (R152, R434) -/
  parts : Tab (List Res)
  sums : Tab (List Res)
  /-- the inputs that are split: the dimension, this device's place on the axis, and the axis's size -/
  splits : Tab (Nat × Nat × Nat)
  /-- tensors with a row for each token slot (R335) -/
  slotRows : List Nat
  batch : List BatchReq
  kv : KvStore
deriving DecidableEq, Repr

/-- Token slots that the length table counts (R335, R359). -/
def Run.counted (e : Run) : Nat := e.batch.foldl (fun m b => max m (b.slot + b.tokens)) 0

/-- Elements of a tensor that stand in counted token slots; all of them where it has no such rows. -/
def Run.countedElems (e : Run) (i : Nat) (t : TVal) : Nat :=
  if e.slotRows.contains i then e.counted * t.dims.tail.prod else t.count

/-- A tensor as a step reads it: uncounted token slots are not read (R335). -/
def Run.tensor (e : Run) (i : Nat) : TVal :=
  let t := tabGet {} e.tensors i
  let n := e.countedElems i t
  { t with codes := t.codes.take n ++ List.replicate (t.codes.length - n) 0
           scales := t.scales.take (n / 32) ++ List.replicate (t.scales.length - n / 32) 0 }

/-- A tensor written by a step: uncounted token slots are not written (R335). -/
def Run.put (e : Run) (i : Nat) (t : TVal) : Run :=
  let n := e.countedElems i t
  let old := tabGet {} e.tensors i
  { e with
    tensors := tabPut i { t with codes := t.codes.take n ++ old.codes.drop n, scales := t.scales.take (n / 32) ++ old.scales.drop (n / 32) }
      e.tensors
    parts := tabErase i e.parts, sums := tabErase i e.sums }

/-- A tensor written from results, with the exact sums that stand behind them. -/
def Run.putSums (e : Run) (i : Nat) (xs ss : List Res) : Run :=
  let t := tabGet {} e.tensors i
  let e := e.put i (TVal.of t.fmt t.dims .rne xs)
  { e with parts := tabPut i xs e.parts, sums := tabPut i ss e.sums }

def Run.putRes (e : Run) (i : Nat) (xs : List Res) : Run := e.putSums i xs xs

/-- Elements that the spec leaves open. -/
def Run.putFree (e : Run) (draw i : Nat) : Run :=
  let t := tabGet {} e.tensors i
  let code (k : Nat) : Nat := (Config.freeAt draw (2 * k) (fmtWidth t.fmt)).toNat
  let scale (k : Nat) : Nat := (Config.freeAt draw (2 * k + 1) 8).toNat
  e.put i { t with codes := (List.range t.count).map code,
                   scales := if fmtIsMx t.fmt then (List.range (t.count / 32)).map scale else [] }

/-- The indices of dimension `d` of a tensor that this device holds (R31). -/
def Run.share (e : Run) (i d size : Nat) : Option Share := match tabFind e.splits i with
  | some (k, pos, n) => if k = d then some (pos * (size / n), size / n) else none
  | none => none

/-- The part of a reduction that this device forms: the indices that its slice of an operand holds (R148, R152). -/
def Run.part (e : Run) (size : Nat) (operands : List (Nat × Nat)) : Share :=
  (operands.findSome? fun (i, d) => e.share i d size).getD (0, size)

/-- One step (R36). -/
def Run.step (p : Plan) (x : StepDecl) (e : Run) : Run :=
  let ia := (x.inp 0).getD noId
  let ib := (x.inp 1).getD noId
  let a := ((x.inp 0).map e.tensor).getD {}
  let b := (x.inp 1).map e.tensor
  let c := (x.inp 2).map e.tensor
  let bb := b.getD {}
  match x.out 0 with
  | none => e
  | some o =>
    let t := tabGet {} e.tensors o
    let r := a.dims.length
    if x.op = 0x01 ∨ x.op = 0x02 then
      let (ca, cb) := x.contract r
      let part := e.part (a.dims.getD ca.toNat 0) [(ia, ca.toNat), (ib, cb.toNat)]
      e.putSums o (matmulRes e.exact p part x a bb t.dims) (matmulRes true p part x a bb t.dims)
    else if x.op = 0x03 then
      let rows := attnFwd e.exact p x a bb (c.getD {})
      let e := e.putRes o (rows.flatMap fun r => r.out.map fun w => .val (fVal w))
      (match x.attr 0x000B with
        | none => e
        | some r => (e.putRes (r.low 0) (rows.map fun w => .val (fVal w.m))).putRes (r.low 1) (rows.map fun w => .val (fVal w.l)))
    else if x.op = 0x04 then e.put o (attnDecode e.exact p x bb.fmt (bb.dims.getD 2 1) a e.batch e.kv t)
    else if x.op = 0x05 then
      let ins := x.reads.map e.tensor
      (List.range 2).foldl (fun e k => match x.out k with
        | some i => e.putRes i (attnBwd e.exact p x ins k (tabGet {} e.tensors i).dims)
        | none => e) e
    else if x.op = 0x06 then e.putRes o (elementwiseRes x a b t.dims)
    else if x.op = 0x07 then
      let d := x.reduceDim r
      let part := e.part (a.dims.getD d 0) [(ia, d)]
      e.putSums o (reduceStep e.exact p part x a t.dims) (reduceStep true p part x a t.dims)
    else if x.op = 0x08 then e.putRes o (byRows a.dims (x.reduceDim r) (softmaxRow a))
    else if x.op = 0x09 then e.putRes o (normRes x a b c)
    else if x.op = 0x0A then e.put o (convertStep x a t.fmt)
    else if x.op = 0x0B then e.put o a
    else if x.op = 0x0C then e.put o (relayoutStep x a)
    else if x.op = 0x0D then e.put o (gatherStep x a bb)
    else if x.op = 0x0E then e.put o (scatterStep x a bb t)
    else if x.op = 0x0F then e.put o (fillStep x t.fmt t.dims)
    else if x.op = 0x10 then { e with kv := kvAppend x t.fmt a bb e.batch e.kv }
    else if x.op = 0x11 then e.put o (sampleStep a bb c)
    else if x.op = 0x12 then
      let (np, nu) := updateStep x a bb (c.getD {}) ((x.inp 3).map e.tensor)
      let e := e.put o np
      (match x.out 1, nu with
        | some i, some t => e.put i t
        | _, _ => e)
    else e

/-! ### The swarm -/

/-- A device of the swarm: its place on each logical axis, and its run. -/
structure Member where
  coords : List Nat
  run : Run
deriving DecidableEq, Repr

/-- The devices of a swarm in ascending FAB_POS, and the sizes of the logical axes (R14). -/
structure Mesh where
  sizes : List Nat
  members : List Member
deriving DecidableEq, Repr

/-- The devices that share a device's place on every axis outside a mask (R39). -/
def Mesh.group (m : Mesh) (axes : Nat) (a : Member) : List Member :=
  m.members.filter fun b => (List.range 3).all fun i => axes.testBit i || a.coords.getD i 0 == b.coords.getD i 0

/-- A tensor as a device's step reads it: each slice of a split tensor from the device that holds it (R14). -/
def Mesh.view (m : Mesh) (a : Member) (t : TensorDecl) : TVal :=
  let own := tabGet {} a.run.tensors t.id
  if t.isSplit then
    let g := m.group (2 ^ t.splitAxis) a
    let width := own.dims.getD t.splitDim 0 / m.sizes.getD t.splitAxis 1
    let held (n : Nat) : TVal :=
      match g.find? fun b => b.coords.getD t.splitAxis 0 == (tupleOf own.dims n).getD t.splitDim 0 / width with
      | some b => tabGet {} b.run.tensors t.id
      | none => own
    { own with
      codes := (List.range own.codes.length).map fun n => (held n).codes.getD n 0
      scales := (List.range own.scales.length).map fun n => (held (32 * n)).scales.getD n 0 }
  else own

/-- A device's run with the inputs of a step as it reads them. -/
def Mesh.ready (m : Mesh) (ts : List TensorDecl) (x : StepDecl) (a : Member) : Run :=
  (x.reads.filterMap (tensorNamed ts)).foldl (fun e t =>
    { e with
      tensors := tabPut t.id (m.view a t) e.tensors
      splits := if t.isSplit then tabPut t.id (t.splitDim, a.coords.getD t.splitAxis 0, m.sizes.getD t.splitAxis 1) e.splits
                else e.splits }) a.run

/-- A step on every device (R12). -/
def Mesh.step (m : Mesh) (p : Plan) (ts : List TensorDecl) (x : StepDecl) : Mesh :=
  { m with members := m.members.map fun a => { a with run := (m.ready ts x a).step p x } }

/-! ### Exchanges (R39, R40, R152, R434) -/

/-- Lists combined place by place, from the first on. -/
def combineLists {α : Type} (f : α → α → α) : List (List α) → List α
  | [] => []
  | x :: xs => xs.foldl (List.zipWith f) x

/-- Partial sums added without loss: as integers where all carry one anchor (R152, R153), else in the long accumulator
under the anchor of a plain sum. -/
def addExact (xs : List Res) : Res :=
  let anchors := xs.map fun x => match x with
    | .sum a _ => some a
    | .val _ => none
  match anchors with
  | some a :: rest =>
    if rest.all (· == some a) then
      .sum a (xs.foldl (fun s x => match x with
        | .sum _ v => accCombine s v
        | .val _ => s) (.fin 0))
    else reduceRes true false onePlan (maxCeiling (xs.map Res.value)) (xs.map Res.value)
  | _ => reduceRes true false onePlan (maxCeiling (xs.map Res.value)) (xs.map Res.value)

/-- What a device sends of a tensor: results before rounding, where the last to write it was a step that formed them. -/
def Run.sent (e : Run) (tab : Run → Tab (List Res)) (i : Nat) : List Res :=
  match tabFind (tab e) i with
  | some xs => xs
  | none => (tabGet {} e.tensors i).vals.map .val

/-- Each place of some lists of one length. -/
def placesOf {α : Type} (xss : List (List α)) : List (List α) :=
  (List.range ((xss.head?.map (·.length)).getD 0)).map fun n => xss.filterMap fun xs => xs[n]?

/-- One stage of a fast sum: every device adds the FP32 partials of its group in ascending FAB_POS (R434). -/
def Mesh.fastStage (m : Mesh) (axes : Nat) (parts : List (Member × List Word)) : List (Member × List Word) :=
  parts.map fun (a, _) =>
    let g := m.group axes a
    (a, combineLists fAdd ((parts.filter fun (b, _) => g.any fun c => c.coords == b.coords).map (·.2)))

/-- The stages of an exchange, each a mask of axes, in the order that the settled program fixes (R434). -/
abbrev Stages := ExchangeDecl → List Nat

/-- All axes at once. -/
def oneStage : Stages := fun x => [x.axes]

/-- What a reducing exchange gives a device (R39, R122, R152, R153, R434). -/
def Mesh.reduced (m : Mesh) (stages : Stages) (x : ExchangeDecl) (a : Member) : List Res :=
  let g := m.group x.axes a
  let src := tabGet {} a.run.tensors x.src
  if x.op = 1 then
    if x.exact ∨ fmtIsInt src.fmt then (placesOf (g.map fun b => b.run.sent Run.sums x.src)).map addExact
    else
      let start := m.members.map fun b => (b, (b.run.sent Run.parts x.src).map fun r => fRn r.value)
      match ((stages x).foldl (fun ps axes => m.fastStage axes ps) start).find? fun (b, _) => b.coords == a.coords with
      | some (_, ws) => ws.map fun w => .val (fVal w)
      | none => []
  else
    (combineLists (if x.op = 2 then Val.max else Val.min) (g.map fun b => (tabGet {} b.run.tensors x.src).vals)).map .val

/-- A tensor written from another of the same extents: in one format as it is, else converted with RNE. -/
def Run.copyIn (e : Run) (draw dst : Nat) (s : TVal) : Run :=
  let d := tabGet {} e.tensors dst
  if s.dims ≠ d.dims then e.putFree draw dst
  else if s.fmt = d.fmt then e.put dst s
  else e.put dst (TVal.of d.fmt d.dims .rne (s.vals.map .val))

/-- What an exchange leaves on one device (R13, R39). A reduction of a tensor that is split over the group's own axes, a
DST with other extents than SRC, and what the group's first device receives by "send to next" are open (log 108). -/
def Mesh.exchangeAt (m : Mesh) (stages : Stages) (ts : List TensorDecl) (x : ExchangeDecl) (a : Member) : Run :=
  match tensorNamed ts x.src with
  | none => a.run
  | some t =>
    let g := m.group x.axes a
    let ofMember (b : Option Member) : Run := match b with
      | some b => a.run.copyIn x.id x.dst (m.view b t)
      | none => a.run.putFree x.id x.dst
    if x.kind = 1 ∨ x.kind = 2 then
      if (t.isSplit ∧ x.axes.testBit t.splitAxis) ∨ t.dims ≠ (tabGet {} a.run.tensors x.dst).dims then a.run.putFree x.id x.dst
      else a.run.putRes x.dst (m.reduced stages x a)
    else if x.kind = 5 then ofMember g.head?
    else if x.kind = 6 then
      ofMember (match g.findIdx? fun b => b.coords == a.coords with
        | some (k + 1) => g[k]?
        | _ => none)
    else ofMember (some a)

/-- One exchange: every device of the group takes part (R13). -/
def Mesh.exchange (m : Mesh) (stages : Stages) (ts : List TensorDecl) (x : ExchangeDecl) : Mesh :=
  { m with members := m.members.map fun a => { a with run := m.exchangeAt stages ts x a } }

/-! ### Programs and jobs -/

/-- What the settled program fixes of a fast sum: each step's order, and each exchange's stages (R155, R434). -/
structure Settled where
  plan : Nat → Plan
  stages : Stages

/-- A program's steps in table order, each followed by its exchanges (R12, R13). -/
def Mesh.program (z : Settled) (ts : List TensorDecl) (xs : List ExchangeDecl) (steps : List StepDecl) (m : Mesh) : Mesh :=
  steps.foldl (fun m y => (xs.filter fun x => x.after == y.id).foldl (fun m x => m.exchange z.stages ts x)
    (m.step (z.plan y.id) ts y)) m

/-- Tensors of a serving image with a row for each token slot: activations, inputs and outputs whose outermost extent is
TOKENS_MAX, the engine's other tables apart (R334, R335; log 108). -/
def slotRowsOf (img : List Byte) : List Nat :=
  match imageServing img, srvTensor img .tokens with
  | true, some tok =>
    let others := [SrvTensor.lengths, .sampleIdx, .logits].filterMap (srvTensor img)
    ((tensorDecls img).filter fun t => [0, 2, 3].contains t.kind && t.dims.head? == tok.dims.head? &&
      !others.any fun u => u.id == t.id).map (·.id)
  | _, _ => []

/-- What a job's image computes from the tensors bound and loaded (R12, R36). -/
def runImage (z : Settled) (img : List Byte) (m : Mesh) : Mesh :=
  Mesh.program z (tensorDecls img) (exchangeDecls img) (stepDecls img)
    { m with members := m.members.map fun a =>
        { a with run := { a.run with exact := imageExact img, slotRows := slotRowsOf img, parts := [], sums := [] } } }

/-- A device's tensors as the next job of the program finds them: parameters and state as the last job left them (R46,
R47), and what the job binds. -/
def Run.bind (e : Run) (bound : Tab TVal) : Run :=
  { e with tensors := bound.foldl (fun t (i, v) => tabPut i v t) e.tensors }

/-- Jobs of one program, one after the other; each is given what every device binds for it. -/
def runJobs (z : Settled) (img : List Byte) : List (List (Tab TVal)) → Mesh → List Mesh
  | [], _ => []
  | b :: bs, m =>
    let m1 := runImage z img { m with members := List.zipWith (fun a t => { a with run := a.run.bind t }) m.members b }
    m1 :: runJobs z img bs m1

end Sys2Proof.Machine
end

