-- ==== Sys2Proof/Safety.lean ====
section
/-! DEFINITION. What counts as a safe state and a safe run, and the words in which the claims speak: what a command
leaves unchanged, and how a descriptor ends. -/

namespace Sys2Proof.Machine

/-- Stack memory has its canonical form. -/
def State.memOk (s : State) : Prop := s.mem.wf = true

/-- No command is under way: what one is told of the stacks, and whether it had to wait, is over with it (log 110). -/
def State.quiet (s : State) : Prop := s.errs = [] ∧ s.blocked = false

/-- The device runs, its stack memory has its canonical form, and no command is under way. -/
def State.live (s : State) : Prop := s.running = true ∧ s.mem.wf = true ∧ s.quiet

/-- A state that a run reaches in `n` steps. -/
def State.reaches : Nat → State → State → Prop
  | 0, s, t => s = t
  | n + 1, s, t => ∃ u, step s = .next u ∧ State.reaches n u t

/-- A run never stops on a fault or a refusal. -/
def State.safeFor : Nat → State → Prop
  | 0, _ => True
  | n + 1, s => ∃ u, step s = .next u ∧ State.safeFor n u

/-- The state with what a command is told that its reads of the stacks find. -/
def State.told (s : State) (errs : Errs) : State := { s with errs := errs }

/-- A command answers this next state. -/
def Runs (c : Instr) (s t : State) : Prop := exec c s = .next t

/-! ### Frames -/

/-- Every byte of stack memory, every mark and the bias of every page are as before. -/
def SameMemory (s t : State) : Prop :=
  (∀ a, t.mem.byte a = s.mem.byte a) ∧ t.mem.marked = s.mem.marked ∧ t.mem.bias = s.mem.bias

/-- Nothing but the vats and the count of draws differs, and of the vats only `v`. -/
def OnlyVat (v : Nat) (s t : State) : Prop :=
  t = { s with vats := t.vats, freshCount := t.freshCount } ∧ ∀ w, w ≠ v → t.vat w = s.vat w

/-- Nothing but the rings, the completed descriptors and the order of acceptance differs, and of the rings only ring `r`
of VF `n + 1`. -/
def OnlyRing (n r : Nat) (s t : State) : Prop :=
  t = { s with vfs := t.vfs, done := t.done, stamp := t.stamp } ∧ (∀ m, m ≠ n → t.vf m = s.vf m) ∧
    ∀ q, q ≠ r → t.ring n q = s.ring n q

/-- Nothing but the event controller, pending interrupt bits and the outputs. -/
def EvcOnly (s t : State) : Prop := ∃ e m o, t = { s with evc := e, msix := m, out := o }

/-- Nothing but the error log, the event controller, pending interrupt bits and the outputs. -/
def LogOnly (s t : State) : Prop := ∃ l e m o, t = { s with err := l, evc := e, msix := m, out := o }

/-- Nothing but stack memory, the stacks' registers, what an error's count raises, the count of draws, and whether the
command has to wait. -/
def StackOnly (s t : State) : Prop :=
  ∃ m x l e i o d b, t = { s with mem := m, stks := x, err := l, evc := e, msix := i, out := o, freshCount := d, blocked := b }

/-- Nothing but the fabric ports and the outputs. -/
def PortOnly (s t : State) : Prop := ∃ p o, t = { s with ports := p, out := o }

/-- Nothing but the rings, the completed descriptors and the order of acceptance. -/
def RingOnly (s t : State) : Prop := ∃ v d k, t = { s with vfs := v, done := d, stamp := k }

/-- A record is written, with what it raises, and nothing else happens. -/
def Logged (i : ErrInfo) (s t : State) : Prop := ∃ e m o, t = { s with err := s.recorded i, evc := e, msix := m, out := o }

/-! ### Vats -/

/-- Of vat `v` only the scalar registers differ. -/
def OnlySregs (v : Nat) (s t : State) : Prop := OnlyVat v s t ∧ t.vat v = { s.vat v with sregs := (t.vat v).sregs }

/-- A scalar register after the post-increment of a PORT slot (R235). -/
def Vat.afterIncrement (x : Vat) (a : PortArgs) (r : Fin 32) : DWord :=
  if r = a.base ∧ r ≠ 0 ∧ x.sreg a.inc ≠ 0 then x.sreg a.base + x.sreg a.inc else x.sreg r

/-- A PORT row changed the arrays that AMASK names, as `f` says, and the base register, and nothing else. -/
def PortToArrays (v : Nat) (a : PortArgs) (f : ArrayUnit → ArrayUnit) (s t : State) : Prop :=
  OnlyVat v s t ∧ t.vat v = { s.vat v with arrays := (t.vat v).arrays, sregs := (t.vat v).sregs } ∧
    (∀ k, (t.vat v).array k = if k < 8 ∧ a.amask.getLsbD k = true then f ((s.vat v).array k) else (s.vat v).array k) ∧
    ∀ r, (t.vat v).sreg r = (s.vat v).afterIncrement a r

/-- A row changed the arrays of a mask, as `f` says of array `k`, and nothing else. -/
def ToArrays (v : Nat) (m : BitVec 8) (f : Nat → ArrayUnit → ArrayUnit) (s t : State) : Prop :=
  OnlyVat v s t ∧ t.vat v = { s.vat v with arrays := (t.vat v).arrays } ∧
    ∀ k, (t.vat v).array k = if k < 8 ∧ m.getLsbD k = true then f k ((s.vat v).array k) else (s.vat v).array k

/-- A row wrote one vector register, lane `l` becoming `f l`, and nothing else. -/
def ToLanes (v : Nat) (rd : Fin 32) (f : Nat → Word) (s t : State) : Prop :=
  OnlyVat v s t ∧ t.vat v = { s.vat v with vregs := (t.vat v).vregs } ∧
    (∀ r, r ≠ rd.val → (t.vat v).vreg r = (s.vat v).vreg r) ∧ ∀ l, l < 256 → lane ((t.vat v).vreg rd.val) l = f l

/-- The record of a fault of a vat's step names its job's partition, TAG and ring, none for a serving program (R505). -/
def stepInfo (s : State) (v : Nat) (i : ErrInfo) : ErrInfo :=
  { i with
    severity := 1, part := s.vatPart v,
    tag := (match s.jobOf v with | some j => j.tag | none => 0),
    ring := match s.jobOf v with | some j => if j.serving then ringNone else j.ring | none => ringNone }

/-- A vat's step has faulted: the record is written, a job ends, and without one the vat alone stops (R246). -/
def StepFaults (v : Nat) (i : ErrInfo) (s t : State) : Prop :=
  t.err = s.recorded (stepInfo s v i) ∧
    (∀ id, (s.vat v).job = some id → tabFind t.jobs id = none) ∧
    ((s.vat v).job = none → (t.vat v).run = .stopped)

/-- A vat has trapped (R246). -/
def Traps (v : Nat) (c : TrapCause) (slot : Option Nat) (imm : Word) (s t : State) : Prop :=
  StepFaults v { code := 0x0301, severity := 1, part := 0, path := c.path, unit := v, addrKind := 1,
                 addr := s.bundleOffset v (s.vat v).pc.toNat, detail0 := trapDetail c slot imm } s t

/-- A scratchpad read of a vat has met a parity mismatch (R202). -/
def ParityFaults (v path a : Nat) (s t : State) : Prop :=
  StepFaults v { code := 0x0302, severity := 1, part := 0, path := path, unit := v, addr := a } s t

/-- The vat becomes `y`, and nothing else differs. -/
def VatBecomes (v : Nat) (y : Vat) (s t : State) : Prop := OnlyVat v s t ∧ t.vat v = y

/-- Commands that only a running device obeys: all but the management, security and recovery requests, the pins and
REGISTER_WRITE, which have rules of their own outside that mode. -/
def needsRunning : Instr → Bool
  | .doeDiscovery _ => false
  | .cdatTableAccess _ => false
  | .getVersion _ => false
  | .getCapabilities _ => false
  | .negotiateAlgorithms _ => false
  | .getDigests _ => false
  | .getCertificate _ _ _ => false
  | .challenge _ _ => false
  | .getMeasurements _ _ _ _ => false
  | .keyExchange _ _ => false
  | .finish _ _ => false
  | .heartbeat _ => false
  | .keyUpdate _ => false
  | .endSession _ => false
  | .ideKmKeyProg _ _ _ _ => false
  | .keySetGo _ _ _ => false
  | .setEndpointId _ _ => false
  | .getSensorReading _ _ => false
  | .setNumericEffecterValue _ _ _ => false
  | .setEventReceiver _ _ => false
  | .requestUpdate _ => false
  | .verifyComplete _ => false
  | .applyComplete _ => false
  | .activateFirmware _ => false
  | .restoreFactory _ => false
  | .eventClaim _ => false
  | .eventComplete _ _ => false
  | .readError _ _ => false
  | .setSensorOffset _ _ _ => false
  | .secRcvGo => false
  | .recoveryUploadComplete _ _ _ => false
  | .registerWrite _ _ => false
  | .perstAssert => false
  | .perstRelease _ => false
  | .vinBrownout => false
  | .vinGood _ => false
  | .vauxLoss => false
  | .vauxGood _ => false
  | .refclkStable _ => false
  | .laserInputChange _ _ => false
  | .tapInstruction _ _ => false
  | _ => true

/-! ### Descriptors -/

/-- No FENCE of the VF has started. -/
def State.noFence (s : State) (n : Nat) : Prop :=
  ∀ x ∈ (s.vf n).rings, ∀ d ∈ x.2.descs, ∀ c k, d.state ≠ .fence c k

/-- A ring that can still take a record: one that is enabled, or that has free slots (R102). -/
def Ring.takes (g : Ring) : Prop := g.used.isNone = false ∧ (g.enable = true ∨ g.room ≠ 0)

/-- Ring `r` of VF `n + 1` holds descriptor `d` and can take its record: it is the one of its name, no FENCE has
started, and the partition's records are kept. -/
def Held (s : State) (n r : Nat) (d : Desc) : Prop :=
  (s.ring n r).find d.id = some d ∧ d.orphan = false ∧ (s.ring n r).takes ∧ s.noFence n ∧ (s.part n).discard = false

/-- Ring `r` of VF `n + 1` starts descriptor `d` next: it is the one of its name, no FENCE has started, and the
partition's records are kept. -/
def Starts (s : State) (n r : Nat) (d : Desc) : Prop :=
  s.startable n r = some d ∧ (s.ring n r).find d.id = some d ∧ d.orphan = false ∧ s.noFence n ∧
    (s.part n).discard = false

/-- A descriptor has left its ring, which owes its record: the ring is as before but for these. -/
def Ended (s t : State) (n r : Nat) (d : Desc) (e : Ending) : Prop :=
  t.ring n r =
    { s.ring n r with
      descs := (s.ring n r).descs.filter fun x => x.id != d.id,
      owed := (s.ring n r).owed ++
        (if descQuiet d.bits = true ∧ e.status = statusOk then [] else [endRecord d e]) }

/-- A command ends descriptor `d` of its ring, which owes the record, and does nothing else. -/
def Completes (c : Instr) (s : State) (n r : Nat) (d : Desc) (e : Ending) : Prop :=
  ∃ t, Runs c s t ∧ Ended s t n r d e ∧ OnlyRing n r s t

/-- A command ends descriptor `d` of its ring, which owes the record. -/
def Ends (c : Instr) (s : State) (n r : Nat) (d : Desc) (e : Ending) : Prop := ∃ t, Runs c s t ∧ Ended s t n r d e

/-- A descriptor's own fields are good: no reserved bit of it is set, and no field is out of range (R84). -/
def CleanDesc (d : Desc) (cs : Bits512 → List FieldCheck) : Prop :=
  firstBad (descBytes d) (headerChecks ++ cs d.bits) = none

/-- The status of a fault of a descriptor's own fields: it ends with the first offset that offends (R84). -/
def EndsBadField (c : Instr) (s : State) (n r : Nat) (d : Desc) (cs : Bits512 → List FieldCheck) : Prop :=
  ∀ off, firstBad (descBytes d) (headerChecks ++ cs d.bits) = some off →
    Completes c s n r d { status := statusBadDescriptor, detail := off }

/-- Ring `r` of VF `n + 1` starts copy descriptor `d` next, and every check of R117 passes: it does `o` into `dst`. -/
def CopyStarts (s : State) (n r : Nat) (d : Desc) (o : CopyOp) (dst : View) : Prop :=
  let op := descOpcode d.bits
  let ptrs := (copyPtrs op).all
  let own := firstBad (descBytes d) (headerChecks ++ copyChecks op d.bits)
  let read := (s.viewReads n d ptrs).1
  Starts s n r d ∧ read.fail = none ∧ read.recs.length = ptrs.length ∧ copyBad op d.bits own read.recs = none ∧
    copyOp op d.bits (fun p => ((read.recs.find? fun v => v.ptr == p).map fun v => viewOf v.bytes).getD
      { base := 0, scaleBase := 0, fmt := 0, extents := [], strides := [] }) = (o, dst) ∧
    copyStatus (s.part n) o dst = none

/-- Every copy descriptor of VF `n + 1` that has started holds a channel: none waits for one (R134). -/
def State.noCopyWaits (s : State) (n : Nat) : Prop := ∀ x ∈ s.copies n, x.2.2.channels ≠ []

/-- The ring after descriptor `d` has come to wait for `st`. -/
def Ring.waits (g : Ring) (d : Desc) (st : DescState) : Ring :=
  { g with descs := g.descs.map fun x => if x.id = d.id then { x with state := st } else x }

end Sys2Proof.Machine
end

