-- ==== Sys2Proof/Certificates/Slice0/Obligations.lean ====
section
/-! DEFINITION. The statements for the provers. Each names the rules of spec/ that it rests on; a reading that is the
model's choice names its log entry. -/

open Sys2Proof Sys2Proof.Machine

/-! ### The queue -/

/-- A step takes the command at the front of the queue and carries it out with the queue's rest. -/
def Obligations.StepRunsFrontCommand : Prop :=
  ∀ (s : State) (c : Instr) (rest : List Instr), s.pending = c :: rest →
    step s = exec c { s with pending := rest }

/-- On an empty queue one beat passes in a running device, and no job beat passes in a hold (R225, R429); the transfer
clock of a swarm slot counts the beat unless the slot is in a hold or a port sends again (R428). Any other device idles.
That an empty queue is a beat is the model's choice (log 1). -/
def Obligations.EmptyQueuePassesABeat : Prop :=
  ∀ s : State, s.pending = [] →
    (s.running = false → step s = .next s) ∧
    (s.running = true → ∃ t, step s = .next t ∧
      t = { s with tmb := { s.tmb with beat := (s.tmb.beat + 1) % 2 ^ 64, clocks := t.tmb.clocks }, jobs := t.jobs } ∧
      (∀ i, i < 16 → tabGet 0 t.tmb.clocks i =
        if s.replaying = true ∨ s.inHold i = true then tabGet 0 s.tmb.clocks i else tabGet 0 s.tmb.clocks i + 1) ∧
      ∀ id j, tabFind s.jobs id = some j →
        ((s.slot (s.part j.part).swarm.toNat).hold.isSome = true → tabFind t.jobs id = some j) ∧
        (s.inHold (s.part j.part).swarm.toNat = false → j.state = .running →
          (s.slot (s.part j.part).swarm.toNat).divisor = 1 → j.beatSub = 0 →
          tabFind t.jobs id = some { j with beat := j.beat + 1 }))

/-- Every command answers a next state, whatever the state it meets, and leaves the queue's rest as it was.

A command that only a running device obeys changes nothing in one that does not run: bundle slots, descriptors and
the commands of jobs, engines and ports. -/
def Obligations.CommandsAnswer : Prop :=
  (
  (∀ (c : Instr) (s : State), ∃ t, Runs c s t ∧ t.pending = s.pending) ∧ ∀ (n : Nat) (s : State), s.safeFor n) ∧
  (
  ∀ (s : State) (c : Instr), s.running = false → s.memOk → s.quiet → needsRunning c = true → Runs c s s)

/-- Every step keeps stack memory in its canonical form, so that equal memories are equal data; and no step leaves a
command under way, so that what one is told of the stacks touches that command alone. -/
def Obligations.StepKeepsMemoryCanonical : Prop :=
  ∀ s t : State, s.memOk → s.quiet → step s = .next t → t.memOk ∧ t.quiet

/-! ### The scalar slot (R234) -/

/-- Every scalar row writes its result to RD and changes nothing else; a write to s0 is discarded. -/
def Obligations.ScalarResults : Prop :=
  ∀ (s : State) (v : Fin 128) (rd ra rb : Fin 32) (imm : Half), s.live →
    let x := s.vat v
    let a := x.sreg ra
    let b := x.sreg rb
    let gives := fun (c : Instr) (w : DWord) =>
      ∃ t, Runs c s t ∧ OnlySregs v s t ∧ ∀ r, (t.vat v).sreg r = if r = 0 then 0 else if r = rd then w else x.sreg r
    gives (.add v rd ra rb) (a + b) ∧
    gives (.sub v rd ra rb) (a - b) ∧
    gives (.and v rd ra rb) (a &&& b) ∧
    gives (.or v rd ra rb) (a ||| b) ∧
    gives (.xor v rd ra rb) (a ^^^ b) ∧
    gives (.shl v rd ra rb) (a <<< (b.toNat % 64)) ∧
    gives (.shr v rd ra rb) (a >>> (b.toNat % 64)) ∧
    gives (.sra v rd ra rb) (a.sshiftRight (b.toNat % 64)) ∧
    gives (.mul v rd ra rb) (a * b) ∧
    gives (.slt v rd ra rb) (if a.toInt < b.toInt then 1 else 0) ∧
    gives (.addi v rd ra imm) (a + imm.signExtend 64) ∧
    gives (.shli16 v rd ra imm) ((a <<< 16) ||| imm.zeroExtend 64) ∧
    gives (.andi v rd ra imm) (a &&& imm.zeroExtend 64) ∧
    gives (.shli v rd ra imm) (a <<< (imm.toNat % 64)) ∧
    gives (.shri v rd ra imm) (a >>> (imm.toNat % 64)) ∧
    gives (.rdid v rd) (BitVec.ofNat 64 (v.val + s.vatIndex v % 128 * 2 ^ 16)) ∧
    (∀ j, s.jobOf v = some j → gives (.rdb v rd) (BitVec.ofNat 64 j.beat)) ∧
    (s.jobOf v = none → gives (.rdb v rd) 0) ∧
    (∀ l : LoopLevel, tabFind x.loops (imm.toNat / 4 % 4) = some l →
      gives (.rdl v rd imm) ((if imm.toNat % 4 = 0 then l.lc else if imm.toNat % 4 = 1 then l.li
        else if imm.toNat % 4 = 2 then l.ls else l.le).zeroExtend 64)) ∧
    (tabFind x.loops (imm.toNat / 4 % 4) = none → gives (.rdl v rd imm) 0)

/-! ### The CTL slot (R227 to R233) -/

/-- LOOP, in the order of its four rules (R229).

How a vat goes on: past a bundle that takes no branch the innermost loop repeats, or levels pop, innermost first;
a taken branch pops every level whose range does not hold its target, and keeps the others in their order (R229). -/
def Obligations.HardwareLoops : Prop :=
  (
  ∀ (s : State) (v : Fin 128) (ra : Fin 32) (imm : Word), s.live →
    let x := s.vat v
    let seq := x.pc.toNat + 12
    let count := field (x.sreg ra) 0 32
    (4 ≤ x.depth → ∃ t, Runs (.loop v ra imm) s t ∧ Traps v .loopDepth (some 0) 0 s t) ∧
    (x.depth < 4 → imm.toNat < seq → ∃ t, Runs (.loop v ra imm) s t ∧ Traps v .loopRange (some 0) 0 s t) ∧
    (x.depth < 4 → seq ≤ imm.toNat → count = 0 →
      ∃ t, Runs (.loop v ra imm) s t ∧
        VatBecomes v { x with pc := BitVec.ofNat 32 (seqAddr imm.toNat (s.headAt v imm.toNat)) } s t) ∧
    (x.depth < 4 → seq ≤ imm.toNat → count ≠ 0 →
      ∃ t, Runs (.loop v ra imm) s t ∧ OnlyVat v s t ∧ (t.vat v).depth = x.depth + 1 ∧
        (t.vat v).level = { lc := count, li := 0, ls := BitVec.ofNat 32 seq, le := imm } ∧
        (t.vat v).pc = BitVec.ofNat 32 seq ∧
        t.vat v = { x with depth := (t.vat v).depth, pc := (t.vat v).pc, loops := (t.vat v).loops } ∧
        ∀ k, k ≠ x.depth → tabFind (t.vat v).loops k = tabFind x.loops k)) ∧
  (
  ∀ (x : Vat) (pc seq : Nat) (t : Word),
    (x.depth = 0 ∨ x.level.le.toNat ≠ pc → x.onward pc seq = { x with pc := BitVec.ofNat 32 seq }) ∧
    (x.depth ≠ 0 → x.level.le.toNat = pc → 1 < x.level.lc.toNat →
      ∃ y, x.onward pc seq = y ∧ y = { x with pc := x.level.ls, loops := y.loops } ∧
        y.level = { x.level with lc := x.level.lc - 1, li := x.level.li + 1 } ∧
        ∀ k, k ≠ x.depth - 1 → tabFind y.loops k = tabFind x.loops k) ∧
    (x.depth ≠ 0 → x.level.le.toNat = pc → x.level.lc.toNat ≤ 1 →
      x.onward pc seq = { x with depth := x.depth - 1 }.onward pc seq) ∧
    x.branch false t pc seq = x.onward pc seq ∧
    ∃ y, x.branch true t pc seq = y ∧ y = { x with pc := t, depth := y.depth, loops := y.loops } ∧
      (List.range y.depth).map (tabGet {} y.loops) = ((List.range x.depth).map (tabGet {} x.loops)).filter fun l =>
        decide (l.ls.toNat ≤ t.toNat) && decide (t.toNat ≤ l.le.toNat))

/-- JMP, BRZ, BRNZ and BRLT: a target that is a multiple of 4 inside the code area is taken where the condition holds;
the bundle of these rows is a head and this slot, 12 bytes. Any other target traps (R227, R228). -/
def Obligations.Branches : Prop :=
  ∀ (s : State) (v : Fin 128) (ra rb : Fin 32) (t : Word), s.live →
    let x := s.vat v
    let pc := x.pc.toNat
    let goes := fun (c : Instr) (taken : Bool) =>
      (t.toNat % 4 = 0 → t.toNat < s.codeSize v →
        ∃ u, Runs c s u ∧ VatBecomes v (x.branch taken t pc (pc + 12)) s u) ∧
      (t.toNat % 4 ≠ 0 ∨ s.codeSize v ≤ t.toNat → ∃ u, Runs c s u ∧ Traps v .codeRange (some 0) 0 s u)
    goes (.jmp v t) true ∧
    goes (.brz v ra t) (decide (x.sreg ra = 0)) ∧
    goes (.brnz v ra t) (decide (x.sreg ra ≠ 0)) ∧
    goes (.brlt v ra rb t) (decide ((x.sreg ra).toInt < (x.sreg rb).toInt))

/-- BSYNC: in a latency-critical job the vat waits for job beat T, goes on at once where T has come, and counts an
overrun where T has passed; in a best-effort job it waits for the next beat (R230). That T itself counts as come is the
model's reading (log 33).

WAITF reads its word once: where the condition holds the vat goes on, and in a latency-critical job whose job beat
IMM has begun it counts an overrun; else the vat watches the word. An address outside the plain range, or not a multiple
of 4, traps, and a parity mismatch of the read faults. The condition is all masked bits set, or with COND all clear
(R202, R227, R231). That the first test also counts an overrun is the model's reading (log 33). -/
def Obligations.CtlWaits : Prop :=
  (
  ∀ (s : State) (v : Fin 128) (ra : Fin 32) (imm : Word), s.live →
    let x := s.vat v
    let becomes := fun (c : Instr) (y : Vat) => ∃ t, Runs c s t ∧ VatBecomes v y s t
    let on := x.onward x.pc.toNat (x.pc.toNat + 12)
    let T := (x.sreg ra + imm.zeroExtend 64).toNat
    (s.vatLc v = false → becomes (.bsync v ra imm) { on with run := .bsync 0 }) ∧
    (s.vatLc v = true → s.jobBeat v < T → becomes (.bsync v ra imm) { on with run := .bsync T }) ∧
    (s.vatLc v = true → s.jobBeat v = T → becomes (.bsync v ra imm) on) ∧
    (s.vatLc v = true → T < s.jobBeat v → ∃ t, Runs (.bsync v ra imm) s t ∧ t.vat v = on ∧
      t.pwr.overruns = s.pwr.overruns + 1 ∧ t.pwr.overrunLast = (min (s.jobBeat v - T) 65535, v.val / 2))) ∧
  (
  ∀ (s : State) (v : Fin 128) (ra rb : Fin 32) (cond : Bool) (imm : Word), s.live →
    let x := s.vat v
    let becomes := fun (c : Instr) (y : Vat) => ∃ t, Runs c s t ∧ VatBecomes v y s t
    let on := x.onward x.pc.toNat (x.pc.toNat + 12)
    let a := (x.sreg ra).toNat
    let mask := field (x.sreg rb) 0 32
    let holds := if cond then x.word a &&& mask = 0 else x.word a &&& mask = mask
    let c := fun p => Instr.waitf v ra rb cond imm p
    (∀ p, 2 ^ 22 ≤ a ∨ a % 4 ≠ 0 → ∃ t, Runs (c p) s t ∧ Traps v .scratchAddress (some 0) 0 s t) ∧
    (a < 2 ^ 22 → a % 4 = 0 → ¬holds → becomes (c false) { on with run := .waitf a mask cond imm.toNat }) ∧
    (a < 2 ^ 22 → a % 4 = 0 → holds → s.vatLc v = false ∨ imm = 0 ∨ s.jobBeat v < imm.toNat →
      becomes (c false) { on with run := .running }) ∧
    (a < 2 ^ 22 → a % 4 = 0 → holds → s.vatLc v = true → imm ≠ 0 → imm.toNat ≤ s.jobBeat v →
      ∃ t, Runs (c false) s t ∧ t.vat v = { on with run := .running } ∧ t.pwr.overruns = s.pwr.overruns + 1) ∧
    (a < 2 ^ 22 → a % 4 = 0 → ∃ t, Runs (c true) s t ∧ ParityFaults v 2 a s t))

/-- YIELD is the yield barrier in a best-effort job and nothing in a latency-critical one (R232). TRAP traps with its
IMM (R227, R246). END leaves the vat ending until its transfers and its near-bank jobs have completed, and a vat that is the last of its job
ends the job (R233). -/
def Obligations.YieldTrapEnd : Prop :=
  ∀ (s : State) (v : Fin 128) (imm : Word), s.live →
    let x := s.vat v
    let becomes := fun (c : Instr) (y : Vat) => ∃ t, Runs c s t ∧ VatBecomes v y s t
    let on := x.onward x.pc.toNat (x.pc.toNat + 12)
    (s.vatLc v = true → becomes (.yield v imm) on) ∧
    (s.vatLc v = false → becomes (.yield v imm) { on with run := .yield imm.toNat }) ∧
    (∃ t, Runs (.trap v imm) s t ∧ Traps v .software (some 0) imm s t) ∧
    (x.xfers ≠ [] ∨ s.nbeBusy v = true → becomes (.endJob v) { x with run := .ending }) ∧
    (x.xfers = [] → s.nbeBusy v = false → s.jobOf v = none → becomes (.endJob v) { x with run := .ended }) ∧
    (∀ j w, x.xfers = [] → s.nbeBusy v = false → s.jobOf v = some j → tabFind s.jobs j.id = some j → w ∈ j.vatList → w ≠ v.val →
      w ∉ j.ended → v.val ∉ j.ended → ∃ t, Runs (.endJob v) s t ∧ (t.vat v).run = .ended ∧
        tabFind t.jobs j.id = some { j with ended := j.ended ++ [v.val] }) ∧
    (∀ j, x.xfers = [] → s.nbeBusy v = false → s.jobOf v = some j → tabFind s.jobs j.id = some j → (∀ w ∈ j.vatList, w = v.val ∨ w ∈ j.ended) →
      ∃ t, Runs (.endJob v) s t ∧ tabFind t.jobs j.id = none)

/-! ### The PORT slot (R235 to R237) -/

/-- PORT loads into arrays: LDA fills a staging line of every array of AMASK, LDD half of the delta buffers, LDT 16
entries of the table stores; each post-increments its base register.

PORT loads into registers: LDV two vector registers from one line, LDS a scalar register from 8 bytes. A load wins
over the post-increment of the same register (log 32). -/
def Obligations.PortLoads : Prop :=
  (
  ∀ (s : State) (v : Fin 128) (a : PortArgs), s.live → a.count = 0 →
    let x := s.vat v
    let addr := ((x.sreg a.base).toNat + a.offset.toNat) % 2 ^ 24
    let line := x.line (addr % 2 ^ 22 / 2048)
    let sel := if a.sel then 1 else 0
    addr < 3 * 2 ^ 22 → addr % 2048 = 0 →
      (∃ t, Runs (.lda v a false) s t ∧
        PortToArrays v a (fun u => { u with staging := tabPut sel line u.staging }) s t) ∧
      (∃ t, Runs (.ldd v a false) s t ∧
        ∃ d : ArrayUnit → Tab Word, PortToArrays v a (fun u => { u with delta := d u }) s t ∧
          ∀ u k, tabFind (d u) k =
            if 512 * sel ≤ k ∧ k < 512 * sel + 512 then some (lineWord line (k - 512 * sel)) else tabFind u.delta k) ∧
      (∃ t, Runs (.ldt v a false) s t ∧
        ∃ d : ArrayUnit → Tab (Nat × CodeTable), PortToArrays v a (fun u => { u with tables := d u }) s t ∧
          ∀ u k, tabFind (d u) k =
            if 16 * sel ≤ k ∧ k < 16 * sel + 16 then
              some ((x.sreg a.reg).toNat + (k - 16 * sel), field line (1024 * (k - 16 * sel)) 1024)
            else tabFind u.tables k)) ∧
  (
  ∀ (s : State) (v : Fin 128) (a : PortArgs), s.live → a.count = 0 →
    let x := s.vat v
    let addr := ((x.sreg a.base).toNat + a.offset.toNat) % 2 ^ 24
    let line := x.line (addr % 2 ^ 22 / 2048)
    addr < 3 * 2 ^ 22 →
      (addr % 2048 = 0 → a.reg.val % 2 = 0 → ∃ t, Runs (.ldv v a false) s t ∧ OnlyVat v s t ∧
        t.vat v = { x with vregs := (t.vat v).vregs, sregs := (t.vat v).sregs } ∧
        (∀ r, (t.vat v).sreg r = x.afterIncrement a r) ∧
        (∀ r, r ≠ a.reg.val → r ≠ a.reg.val + 1 → (t.vat v).vreg r = x.vreg r) ∧
        ∀ l, l < 256 → lane ((t.vat v).vreg a.reg.val) l = lineWord line l ∧
          lane ((t.vat v).vreg (a.reg.val + 1)) l = lineWord line (256 + l)) ∧
      (addr % 8 = 0 → ∃ t, Runs (.lds v a false) s t ∧ OnlySregs v s t ∧
        ∀ r, (t.vat v).sreg r =
          if r = 0 then 0 else if r = a.reg then field line (8 * (addr % 2048)) 64 else x.afterIncrement a r))

/-- PORT stores: STV writes two vector registers into a line under its word mask, STS a scalar register into 8 bytes;
through the set alias bits are set, through the clear alias they are cleared, and no other word of the scratchpad
changes (R199 to R201, R235, R236). -/
def Obligations.PortStores : Prop :=
  ∀ (s : State) (v : Fin 128) (a : PortArgs), s.live → a.count = 0 →
    let x := s.vat v
    let addr := ((x.sreg a.base).toNat + a.offset.toNat) % 2 ^ 24
    let merged := fun (old new : Word) =>
      if addr / 2 ^ 22 = 0 then new else if addr / 2 ^ 22 = 1 then old ||| new else old &&& ~~~ new
    let stores := fun (c : Instr) (on : Nat → Prop) (word : Nat → Word) =>
      ∃ t, Runs c s t ∧ OnlyVat v s t ∧ t.vat v = { x with spd := (t.vat v).spd, sregs := (t.vat v).sregs } ∧
        (∀ r, (t.vat v).sreg r = x.afterIncrement a r) ∧
        (∀ k, k ≠ addr % 2 ^ 22 / 2048 → (t.vat v).line k = x.line k) ∧
        ∀ w, w < 512 →
          let old := lineWord (x.line (addr % 2 ^ 22 / 2048)) w
          (on w → lineWord ((t.vat v).line (addr % 2 ^ 22 / 2048)) w = merged old (word w)) ∧
          (¬on w → lineWord ((t.vat v).line (addr % 2 ^ 22 / 2048)) w = old)
    addr < 3 * 2 ^ 22 →
      (addr % 2048 = 0 → a.reg.val < 31 →
        stores (.stv v a)
          (fun w => a.msel = 0 ∨ (a.msel = 1 ∧ w < 256) ∨ (a.msel = 2 ∧ 256 ≤ w) ∨
            (a.msel = 3 ∧ (x.vreg a.vm.val).getLsbD w = true))
          (fun w => if w < 256 then lane (x.vreg a.reg.val) w else lane (x.vreg (a.reg.val + 1)) (w - 256))) ∧
      (addr % 8 = 0 →
        stores (.sts v a) (fun w => w = addr % 2048 / 4 ∨ w = addr % 2048 / 4 + 1)
          (fun w => field (x.sreg a.reg) (32 * (w - addr % 2048 / 4)) 32))

/-- LDW into one array (R237): raw lines become elements of the array's weight format in ascending bit order; one line
of a curd stream waits for the other half of its block, which a whole block then leaves to its expander; a missing
table traps, and a bad block is an uncorrectable error of severity 1.

LDW into any arrays (R237; log 16, log 24): raw tiles go to the named arrays in ascending order, each to its weight
port; with no array named only the base register moves; a curd stream into several arrays, or a format pair that R190
does not accept, traps. -/
def Obligations.WeightLoads : Prop :=
  (
  ∀ (s : State) (v : Fin 128) (a : PortArgs) (k : Nat), s.live → k < 8 → a.amask = BitVec.ofNat 8 (2 ^ k) →
    let x := s.vat v
    let u := x.array k
    let addr := fun i => ((x.sreg a.base).toNat + a.offset.toNat + 2048 * i) % 2 ^ 24
    let line := fun i => x.line (addr i % 2 ^ 22 / 2048)
    let w := fmtWidth u.cfgNext.wfmt.toNat
    let bit := fun n => (line (n / 16384)).getLsbD (n % 16384)
    let feeds := fun (u' : ArrayUnit) => ∃ t, Runs (.ldw v a false) s t ∧ PortToArrays v a (fun _ => u') s t
    (∀ i, i ≤ a.count.toNat → addr i < 3 * 2 ^ 22 ∧ addr i % 2048 = 0) → cfgPairOk u.cfgNext = true →
      (u.cfgNext.raw = true → ∃ ws : List Half, feeds (u.feed ws) ∧ ws.length = 16384 * (a.count.toNat + 1) / w ∧
        ∀ i b, i < ws.length → b < 16 → (ws.getD i 0).getLsbD b = (decide (b < w) && bit (w * i + b))) ∧
      (u.cfgNext.raw = false → a.count = 0 → u.halfBlock = none → feeds { u with halfBlock := some (line 0) }) ∧
      (u.cfgNext.raw = false → a.count = 0 → ∀ h ss, u.halfBlock = some h →
        curdExpand u.tableFor (line 0 ++ h) = .elems ss →
        feeds ({ u with halfBlock := none }.feed (ss.map (BitVec.ofNat 16)))) ∧
      (u.cfgNext.raw = false → a.count = 0 → ∀ h, u.halfBlock = some h →
        curdExpand u.tableFor (line 0 ++ h) = .tableMissing →
        ∃ t, Runs (.ldw v a false) s t ∧ Traps v .tableMissing (some 2) 0 s t) ∧
      (u.cfgNext.raw = false → a.count = 0 → ∀ h, u.halfBlock = some h →
        curdExpand u.tableFor (line 0 ++ h) = .bad →
        ∃ t, Runs (.ldw v a false) s t ∧ StepFaults v
          { code := 0x0303, severity := 1, part := 0, path := 6, unit := v, detail0 := (curdReason (line 0 ++ h)).detail } s t) ∧
      (u.cfgNext.raw = false → ∀ u', expanderLines u ((List.range (a.count.toNat + 1)).map line) = (u', none) → feeds u')) ∧
  (
  ∀ (s : State) (v : Fin 128) (a : PortArgs) (p : Bool), s.live →
    let x := s.vat v
    let arrays := bitsSet a.amask
    let addr := fun i => ((x.sreg a.base).toNat + a.offset.toNat + 2048 * i) % 2 ^ 24
    let stream := ((List.range (a.count.toNat + 1)).map fun i => x.line (addr i % 2 ^ 22 / 2048)).foldr
      (fun l n => l.toNat + 2 ^ 16384 * n) 0
    (∀ i, i ≤ a.count.toNat → addr i < 3 * 2 ^ 22 ∧ addr i % 2048 = 0) →
      ((∀ k ∈ arrays, cfgPairOk (x.array k).cfgNext = true ∧ (x.array k).cfgNext.raw = true) → arrays ≠ [] →
        ∃ t, Runs (.ldw v a false) s t ∧
          VatBecomes v (dealTiles arrays stream 256 (16384 * (a.count.toNat + 1)) 0 (x.increment x a)) s t) ∧
      (arrays = [] → ∃ t, Runs (.ldw v a false) s t ∧ VatBecomes v (x.increment x a) s t) ∧
      ((∃ k ∈ arrays, cfgPairOk (x.array k).cfgNext = false) ∨
        ((∃ k ∈ arrays, (x.array k).cfgNext.raw = false) ∧ 1 < arrays.length) →
        ∃ t, Runs (.ldw v a p) s t ∧ Traps v .bundleFormat (some 2) 0 s t))

/-- Where a PORT slot traps: COUNT with anything but LDW, an address in the reserved range or out of alignment, and an
odd or last register of LDV (R235, R236, R246). A parity mismatch of the line it reads is a record of its own (R202).

Where a VEC slot traps: RND 3, an empty GMASK, a format that the row does not take, and XCVT or RSUM without SB
(R241, R242).

What an XCH row checks, and with which cause it traps (R244, R246): local lines and the flag word in the scratchpad,
a 64-byte offset and a range inside the window, a PUT's vat inside the job. With eight transfers outstanding a row that
passes waits, and changes nothing (R222). -/
def Obligations.SlotTraps : Prop :=
  (
  ∀ (s : State) (v : Fin 128) (a : PortArgs) (p : Bool), s.live →
    let x := s.vat v
    let addr := ((x.sreg a.base).toNat + a.offset.toNat) % 2 ^ 24
    let traps := fun (c : Instr) (k : TrapCause) => ∃ t, Runs c s t ∧ Traps v k (some 2) 0 s t
    (a.count ≠ 0 → traps (.lda v a p) .bundleFormat ∧ traps (.lds v a p) .bundleFormat ∧ traps (.sts v a) .bundleFormat ∧
      traps (.ldd v a p) .bundleFormat ∧ traps (.ldt v a p) .bundleFormat ∧ traps (.ldv v a p) .bundleFormat ∧
      traps (.stv v a) .bundleFormat) ∧
    (a.count = 0 → 3 * 2 ^ 22 ≤ addr ∨ addr % 2048 ≠ 0 → traps (.lda v a p) .scratchAddress ∧
      traps (.ldd v a p) .scratchAddress ∧ traps (.ldt v a p) .scratchAddress ∧
      (a.reg.val % 2 = 0 → traps (.ldv v a p) .scratchAddress) ∧
      (a.reg.val < 31 → traps (.stv v a) .scratchAddress)) ∧
    (a.count = 0 → 3 * 2 ^ 22 ≤ addr ∨ addr % 8 ≠ 0 → traps (.lds v a p) .scratchAddress ∧
      traps (.sts v a) .scratchAddress) ∧
    (a.reg.val % 2 = 1 → traps (.ldv v a p) .bundleFormat) ∧
    ((∃ i, i ≤ a.count.toNat ∧ (3 * 2 ^ 22 ≤ (addr + 2048 * i) % 2 ^ 24 ∨ addr % 2048 ≠ 0)) →
      traps (.ldw v a p) .scratchAddress) ∧
    (a.count = 0 → addr < 3 * 2 ^ 22 → addr % 2048 = 0 →
      let mismatch := fun (c : Instr) => ∃ t, Runs c s t ∧ ParityFaults v 2 0 s t
      mismatch (.lda v a true) ∧ mismatch (.ldd v a true) ∧ mismatch (.ldt v a true) ∧ mismatch (.lds v a true) ∧
        (a.reg.val % 2 = 0 → mismatch (.ldv v a true)) ∧ (checkLdw x a = none → mismatch (.ldw v a true)))) ∧
  (
  ∀ (s : State) (v : Fin 128) (a : VecArgs), s.live →
    let traps := fun (c : Instr) => ∃ t, Runs c s t ∧ Traps v .bundleFormat (some 6) 0 s t
    (a.rnd = 3 ∨ a.gmask = 0 → traps (.fadd v a) ∧ traps (.fma v a) ∧ traps (.iadd v a) ∧ traps (.ishl v a) ∧
      traps (.exp2 v a) ∧ traps (.cvtf v a) ∧ traps (.mxq v a) ∧ traps (.xadd v a) ∧ traps (.rmax v a) ∧
      traps (.rsum v a)) ∧
    (fmtKnown a.fmt.toNat = false ∨ fmtIsMx a.fmt.toNat = true → traps (.cvtf v a) ∧ traps (.cvti v a)) ∧
    (fmtKnown a.fmt.toNat = false ∨ fmtIsMx a.fmt.toNat = false → traps (.mxq v a)) ∧
    (a.sb = false → traps (.xcvt v a) ∧ traps (.rsum v a))) ∧
  (
  ∀ (s : State) (v : Fin 128) (a : XchArgs), s.live →
    let x := s.vat v
    let w := (x.sreg a.ra).toNat
    let n := a.lines.toNat + 1
    let lineBad := fun (b : Nat) => ∃ i, i < n ∧ (3 * 2 ^ 22 ≤ (b + 2048 * i) % 2 ^ 24 ∨ (b + 2048 * i) % 2048 ≠ 0)
    let local_ := (x.sreg a.rb).toNat
    let flagBad := a.flag = true ∧ (3 * 2 ^ 22 ≤ (x.sreg a.rf).toNat % 2 ^ 24 ∨ (x.sreg a.rf).toNat % 4 ≠ 0)
    let traps := fun (c : Instr) (k : TrapCause) => ∃ t, Runs c s t ∧ Traps v k (some 7) 0 s t
    (lineBad local_ ∨ flagBad → traps (.sld v a) .scratchAddress ∧ traps (.sst v a false) .scratchAddress ∧
      traps (.put v a false) .scratchAddress ∧ traps (.send v a false) .scratchAddress) ∧
    (¬lineBad local_ → ¬flagBad →
      (w % 64 ≠ 0 → traps (.sld v a) .scratchAddress ∧ traps (.sst v a false) .scratchAddress) ∧
      (w % 64 = 0 → (s.part (s.vatPart v)).winSize < w + 2048 * n →
        traps (.sld v a) .window ∧ traps (.sst v a false) .window) ∧
      (∀ j, s.jobOf v = some j → j.hdr.vats.getLsbD (field (x.sreg a.ra) 24 7).toNat = false →
        traps (.put v a false) .target) ∧
      (routeOk (s.route (field (x.sreg a.ra) 44 4).toNat (field (x.sreg a.ra) 32 12).toNat) = false →
        traps (.send v a false) .target)) ∧
    (¬flagBad → (s.part (s.vatPart v)).winSize < w + 128 → traps (.nbj v a) .window) ∧
    ((∀ k, k < 8 → (tabFind x.xfers k).isSome = true) → ∀ c ∈ [Instr.sld v a, .sst v a false, .put v a false,
      .send v a false, .nbj v a], s.checkXch v x c = none → Runs c s s))

/-! ### The WGT, ARR and DRN slots (R238 to R240) -/

/-- WGT rows change what they name in every array of AMASK and nothing else: CFG what the next SWAP puts in force, CEIL
the shadow column ceilings, OVL, OVLU and OVLC the overlays (R239).

SWAP: where every named shadow set is full it becomes the active set, under the configuration and the ceilings that
CFG and CEIL set, and the overlay ends; elements that waited at the weight port enter the new shadow set (R193, R239).
It waits, and changes nothing, while a named shadow set is not full (R222). -/
def Obligations.WeightSlot : Prop :=
  (
  ∀ (s : State) (v : Fin 128) (m : BitVec 8) (k : CfgArgs) (reg : Fin 32) (b n : BitVec 10), s.live →
    let x := s.vat v
    let gives := fun (c : Instr) (f : ArrayUnit → ArrayUnit) => ∃ t, Runs c s t ∧ ToArrays v m (fun _ => f) s t
    let entry := fun (u : ArrayUnit) (e : Nat) => rennetPos (u.deltaEntry (b.toNat + e))
    let joins := fun (c : Instr) (get : ArrayUnit → Tab Half) (put : ArrayUnit → Tab Half → ArrayUnit) =>
      ∃ d : ArrayUnit → Tab Half, gives c (fun u => put u (d u)) ∧ ∀ u p,
        (∀ e, e < n.toNat → entry u e = p → (∀ e', e < e' → e' < n.toNat → entry u e' ≠ p) →
          tabFind (d u) p = some (BitVec.ofNat 16 (rennetVal (u.deltaEntry (b.toNat + e))))) ∧
        ((∀ e, e < n.toNat → entry u e ≠ p) → tabFind (d u) p = tabFind (get u) p)
    (cfgPairOk k = true → gives (.cfg v m k) fun u => { u with cfgNext := k }) ∧
    (∃ d : ArrayUnit → Tab (BitVec 10), gives (.ceil v m reg) (fun u => { u with colCeilShadow := d u }) ∧
      ∀ u c, tabFind (d u) c =
        if c < 64 then some (field (lane (x.vreg reg.val) c) 0 10) else tabFind u.colCeilShadow c) ∧
    (1 ≤ n.toNat → b.toNat + n.toNat ≤ 1024 →
      joins (.ovl v m b n) ArrayUnit.overlay (fun u t => { u with overlay := t }) ∧
      joins (.ovlu v m b n) ArrayUnit.overlayUpper (fun u t => { u with overlayUpper := t })) ∧
    gives (.ovlc v m) (fun u => { u with overlay := [], overlayUpper := [] }) ∧
    (cfgPairOk k = false → ∃ t, Runs (.cfg v m k) s t ∧ Traps v .bundleFormat (some 4) 0 s t) ∧
    (n = 0 ∨ 1024 < b.toNat + n.toNat → (∃ t, Runs (.ovl v m b n) s t ∧ Traps v .bundleFormat (some 4) 0 s t) ∧
      ∃ t, Runs (.ovlu v m b n) s t ∧ Traps v .bundleFormat (some 4) 0 s t)) ∧
  (
  ∀ (s : State) (v : Fin 128) (m : BitVec 8), s.live →
    let x := s.vat v
    let full := fun k => (x.array k).shadow.length = cfgSetSize (x.array k).cfgNext
    ((∀ k, k < 8 → m.getLsbD k = true → full k) →
      ∃ t, Runs (.swap v m) s t ∧ ToArrays v m (fun _ u =>
        { u with cfg := u.cfgNext, active := u.shadow, colCeil := u.colCeilShadow, colCeilShadow := u.colCeil,
                 overlay := [], overlayUpper := [], shadow := u.waiting.take (cfgSetSize u.cfgNext),
                 waiting := u.waiting.drop (cfgSetSize u.cfgNext) }) s t) ∧
    ((∃ k, k < 8 ∧ m.getLsbD k = true ∧ ¬full k) → ∃ t, Runs (.swap v m) s t ∧ VatBecomes v x s t))

/-- What an array entry takes in one issue (R189, R191, R192, R195, R196, R238). In array mode entry (row, n) gets, for
every n, the products of the 32 activations of the operand with column n of the active weights, one group for an
ordinary pair and two for two 4-bit formats; in quadrant mode entry n of quadrant q gets the products of elements 16q to
16q + 15. In exact mode each product enters on the anchor's grid; in fast mode each group's exact sum is rounded once
and then added, and a quadrant's two halves make one group. No other entry changes, and nothing else does. -/
def Obligations.ArrayIssue : Prop :=
  ∀ (s : State) (v : Fin 128) (a : ArrArgs), s.live →
    let x := s.vat v
    let row := arrRow x a
    let index := arrIndex x a
    let named := fun k => k < 8 ∧ a.amask.getLsbD k = true
    (∀ k, named k → cfgPairOk (x.array k).cfg = true ∧ ((x.array k).cfg.quad = true → row < 32) ∧
      (index + 1) * cfgIssueBytes (x.array k).cfg ≤ 2048) →
      ∃ t, Runs (.arrIssue v a) s t ∧ OnlyVat v s t ∧ t.vat v = { x with arrays := (t.vat v).arrays } ∧
        (∀ k, ¬named k → (t.vat v).array k = x.array k) ∧
        ∀ k, named k →
          let u := x.array k
          let u' := (t.vat v).array k
          let act := fun e => activation u s.freshCount k a.sel index e
          let weight := fun up j n => laneWeight u s.freshCount k up j n
          let exact := fun i c ps => entryExact (u.entry i) (Config.freeAt s.freshCount (32768 + i) 80)
            (u.rowCeiling row + u.colCeiling c) ps
          u' = { u with acc := u'.acc } ∧
          (u.cfg.quad = false →
            (∀ i, i / 32 ≠ row → tabFind u'.acc i = tabFind u.acc i) ∧
            ∀ n, n < 32 →
              let low := (List.range 32).map fun j => (act j).mul (weight false j n)
              let high := (List.range 32).map fun j => (act (32 + j)).mul (weight true j n)
              let groups := if cfgFourPair u.cfg then [low, high] else [low]
              (cfgAccExact u.cfg = true → u'.entry (32 * row + n) = exact (32 * row + n) n groups.flatten) ∧
              (cfgAccExact u.cfg = false → u'.entry (32 * row + n) =
                groups.foldl (fun e g => entryFast e (fRn (groupSum g))) (u.entry (32 * row + n)))) ∧
          (u.cfg.quad = true →
            (∀ i, (∀ q n, q < 4 → n < 16 → i ≠ 512 * q + 16 * row + n) → tabFind u'.acc i = tabFind u.acc i) ∧
            ∀ q n, q < 4 → n < 16 →
              let i := 512 * q + 16 * row + n
              let ps := (List.range 16).map fun j =>
                (act (16 * q + j)).mul (weight false (q / 2 * 16 + j) (q % 2 * 16 + n))
              (cfgAccExact u.cfg = true → u'.entry i = exact i (16 * q + n) ps) ∧
              (cfgAccExact u.cfg = false → u'.entry i = entryQuad (u.entry i) a.last (groupSum ps)))

/-- DRAIN delivers one FP32 value per lane of every named array, 32 lanes an array, or raw the 32 values of one array as
EXACT80, which fast mode leaves free (log 121), and clears those entries; PRELOAD enters one term per lane; SETRC sets a row ceiling (R192, R197, R240). -/
def Obligations.DrainRows : Prop :=
  ∀ (s : State) (v : Fin 128) (a : DrnArgs), s.live →
    let x := s.vat v
    let row := a.row.toNat
    let named := fun k => k < 8 ∧ a.amask.getLsbD k = true
    let col := fun (u : ArrayUnit) n => if u.cfg.quad then 16 * ((if a.qsel then 2 else 0) + n / 16) + n % 16 else n
    let idx := fun (u : ArrayUnit) n =>
      if u.cfg.quad then 512 * ((if a.qsel then 2 else 0) + n / 16) + 16 * row + n % 16 else 32 * row + n
    let cleared := fun (t : State) => ∀ k, (¬named k → (t.vat v).array k = x.array k) ∧ (named k →
      let u := x.array k
      let u' := (t.vat v).array k
      u' = { u with acc := u'.acc } ∧ (∀ i, (∀ n, n < 32 → i ≠ idx u n) → tabFind u'.acc i = tabFind u.acc i) ∧
        ∀ n, n < 32 → u'.entry (idx u n) = {})
    let drains := fun (t : State) => Runs (.drain v a) s t ∧ OnlyVat v s t ∧
      t.vat v = { x with arrays := (t.vat v).arrays, vregs := (t.vat v).vregs } ∧
      (∀ r, r ≠ a.reg.val → (t.vat v).vreg r = x.vreg r) ∧ cleared t
    (∃ t, Runs (.setrc v a) s t ∧
      ToArrays v a.amask (fun _ u => { u with rowCeil := tabPut row (field (x.sreg a.reg) 0 10) u.rowCeil }) s t) ∧
    ((∀ k, named k → (x.array k).cfg.quad = true → row < 32) →
      (a.raw = false → ∃ t, drains t ∧
        (∀ k n, named k → n < 32 →
          let u := x.array k
          lane ((t.vat v).vreg a.reg.val) (32 * k + n) =
            if cfgAccExact u.cfg then
              fRn (accVal (u.rowCeiling row + u.colCeiling (col u n)) (accView (u.entry (idx u n)).val))
            else field (u.entry (idx u n)).val 0 32) ∧
        ∀ l, l < 256 → ¬named (l / 32) → lane ((t.vat v).vreg a.reg.val) l = lane (x.vreg a.reg.val) l) ∧
      (a.raw = true → ∀ k, k < 8 → a.amask = BitVec.ofNat 8 (2 ^ k) → ∃ t, drains t ∧
        (∀ n, n < 32 → exactAt ((t.vat v).vreg a.reg.val) n =
          if cfgAccExact (x.array k).cfg then ((x.array k).entry (idx (x.array k) n)).val
          else Config.freeAt s.freshCount (98304 + idx (x.array k) n) 80) ∧
        ∀ l, 80 ≤ l → l < 256 → lane ((t.vat v).vreg a.reg.val) l = lane (x.vreg a.reg.val) l) ∧
      (∃ t, Runs (.preload v a) s t ∧ OnlyVat v s t ∧ t.vat v = { x with arrays := (t.vat v).arrays } ∧
        (∀ k, ¬named k → (t.vat v).array k = x.array k) ∧
        ∀ k, named k →
          let u := x.array k
          let u' := (t.vat v).array k
          u' = { u with acc := u'.acc } ∧ (∀ i, (∀ n, n < 32 → i ≠ idx u n) → tabFind u'.acc i = tabFind u.acc i) ∧
          ∀ n, n < 32 →
            let e := u.entry (idx u n)
            let w := lane (x.vreg a.reg.val) (32 * k + n)
            (cfgAccExact u.cfg = true → u'.entry (idx u n) =
              entryExact e (Config.freeAt s.freshCount (40960 + 2048 * k + idx u n) 80)
                (u.rowCeiling row + u.colCeiling (col u n)) [fVal w]) ∧
            (cfgAccExact u.cfg = false → u'.entry (idx u n) =
              { e with val := (if e.started then fAdd (field e.val 0 32) w else w).zeroExtend 80, started := true }))) ∧
    (a.raw = true → (bitsSet a.amask).length ≠ 1 → ∃ t, Runs (.drain v a) s t ∧ Traps v .bundleFormat (some 5) 0 s t) ∧
    ((∃ k, named k ∧ (x.array k).cfg.quad = true) → 32 ≤ row →
      (∃ t, Runs (.drain v a) s t ∧ Traps v .bundleFormat (some 5) 0 s t) ∧
      ∃ t, Runs (.preload v a) s t ∧ Traps v .bundleFormat (some 5) 0 s t)

/-! ### The VEC slot (R241, R242) -/

/-- Lane-wise vector rows: every lane of the groups in GMASK gets its result, the other lanes and everything else stay.
RND does not enter these rows: FP32 results round to nearest even (R157, R242). -/
def Obligations.VectorLanes : Prop :=
  ∀ (s : State) (v : Fin 128) (a : VecArgs), s.live → a.rnd ≠ 3 → a.gmask ≠ 0 →
    let x := s.vat v
    let p := fun l => lane (x.vreg a.va.val) l
    let q := fun l => if a.sb then field (x.sreg a.vb) 0 32 else lane (x.vreg a.vb.val) l
    let r := fun l => lane (x.vreg a.vc.val) l
    let gives := fun (c : Instr) (f : Nat → Word) => ∃ t, Runs c s t ∧
      ToLanes v a.vd (fun l => if a.gmask.getLsbD (l / 32) then f l else lane (x.vreg a.vd.val) l) s t
    gives (.fadd v a) (fun l => fRn ((fVal (p l)).add (fVal (q l)))) ∧
    gives (.fsub v a) (fun l => fRn ((fVal (p l)).add (fVal (q l)).neg)) ∧
    gives (.fmul v a) (fun l => fRn ((fVal (p l)).mul (fVal (q l)))) ∧
    gives (.fmax v a) (fun l => fRn ((fVal (p l)).max (fVal (q l)))) ∧
    gives (.fmin v a) (fun l => fRn ((fVal (p l)).min (fVal (q l)))) ∧
    gives (.fma v a) (fun l => fRn (((fVal (p l)).mul (fVal (q l))).add (fVal (r l)))) ∧
    gives (.fcmplt v a) (fun l => if (fVal (p l)).lt (fVal (q l)) then 1 else 0) ∧
    gives (.fcmpeq v a) (fun l => if (fVal (p l)).eqv (fVal (q l)) then 1 else 0) ∧
    gives (.iadd v a) (fun l => p l + q l) ∧
    gives (.isub v a) (fun l => p l - q l) ∧
    gives (.iand v a) (fun l => p l &&& q l) ∧
    gives (.ior v a) (fun l => p l ||| q l) ∧
    gives (.ixor v a) (fun l => p l ^^^ q l) ∧
    gives (.islt v a) (fun l => if (p l).toInt < (q l).toInt then 1 else 0) ∧
    gives (.exp2 v a) (fun l => znExp2 (p l)) ∧
    gives (.rcp v a) (fun l => znRecip (p l)) ∧
    gives (.log v a) (fun l => znLog (p l)) ∧
    gives (.rsqrt v a) (fun l => znRsqrt (p l)) ∧
    ((∀ l, l < 256 → a.gmask.getLsbD (l / 32) = true → (q l).toNat < 32) →
      gives (.ishl v a) (fun l => p l <<< (q l).toNat) ∧
      ((∀ l, l < 256 → a.gmask.getLsbD (l / 32) = true → (p l).toInt ≥ 0) →
        gives (.ishr v a) (fun l => p l >>> (q l).toNat)))

/-- Vector rows over groups (R122, R144, R151, R157, R242, R619): CVTI reads packed elements into FP32 lanes, CVTF packs
them, both also in EXACT80 on the grid of the descriptor window, which has values 0 to 95 (log 34), MXQ makes one Microscaling block of each group, XADD adds EXACT80 values, XCVT and RSUM go between lanes and EXACT80
under the anchor in s[VB], RMAX puts the largest lane into lane 0. -/
def Obligations.VectorGroups : Prop :=
  ∀ (s : State) (v : Fin 128) (a : VecArgs), s.live → a.rnd ≠ 3 → a.gmask ≠ 0 →
    let x := s.vat v
    let src := x.vreg a.va.val
    let old := x.vreg a.vd.val
    let on := fun l => a.gmask.getLsbD (l / 32) = true
    let anchor := (x.sreg a.vb).toInt
    let f := fmtAt a.fmt
    let elem := fun (w : BitVec 8192) (e : Nat) => w.toNat >>> (f.width * e) % 2 ^ f.width
    let changes := fun (c : Instr) (post : Vat → Prop) => ∃ t, Runs c s t ∧ OnlyVat v s t ∧
      t.vat v = { x with vregs := (t.vat v).vregs } ∧
      (∀ r, r ≠ a.vd.val → (c ≠ .mxq v a ∨ r ≠ a.vc.val) → (t.vat v).vreg r = x.vreg r) ∧ post (t.vat v)
    let kept := fun (y : Vat) (r n : Nat) =>
      ∀ b, n ≤ b → b < 1024 → field (y.vreg r) (8 * b) 8 = field (x.vreg r) (8 * b) 8
    (fmtKnown a.fmt.toNat = true → fmtIsMx a.fmt.toNat = false → a.fmt.toNat ≠ codeExact80 →
      changes (.cvti v a) (fun y => ∀ l, l < 256 → lane (y.vreg a.vd.val) l =
        if on l then fRn (elemVal f (elem src l)) else lane old l) ∧
      changes (.cvtf v a) (fun y => kept y a.vd.val (32 * f.width) ∧ ∀ l, l < 256 → elem (y.vreg a.vd.val) l =
        if on l then encodeVal f ((rndOf a.rnd.toNat).getD .rne) (fVal (lane src l)) % 2 ^ f.width else elem old l)) ∧
    (a.fmt.toNat = codeExact80 →
      changes (.cvti v a) (fun y => ∀ l, l < 256 → (on l → l < 96 →
          lane (y.vreg a.vd.val) l = fRn (accVal windowAnchor (accView (exactAt src l)))) ∧
        (¬on l → lane (y.vreg a.vd.val) l = lane old l)) ∧
      changes (.cvtf v a) (fun y => kept y a.vd.val 960 ∧ ∀ l, l < 96 → exactAt (y.vreg a.vd.val) l =
        if on l then accSat (accTermIn ((rndOf a.rnd.toNat).getD .rne) windowAnchor (fVal (lane src l))) else exactAt old l)) ∧
    (fmtKnown a.fmt.toNat = true → fmtIsMx a.fmt.toNat = true → a.vc ≠ a.vd →
      changes (.mxq v a) (fun y => kept y a.vd.val (32 * f.width) ∧ kept y a.vc.val 8 ∧ ∀ g, g < 8 →
        let block := mxBlock f .rne ((List.range 32).map fun k => fVal (lane src (32 * g + k)))
        (a.gmask.getLsbD g = true → field (y.vreg a.vc.val) (8 * g) 8 = BitVec.ofNat 8 block.1 ∧
          ∀ k, k < 32 → elem (y.vreg a.vd.val) (32 * g + k) = block.2.getD k 0 % 2 ^ f.width) ∧
        (a.gmask.getLsbD g = false → field (y.vreg a.vc.val) (8 * g) 8 = field (x.vreg a.vc.val) (8 * g) 8 ∧
          ∀ k, k < 32 → elem (y.vreg a.vd.val) (32 * g + k) = elem old (32 * g + k)))) ∧
    changes (.xadd v a) (fun y => (∀ b, 960 ≤ b → b < 1024 → field (y.vreg a.vd.val) (8 * b) 8 = field old (8 * b) 8) ∧
      ∀ i, i < 96 → (on i → ∀ w, accOf (accCombine (accView (exactAt src i)) (accView (exactAt (vecB x a) i))) = some w →
        exactAt (y.vreg a.vd.val) i = w) ∧
      (¬on i → exactAt (y.vreg a.vd.val) i = exactAt old i)) ∧
    (a.sb = true → -320 ≤ anchor → anchor ≤ 320 →
      changes (.xcvt v a) (fun y => ∀ l, l < 256 → lane (y.vreg a.vd.val) l =
        if l < 96 ∧ on l then fRn (accVal anchor (accView (exactAt src l))) else lane old l) ∧
      changes (.rsum v a) (fun y =>
        (∀ w, accOf (accSum anchor (((List.range 256).filter (vecOn a)).map fun l => fVal (lane src l))) = some w →
          exactAt (y.vreg a.vd.val) 0 = w) ∧
        ∀ b, 10 ≤ b → b < 1024 → field (y.vreg a.vd.val) (8 * b) 8 = field old (8 * b) 8)) ∧
    changes (.rmax v a) (fun y => ∀ l, l < 256 →
      (l ≠ 0 → lane (y.vreg a.vd.val) l = lane old l) ∧
      (l = 0 → lane (y.vreg a.vd.val) 0 = fRn (fVal (((List.range 256).filter (vecOn a)).foldl (fun m k => fMax m (lane src k))
        (lane src (((List.range 256).filter (vecOn a)).headD 0))))))

/-! ### The XCH slot (R243 to R245) -/

/-- An XCH row that passes its checks takes the lowest free transfer slot and moves nothing else: SLD hands the lines it
will read to the vat's inbound path, PUT the local lines to another vat's, SST and SEND hold theirs until they leave, and
NBJ offers a near-bank job whose record lies at its offset (R244, R245, R288). A parity mismatch of the lines that SST,
PUT or SEND reads faults the step (R202). -/
def Obligations.XchIssues : Prop :=
  ∀ (s : State) (v : Fin 128) (a : XchArgs) (k : Nat), s.live → (s.vat v).freeSlot = some k →
    let x := s.vat v
    let w := (x.sreg a.ra).toNat
    let n := a.lines.toNat + 1
    let target := (field (x.sreg a.ra) 24 7).toNat
    let addr := (field (x.sreg a.ra) 0 24).toNat
    let flag := fun (d : Nat) => if a.flag then some (d, (x.sreg a.rf).toNat % 2 ^ 24, a.fbit.toNat) else none
    let line := fun i => x.line (((x.sreg a.rb).toNat + 2048 * i) % 2 ^ 24 % 2 ^ 22 / 2048)
    let data := (List.range n).map line
    let fresh := newXfer .sld (s.stamp + 1) (flag v)
    let holds := fun (y : Xfer) => { x with xfers := tabPut k y x.xfers }
    let arrive := fun (y : Vat) (ls : List Inbound) => { y with inbound := y.inbound ++ ls }
    let mismatch := fun (c : Instr) (path : Nat) => s.checkXch v x c = none →
      ∃ t, Runs c s t ∧ ParityFaults v path ((x.sreg a.rb).toNat % 2 ^ 24) s t
    (s.checkXch v x (.sst v a false) = none →
      ∃ t, Runs (.sst v a false) s t ∧ t = { s with vats := t.vats, stamp := s.stamp + 1 } ∧
        (∀ d, d ≠ v.val → t.vat d = s.vat d) ∧ t.vat v = holds { fresh with kind := .sst, addr := w, data := data }) ∧
    (s.checkXch v x (.send v a false) = none →
      ∃ t, Runs (.send v a false) s t ∧ t = { s with vats := t.vats, stamp := s.stamp + 1 } ∧
        (∀ d, d ≠ v.val → t.vat d = s.vat d) ∧ t.vat v = holds
          { fresh with kind := .send, flag := flag target, addr := addr, dest := target, data := data,
                       route := (field (x.sreg a.ra) 44 4).toNat * 4096 + (field (x.sreg a.ra) 32 12).toNat,
                       beat := if a.atbeat && s.vatLc v then some (x.sreg a.rt).toNat else none }) ∧
    (s.checkXch v x (.put v a false) = none → ∃ t, Runs (.put v a false) s t ∧
      t = { s with vats := t.vats, stamp := s.stamp + 1 } ∧ (∀ d, d ≠ v.val → d ≠ target → t.vat d = s.vat d) ∧
      ∃ ls : List Inbound, ls.length = n ∧
        (∀ i, i < n → ls[i]? = some
          { src := .vat v k, addr := (addr + 2048 * i) % 2 ^ 24, lo := 0, hi := 2048, data := line i,
            flag := if i + 1 = n then flag target else none, last := decide (i + 1 = n), read := none }) ∧
        let y := holds { fresh with kind := .put, flag := flag target, addr := addr, dest := target }
        (target ≠ v.val → t.vat v = y ∧ t.vat target = arrive (s.vat target) ls) ∧
        (target = v.val → t.vat v = arrive y ls)) ∧
    (s.checkXch v x (.sld v a) = none → ∃ t, Runs (.sld v a) s t ∧
      t = { s with vats := t.vats, stamp := s.stamp + 1 } ∧ (∀ d, d ≠ v.val → t.vat d = s.vat d) ∧
      ∃ ls : List Inbound, ls.length = n ∧
        (∀ i, i < n → ls[i]? = some
          { src := .vat v k, addr := ((x.sreg a.rb).toNat % 2 ^ 24 + 2048 * i) % 2 ^ 24, lo := 0, hi := 2048, data := 0,
            flag := if i + 1 = n then flag v else none, last := decide (i + 1 = n),
            read := some (s.vatPart v, w + 2048 * i) }) ∧
        t.vat v = arrive (holds { fresh with addr := w }) ls) ∧
    (s.checkXch v x (.nbj v a) = none → ∃ t, Runs (.nbj v a) s t ∧
      t = { s with vats := t.vats, stamp := s.stamp + 1, nbeJobs := t.nbeJobs, nextNbeJob := s.nextNbeJob + 1 } ∧
      (∀ d, d ≠ v.val → t.vat d = s.vat d) ∧
      t.vat v = holds { (newXfer .nbj (s.stamp + 1) none) with nbe := some s.nextNbeJob } ∧
      (∀ i, i ≠ s.nextNbeJob → tabFind t.nbeJobs i = tabFind s.nbeJobs i) ∧
      tabFind t.nbeJobs s.nextNbeJob = some
        { record := 0, off := w, part := s.vatPart v, issuer := some v.val, flag := flag v, job := x.job, own := none,
          phase := .offered }) ∧
    mismatch (.sst v a true) 3 ∧ mismatch (.put v a true) 2 ∧ mismatch (.send v a true) 2

/-! ### Bundles and events of vats and jobs (R203 to R246) -/

/-- BUNDLE: the bundle at the pc issues from the instruction cache. An empty one goes on to the next bundle, which bit 23
of its head puts at the next 256-byte line; in one with an SCL and a CTL slot both read the registers as they were
before it (R220, R221, R223); a reserved bit of the head traps, and so does a pc outside the code area. A parity mismatch
of the cached line drops it, to be fetched again (R209). Without its line in the cache, or in a vat that does not run,
nothing happens.

ICACHE_FILL: the line of the next bundle enters its set of four, or the line after it where that is present; a word of
the first that cannot be read faults the step with FETCH_UNCORRECTABLE, of the second nothing enters (R208, R246). -/
def Obligations.BundlesFetchAndIssue : Prop :=
  (
  ∀ (s : State) (v : Fin 128) (p cp : Bool), s.live →
    let x := s.vat v
    let pc := x.pc.toNat
    let y := x.touch pc
    (x.run ≠ .running → Runs (.bundle v p cp) s s) ∧
    (x.run = .running → pc % 4 ≠ 0 ∨ s.codeSize v ≤ pc →
      ∃ t, Runs (.bundle v p cp) s t ∧ Traps v .codeRange none 0 s t) ∧
    (x.run = .running → pc % 4 = 0 → pc < s.codeSize v →
      (x.cached pc = none → Runs (.bundle v p cp) s s) ∧
      (x.cached pc ≠ none → ∃ t, Runs (.bundle v p true) s t ∧ OnlyVat v s t ∧
        t.vat v = { x with icache := (t.vat v).icache } ∧ (t.vat v).cached pc = none ∧
        ∀ k, k ≠ pc / 256 % 64 → tabGet [] (t.vat v).icache k = tabGet [] x.icache k) ∧
      ∀ line, x.cached pc = some line →
        let bs := line.drop (pc % 256)
        let head := natOfBytes (bs.take 4)
        (head = 0 → ∃ t, Runs (.bundle v p false) s t ∧ VatBecomes v (y.onward pc (pc + 4)) s t) ∧
        (head = 2 ^ 23 → ∃ t, Runs (.bundle v p false) s t ∧ VatBecomes v (y.onward pc ((pc / 256 + 1) * 256)) s t) ∧
        (head % 2 ^ 23 ≠ 0 → ∃ t, Runs (.bundle v p false) s t ∧ Traps v .bundleFormat none 0 s t) ∧
        ∀ (rd ra rb rc : Fin 32) (imm : Word), head = 3 * 2 ^ 24 → pc % 256 + 16 ≤ 256 →
          natOfBytes ((bs.drop 4).take 8) = ctlWord 2 rc 0 false imm →
          natOfBytes ((bs.drop 12).take 4) = sclWord 1 rd ra rb →
          imm.toNat % 4 = 0 → imm.toNat < s.codeSize v →
            ∃ t, Runs (.bundle v p false) s t ∧
              VatBecomes v ((y.setSreg rd (x.sreg ra + x.sreg rb)).branch (decide (x.sreg rc = 0)) imm pc (pc + 16)) s t)) ∧
  (
  ∀ (s : State) (v : Fin 128) (errs : Errs), s.live → s.jobOf v ≠ none →
    let x := s.vat v
    let c := Instr.icacheFill v errs
    let here := x.pc.toNat / 256 * 256
    let a := if x.cached here = none then here else here + 256
    let read := (s.told errs).winRead (s.vatPart v) (s.bundleOffset v a) 256
    let base := s.after read.2
    (s.codeSize v ≤ a ∨ x.cached a ≠ none → Runs c s s) ∧
    (a < s.codeSize v → x.cached a = none →
      (read.2.blocked = true → Runs c s s) ∧
      (read.2.blocked = false → read.1.fail = none →
        ∃ t, Runs c s t ∧ OnlyVat v base t ∧ t.vat v = { x with icache := (t.vat v).icache } ∧
          (t.vat v).cached a = some read.1.bytes ∧ (tabGet [] (t.vat v).icache (a / 256 % 64)).length ≤ 4 ∧
          ∀ k, k ≠ a / 256 % 64 → tabGet [] (t.vat v).icache k = tabGet [] x.icache k) ∧
      (read.2.blocked = false → read.1.fail ≠ none → a = here → ∃ t, Runs c s t ∧ StepFaults v
        { code := 0x0301, severity := 1, part := 0, path := 1, unit := v, addrKind := 1,
          addr := s.bundleOffset v a, detail0 := trapDetail .fetchUncorrectable none 0 } base t) ∧
      (read.2.blocked = false → read.1.fail ≠ none → a ≠ here → Runs c s base)))

/-- INBOUND_WRITE: the oldest line at a vat's port is performed and leaves the buffer. A line that SLD asked for is read
from the window now, and a read that fails faults the step; the others brought their data. The last line of a transfer
frees its transfer slot, an END that waited for it goes on, and a SEND is acknowledged; a line's flag is set once the line
is performed; a WAITF whose condition now holds lets its vat go on (R203, R231, R233, R244, R314, R426). It waits while
the vat clears itself (R206), behind an earlier SST to the granules that it reads (R316), and while a granule that it
reads is read again (R526). -/
def Obligations.InboundWrites : Prop :=
  ∀ (s : State) (v : Fin 128) (l : Inbound) (rest : List Inbound) (errs : Errs), s.live → (s.vat v).inbound = l :: rest →
    let x := s.vat v
    let c := Instr.inboundWrite v errs
    let idle := fun (z : Vat) => ∀ a m c d, z.run ≠ .waitf a m c d
    let read := fun (a : Nat × Nat) => (s.told errs).winRead a.1 a.2 2048
    (x.run = .clearing ∨ s.loadBlocked v l = true → Runs c s s) ∧
    (x.run ≠ .clearing → s.loadBlocked v l = false → ∀ a, l.read = some a →
      ((read a).2.blocked = true → Runs c s s) ∧
      (∀ f, (read a).2.blocked = false → (read a).1.fail = some f → ∃ t, Runs c s t ∧
        StepFaults v (readInfo a.1 3 v a.2 f 0 ringNone 1) (s.after (read a).2) t)) ∧
    ∀ (base : State) (d : Line), (l.read = none ∧ base = s ∧ d = l.data) ∨ (∃ a, l.read = some a ∧
        (read a).2.blocked = false ∧ (read a).1.fail = none ∧ base = s.after (read a).2 ∧
        d = BitVec.ofNat 16384 (natOfBytes (read a).1.bytes)) →
      let y := { x.putBytes l.addr l.lo l.hi d with inbound := rest }
      x.run ≠ .clearing → s.loadBlocked v l = false →
        (∀ k, k ≠ l.addr % 2 ^ 22 / 2048 → y.line k = x.line k) ∧
        (l.addr < 2 ^ 22 → ∀ b, b < 2048 → field (y.line (l.addr / 2048)) (8 * b) 8 =
          if l.lo ≤ b ∧ b < l.hi then field d (8 * b) 8 else field (x.line (l.addr / 2048)) (8 * b) 8) ∧
        (idle x → l.flag = none → l.last = false → ∃ t, Runs c s t ∧ VatBecomes v y base t) ∧
        (∀ a m k, x.run = .waitf a m k 0 → l.flag = none → l.last = false →
          ∃ t, Runs c s t ∧ VatBecomes v
            (if (if k then y.word a &&& m = 0 else y.word a &&& m = m) then { y with run := .running } else y) base t) ∧
        (∀ w k, idle x → l.flag = none → l.last = true → l.src = .vat w k → (s.vat w).run ≠ .ending →
          ∃ t, Runs c s t ∧ t = { base with vats := t.vats, freshCount := t.freshCount } ∧
            (w = v.val → t.vat v = { y with xfers := tabErase k x.xfers }) ∧
            (w ≠ v.val → t.vat v = y ∧ t.vat w = { s.vat w with xfers := tabErase k (s.vat w).xfers }) ∧
            ∀ d, d ≠ v.val → d ≠ w → t.vat d = s.vat d) ∧
        (∀ w k, idle x → l.flag = none → l.last = true → l.src = .vat w k → (s.vat w).run = .ending →
          tabErase k (s.vat w).xfers = [] → s.nbeBusy w = false → s.jobOf w = none →
          ∃ t, Runs c s t ∧ (t.vat w).run = .ended ∧ (t.vat w).xfers = []) ∧
        (∀ h, idle x → l.flag = none → l.last = true → l.src = .fabric h →
          ∃ t, Runs c s t ∧ t = s.after ((base.modVat v fun _ => y).sendAck h)) ∧
        (∀ a b n, idle x → l.flag = some (v.val, a, b) → a < 2 ^ 22 → a % 4 = 0 → b < 32 → l.last = true → l.src = .nbe n →
          ∃ t, Runs c s t ∧ OnlyVat v base t ∧ (t.vat v).inbound = rest ∧
            (t.vat v).word a = y.word a ||| BitVec.ofNat 32 (2 ^ b))

/-- SST_COMPLETE: the stored lines become visible in the window, byte by byte, and no other byte changes; the transfer
slot is free and its flag is set (R244, R325). It waits behind an earlier SST to one of its stacks, behind an earlier SLD
that has still to read one of its granules (R316), and while one of them is read again (R526).

SEND_DEPART: the lines of a SEND leave, a head cell and 32 cells a line: at its beat in a latency-critical job, at the
next beat where it asked for none, and late, with an overrun counted, where its beat has passed. It waits while its port
is not UP, in a hold that stops it, behind an earlier SEND to the same vat, and after it has left (R245, R415, R419,
R438). -/
def Obligations.TransfersLeave : Prop :=
  (
  ∀ (s : State) (v : Fin 128) (k : Fin 8) (errs : Errs) (x : Xfer), s.live → tabFind (s.vat v).xfers k = some x →
    x.kind = .sst →
    let c := Instr.sstComplete v k errs
    let n := s.vatPart v
    let u := (s.told errs).sstWrite v x
    let y := { s.vat v with xfers := tabErase k (s.vat v).xfers }
    let dpa := fun i => (s.part n).dpa (x.addr + i)
    (s.sstBlocked v x = true ∨ u.blocked = true → Runs c s s) ∧
    (s.sstBlocked v x = false → u.blocked = false → (s.vat v).run ≠ .ending → x.addr % 64 = 0 →
      (s.part n).inWindow x.addr (2048 * x.data.length) = true → x.data.length ≤ 2048 →
      (∀ i d, i < 2048 * x.data.length → dpa i = some d →
        u.mem.byte d = some (field (x.data.getD (i / 2048) 0) (8 * (i % 2048)) 8)) ∧
      (∀ a, (∀ i, i < 2048 * x.data.length → dpa i ≠ some a) → u.mem.byte a = s.mem.byte a) ∧
      u.mem.bias = s.mem.bias ∧ StackOnly s (s.after u) ∧
      (x.flag = none → ∃ t, Runs c s t ∧ VatBecomes v y (s.after u) t) ∧
      (∀ a b, x.flag = some (v.val, a, b) → a < 2 ^ 22 → a % 4 = 0 → b < 32 → (∀ e m k d, (s.vat v).run ≠ .waitf e m k d) →
        ∃ t, Runs c s t ∧ OnlyVat v (s.after u) t ∧ (t.vat v).xfers = y.xfers ∧
          (t.vat v).word a = (s.vat v).word a ||| BitVec.ofNat 32 (2 ^ b)))) ∧
  (
  ∀ (s : State) (v : Fin 128) (k : Fin 8) (x : Xfer), s.live → tabFind (s.vat v).xfers k = some x → x.kind = .send →
    let port := x.route / 4096
    let sw := (s.part (s.vatPart v)).swarm.toNat
    let free := x.departed = none ∧ (s.port port).state = .up ∧ (s.vat v).sendBlocked s x = false
    let timed := fun (j : Job) (b : Nat) => s.jobOf v = some j ∧ j.lc = true ∧ j.state = .running ∧
      s.inHold sw = false ∧ x.beat = some b ∧ (s.slot sw).divisor = 1 ∧ j.beatSub = 0
    (x.departed ≠ none ∨ (s.port port).state ≠ .up ∨ (s.vat v).sendBlocked s x = true ∨
      (s.inHold sw = true ∧ (x.beat ≠ none ∨ s.vatLc v = false)) → Runs (.sendDepart v k) s s) ∧
    (free → s.vatLc v = true ∨ s.inHold sw = false → x.beat = none →
      let gone := { x with departed := some ((s.tmb.beat + 1) % 2 ^ 64), clock := tabGet 0 (s.advance 1).tmb.clocks sw }
      let u := (s.advance 1).modVat v fun y => { y with xfers := tabPut k gone y.xfers }
      ∃ t, Runs (.sendDepart v k) s t ∧ (lineCells x.data).length = 32 * x.data.length ∧
        t = u.sendCells port { head := u.sendHead v k x ((s.advance 1).jobBeat v), cells := lineCells x.data }) ∧
    (∀ j b, free → timed j b → j.beat ≤ b →
      ∃ t, Runs (.sendDepart v k) s t ∧ t.tmb.beat = (s.tmb.beat + (b - j.beat)) % 2 ^ 64 ∧ t.jobBeat v = b ∧
        t.pwr = s.pwr ∧
        tabFind (t.vat v).xfers k = some { x with departed := some t.tmb.beat, clock := tabGet 0 t.tmb.clocks sw }) ∧
    (∀ j b, free → timed j b → b < j.beat →
      ∃ t, Runs (.sendDepart v k) s t ∧ t.tmb.beat = (s.tmb.beat + 1) % 2 ^ 64 ∧
        t.pwr.overruns = s.pwr.overruns + 1 ∧ (tabFind (t.vat v).xfers k).map (·.departed) = some (some t.tmb.beat)))

/-- BSYNC_RELEASE: the boundary that a BSYNC waits for begins: the timebase has reached it, and the vat goes on; in a hold
no job beat passes, and it waits (R230, R438).

The yield barrier: once every vat of a job that has not ended waits at its yield point with no transfer and no
near-bank job outstanding, all go on, or with a preemption pending all hand their port to the save engine (R212, R215). Before that
nothing happens. -/
def Obligations.BarriersRelease : Prop :=
  (
  ∀ (s : State) (v : Fin 128) (T id : Nat) (j : Job), s.live → (s.vat v).run = .bsync T → (s.vat v).job = some id →
    tabFind s.jobs id = some j →
    let sw := (s.part j.part).swarm.toNat
    (s.inHold sw = true → Runs (.bsyncRelease v) s s) ∧
    (s.inHold sw = false →
      ∃ t, Runs (.bsyncRelease v) s t ∧ t.vat v = { s.vat v with run := .running } ∧
        (∀ d, d ≠ v.val → t.vat d = s.vat d) ∧
        t = { s with vats := t.vats, jobs := t.jobs, tmb := { s.tmb with beat := t.tmb.beat, clocks := t.tmb.clocks } } ∧
        (j.lc = true → j.state = .running → j.beat ≤ T → j.beatSub < max 1 (s.slot sw).divisor →
          tabFind t.jobs id = some { j with beat := T, beatSub := if j.beat = T then j.beatSub else 0 }) ∧
        (j.lc = false → t.tmb.beat = (s.tmb.beat + 1) % 2 ^ 64))) ∧
  (
  ∀ (s : State) (id : Nat) (j : Job), s.live → tabFind s.jobs id = some j →
    let waits := fun (v : Nat) => (s.vat v).xfers = [] ∧ s.nbeBusy v = false ∧ ∃ k, (s.vat v).run = .yield k
    let due := fun (v : Nat) => v < 128 ∧ j.hdr.vats.getLsbD v = true ∧ v ∉ j.ended
    ((∃ v, due v ∧ ¬waits v) → Runs (.yieldBarrier id) s s) ∧
    ((∃ v, due v) → (∀ v, due v → waits v) →
      ∃ t, Runs (.yieldBarrier id) s t ∧ t = { s with vats := t.vats, jobs := t.jobs } ∧
        (∀ k, k ≠ id → tabFind t.jobs k = tabFind s.jobs k) ∧
        (j.state ≠ .preempting → t.jobs = s.jobs ∧ (∀ v, due v → t.vat v = { s.vat v with run := .running }) ∧
          ∀ v, ¬due v → t.vat v = s.vat v) ∧
        (j.state = .preempting → (∃ k, tabFind t.jobs id = some { j with state := .saving, yieldStep := k }) ∧
          ∀ v, due v → t.vat v = { s.vat v with run := .saving })))

/-- What a save area holds comes back: a vat loaded from the save area of a vat has its scalar registers, loop levels,
depth, pc and the listed scratchpad lines (R213, R214, R226).

Preemption saves and restores a job (R215): SAVE_COMPLETE frees the vats of a job that the save engine has, and of a
job of one vat writes its save area into the window; RESTORE reads the areas back, and a vat whose area cannot be read
ends the job; RESTORE_COMPLETE then lets the job go on at a multiple of 64 beats, and before that does nothing. A failed
save or restore ends the job (R217). An access to a granule that is read again waits (R526). -/
def Obligations.PreemptionSavesRestores : Prop :=
  (
  ∀ (x y : Vat) (v step program now beat draw : Nat) (lines : List Nat), v < 128 → lines.Nodup →
    (∀ k ∈ lines, k < 2048) → x.depth ≤ 4 →
    let z := loadSave y draw (saveArea x v step program now beat lines)
    (∀ r : Fin 32, z.sreg r = x.sreg r) ∧ z.pc = x.pc ∧ z.depth = x.depth ∧
      (∀ k, k < 4 → tabGet {} z.loops k = tabGet {} x.loops k) ∧ ∀ k ∈ lines, z.line k = x.line k) ∧
  (
  ∀ (s : State) (id : Nat) (j : Job), s.live → tabFind s.jobs id = some j → j.id = id →
    (j.state = .saving → (∀ v ∈ j.vatList, (s.vat v).inbound = []) → (s.saveComplete id none).blocked = false →
      ∃ t, Runs (.saveComplete id none) s t ∧
        ∃ k, tabFind t.jobs id = some k ∧ k.preemptStamp = s.stamp + 1 ∧ (k.state = .preempted ∨ k.state = .restoring)) ∧
    (∀ v, v < 128 → j.vatList = [v] →
      let area := saveArea (s.vat v) v j.yieldStep (j.hdr.fingerprint.toNat % 2 ^ 64) s.tmb.beat j.beat
        (liveLines j.hdr j.yieldStep v)
      let read := s.winRead j.part (s.saveOffset j.part v) (saveSize (liveLines j.hdr j.yieldStep v).length)
      (j.state = .saving → (s.vat v).inbound = [] → (s.winWrite j.part (s.saveOffset j.part v) area).1.blocked = false →
        ∃ t, Runs (.saveComplete id none) s t ∧ t.mem = (s.winWrite j.part (s.saveOffset j.part v) area).1.mem.canon) ∧
      (j.state = .restoring → read.2.blocked = true → Runs (.restore id) s s) ∧
      (j.state = .restoring → read.2.blocked = false → read.1.fail = none →
        ∃ t, Runs (.restore id) s t ∧ t = { s.after read.2 with vats := t.vats, jobs := t.jobs } ∧
          (∀ w, w ≠ v → t.vat w = s.vat w) ∧ t.vat v = loadSave (s.vat v) s.freshCount read.1.bytes ∧
          (∀ k, k ≠ id → tabFind t.jobs k = tabFind s.jobs k) ∧ tabFind t.jobs id = some { j with state := .restored }) ∧
      (j.state = .restoring → read.2.blocked = false → read.1.fail ≠ none →
        ∃ t, Runs (.restore id) s t ∧ tabFind t.jobs id = none)) ∧
    (j.state = .restoring → Runs (.restoreComplete id none) s s) ∧
    (j.state = .restored →
      ∃ t, Runs (.restoreComplete id none) s t ∧ t.tmb.beat = (s.tmb.beat + 64) / 64 * 64 % 2 ^ 64 ∧
        tabFind t.jobs id = some { j with state := .running } ∧
        ∀ v, (v ∈ j.vatList → t.vat v =
          { s.vat v with run := if v ∈ j.ended then .ended else .running, preempt := false }) ∧
          (v ∉ j.vatList → t.vat v = s.vat v)) ∧
    (∀ w : Fin 128, (j.state = .saving → ∃ t, Runs (.saveComplete id (some w)) s t ∧ tabFind t.jobs id = none) ∧
      (j.state = .restoring ∨ j.state = .restored →
        ∃ t, Runs (.restoreComplete id (some w)) s t ∧ tabFind t.jobs id = none)))

/-- VAT_CLEAR ends a vat's clear: all of it is zero and its instruction cache is empty, and what has arrived meanwhile
still waits (R206).

JOB_START: at its start beat, or at the next multiple of 64 where that has passed, a job that holds its footprint
begins: job beat 0, every vat at bundle address 0 with an empty cache. It waits in a hold, while an island's voltage
rises and while a vat clears (R88, R220, R438, R461, R485); one over several devices needs LOCK, and without it ends with
FAULT (R432).

LATE_START: where START_BEAT passes while the footprint of a latency-critical job is not free, its LAUNCH ends with
LATE_START and the job is gone; a best-effort job, or one that asked for no beat, waits on (R88, R464). -/
def Obligations.JobsStart : Prop :=
  (
  ∀ (s : State) (v : Fin 128), s.live →
    ((s.vat v).run = .clearing → ∃ t, Runs (.vatClear v) s t ∧ VatBecomes v { inbound := (s.vat v).inbound, job := (s.vat v).job } s t) ∧
    ((s.vat v).run ≠ .clearing → Runs (.vatClear v) s s)) ∧
  (
  ∀ (s : State) (id : Nat) (j : Job), s.live → tabFind s.jobs id = some j → j.state = .starting →
    let holdsBack := s.inHold (s.part j.part).swarm.toNat = true ∨ (∃ i ∈ j.islands, (s.vpoint i).rising ≠ none) ∨
      ∃ v ∈ j.vatList, (s.vat v).run = .clearing
    let b := if s.tmb.beat ≤ j.startBeat then j.startBeat else (s.tmb.beat + 63) / 64 * 64
    let lockless := 1 < j.hdr.devices ∧ s.tmb.lock ≠ .locked
    (lockless → j.id = id → ∃ t, Runs (.jobStart id) s t ∧ tabFind t.jobs id = none ∧ t.tmb = s.tmb ∧
      ∀ d, j.serving = false → d.id = j.desc → Held s j.part j.ring d →
        Ended s t j.part j.ring d { status := statusFault, detail := s.quantaOf j }) ∧
    (¬lockless → holdsBack → Runs (.jobStart id) s s) ∧
    (¬lockless → ¬holdsBack →
      ∃ t, Runs (.jobStart id) s t ∧ t.tmb.beat = b % 2 ^ 64 ∧
        tabFind t.jobs id = some { j with state := .running, startBeat := b, beat := 0, beatSub := 0, ended := [] } ∧
        (∀ v ∈ j.vatList, t.vat v = { s.vat v with pc := 0, run := .running, icache := [], preempt := false }) ∧
        ∀ v, v ∉ j.vatList → t.vat v = s.vat v)) ∧
  (
  ∀ (s : State) (id : Nat) (j : Job) (d : Desc), s.live → tabFind s.jobs id = some j → j.id = id →
    (j.state = .waiting → j.lc = true → j.askedBeat ≠ 0 → j.serving = false → d.id = j.desc →
      Held s j.part j.ring d →
      ∃ t, Runs (.lateStart id) s t ∧ tabFind t.jobs id = none ∧ t.tmb.beat = max s.tmb.beat (j.askedBeat + 1) % 2 ^ 64 ∧
        Ended s t j.part j.ring d { status := statusLateStart, detail := j.holdQuanta }) ∧
    (j.state ≠ .waiting ∨ j.lc = false ∨ j.askedBeat = 0 → Runs (.lateStart id) s s))

/-! ### Ring descriptors (R82 to R102, R610) -/

/-- Which byte of a descriptor a failed check names: of a reserved field the lowest byte with a reserved bit set, of a
field out of range where it begins; and of several checks the lowest such byte (R84).

A descriptor whose own fields fail ends with BAD_DESCRIPTOR and performs nothing; an opcode that no chapter defines
ends with BAD_OPCODE before that (R83, R84). A command that names another opcode than the descriptor that its ring starts
next, or a ring that starts none, does nothing. -/
def Obligations.DescriptorRefusals : Prop :=
  (
  ∀ (bs : List Byte) (cs : List FieldCheck) (off : Nat),
    (firstBad bs cs = none ↔ ∀ c ∈ cs, c.bad bs = none) ∧
    (firstBad bs cs = some off ↔ (∃ c ∈ cs, c.bad bs = some off) ∧ ∀ c ∈ cs, ∀ o, c.bad bs = some o → off ≤ o) ∧
    ∀ (lo len : Nat),
      ((FieldCheck.zero lo len).bad bs = none ↔ ∀ k, k < len → bs.getD (lo + k) 0 = 0) ∧
      ((FieldCheck.zero lo len).bad bs = some off ↔ lo ≤ off ∧ off < lo + len ∧ bs.getD off 0 ≠ 0 ∧
        ∀ k, lo ≤ k → k < off → bs.getD k 0 = 0) ∧
      ((FieldCheck.range lo true).bad bs = none) ∧ (FieldCheck.range lo false).bad bs = some lo) ∧
  (
  ∀ (s : State) (q : RingRef) (d : Desc) (errs : Errs), s.live →
    let n := q.vf.val
    let r := q.ring.val
    (s.startable n r = none → Runs (.nop q) s s ∧ Runs (.fence q) s s ∧ Runs (.biasSet q) s s ∧ Runs (.reqCancel q) s s ∧
      Runs (.copy q errs) s s ∧ Runs (.undefinedOpcode q) s s) ∧
    (Starts s n r d →
      (opcodeDefined (descOpcode d.bits) = false → Completes (.undefinedOpcode q) s n r d { status := statusBadOpcode }) ∧
      (opcodeDefined (descOpcode d.bits) = true → Runs (.undefinedOpcode q) s s) ∧
      (descOpcode d.bits ≠ 0x00 → Runs (.nop q) s s) ∧
      (descOpcode d.bits = 0x00 → EndsBadField (.nop q) s n r d fun _ => [.zero 8 56]) ∧
      (descOpcode d.bits = 0x01 → ∀ h, EndsBadField (.launch q h errs) s n r d launchChecks) ∧
      (descOpcode d.bits = 0x02 → EndsBadField (.fence q) s n r d fenceChecks) ∧
      (descOpcode d.bits = 0x03 → ∀ w b, EndsBadField (.flagSet q w b errs) s n r d flagSetChecks) ∧
      (descOpcode d.bits = 0x04 → ∀ w, EndsBadField (.flagWait q w errs) s n r d flagWaitChecks) ∧
      (descOpcode d.bits = 0x05 → EndsBadField (.biasSet q) s n r d biasSetChecks) ∧
      (descOpcode d.bits = 0x20 → EndsBadField (.reqSubmit q errs) s n r d reqSubmitChecks) ∧
      (descOpcode d.bits = 0x21 → EndsBadField (.reqCancel q) s n r d reqCancelChecks) ∧
      (descOpcode d.bits = 0x23 → EndsBadField (.reqRead q) s n r d reqReadChecks) ∧
      (descOpcode d.bits = 0x24 → EndsBadField (.variantReg q errs) s n r d variantRegChecks) ∧
      (descOpcode d.bits = 0x25 → EndsBadField (.variantUnreg q) s n r d variantUnregChecks) ∧
      (descOpcode d.bits = 0x26 → ∀ h, EndsBadField (.serveStart q h errs) s n r d serveStartChecks) ∧
      (descOpcode d.bits = 0x27 → EndsBadField (.serveStop q) s n r d serveStopChecks) ∧
      (descOpcode d.bits = 0x30 → EndsBadField (.pageUpdate q) s n r d pageUpdateChecks) ∧
      (descOpcode d.bits = 0x31 → ∀ a, EndsBadField (.cocoonSupply q a) s n r d cocoonSupplyChecks) ∧
      (descOpcode d.bits = 0x32 → EndsBadField (.cocoonReclaim q) s n r d cocoonReclaimChecks)))

/-- NOP completes OK and does nothing (R83). A FENCE covers the earlier descriptors of its ring, or with scope partition
also every descriptor that the other rings hold. One that covers nothing completes at once: OK, or with STOP_ON_ERROR and
a failed descriptor since the ring's last FENCE with DEP_FAILED, and then the ring stops, to resume at the slot after the
FENCE; else it waits for what it covers, and completes with the last of it (R91, R92; log 112).

BIAS_SET flips every page of its range and completes (R62, R98). To device bias the device first takes every line of
the pages that are in host bias, with what the host held modified, and waits while one of them is read again (R60, R526);
to host bias no byte changes. Misaligned or outside the window it ends with BAD_ADDRESS and no page flips. -/
def Obligations.NopFenceBias : Prop :=
  (
  ∀ (s : State) (q : RingRef) (d : Desc), s.live →
    let n := q.vf.val
    let r := q.ring.val
    let g := s.ring n r
    let covers := s.fenceCovers n r d
    let failed := d.bits.getLsbD 72 = true ∧ ∃ x ∈ s.done, x.failed = true ∧
      fenceExamines n r d.id (decide (dfield d.bits 8 1 = 1)) s.stamp g.fenceMark x = true
    let left := fun (st : Nat) =>
      { g with
        descs := g.descs.filter fun x => x.id != d.id, fenceMark := s.stamp + 1,
        owed := g.owed ++ (if descQuiet d.bits = true ∧ st = statusOk then [] else [endRecord d { status := st }]) }
    let part := dfield d.bits 8 1 = 1
    (∀ k id, (k, id) ∈ covers ↔ ∃ e ∈ (s.ring n k).descs, e.id = id ∧
      ((k = r ∧ id < d.id ∧ (part ∨ e.orphan = false)) ∨ (k ≠ r ∧ k < 8 ∧ part))) ∧
    (∀ (k : Fin 8) f ready, k ≠ q.ring → s.startable n r = some d → (s.ring n r).find d.id = some d →
      descOpcode d.bits = 0x00 → CleanDesc d (fun _ => [.zero 8 56]) → (s.ring n k).find f.id = some f →
      f.state = .fence [(r, d.id)] ready → f.orphan = false → f.bits.getLsbD 72 = false → (s.ring n k).takes →
      (s.part n).discard = false → (∀ x ∈ (s.vf n).rings, ∀ y ∈ x.2.descs, ∀ c z, y.state = .fence c z → y = f) →
      ∃ t, Runs (.nop q) s t ∧ (∀ y ∈ (t.ring n k).descs, y.id ≠ f.id) ∧
        (t.ring n k).owed = (s.ring n k).owed ++ if descQuiet f.bits = true then [] else [endRecord f {}]) ∧
    (Starts s n r d →
      (descOpcode d.bits = 0x00 → CleanDesc d (fun _ => [.zero 8 56]) → Completes (.nop q) s n r d {}) ∧
      (descOpcode d.bits = 0x02 → CleanDesc d fenceChecks → covers = [] → ¬failed →
        ∃ t, Runs (.fence q) s t ∧ OnlyRing n r s t ∧ t.ring n r = left statusOk) ∧
      (descOpcode d.bits = 0x02 → CleanDesc d fenceChecks → covers = [] → failed →
        ∃ t, Runs (.fence q) s t ∧ OnlyRing n r s t ∧ t.ring n r =
          if g.enable then
            { left statusDepFailed with
              resumeAt := some (d.slot + 1), stopped := true,
              stopCause := if g.stopped then g.stopCause else BitVec.ofNat 8 statusDepFailed }
          else left statusDepFailed) ∧
      (descOpcode d.bits = 0x02 → CleanDesc d fenceChecks → covers ≠ [] →
        ∃ t, Runs (.fence q) s t ∧ OnlyRing n r s t ∧ t.ring n r = g.waits d (.fence covers s.stamp)))) ∧
  (
  ∀ (s : State) (q : RingRef) (d : Desc), s.live →
    let n := q.vf.val
    let r := q.ring.val
    let w := dfield d.bits 8 8
    let pages := dfield d.bits 0x10 4
    let toDevice := dfield d.bits 0x14 1 = 1
    let held := s.held ((s.part n).segs w (4096 * pages)) = true
    let page := fun k => ((s.part n).dpa (w + 4096 * k)).map (· / 4096)
    Starts s n r d → descOpcode d.bits = 0x05 → CleanDesc d biasSetChecks →
      (w % 4096 ≠ 0 ∨ (s.part n).inWindow w (4096 * pages) = false →
        Completes (.biasSet q) s n r d { status := statusBadAddress }) ∧
      (w % 4096 = 0 → (s.part n).inWindow w (4096 * pages) = true →
        (toDevice → held → Runs (.biasSet q) s s) ∧
        (¬(toDevice ∧ held) → ∃ t, Runs (.biasSet q) s t ∧ Ended s t n r d {} ∧
          OnlyRing n r { s with mem := t.mem, out := t.out } t ∧
          (∀ k p, k < pages → page k = some p → t.mem.devBias p = decide toDevice) ∧
          (∀ p, (∀ k, k < pages → page k ≠ some p) → t.mem.devBias p = s.mem.devBias p) ∧
          (∀ a, ¬toDevice ∨ s.mem.devBias (a / 4096) = true ∨ (∀ k, k < pages → page k ≠ some (a / 4096)) →
            t.mem.byte a = s.mem.byte a) ∧
          (¬toDevice → t.out = s.out ∧ t.mem.marked = s.mem.marked) ∧
          (∀ k p i, toDevice → k < pages → page k = some p → s.mem.devBias p = false → i < 64 →
            Output.cacheOwn (4096 * p + 64 * i) ∈ t.out ∧
            ∃ draw, ∀ b, b < 64 → t.mem.byte (4096 * p + 64 * i + b) =
              match Config.hostLine draw (4096 * p + 64 * i) with
              | some x => some (field x (8 * b) 8)
              | none => s.mem.byte (4096 * p + 64 * i + b)))))

/-- FLAG_SET replaces the flag word by (old & ~CLEAR) | SET and answers the old one (R94). A word of the window is read
from its line, which the device takes with what the host held modified, and no other byte changes after that; a host word
comes with the command, and the new one leaves. Misaligned or outside the window it ends with BAD_ADDRESS, in a
device-bias page with BAD_BIAS (R57, R93); a word that cannot be read or written fails it with POISON_READ and a record
(R511), a host word after the third attempt (R506). A wait whose condition the new word meets ends (R97).

FLAG_WAIT evaluates its condition at its start and after every loss of the line: where it holds the wait ends OK with
the word it saw, else it waits; when TIMEOUT has passed it ends with TIMEOUT and the last word seen (R96, R97). The word
lies in the window, where it is read from its line, or in host memory. Misaligned or outside the window it ends with
BAD_ADDRESS, in a device-bias page with BAD_BIAS (R57, R93). A host read that fails is made again, and the wait fails with
POISON_READ after the third (R506, R511). -/
def Obligations.FlagDescriptors : Prop :=
  (
  ∀ (s : State) (q : RingRef) (d : Desc) (errs : Errs), s.live →
    let n := q.vf.val
    let r := q.ring.val
    let addr := dfield d.bits 8 8
    let host := d.bits.getLsbD 0x100
    let set : DWord := BitVec.ofNat 64 (dfield d.bits 0x10 8)
    let clear : DWord := BitVec.ofNat 64 (dfield d.bits 0x18 8)
    let new := fun (old : DWord) => (old &&& ~~~ clear) ||| set
    let noWaits := ∀ m k, m < 16 → k < 8 → s.activeWait m k = none
    let c := fun (old : Option DWord) (b : Bool) => Instr.flagSet q old b errs
    let read := (s.told errs).winRead n addr 8
    let base := s.after read.2
    let tries := (s.ring n r).flagTries
    let asks := if s.gen.ats.contains (n + 1) then [Output.translate (n + 1) (BitVec.ofNat 64 addr)] else []
    Starts s n r d → descOpcode d.bits = 0x03 → CleanDesc d flagSetChecks →
      (addr % 8 ≠ 0 ∨ (host = false ∧ (s.part n).inWindow addr 8 = false) →
        ∀ w b, Completes (c w b) s n r d { status := statusBadAddress }) ∧
      (addr % 8 = 0 → host = false → ∀ a w b, (s.part n).inWindow addr 8 = true → (s.part n).dpa addr = some a →
        (s.mem.devBias (a / 4096) = true → Completes (c w b) s n r d { status := statusBadBias }) ∧
        (s.mem.devBias (a / 4096) = false → read.2.blocked = true → Runs (c w b) s s) ∧
        (s.mem.devBias (a / 4096) = false → read.2.blocked = false → ∀ f, read.1.fail = some f →
          ∃ t, Runs (c w b) s t ∧ Ended s t n r d { status := statusPoisonRead, errSeq := base.err.nextSeq } ∧
            t.err = base.recorded { readInfo n 16 0 addr f 0 r 1 with tag := descTag d.bits }) ∧
        (s.mem.devBias (a / 4096) = false → read.2.blocked = false → read.1.fail = none → noWaits →
          let old : DWord := BitVec.ofNat 64 (natOfBytes read.1.bytes)
          Output.cacheOwn (a / 64 * 64) ∈ base.out ∧
          ∃ t, Runs (c w b) s t ∧ Ended s t n r d { result := old.toNat } ∧ OnlyRing n r { base with mem := t.mem } t ∧
            (∀ k, k < 8 → t.mem.byte (a + k) = some (field (new old) (8 * k) 8)) ∧
            ∀ x, (∀ k, k < 8 → x ≠ a + k) → t.mem.byte x = base.mem.byte x)) ∧
      (addr % 8 = 0 → host = true →
        (noWaits → ∀ old, ∃ t, Runs (c (some old) true) s t ∧
          Ended (s.modRing n r fun g => { g with flagTries := 0 }) t n r d { result := old.toNat } ∧
          OnlyRing n r { s with out := t.out } t ∧ ∃ a, (asks = [] → a = BitVec.ofNat 64 addr) ∧
            t.out = s.out ++ asks ++ [.hostWrite (n + 1) a (bytesOfNat 8 (new old).toNat)]) ∧
        (∀ old, ∃ t, Runs (c (some old) false) s t ∧ t.err = s.recorded
            { hostFlagInfo 0x0202 (BitVec.ofNat 64 addr) with part := n, tag := descTag d.bits, ring := r } ∧
          Ended (s.modRing n r fun g => { g with flagTries := 0 }) t n r d
            { status := statusPoisonRead, errSeq := s.err.nextSeq }) ∧
        (∀ b, tries + 1 < 3 → ∃ t, Runs (c none b) s t ∧ OnlyRing n r { s with out := s.out ++ asks } t ∧
          (t.ring n r).flagTries = tries + 1 ∧ (t.ring n r).descs = (s.ring n r).descs) ∧
        (∀ b, 3 ≤ tries + 1 → ∃ t, Runs (c none b) s t ∧ t.err = s.recorded
            { hostFlagInfo 0x0201 (BitVec.ofNat 64 addr) with part := n, tag := descTag d.bits, ring := r } ∧
          ∀ x ∈ (t.ring n r).descs, x.id ≠ d.id)) ∧
      (∀ k e last at_ (old : DWord), addr % 8 = 0 → host = true → k < 8 → k ≠ r → s.activeWait n k = some (e, last, at_) →
        Held s n k e → dfield e.bits 8 8 = addr → e.bits.getLsbD 0x120 = true →
        flagWaitHolds (new old) (BitVec.ofNat 64 (dfield e.bits 0x10 8)) (BitVec.ofNat 64 (dfield e.bits 0x18 8))
          (e.bits.getLsbD 0x121) = true →
        ∃ t, Runs (c (some old) true) s t ∧ ∀ x ∈ (t.ring n k).descs, x.id ≠ e.id)) ∧
  (
  ∀ (s : State) (q : RingRef) (d : Desc) (errs : Errs), s.live →
    let n := q.vf.val
    let r := q.ring.val
    let addr := dfield d.bits 8 8
    let host := d.bits.getLsbD 0x120
    let mask : DWord := BitVec.ofNat 64 (dfield d.bits 0x10 8)
    let value : DWord := BitVec.ofNat 64 (dfield d.bits 0x18 8)
    let holds := fun (w : DWord) => if d.bits.getLsbD 0x121 then w &&& mask ≠ value else w &&& mask = value
    let s' := s.modRing n r fun g => { g with flagTries := 0, flagStart := none }
    let read := (s.told errs).winRead n addr 8
    let tries := (s.ring n r).flagTries
    let limit := dfield d.bits 0x20 4
    let dl := if limit = 0 then none else some ((s.ring n r).flagStart.getD s.tmb.beat + limit * 250)
    let hostBase := if s.gen.ats.contains (n + 1) then { s with out := s.out ++ [.translate (n + 1) (BitVec.ofNat 64 addr)] }
      else s
    let sees := fun (word : Option DWord) (base : State) (w : DWord) => addr % 8 = 0 ∧
      ((host = true ∧ word = some w ∧ base = hostBase) ∨
       (host = false ∧ (s.part n).inWindow addr 8 = true ∧ (∃ a, (s.part n).dpa addr = some a ∧ s.mem.devBias (a / 4096) = false) ∧
        read.2.blocked = false ∧ read.1.fail = none ∧ base = s.after read.2 ∧ w = BitVec.ofNat 64 (natOfBytes read.1.bytes)))
    (Starts s n r d → descOpcode d.bits = 0x04 → CleanDesc d flagWaitChecks →
      (∀ word, addr % 8 ≠ 0 ∨ (host = false ∧ (s.part n).inWindow addr 8 = false) →
        Completes (.flagWait q word errs) s n r d { status := statusBadAddress }) ∧
      (∀ word a, addr % 8 = 0 → host = false → (s.part n).inWindow addr 8 = true → (s.part n).dpa addr = some a →
        s.mem.devBias (a / 4096) = true → Completes (.flagWait q word errs) s n r d { status := statusBadBias }) ∧
      (∀ word base w, sees word base w →
        (holds w → ∃ t, Runs (.flagWait q word errs) s t ∧ Ended s' t n r d { result := w.toNat } ∧ OnlyRing n r base t) ∧
        (¬holds w → ∃ t, Runs (.flagWait q word errs) s t ∧ OnlyRing n r base t ∧
          t.ring n r = (s'.ring n r).waits d (.flagWait w dl))) ∧
      (addr % 8 = 0 → host = true → tries + 1 < 3 → ∃ t, Runs (.flagWait q none errs) s t ∧ OnlyRing n r hostBase t ∧
        (t.ring n r).flagTries = tries + 1 ∧ (t.ring n r).descs = (s.ring n r).descs) ∧
      (addr % 8 = 0 → host = true → 3 ≤ tries + 1 → ∃ t, Runs (.flagWait q none errs) s t ∧ t.err = s.recorded
          { hostFlagInfo 0x0201 (BitVec.ofNat 64 addr) with part := n, tag := descTag d.bits, ring := r } ∧
        ∀ x ∈ (t.ring n r).descs, x.id ≠ d.id)) ∧
    (∀ last at_, Held s n r d → s.activeWait n r = some (d, last, at_) → ∀ word base w, sees word base w →
      (holds w → ∃ t, Runs (.flagLineLoss q word errs) s t ∧ Ended s' t n r d { result := w.toNat } ∧ OnlyRing n r base t) ∧
      (¬holds w → ∃ t, Runs (.flagLineLoss q word errs) s t ∧ OnlyRing n r base t ∧
        t.ring n r = (s'.ring n r).waits d (.flagWait w at_))) ∧
    (s.activeWait n r = none → (∀ word, Runs (.flagLineLoss q word errs) s s) ∧ Runs (.flagWaitTimeout q) s s) ∧
    (∀ last b, Held s n r d → s.activeWait n r = some (d, last, some b) →
      ∃ t, Runs (.flagWaitTimeout q) s t ∧ t.tmb.beat = max s.tmb.beat b % 2 ^ 64 ∧
        Ended s t n r d { status := statusTimeout, result := last.toNat }) ∧
    (∀ last, s.activeWait n r = some (d, last, none) → Runs (.flagWaitTimeout q) s s))

/-- LAUNCH: a settled program that passes every check of R610 is measured (R548) and becomes a job, which starts at the
beat that it asked for, or with START_BEAT 0 at the first multiple of 64 at least 64 beats later, once its footprint is
free (R88, R461). A LAUNCH that fails a check ends with that check's status, in their order; an argument table that cannot
be read ends it with POISON_READ and a record (R511). A multi-device program needs LOCK LOCKED; that this refuses it on the
root, whose LOCK reads FREE (R447), is the model's reading (log 28). -/
def Obligations.LaunchMakesJob : Prop :=
  ∀ (s : State) (q : RingRef) (d : Desc) (h : ProgHeader) (errs : Errs), s.live →
    let n := q.vf.val
    let r := q.ring.val
    let w := dfield d.bits 8 8
    let args := dfield d.bits 0x10 8
    let count := dfield d.bits 0x18 4
    let asked := dfield d.bits 0x20 8
    let p := s.part n
    let known := p.progLog.any (fun m => m.config == h.fingerprint) = true
    let placed := w % 4096 = 0 ∧ args % 64 = 0 ∧ p.inWindow w 1 = true ∧ p.inWindow args (16 * count) = true
    let fits := p.inWindow w h.size = true
    let read := (s.told errs).winRead n args (16 * count)
    let table := read.1.bytes
    let base := s.after read.2
    let matches_ := h.config = s.config n ∧ classRefused p h = false
    let c := Instr.launch q (some h) errs
    let ends := fun (e : Ending) => Ends c s n r d e
    Starts s n r d → descOpcode d.bits = 0x01 → CleanDesc d launchChecks →
      (¬placed → ∀ hdr, Completes (.launch q hdr errs) s n r d { status := statusBadAddress }) ∧
      (placed → ∃ t, Runs (.launch q none errs) s t ∧
        t.err = s.recorded { s.headerUnread n 16 w with part := n, tag := descTag d.bits, ring := r } ∧
        Ended s t n r d { status := statusPoisonRead, errSeq := s.err.nextSeq }) ∧
      (placed → ¬fits → ends { status := statusBadAddress }) ∧
      (placed → fits → ¬matches_ → ends { status := statusConfigMismatch }) ∧
      (placed → fits → matches_ → asked = 0 → 1 < h.devices → ends { status := statusBadDescriptor, detail := 0x20 }) ∧
      (placed → fits → matches_ → (asked ≠ 0 ∨ h.devices ≤ 1) →
        (read.2.blocked = true → Runs c s s) ∧
        (∀ f, read.2.blocked = false → read.1.fail = some f → ∃ t, Runs c s t ∧
          Ended s t n r d { status := statusPoisonRead, errSeq := base.err.nextSeq } ∧
          t.err = base.recorded { readInfo n 16 0 args f 0 r 1 with tag := descTag d.bits }) ∧
        (read.2.blocked = false → read.1.fail = none →
          (argsOk p h table count = false → ends { status := statusBadArgs }) ∧
          (argsOk p h table count = true → 1 < h.devices → s.tmb.lock ≠ .locked → ends { status := statusFault }) ∧
          (argsOk p h table count = true → (h.devices ≤ 1 ∨ s.tmb.lock = .locked) → asked ≠ 0 → asked < s.tmb.beat →
            ends { status := statusLateStart }) ∧
          (argsOk p h table count = true → (h.devices ≤ 1 ∨ s.tmb.lock = .locked) → (asked = 0 ∨ s.tmb.beat ≤ asked) →
            ∃ t, Runs c s t ∧ t.nextJob = s.nextJob + 1 ∧ SameMemory base t ∧
              (t.part n).count = (if known then p.count else p.count + 1) ∧
              (t.part n).chain = (if known then p.chain
                else sha256 (digestBytes p.chain ++ digestBytes h.imageDigest ++ digestBytes h.fingerprint)) ∧
              ∃ j, tabFind t.jobs s.nextJob = some j ∧ j.part = n ∧ j.ring = r ∧ j.desc = d.id ∧ j.tag = descTag d.bits ∧
                j.program = w ∧ j.hdr = h ∧ j.askedBeat = asked ∧ (j.state = .waiting ∨ j.state = .starting) ∧
                (s.jobs = [] → (s.srv n).state = .off → j.state = .starting ∧
                  j.startBeat = if asked = 0 then (s.tmb.beat + 127) / 64 * 64 else asked))))

/-! ### Copy descriptors (R115 to R139) -/

/-- What a copy descriptor may not be: checks 2 to 5 of R117, in their order.

How a copy descriptor is refused: a view record that cannot be read ends it with POISON_READ and a record, unless
its own fields are bad; the lowest field of check 1 that offends gives BAD_DESCRIPTOR and its place in DETAIL; a view
record outside the window or off a multiple of 64 gives BAD_ADDRESS; then checks 2 to 5 (R117, R118, R511).

A copy descriptor that passes its checks takes free channels, at most one a piece; with none free it waits. COPY and
RELAYOUT then begin; a FILL is carried out at once; a GATHER or SCATTER first reads its index list, and where that fails
the channel halts. A strict GATHER or SCATTER with an index out of range ends with BAD_DESCRIPTOR, DETAIL 0x10 and the
place of the first such index (R116, R117, R124, R132 to R135, R138). -/
def Obligations.CopiesBegin : Prop :=
  (
  ∀ (p : Part) (o : CopyOp) (dst : View),
    let views := dst :: o.reads
    let inside := ∀ v ∈ views, ∀ x ∈ v.spans, 0 ≤ x.1 ∧ p.inWindow x.1.toNat (x.2 - x.1).toNat = true
    let aligned := ∀ v ∈ views, v.base % 64 = 0 ∧ v.inner % 32 = 0 ∧ (∀ x ∈ v.outer, x.2 * (v.width : Int) % 512 = 0) ∧
      (v.mx = true → v.scaleBase % 64 = 0)
    let zero := (∃ x ∈ dst.outer, 1 < x.1 ∧ x.2 = 0) ∧ o.isReduce = false
    let meets := ∃ x ∈ dst.spans, ∃ v ∈ o.reads, ∃ y ∈ v.spans, max x.1 y.1 < min x.2 y.2
    (¬inside → copyStatus p o dst = some statusBadAddress) ∧
    (inside → ¬aligned → copyStatus p o dst = some statusAlignment) ∧
    (inside → aligned → zero → copyStatus p o dst = some statusZeroStrideWrite) ∧
    (inside → aligned → ¬zero → meets → copyStatus p o dst = some statusOverlap) ∧
    (inside → aligned → ¬zero → ¬meets → copyStatus p o dst = none)) ∧
  (
  ∀ (s : State) (q : RingRef) (d : Desc) (errs : Errs), s.live →
    let n := q.vf.val
    let r := q.ring.val
    let op := descOpcode d.bits
    let ptrs := (copyPtrs op).all
    let own := firstBad (descBytes d) (headerChecks ++ copyChecks op d.bits)
    let v := (s.told errs).viewReads n d ptrs
    let base := s.after v.2
    let view := fun p => ((v.1.recs.find? fun x => x.ptr == p).map fun x => viewOf x.bytes).getD
      { base := 0, scaleBase := 0, fmt := 0, extents := [], strides := [] }
    let o := copyOp op d.bits view
    let readable := own ≠ none ∨ v.1.fail = none
    ∀ c, (c, op) ∈ [(Instr.copy q errs, 0x10), (.fill q errs, 0x11), (.relayout q errs, 0x12), (.gather q errs, 0x13),
        (.scatter q errs, 0x14)] →
      let ends := fun (e : Ending) => ∃ t, Runs c s t ∧ OnlyRing n r base t ∧ Ended s t n r d e
      (s.startable n r = none → Runs c s s) ∧
      (Starts s n r d → v.2.blocked = false → s.noCopyWaits n →
        (∀ w f, own = none → v.1.fail = some (w, f) → ∃ t, Runs c s t ∧
          Ended s t n r d { status := statusPoisonRead, errSeq := base.err.nextSeq } ∧
          t.err = base.recorded { readInfo n 5 0 w f 0 r 1 with tag := descTag d.bits }) ∧
        (∀ off, readable → copyBad op d.bits own v.1.recs = some off →
          ends { status := statusBadDescriptor, detail := off }) ∧
        (readable → copyBad op d.bits own v.1.recs = none → v.1.recs.length < ptrs.length →
          ends { status := statusBadAddress }) ∧
        (∀ st, readable → copyBad op d.bits own v.1.recs = none → ptrs.length ≤ v.1.recs.length →
          copyStatus (s.part n) o.1 o.2 = some st → ends { status := st }))) ∧
  (
  ∀ (s : State) (q : RingRef) (d : Desc) (o : CopyOp) (dst : View) (errs : Errs), s.live →
    let n := q.vf.val
    let r := q.ring.val
    let op := descOpcode d.bits
    let v := ((s.told errs).viewReads n d (copyPtrs op).all).2
    let strict := !dst.nonAliasing
    let pieces := o.pieceCount dst strict
    let job : CopyJob :=
      { op := o, dst := dst, strictOrder := strict, index := [], left := [(0, pieces)], channels := [], keepers := [] }
    let w := v.setDesc n r d.id (.copy job)
    let free := w.freeChannels n
    let ch := free.headD 0
    let taken := free.take pieces
    let becomes := fun (c : Instr) (base : State) (g : Ring) => ∃ t, Runs c s t ∧ OnlyRing n r base t ∧ t.ring n r = g
    let halts := fun (c : Instr) (m base : State) (i : ErrInfo) (spent : Bool) => ∃ t, Runs c s t ∧
      t.mem = m.mem.canon ∧ t.err = base.recorded { i with unit := ch, tag := descTag d.bits } ∧ Ended s t n r d
        { status := if spent then statusChannelHalt else statusPoisonRead, detail := ch, chan := some ch,
          errSeq := base.err.nextSeq }
    let indexed := fun (c : Instr) (iv : View) (extent : Nat) (strictIndex : Bool) =>
      let at_ := iv.vecAddr [] 0
      let read := v.winRead n at_ (4 * iv.inner)
      let base := s.after read.2
      let index := indexList read.1.bytes
      let bad := fun (j : Nat) => j < index.length ∧ ¬(0 ≤ index.getD j (-1) ∧ index.getD j (-1) < (extent : Int))
      (read.2.blocked = true → Runs c s s) ∧
      (∀ f, read.2.blocked = false → read.1.fail = some f →
        halts c (read.2.copyForget n job) base (readInfo n 5 0 at_ f 0 r 1) f.spent) ∧
      (read.2.blocked = false → read.1.fail = none →
        ((strictIndex = false ∨ ∀ j, ¬bad j) →
          becomes c base ((s.ring n r).waits d (.copy { job with index := index, channels := taken }))) ∧
        ∀ j, strictIndex = true → bad j → (∀ i, i < j → ¬bad i) → ∃ t, Runs c s t ∧ OnlyRing n r base t ∧
          Ended s t n r d { status := statusBadDescriptor, detail := 0x10, result := j })
    let row := fun (c : Instr) (code : Nat) (begins : Prop) => op = code →
      (v.blocked = true → Runs c s s) ∧
      (v.blocked = false → free = [] → becomes c (s.after v) ((s.ring n r).waits d (.copy job))) ∧
      (v.blocked = false → free ≠ [] → begins)
    let begun := fun (c : Instr) => becomes c (s.after v) ((s.ring n r).waits d (.copy { job with channels := taken }))
    CopyStarts (s.told errs) n r d o dst → 0 < pieces →
      (∀ x ∈ w.copies n, x.2.2.channels = [] → x.1 = r ∧ x.2.1.id = d.id) →
      row (.copy q errs) 0x10 (begun (.copy q errs)) ∧
      row (.relayout q errs) 0x12 (begun (.relayout q errs)) ∧
      row (.fill q errs) 0x11 (∀ x sc, o = .fill x sc →
        let f := v.fillView n dst x sc
        (f.1.blocked = true → Runs (.fill q errs) s s) ∧
        (f.1.blocked = false → f.2 = [] → ∃ t, Runs (.fill q errs) s t ∧ Ended s t n r d {} ∧ OnlyRing n r (s.after f.1) t) ∧
        ∀ a more, f.1.blocked = false → f.2 = a :: more →
          halts (.fill q errs) (f.1.copyForget n job) (s.after f.1)
            { code := 0x0106, severity := 1, part := n, path := 5, addrKind := 1, addr := (s.part n).offsetOf a, ring := r,
              detail1 := a } (!v.isMarked a)) ∧
      row (.gather q errs) 0x13 (∀ src iv dim si, o = .gather src iv dim si →
        indexed (.gather q errs) iv (src.extents.getD dim 0) si) ∧
      row (.scatter q errs) 0x14 (∀ src iv dim si acc, o = .scatter src iv dim si acc →
        indexed (.scatter q errs) iv (dst.extents.getD dim 0) si))

/-- COPY_PIECE_COMPLETE: a piece is read, then it writes its part of the destination, and the last one ends the
descriptor with the number of its out-of-range indices; a failed read or merge halts the channel: one record, what the
descriptor would have written becomes unspecified, and it ends with the channel in DETAIL, with CHANNEL_HALT where a
budget ran out and with POISON_READ at a word marked before (R132, R134, R138). A piece that is not due changes nothing,
nor one on a channel that the descriptor does not hold, or, of a SCATTER, on another channel than the one that keeps the
slices of its index value.

A COPY moves bytes: a piece of a view of one run, in device-bias pages that no re-read holds, leaves at every byte of
the destination's run the byte that the source held there, a free one where nothing had been written, and changes no other
byte (R104, R120, R265). -/
def Obligations.CopiesMove : Prop :=
  (
  ∀ (s : State) (q : RingRef) (d : Desc) (c : CopyJob) (k : Nat) (ch : Fin 32) (errs : Errs), s.live →
    let n := q.vf.val
    let r := q.ring.val
    let row := Instr.copyPieceComplete q d.id k ch errs
    let kept := match c.indexValue k with
      | some i => tabFind c.keepers i
      | none => none
    let may := ch.val ∈ c.channels ∧ rangesMem k c.left = true ∧ ∀ x, kept = some x → x = ch.val
    let c' : CopyJob :=
      { c with left := rangesSub k (k + 1) c.left,
               keepers := match c.indexValue k with
                 | some i => tabPut i ch.val c.keepers
                 | none => c.keepers }
    let read := (s.told errs).readAll n (c.pieceReads k)
    let p := c.perform n k read.2
    let base := s.after p.1
    let halts := fun (m base : State) (i : ErrInfo) (spent : Bool) => ∃ t, Runs row s t ∧
      t.mem = (m.copyForget n c).mem.canon ∧ t.err = base.recorded { i with unit := ch.val, tag := descTag d.bits } ∧
      Ended s t n r d { status := if spent then statusChannelHalt else statusPoisonRead, detail := ch.val,
                        chan := some ch.val, errSeq := base.err.nextSeq }
    Held s n r d → d.state = .copy c → s.noCopyWaits n →
      (¬may → Runs row s s) ∧
      (may → read.2.blocked = true → Runs row s s) ∧
      (∀ w f, may → read.2.blocked = false → read.1 = some (w, f) →
        halts read.2 (s.after read.2) (readInfo n 5 0 w f 0 r 1) f.spent) ∧
      (may → read.1 = none → p.1.blocked = true → Runs row s s) ∧
      (may → read.1 = none → p.1.blocked = false →
        (p.2 = [] → c'.left = [] → ∃ t, Runs row s t ∧ Ended s t n r d { result := c.result } ∧ OnlyRing n r base t) ∧
        (p.2 = [] → c'.left ≠ [] → ∃ t, Runs row s t ∧ OnlyRing n r base t ∧
          t.ring n r = (s.ring n r).waits d (.copy c')) ∧
        ∀ a more, p.2 = a :: more → halts p.1 base
          { code := 0x0106, severity := 1, part := n, path := 5, addrKind := 1, addr := (s.part n).offsetOf a, ring := r,
            detail1 := a } (!read.2.isMarked a))) ∧
  (
  ∀ (s : State) (n : Nat) (c : CopyJob) (src : View), s.mem.wf = true → c.op = .copy src → c.dst.nonAliasing = true →
    c.dst.rank = 1 → src.rank = 1 → src.fmt = c.dst.fmt → src.extents = c.dst.extents → c.dst.mx = false →
    fmtKnown c.dst.fmt = true → copyStatus (s.part n) c.op c.dst = none → c.dst.vecBytes * c.dst.vecs ≤ 65536 →
    (s.part n).regionList.Nodup →
      let len := c.dst.vecBytes * c.dst.vecs
      let t := (c.perform n 0 s).1
      s.held ((s.part n).segs c.dst.base len) = false →
      (∀ i b, i < len → (s.part n).dpa (c.dst.base + i) = some b → s.mem.devBias (b / 4096) = true) →
      (c.perform n 0 s).2 = [] ∧ t = { s with mem := t.mem, freshCount := s.freshCount + 1 } ∧
        (∀ i a b, i < len → (s.part n).dpa (src.base + i) = some a → (s.part n).dpa (c.dst.base + i) = some b →
          t.mem.byte b = some ((s.mem.byte a).getD (Config.freeByte s.freshCount a))) ∧
        ∀ x, (∀ i, i < len → (s.part n).dpa (c.dst.base + i) ≠ some x) → t.mem.byte x = s.mem.byte x)

/-! ### Rings (R68 to R81, R102, R506, R512, R594, R609) -/

/-- A ring event reads the doorbell line: SQ_TAIL at byte 0 and CQ_HEAD at byte 4 are kept, the other 56 bytes do
nothing, and a tail that overruns the ring stops it and owes one RING_OVERRUN record (R70, R72, R74); a read that fails
three times is recorded, stops the ring and owes a DESC_POISON record with DETAIL 1 (R506, R609). RESTART resumes a stopped
ring, at the slot that was kept for it if there is one, once the line has been read again (R74, R76, R92).

DESCRIPTOR_FETCH takes the next descriptor of the ring whose turn it is among the rings of its partition that may
fetch, one descriptor a turn, in ring order, at most 64 at a time (R75; that a turn is one descriptor is the model's
reading, log 115); a read that fails three times is recorded, stops the ring with a DESC_POISON record, and RESTART goes on
at the slot after (R76, R506). -/
def Obligations.RingsFetch : Prop :=
  (
  ∀ (s : State) (q : RingRef) (u : RingCfg) (line : Bits512), s.live →
    let n := q.vf.val
    let r := q.ring.val
    let g := s.ring n r
    let tail := field line 0 32
    let head := field line 32 32
    let base := if s.gen.ats.contains (n + 1) then { s with out := s.out ++ [.translate (n + 1) u.dbAddr] } else s
    let read := fun (g : Ring) => { g with sqTail := tail, cqHead := head, dbTries := 0, waitDb := false }
    let overrun := fun (g : Ring) =>
      { read g with stopped := true, stopCause := 0x1A, owed := g.owed ++ [ringRecord statusRingOverrun 0 tail.toNat 0] }
    let becomes := fun (c : Instr) (h : Ring) => ∃ t, Runs c s t ∧ OnlyRing n r base t ∧ t.ring n r = h
    let poison : Owed := ringRecord statusDescPoison s.err.nextSeq 0 1
    let again := { g with stopped := false, stopCause := 0, resumeAt := none, fetch := g.resumeAt.getD g.fetch }
    (g.enable = false → ∀ x, Runs (.ringEvent q x) s s ∧ Runs (.restart q x) s s) ∧
    (g.stopped = false → ∀ x, Runs (.restart q x) s s) ∧
    (g.enable = true → g.used = some u → (s.part n).discard = false →
      (g.stopped = true ∨ (tail - g.fetch).toNat ≤ 2 ^ u.sqLog2.toNat → becomes (.ringEvent q (some line)) (read g)) ∧
      (g.stopped = false → 2 ^ u.sqLog2.toNat < (tail - g.fetch).toNat → becomes (.ringEvent q (some line)) (overrun g)) ∧
      (g.dbTries < 2 → becomes (.ringEvent q none) { g with dbTries := g.dbTries + 1 }) ∧
      (2 ≤ g.dbTries → g.stopped = false → ∃ t, Runs (.ringEvent q none) s t ∧
        t.err = s.recorded { code := 0x0201, severity := 1, part := n, path := 8, addrKind := 3, addr := u.dbAddr.toNat,
                             ring := r } ∧
        t.ring n r = { g with dbTries := 0, waitDb := false, stopped := true, stopCause := 0x19,
                              owed := g.owed ++ [poison] }) ∧
      (g.stopped = true →
        ((tail - again.fetch).toNat ≤ 2 ^ u.sqLog2.toNat → becomes (.restart q (some line)) (read again)) ∧
        (2 ^ u.sqLog2.toNat < (tail - again.fetch).toNat → becomes (.restart q (some line)) (overrun again)) ∧
        becomes (.restart q none) { again with waitDb := true, dbTries := 1 })) ∧
    exec (.hostCompletionTimeout (.doorbell q)) s = exec (.ringEvent q none) s) ∧
  (
  ∀ (s : State) (q : RingRef) (bits : Bits512), s.live →
    let n := q.vf.val
    let r := q.ring.val
    let g := s.ring n r
    let may := fun (k : Nat) => (s.part n).state = .active ∧ (s.ring n k).enable = true ∧ (s.ring n k).stopped = false ∧
      (s.ring n k).waitDb = false ∧ (s.ring n k).sqTail ≠ (s.ring n k).fetch ∧
      ((s.ring n k).descs.filter fun d => !d.orphan).length < 64
    let next := (s.vf n).rrNext
    let turn := may r ∧ ∀ j, j < (r + 8 - next % 8) % 8 → ¬may ((next + j) % 8)
    (¬turn → ∀ d, Runs (.descriptorFetch q d) s s) ∧
    (∀ u, turn → g.used = some u →
      let base := if s.gen.ats.contains (n + 1) then
          { s with out := s.out ++ [.translate (n + 1) (u.sqBase + BitVec.ofNat 64 (64 * (g.fetch.toNat % 2 ^ u.sqLog2.toNat)))] }
        else s
      (∃ t, Runs (.descriptorFetch q (some bits)) s t ∧ OnlyRing n r base t ∧ t.stamp = s.stamp + 1 ∧
        (t.vf n).rrNext = (r + 1) % 8 ∧ t.ring n r =
        { g with fetch := g.fetch + 1, descTries := 0,
                 descs := g.descs ++
                   [{ id := s.stamp + 1, slot := g.fetch, bits := bits, state := .fetched, orphan := false }] }) ∧
      (g.descTries < 2 → ∃ t, Runs (.descriptorFetch q none) s t ∧ OnlyRing n r base t ∧
        t.ring n r = { g with descTries := g.descTries + 1 }) ∧
      (2 ≤ g.descTries → (s.part n).discard = false → ∃ t, Runs (.descriptorFetch q none) s t ∧
        t.err = s.recorded { code := 0x0201, severity := 1, part := n, path := 8, addrKind := 3,
                             addr := (u.sqSlot g.fetch).toNat, ring := r } ∧
        t.ring n r = { g with descTries := 0, resumeAt := some (g.fetch + 1), stopped := true, stopCause := 0x19,
                              owed := g.owed ++ [ringRecord statusDescPoison s.err.nextSeq 0 0] })) ∧
    exec (.hostCompletionTimeout (.descriptor q)) s = exec (.descriptorFetch q none) s)

/-- COMPLETION_RECORD_WRITE: the oldest record that a ring owes goes into its next completion slot with the fetch counter
and PHASE, while the host has left room, and the interrupt follows IRQ_MODE (R78, R79, R81); a halted channel whose record
is visible is free again (R139); a write that fails is HOST_RECORD, and the partition's records are discarded from then on
(R512). IRQ_TIME_EXPIRY, in mode 2, comes IRQ_TIME after the oldest record that is not signalled (R81).

RING_ENABLE: with every field in its limits, and the partition active, the ring starts afresh, counters 0; else it
stays off and BAD_FIELD names the lowest field that breaks its limits (R68, R69, R594). RING_DISABLE: the ring follows
its doorbell no more, no descriptor of it is left that has not started, and none that waits for a flag (R102). -/
def Obligations.RingsRecordAndSwitch : Prop :=
  (
  ∀ (s : State) (q : RingRef) (u : RingCfg) (o : Owed) (rest : List Owed), s.live →
    let n := q.vf.val
    let r := q.ring.val
    let g := s.ring n r
    let slot := u.cqBase + BitVec.ofNat 64 (32 * (g.compl.toNat % 2 ^ u.cqLog2.toNat))
    let phase := decide (g.compl.toNat / 2 ^ u.cqLog2.toNat % 2 = 0)
    let wrote := s.hostPut (n + 1) slot (recordBytes o.body g.fetch phase)
    let count := g.unsignalled + 1
    let written := { g with owed := rest, compl := g.compl + 1 }
    let becomes := fun (base : State) (h : Ring) => ∃ t, Runs (.completionRecordWrite q true) s t ∧
      t.ring n r = h ∧ t.out = base.out ∧ t.msix = base.msix ∧ ((s.srv n).reqs = [] → OnlyRing n r base t)
    g.used = some u → s.noCopyWaits n → (∀ x ∈ (s.srv n).reqs, x.2.cancels = []) →
    (g.owed = [] → ∀ ok, Runs (.completionRecordWrite q ok) s s) ∧
    (g.owed = o :: rest →
      (2 ^ u.cqLog2.toNat ≤ (g.compl - g.cqHead).toNat → ∀ ok, Runs (.completionRecordWrite q ok) s s) ∧
      ((g.compl - g.cqHead).toNat < 2 ^ u.cqLog2.toNat →
        (u.irqMode = 0 → becomes wrote written) ∧
        (u.irqMode = 1 ∨ (u.irqMode ≠ 0 ∧ (o.irq = true ∨ u.irqCount.toNat ≤ count)) →
          becomes (wrote.interrupt (n + 1) r) { written with unsignalled := 0 }) ∧
        (u.irqMode ≠ 0 → u.irqMode ≠ 1 → o.irq = false → count < u.irqCount.toNat →
          becomes wrote { written with unsignalled := count, oldest := if count = 1 then s.tmb.beat else g.oldest }) ∧
        (∀ ch, o.chan = some ch → ch < 32 → (s.part n).channels.getLsbD ch = true →
          (∀ x ∈ s.copies n, ch ∉ x.2.2.channels) → (∀ x ∈ rest, x.chan ≠ some ch) →
          (∀ k, k < 8 → k ≠ r → ∀ x ∈ (s.ring n k).owed, x.chan ≠ some ch) → r < 8 →
          ch ∉ s.freeChannels n ∧ ∃ t, Runs (.completionRecordWrite q true) s t ∧ ch ∈ t.freeChannels n) ∧
        ∃ t, Runs (.completionRecordWrite q false) s t ∧ (t.part n).discard = true ∧
          t.err = s.recorded { code := 0x0203, severity := 2, part := n, path := 8, addrKind := 3, addr := slot.toNat,
                               ring := r } ∧
          ((s.part n).state = .active → (t.part n).state = .halted))) ∧
    (u.irqMode ≠ 2 ∨ g.unsignalled = 0 → Runs (.irqTimeExpiry q) s s) ∧
    (u.irqMode = 2 → g.unsignalled ≠ 0 →
      let due := g.oldest + u.irqTime.toNat * 250
      ∃ t, Runs (.irqTimeExpiry q) s t ∧ OnlyRing n r ((s.advanceTo due).interrupt (n + 1) r) t ∧
        t.tmb.beat = max s.tmb.beat due % 2 ^ 64 ∧ t.ring n r = { g with unsignalled := 0 })) ∧
  (
  ∀ (s : State) (q : RingRef), s.live →
    let n := q.vf.val
    let r := q.ring.val
    let g := s.ring n r
    let c := g.cfg
    let good := c.sqBase.toNat % 4096 = 0 ∧ 2 ≤ c.sqLog2.toNat ∧ c.sqLog2.toNat ≤ 16 ∧ c.cqBase.toNat % 4096 = 0 ∧
      c.sqLog2.toNat ≤ c.cqLog2.toNat ∧ c.cqLog2.toNat ≤ 16 ∧ c.dbAddr.toNat % 64 = 0 ∧ c.irqMode ≠ 3 ∧
      (c.irqMode = 2 → 1 ≤ c.irqCount.toNat ∧ c.irqCount.toNat ≤ 256 ∧ c.irqTime ≠ 0)
    let fails := fun (code : Nat) => ∃ t, Runs (.ringEnable q) s t ∧ OnlyRing n r s t ∧
      t.ring n r = { g with badField := BitVec.ofNat 4 code }
    s.noCopyWaits n → (∀ x ∈ (s.srv n).reqs, x.2.cancels = []) →
    (g.enable = true → Runs (.ringEnable q) s s) ∧
    (g.enable = false → c.sqBase.toNat % 4096 ≠ 0 → fails 1) ∧
    (g.enable = false → ¬good → ∃ k, 1 ≤ k ∧ k ≤ 8 ∧ fails k) ∧
    (g.enable = false → good → (s.part n).state ≠ .active → fails 15) ∧
    (g.enable = false → good → (s.part n).state = .active →
      ∃ t, Runs (.ringEnable q) s t ∧ ((s.srv n).reqs = [] → OnlyRing n r s t) ∧ t.ring n r =
        { cfg := c, used := some c, enable := true, badField := g.badField, fenceMark := s.stamp,
          descs := g.descs.map fun d => { d with orphan := true } }) ∧
    ∃ t, Runs (.ringDisable q) s t ∧
      (s.noFence n → (t.ring n r).enable = false ∧ (t.ring n r).stopped = false ∧
        ∀ d ∈ (t.ring n r).descs, d.state ≠ .fetched ∧ ∀ w b, d.state ≠ .flagWait w b) ∧
      (g.descs = [] → t.ring n r =
        { g with enable := false, stopped := false, stopCause := 0, waitDb := false, dbTries := 0, descTries := 0,
                 flagTries := 0, flagStart := none, resumeAt := none,
                 owed := if g.enable then g.owed.take g.slotsFree else g.owed }))

/-! ### Near-bank engines (R288 to R306, R310) -/

/-- NBE_JOB_ACCEPT: the record of an NBJ is read now (R328); a read that fails faults the step that issued it. A record
that keeps its rules joins the queue of every NBE that it names, behind what is there, and its NBJ holds no transfer any
more (R222); while a queue is full, or an earlier record of its issuer waits for one of them, it waits (R290). A record
that breaks a rule, or names a range that the job may not use, is no job: it faults the step, and with no step to fault it
leaves and its error is recorded (R310). NBE_JOB_COMPLETE: when no output waits for a port, the job leaves, its flag is
set, and an END that waited for it goes on (R233, R291). -/
def Obligations.NbeJobsQueue : Prop :=
  ∀ (s : State) (id : Nat) (k : NbeJob) (errs : Errs), s.live → tabFind s.nbeJobs id = some k →
    let c := Instr.nbeJobAccept id errs
    let read := (s.told errs).winRead k.part k.off 128
    let gone := fun (t : State) => tabFind t.nbeJobs id = none ∧ ∀ i, i ≠ id → tabFind t.nbeJobs i = tabFind s.nbeJobs i
    (k.phase ≠ .offered → Runs c s s) ∧
    (∀ v, k.phase = .offered → k.issuer = some v →
      (read.2.blocked = true → Runs c s s) ∧
      ∀ f, read.2.blocked = false → read.1.fail = some f → ∃ t, Runs c s t ∧ tabFind t.nbeJobs id = none ∧
        StepFaults v (readInfo k.part 4 (16 * stackOf f.dpa + ownerNbe f.dpa) k.off f 0 ringNone 1) (s.after read.2) t) ∧
    (∀ (base : State) (k' : NbeJob), k.phase = .offered →
      (k.issuer = none ∧ base = s ∧ k' = k) ∨ (k.issuer ≠ none ∧ read.2.blocked = false ∧ read.1.fail = none ∧
        base = s.after read.2 ∧ k' = { k with record := BitVec.ofNat 1024 (natOfBytes read.1.bytes) }) →
      let room := (s.told errs).nbeRoom id k'
      (base.nbeArrives k' = none → room = false → Runs c s s) ∧
      (base.nbeArrives k' = none → room = true → ∃ t, Runs c s t ∧
        t = { base with nbeJobs := t.nbeJobs, nbes := t.nbes, vats := t.vats } ∧
        tabFind t.nbeJobs id = some { k' with phase := .queued } ∧ (∀ i, i ≠ id → tabFind t.nbeJobs i = tabFind s.nbeJobs i) ∧
        (∀ n ∈ k'.named, t.nbe (k'.unit n) =
          { s.nbe (k'.unit n) with queue := (s.nbe (k'.unit n)).queue ++ [id] }) ∧
        (∀ u, (∀ n ∈ k'.named, u ≠ k'.unit n) → t.nbe u = s.nbe u) ∧
        ∀ v, t.vat v = if k.issuer = some v then
            { s.vat v with xfers := (s.vat v).xfers.filter fun x => x.2.nbe != some id } else s.vat v) ∧
      ∀ e, base.nbeArrives k' = some e →
        let i := e.info k' (k'.named.headD 0)
        (∀ v, k.issuer = some v → ∃ t, Runs c s t ∧ tabFind t.nbeJobs id = none ∧ StepFaults v i base t) ∧
        (k.issuer = none → k.job = none → ∃ t, Runs c s t ∧ gone t ∧ t.err = s.recorded i) ∧
        ∀ j x, k.issuer = none → k.job = some j → tabFind s.jobs j = some x → ∃ t, Runs c s t ∧
          tabFind t.nbeJobs id = none ∧ tabFind t.jobs j = none ∧
          t.err = s.recorded { i with part := x.part, tag := x.tag, ring := if x.serving then ringNone else x.ring }) ∧
    let c := Instr.nbeJobComplete id
    let left := fun (t : State) => gone t ∧ ∀ u, t.nbe u = { s.nbe u with queue := (s.nbe u).queue.filter fun i => i != id }
    let only := fun (t : State) => left t ∧ t = { s with nbeJobs := t.nbeJobs, nbes := t.nbes }
    (k.phase ≠ .worked ∨ s.nbeWaits id = true → Runs c s s) ∧
    (k.phase = .worked → s.nbeWaits id = false →
      (k.flag = none → k.issuer = none → ∃ t, Runs c s t ∧ left t ∧
        ((∀ x ∈ s.jobs, x.2.part = k.part → x.2.isWaiting = false ∧ x.2.isPreempted = false) → only t)) ∧
      (∀ v, k.issuer = some v →
        (k.flag = none → (s.vat v).run ≠ .ending → ∃ t, Runs c s t ∧ only t) ∧
        (k.flag = none → (s.vat v).run = .ending → (s.vat v).xfers = [] → s.jobOf v = none →
          (∀ x ∈ s.nbeJobs, x.1 ≠ id → x.2.issuer ≠ some v) → ∃ t, Runs c s t ∧ left t ∧ (t.vat v).run = .ended) ∧
        ∀ a b, k.flag = some (v, a, b) → a < 2 ^ 22 → a % 4 = 0 → b < 32 → (s.vat v).run ≠ .ending →
          (∀ e m k d, (s.vat v).run ≠ .waitf e m k d) → ∃ t, Runs c s t ∧ left t ∧
            OnlyVat v { s with nbeJobs := t.nbeJobs, nbes := t.nbes } t ∧
            (t.vat v).word a = (s.vat v).word a ||| BitVec.ofNat 32 (2 ^ b)))

/-- MATVEC, ATTN_SCORE, ATTN_VALUE and MOVE of the job that is next at every NBE it names: every position's outputs are
written in the window, or wait for the port of their scratchpad, ATTN_SCORE keeps its scores where they fit and every other
job forgets them, and the NBEs are free for their next jobs (R289, R290, R296, R302, R303, R305, R306). A job that meets a
stop while it runs, or a parity mismatch of its small operand, faults the step that issued it (R202, R310, R511). -/
def Obligations.NbeJobsWork : Prop :=
  ∀ (s : State) (id : Nat) (k : NbeJob) (errs : Errs) (p : Bool), s.live →
    let op := s.nbeOperand k
    let s0 := (s.told errs).drew
    let dest := k.num 0x10 8 / 2 ^ 24
    let worked := fun (t : State) (scores : Nat → Option (Nat × List Word)) =>
      tabFind t.nbeJobs id = some { k with phase := .worked } ∧
        (∀ n ∈ k.named, t.nbe (k.unit n) = { queue := (s.nbe (k.unit n)).queue.filter fun i => i != id, scores := scores n }) ∧
        ∀ u, (∀ n ∈ k.named, u ≠ k.unit n) → t.nbe u = { s.nbe u with queue := (s.nbe u).queue.filter fun i => i != id }
    let none_ := fun (_ : Nat) => (none : Option (Nat × List Word))
    let leaves := fun (c : Instr) (outs : List (Nat × Nat × List Byte)) (s1 : State) (scores : Nat → Option (Nat × List Word)) =>
      let real := outs.filter fun o => !o.2.2.isEmpty
      let w := writeAll k.part (real.map fun o => (k.outAt o.1, o.2.2)) s1
      (s1.blocked = true → Runs c s s) ∧
      (s1.blocked = false → k.overlaps (outs.map fun o => (o.1, o.2.2.length)) = false →
        (k.dstWin = true → w.2 = [] → (∀ o ∈ real, s1.nbeRange k (k.outAt o.1) o.2.2.length = none ∧
            s1.nbeHostBias k (k.outAt o.1) o.2.2.length = false) →
          (w.1.blocked = true → Runs c s s) ∧
          (w.1.blocked = false → ∃ t, Runs c s t ∧ worked t scores ∧
            t = { s.after w.1 with nbeJobs := t.nbeJobs, nbes := t.nbes })) ∧
        (k.dstWin = false → (∀ o ∈ real, k.outOk o.1 o.2.2.length = true) → ∃ t, Runs c s t ∧ worked t scores ∧
          t = { s.after s1 with nbeJobs := t.nbeJobs, nbes := t.nbes, vats := t.vats } ∧ (∀ v, v ≠ dest → t.vat v = s.vat v) ∧
          t.vat dest = { s.vat dest with
            inbound := (s.vat dest).inbound ++ real.flatMap fun o =>
              (outLines (k.outAt o.1 % 2 ^ 24) o.2.2).map fun l =>
                { src := .nbe id, addr := l.1, lo := l.2.2.1, hi := l.2.2.2, data := l.2.1, flag := none, last := true,
                  read := none } }))
    let stops := fun (c : Instr) (n : Nat) (e : NbeStop) (s1 : State) => ∀ v, k.issuer = some v →
      (s1.blocked = true → Runs c s s) ∧
      (s1.blocked = false → ∃ t, Runs c s t ∧ tabFind t.nbeJobs id = none ∧ StepFaults v (e.info k n) (s.after s1) t)
    let mismatch := fun (c : Instr) => ∀ v, k.issuer = some v → ∃ t, Runs c s t ∧ tabFind t.nbeJobs id = none ∧
      StepFaults v { code := 0x0302, severity := 1, part := k.part, path := 4, unit := k.unit (k.named.headD 0),
                     addr := k.num 0x08 4 % 2 ^ 24 } s t
    let good := p = false ∨ k.actBytes = 0
    (s.nbeNext id 1 = none → Runs (.matvec id p errs) s s) ∧
    (s.nbeNext id 2 = none → Runs (.attnScore id p errs) s s) ∧
    (s.nbeNext id 3 = none → Runs (.attnValue id p errs) s s) ∧
    (s.nbeNext id 4 = none → Runs (.move id errs) s s) ∧
    (s.nbeNext id 1 = some k → (¬good → mismatch (.matvec id p errs)) ∧ (good →
      (∀ outs s1, nbeOn (k.matvecWork s.freshCount op) s0 = (.ok outs, s1) → leaves (.matvec id p errs) outs s1 none_) ∧
      ∀ n e s1, nbeOn (k.matvecWork s.freshCount op) s0 = (.error (n, e), s1) → stops (.matvec id p errs) n e s1)) ∧
    (s.nbeNext id 2 = some k → (¬good → mismatch (.attnScore id p errs)) ∧ (good →
      (∀ outs s1, nbeOn (k.scoreWork s.freshCount op) s0 = (.ok outs, s1) →
        leaves (.attnScore id p errs) (outs.map (·.1)) s1 fun n =>
          ((outs.find? fun o => o.1.2.1 == n).filter fun o => decide (o.2.length ≤ 16384)).map fun o => (k.scoreKey, o.2)) ∧
      ∀ n e s1, nbeOn (k.scoreWork s.freshCount op) s0 = (.error (n, e), s1) → stops (.attnScore id p errs) n e s1)) ∧
    (s.nbeNext id 3 = some k → (¬good → mismatch (.attnValue id p errs)) ∧ (good →
      (∀ outs s1, nbeOn (k.valueWork s.freshCount op) s0 = (.ok outs, s1) → leaves (.attnValue id p errs) outs s1 none_) ∧
      ∀ n e s1, nbeOn (k.valueWork s.freshCount op) s0 = (.error (n, e), s1) → stops (.attnValue id p errs) n e s1)) ∧
    (s.nbeNext id 4 = some k →
      (∀ s1, nbeOn k.moveWork s0 = (.ok (), s1) → leaves (.move id errs) [] s1 none_) ∧
      ∀ n e s1, nbeOn k.moveWork s0 = (.error (n, e), s1) → stops (.move id errs) n e s1)

/-! ### Stack memory and its host side (R247 to R282, R506 to R511, R608) -/

/-- HOST_MEM_READ answers the line, poisoned where a 64-bit word of it is marked, and waits while a granule of it is under
re-read; a word that it finds bad begins one. HOST_MEM_WRITE replaces the bytes that its enables name, whole check words
with their marks, and with poison it marks the words, whose data is lost; an address that no decoder claims answers poison,
or drops the write, and is recorded (R55, R261, R262, R509).

HDM_DECODER_COMMIT sets a decoder whose fields keep the rules, with the DPA base that follows the decoder below it,
and else sets its error bit; a committed decoder stays as it is (R54, R252). A committed decoder claims the host addresses
of its position, and takes out the interleave bits (R251). -/
def Obligations.HostAccesses : Prop :=
  (
  ∀ (s : State) (hpa : DWord), s.live → s.err.halted = false →
    (∀ d, s.hdmDpa hpa = some d →
      let a := d / 64 * 64
      let bs := s.mem.read s.freshCount a 64
      (s.hostHeld a = true → ∀ c, ∃ t, Runs (.hostMemRead hpa c) s t ∧
        t = { s with hostWaits := s.hostWaits ++ [.read hpa c] }) ∧
      (s.hostHeld a = false → ∃ t, Runs (.hostMemRead hpa []) s t ∧
        t = { s with
              out := s.out ++ [.memData hpa (BitVec.ofNat 512 (natOfBytes bs))
              ((List.range 16).any fun w => s.wordMarked a w)],
              freshCount := s.freshCount + 1 }) ∧
      (∀ w, s.hostHeld a = false → w < 16 → s.wordMarked a w = false → ∃ t, Runs (.hostMemRead hpa [(w, .bad)]) s t ∧
        t = { s with
              rereads := s.rereads ++ [{ dpa := a + 32 * (w / 8), consumer := .host, tries := 0, failing := [w % 8],
                                         recovered := false, counted := false }],
              hostWaits := s.hostWaits ++ [.read hpa []] }) ∧
      (s.hostHeld a = true → ∀ x be p c, ∃ t, Runs (.hostMemWrite hpa x be p c) s t ∧
        t = { s with hostWaits := s.hostWaits ++ [.write hpa x be p c] }) ∧
      (s.hostHeld a = false → s.mem.markedIn a (a + 64) = false → ∀ x be,
        ∃ t, Runs (.hostMemWrite hpa x be false []) s t ∧
          t = { s with mem := t.mem, out := s.out ++ [.memDone hpa] } ∧
          (∀ k, k < 64 → be.getLsbD k = true → t.mem.byte (a + k) = some (field x (8 * k) 8)) ∧
          (∀ b, (∀ k, k < 64 → be.getLsbD k = true → b ≠ a + k) → t.mem.byte b = s.mem.byte b) ∧
          t.mem.bias = s.mem.bias ∧ ∀ b, rangesMem b t.mem.marked = rangesMem b s.mem.marked) ∧
      (s.hostHeld a = false → ∀ x, ∃ t, Runs (.hostMemWrite hpa x (BitVec.allOnes 64) true []) s t ∧
        t = { s with mem := t.mem, out := s.out ++ [.memDone hpa] } ∧ t.mem.bias = s.mem.bias ∧
        (∀ b, t.mem.byte b = if a ≤ b ∧ b < a + 64 then none else s.mem.byte b) ∧
        ∀ b, rangesMem b t.mem.marked = (rangesMem b s.mem.marked || (decide (a ≤ b) && decide (b < a + 64)))) ∧
      (s.hostHeld a = false → ∀ x, ∃ t, Runs (.hostMemWrite hpa x (BitVec.allOnes 64) false []) s t ∧
        t = { s with mem := t.mem, out := s.out ++ [.memDone hpa] } ∧
        (∀ b, t.mem.byte b = if a ≤ b ∧ b < a + 64 then some (field x (8 * (b - a)) 8) else s.mem.byte b) ∧
        ∀ b, rangesMem b t.mem.marked = (rangesMem b s.mem.marked && !(decide (a ≤ b) && decide (b < a + 64))))) ∧
    (s.hdmDpa hpa = none →
      let i : ErrInfo := { code := 0x0107, severity := 0, part := partDevice, path := 9, addrKind := 3, addr := hpa.toNat }
      (∀ c, ∃ t, Runs (.hostMemRead hpa c) s t ∧ Logged i s t ∧ ∃ x, t.out = x ++ [.memData hpa 0 true]) ∧
      ∀ d be p c, ∃ t, Runs (.hostMemWrite hpa d be p c) s t ∧ Logged i s t ∧ ∃ x, t.out = x ++ [.memDone hpa])) ∧
  (
  ∀ (s : State) (k : Fin 4) (base size : DWord) (ew gb : Nat) (skip : DWord) (pos : Nat), s.live →
    let d := tabGet ({} : Hdm) s.hdm k
    let ok := s.hdmOk k base.toNat size.toNat ew gb skip.toNat pos
    let c := Instr.hdmDecoderCommit k base size ew gb skip pos
    let sets := fun (y : Hdm) => ∃ t, Runs c s t ∧ t = { s with hdm := t.hdm } ∧ tabGet {} t.hdm k = y ∧
      ∀ j, j ≠ k.val → tabGet ({} : Hdm) t.hdm j = tabGet {} s.hdm j
    (d.committed = true → Runs c s s) ∧
    (d.committed = false → ok = false → sets { d with error := true }) ∧
    (d.committed = false → ok = true →
      sets { committed := true, error := false, base := base.toNat, size := size.toNat, ew := ew, gb := gb,
             skip := skip.toNat, pos := pos, dbase := s.hdmBase k skip.toNat }) ∧
    (∀ x : Hdm, ∀ h, x.claims h = true → h - x.base < x.size ∧
      x.toDpa h = x.dbase + (h - x.base) / 2 ^ (x.gb + x.ew) * 2 ^ x.gb + (h - x.base) % 2 ^ x.gb))

/-- Re-reads, patrol scrub, leak periods and refresh: a granule whose words all read well is out of re-read and counted
once, and once more for the single-bit errors that it first meets; a failing one is re-read again, and after the last
re-read its words are marked, their data is lost, and the error is counted; a patrol read of a bad word begins re-reads; a
leak period lowers LEVEL by one, never below 0; a refresh puts the written mode in force, and 10 ms at 82 °C or less return
the stack to the normal rate (R261, R273 to R280, R506, R608). -/
def Obligations.StackUpkeep : Prop :=
  ∀ s : State, s.live →
    (∀ (dpa : DWord) (c : Consumer) (cs : Conds),
      let a := dpa.toNat / 32 * 32
      let k := stackOf a
      let g := s.guardedAt a
      let bad := (badWords g cs).filter fun w => decide (w < 8) && !s.wordMarked a w
      let single := (singleWords g cs).filter fun w => decide (w < 8) && !s.wordMarked a w && !bad.contains w
      let free := ∀ r ∈ s.rereads, ¬(r.dpa = a ∧ r.consumer = c)
      (2 ^ 39 ≤ dpa.toNat → Runs (.granuleReread dpa c cs) s s) ∧
      (dpa.toNat < 2 ^ 39 → free → s.hostWaits = [] → bad = [] →
        ∃ t, Runs (.granuleReread dpa c cs) s t ∧
          (t.stk k).ceCount = (s.stk k).ceCount + 1 + (if single = [] then 0 else 1) ∧
          t.rereads = s.rereads ∧ t.mem = s.mem) ∧
      (dpa.toNat < 2 ^ 39 → free → bad ≠ [] →
        let begun : Reread :=
          { dpa := a, consumer := c, tries := 1, failing := bad, recovered := false, counted := !single.isEmpty }
        (single = [] → ∃ t, Runs (.granuleReread dpa c cs) s t ∧ t = { s with rereads := s.rereads ++ [begun] }) ∧
        (single ≠ [] → ∃ t, Runs (.granuleReread dpa c cs) s t ∧ t.rereads = s.rereads ++ [begun] ∧ t.mem = s.mem ∧
          (t.stk k).ceCount = (s.stk k).ceCount + 1)) ∧
      (dpa.toNat < 2 ^ 39 → s.hostWaits = [] → c = .host → bad ≠ [] → single = [] → ∀ b,
        s.rereads = [{ dpa := a, consumer := c, tries := 1, failing := bad, recovered := false, counted := b }] →
        ∃ t, Runs (.granuleReread dpa c cs) s t ∧ t.rereads = [] ∧ (t.stk k).ueCount = (s.stk k).ueCount + 1 ∧
          (∀ w ∈ bad, t.wordMarked a w = true) ∧
          (∀ x, (∀ w ∈ bad, x / 4 ≠ a / 4 + w) → g = false → t.mem.byte x = s.mem.byte x) ∧
          (∀ x, (x < a ∨ a + 32 ≤ x) → t.mem.byte x = s.mem.byte x) ∧
          t.err = s.recorded { code := 0x0103, severity := 0, part := s.ownerPart a, path := 9, addrKind := 3,
                               addr := 0, detail1 := a })) ∧
    (∀ (dpa : DWord) (cs : Conds),
      let a := dpa.toNat / 32 * 32
      let on := dpa.toNat < 2 ^ 39 ∧ s.gen.scrubEnable = true ∧ (s.region (regionOf a)).scrub = true ∧ s.rereading a = false
      (¬on → Runs (.patrolScrub dpa cs) s s) ∧ (on → Runs (.patrolScrub dpa []) s s) ∧
      (∀ w, on → w < 8 → s.wordMarked a w = false → ∃ t, Runs (.patrolScrub dpa [(w, .bad)]) s t ∧
        t = { s with rereads := s.rereads ++ [{ dpa := a, consumer := .patrol, tries := 0, failing := [w], recovered := false,
                                                counted := false }] })) ∧
    ∀ k : Fin 8,
      let r := s.stk k
      let ends := r.leakStart + r.leakNow.toNat * beatsPerSecond
      let sets := fun (c : Instr) (y : StackRegs) => ∃ t, Runs c s t ∧ t.stk k = y ∧ ∀ j, j ≠ k.val → t.stk j = s.stk j
      sets (.ceLeakPeriod k) { r with level := BitVec.ofNat 8 (r.level.toNat - 1), leakStart := ends, leakNow := r.leak } ∧
      (∀ pc b, sets (.refresh k pc b) { r with forceDoubleNow := r.forceDouble, allBankNow := r.allBank,
                                               longInterval := r.allBankNow && (r.hot || r.forceDoubleNow) && !r.longInterval }) ∧
      (∀ b, r.coolSince = some b → sets (.refreshNormalRate k) { r with hot := false }) ∧
      (r.coolSince = none → Runs (.refreshNormalRate k) s s)

/-! ### Serving and cache descriptors (R330 to R349, R383, R399, R400) -/

/-- REQ_CANCEL, REQ_CONTROL, REQ_READ and PAGE_UPDATE: with a bad field they end with BAD_DESCRIPTOR and its place, with a
bad address with BAD_ADDRESS, then without an engine of which this device is the lead with BAD_DESCRIPTOR, and else they
wait for the next step boundary, and nothing else changes (R84, R330, R344, R346, R347, R383).

What a step boundary does with a descriptor that waited for it, where the engine has one request: REQ_CANCEL ends the
request with reason CANCELLED; REQ_CONTROL pauses it, where a cocoon for it fits, and else completes with COCOON_FULL, lets
it go on, or sets its priority or deadline; REQ_READ writes the entries and answers the beat; PAGE_UPDATE replaces or
appends pages and answers the new GENERATION, and is refused where the list has changed; COCOON_RECLAIM answers how many
free buffers it took (R344 to R347, R383, R384, R400).

REQ_SUBMIT accepts a good request block into the lowest free entry and answers its number and the tokens that the
prefix tree held, or is refused by the first check that fails; a block or a prompt that cannot be read ends it with
POISON_READ and a record (R339, R341 to R343, R353, R354, R511). The clause of acceptance speaks of an empty prefix tree,
and of a request without a deadline and without penalties. -/
def Obligations.ServingDescriptors : Prop :=
  (
  ∀ (s : State) (q : RingRef) (d : Desc), s.live →
    let n := q.vf.val
    let r := q.ring.val
    let op := descOpcode d.bits
    let e := s.srv n
    let waits := fun (c : Instr) =>
      ∃ t, Runs c s t ∧ OnlyRing n r s t ∧ t.ring n r = (s.ring n r).waits d .serving
    let row := fun (c : Instr) (cs : Bits512 → List FieldCheck) (addrOk : Bool) => CleanDesc d cs →
      (addrOk = false → Completes c s n r d { status := statusBadAddress }) ∧
      (addrOk = true → e.state = .off ∨ e.lead = false → Completes c s n r d { status := statusBadDescriptor }) ∧
      (addrOk = true → e.state ≠ .off → e.lead = true → waits c)
    let dst := dfield d.bits 0x10 8
    let count := dfield d.bits 0x0C 4
    let dstOk := dst % 64 == 0 && (s.part n).inWindow dst (128 * count)
    let list := dfield d.bits 0x18 8
    Starts s n r d →
      (op = 0x21 → row (.reqCancel q) reqCancelChecks true) ∧
      (op = 0x22 → dfield d.bits 0x10 1 = 1 → row (.reqControlPause q) reqControlChecks true) ∧
      (op = 0x22 → dfield d.bits 0x10 1 = 2 → row (.reqControlResume q) reqControlChecks true) ∧
      (op = 0x22 → dfield d.bits 0x10 1 = 3 → row (.reqControlPriority q) reqControlChecks true) ∧
      (op = 0x22 → dfield d.bits 0x10 1 = 4 → row (.reqControlDeadline q) reqControlChecks true) ∧
      (op = 0x22 → ∀ c ∈ [Instr.reqControlPause q, .reqControlResume q, .reqControlPriority q, .reqControlDeadline q],
        dfield d.bits 0x10 1 = 0 ∨ 4 < dfield d.bits 0x10 1 → EndsBadField c s n r d reqControlChecks) ∧
      (op = 0x22 → dfield d.bits 0x10 1 = 1 → EndsBadField (.reqControlPause q) s n r d reqControlChecks) ∧
      (op = 0x22 → dfield d.bits 0x10 1 = 2 → EndsBadField (.reqControlResume q) s n r d reqControlChecks) ∧
      (op = 0x22 → dfield d.bits 0x10 1 = 3 → EndsBadField (.reqControlPriority q) s n r d reqControlChecks) ∧
      (op = 0x22 → dfield d.bits 0x10 1 = 4 → EndsBadField (.reqControlDeadline q) s n r d reqControlChecks) ∧
      (op = 0x23 → dfield d.bits 8 4 + count ≤ (s.part n).entries.toNat → row (.reqRead q) reqReadChecks dstOk) ∧
      (op = 0x23 → (s.part n).entries.toNat < dfield d.bits 8 4 + count → CleanDesc d reqReadChecks → dstOk = true →
        e.state ≠ .off → e.lead = true →
        Completes (.reqRead q) s n r d { status := statusBadDescriptor, detail := 0x08 }) ∧
      (op = 0x30 → row (.pageUpdate q) pageUpdateChecks
        (list % 4 == 0 && (s.part n).inWindow list (4 * dfield d.bits 0x20 4)))) ∧
  (
  ∀ (s : State) (n : Fin 16) (r : Fin 8) (d : Desc) (i : Nat) (q : Req) (errs : Errs), s.live →
    let e := s.srv n
    let op := descOpcode d.bits
    let k := dfield d.bits 0x10 1
    let tag := BitVec.ofNat 64 (dfield d.bits 8 8)
    let value := dfield d.bits 0x18 8
    let first := dfield d.bits 8 4
    let dst := dfield d.bits 0x10 8
    let index := dfield d.bits 0x14 4
    let count := dfield d.bits 0x20 4
    let read := (s.told errs).winRead n value (4 * count)
    let pages := (List.range count).map fun k => numAt read.1.bytes (4 * k) 4
    let bytes := (List.range (dfield d.bits 0x0C 4)).flatMap fun k => reqBytes e (e.req (first + k))
    let wrote := (s.told errs).winWrite n dst bytes
    let c := Instr.stepBoundary n errs
    let ended := fun (t : State) (x : Ending) => endRecord d x ∈ (t.ring n r).owed ∧ ∀ y ∈ (t.ring n r).descs, y.id ≠ d.id
    let gives := fun (x : Ending) (p : Req → Prop) => ∃ t, Runs c s t ∧ ended t x ∧ p ((t.srv n).req i)
    e.state = .running → e.lead = true → e.inStep = false → s.engineMoves n = false →
    s.inHold (s.part n).swarm.toNat = false → s.rereads = [] → Held s n r d → descQuiet d.bits = false →
    s.heldDescs n [0x21, 0x22, 0x23, 0x25, 0x30, 0x32] = [(r.val, d)] → e.reqs = [(i, q)] → q.going = true →
    q.ending = none → q.saved = none → q.cancels = [] → q.draft = [] → q.cached < e.pageTokens →
    (s.ring n q.ring).enable = true → (s.ring n q.ring).takes →
      (op = 0x21 → q.tag = tag → ∃ t, Runs c s t ∧ ((t.srv n).req i).state = .done ∧ ((t.srv n).req i).ending = some 3) ∧
      (op = 0x21 ∨ op = 0x22 ∨ op = 0x30 → q.tag ≠ tag → gives { status := statusUnknownRequest } fun y => y.tag = q.tag) ∧
      (op = 0x22 → k = 1 → q.tag = tag → q.state ≠ .paused → q.state ≠ .resuming →
        (e.cocoonFits q = true → gives {} fun y => y.state = .paused ∧ y.hostPaused = true ∧ y.pausedFrom = q.state) ∧
        (e.cocoonFits q = false → gives { status := statusCocoonFull } fun y => y.hostPaused = q.hostPaused)) ∧
      (op = 0x22 → k = 2 → q.tag = tag → gives {} fun y => y.hostPaused = false) ∧
      (op = 0x22 → k = 3 → q.tag = tag → gives {} fun y => y.priority = value) ∧
      (op = 0x22 → k = 4 → q.tag = tag → gives {} fun y => y.deadline = value) ∧
      (op = 0x23 → q.hostPaused = true → q.listDirty = false → ∃ t, Runs c s t ∧ ended t { result := t.tmb.beat } ∧
        t.mem = wrote.1.mem.canon) ∧
      (op = 0x30 → q.tag = tag →
        (dfield d.bits 0x10 4 ≠ q.generation.toNat → gives { status := statusStaleGeneration } fun y => y.tag = q.tag) ∧
        (dfield d.bits 0x10 4 = q.generation.toNat → read.1.fail = none →
          (∀ off, e.updateBad q index pages = some off →
            gives { status := statusBadDescriptor, detail := off } fun y => y.tag = q.tag) ∧
          (e.updateBad q index pages = none → q.hostPaused = true →
            gives { result := (q.generation + 1).toNat } fun y => y.generation = q.generation + 1 ∧
              ∀ j, j < count → y.list.getD (index + j) 0 = pages.getD j 0))) ∧
      (op = 0x32 → let ks := e.freeBufs.take (dfield d.bits 0x10 4)
        gives { result := ks.length } fun y => y.tag = q.tag)) ∧
  (
  ∀ (s : State) (q : RingRef) (d : Desc) (errs : Errs), s.live →
    let n := q.vf.val
    let r := q.ring.val
    let e := s.srv n
    let c := Instr.reqSubmit q errs
    let w := dfield d.bits 8 8
    let block := (s.told errs).winRead n w 128
    let base := s.after block.2
    let bs := block.1.bytes
    let x := reqOfBlock bs
    let prompt := block.2.winRead n x.promptOff (4 * x.promptLen)
    let base2 := s.after prompt.2
    let words := prompt.1.bytes
    let slot := findFrom (fun k => !(e.req k).live) 1 (s.part n).entries.toNat 0
    let ends := fun (b : State) (y : Ending) => ∃ t, Runs c s t ∧ OnlyRing n r b t ∧ Ended s t n r d y
    let unread := fun (b : State) (a : Nat) (f : ReadFail) => ∃ t, Runs c s t ∧
      Ended s t n r d { status := statusPoisonRead, errSeq := b.err.nextSeq } ∧
      t.err = b.recorded { readInfo n 12 0 a f 0 r 1 with tag := descTag d.bits }
    Starts s n r d → descOpcode d.bits = 0x20 → CleanDesc d reqSubmitChecks →
      (w % 64 ≠ 0 ∨ (s.part n).inWindow w 128 = false → Completes c s n r d { status := statusBadAddress }) ∧
      (w % 64 = 0 → (s.part n).inWindow w 128 = true →
        (e.state ≠ .running ∨ e.lead = false → Completes c s n r d { status := statusBadDescriptor }) ∧
        (e.state = .running → e.lead = true →
          (block.2.blocked = true → Runs c s s) ∧
          (∀ f, block.2.blocked = false → block.1.fail = some f → unread base w f) ∧
          (block.2.blocked = false → block.1.fail = none →
            ((s.part n).inWindow x.promptOff (4 * x.promptLen) = false → ends base { status := statusBadAddress }) ∧
            ((s.part n).inWindow x.promptOff (4 * x.promptLen) = true →
              (∀ off, firstBad bs (s.blockChecks n bs) = some off →
                ends base { status := statusBadDescriptor, detail := blockDetail off }) ∧
              (firstBad bs (s.blockChecks n bs) = none →
                (e.variantOk x.variant = false → ends base { status := statusBadVariant }) ∧
                (e.variantOk x.variant = true →
                  (slot = none → ends base { status := statusTableFull }) ∧
                  ∀ i, slot = some i →
                    (prompt.2.blocked = true → Runs c s s) ∧
                    (∀ f, prompt.2.blocked = false → prompt.1.fail = some f → unread base2 x.promptOff f) ∧
                    (prompt.2.blocked = false → prompt.1.fail = none → e.nodes = [] →
                      (x.deadline ≠ 0 → (∀ h, e.hdr = some h → h.latencyCritical = false) →
                        ∃ t, Runs c s t ∧ Ended s t n r d { status := statusAdmissionRefused, detail := 2 } ∧
                          ((t.srv n).req i).live = false) ∧
                      (x.deadline = 0 → x.params.penalized = false →
                        ∃ t, Runs c s t ∧ Ended s t n r d { result := i } ∧ OnlyRing n r { base2 with srvs := t.srvs } t ∧
                          (t.srv n).req i =
                            { x with
                              state := .waiting,
                              prompt := (List.range x.promptLen).map fun k => numAt words (4 * k) 4,
                              order := e.nextOrder,
                              cocoon := 0xFFFFFFFF,
                              listDirty := true } ∧
                          ∀ k, k ≠ i → (t.srv n).req k = e.req k)))))))))

/-- VARIANT_REG registers a variant whose delta records are good; VARIANT_UNREG takes out one that no live request names,
and else waits until none does (R348, R349). SERVE_START starts an engine whose block and program keep the rules, and
SERVE_STOP begins its stop, which a stopped engine completes at once (R332, R333, R336). COCOON_SUPPLY gives the pool
buffers, and COCOON_RECLAIM takes free ones back, at once where no engine runs (R399, R400). A list or a block in the
window that cannot be read ends its descriptor with POISON_READ and a record (R511); a list in host memory is read again
and fails with the third attempt (R506). -/
def Obligations.EngineDescriptors : Prop :=
  ∀ (s : State) (q : RingRef) (d : Desc) (errs : Errs), s.live →
    let n := q.vf.val
    let r := q.ring.val
    let op := descOpcode d.bits
    let e := s.srv n
    let v := dfield d.bits 8 2
    let off := dfield d.bits 0x10 8
    let len := dfield d.bits 0x0C 4
    let log2 := dfield d.bits 0x14 1
    let count := dfield d.bits 0x10 4
    let list := (s.told errs).winRead n off (8 * len)
    let w := dfield d.bits 8 8
    let block := (s.told errs).winRead n w 128
    let base := s.after block.2
    let bs := block.1.bytes
    let prog := numAt bs 0 8
    let addr : DWord := BitVec.ofNat 64 w
    let tries := (s.ring n r).flagTries
    let asked := if s.gen.ats.contains (n + 1) then { s with out := s.out ++ [.translate (n + 1) addr] } else s
    let s' := s.modRing n r fun g => { g with flagTries := 0 }
    let waits := fun (c : Instr) =>
      ∃ t, Runs c s t ∧ OnlyRing n r s { t with srvs := s.srvs } ∧ t.ring n r = (s.ring n r).waits d .serving
    let unread := fun (c : Instr) (b : State) (a : Nat) (f : ReadFail) => ∃ t, Runs c s t ∧
      Ended s t n r d { status := statusPoisonRead, errSeq := b.err.nextSeq } ∧
      t.err = b.recorded { readInfo n 12 0 a f 0 r 1 with tag := descTag d.bits }
    Starts s n r d →
      (op = 0x24 → CleanDesc d variantRegChecks →
        let c := Instr.variantReg q errs
        let records := fun xs => checkDeltas n r d xs [] list.2
        let at_ := (List.range len).map fun k => numAt list.1.bytes (8 * k) 8
        ((s.part n).inWindow off (8 * len) = false → Completes c s n r d { status := statusBadAddress }) ∧
        ((s.part n).inWindow off (8 * len) = true → e.state = .off → Completes c s n r d { status := statusBadDescriptor }) ∧
        ((s.part n).inWindow off (8 * len) = true → e.state ≠ .off →
          (list.2.blocked = true → Runs c s s) ∧
          (∀ f, list.2.blocked = false → list.1.fail = some f → unread c (s.after list.2) off f) ∧
          (list.1.fail = none →
            ((records at_).2.blocked = true → Runs c s s) ∧
            ((records at_).2.blocked = false → (records at_).1 = none → ∃ t, Runs c s t ∧
              ∀ y ∈ (t.ring n r).descs, y.id ≠ d.id) ∧
            ∀ ds u, records at_ = (some ds, u) → u.blocked = false →
              (tabFind e.variants v = none → ∃ t, Runs c s t ∧ Ended s t n r d {} ∧
                OnlyRing n r { s.after u with srvs := t.srvs } t ∧
                tabFind (t.srv n).variants v = some { deltas := ds, leaving := false }) ∧
              (tabFind e.variants v ≠ none → Ends c s n r d { status := statusBadDescriptor, detail := 0x08 })))) ∧
      (op = 0x25 → CleanDesc d variantUnregChecks → e.state ≠ .off → ∀ x, tabFind e.variants v = some x → x.leaving = false →
        s.heldDescs n [0x25] = [] → (∀ y ∈ (s.ring n r).descs, y.id = d.id → y = d) →
        ((∃ z ∈ e.reqs, z.2.live = true ∧ z.2.variant = v) → waits (.variantUnreg q) ∧
          ∃ t, Runs (.variantUnreg q) s t ∧ tabFind (t.srv n).variants v = some { x with leaving := true }) ∧
        ((∀ z ∈ e.reqs, z.2.live = true → z.2.variant ≠ v) →
          ∃ t, Runs (.variantUnreg q) s t ∧ Ended s t n r d {} ∧ tabFind (t.srv n).variants v = none)) ∧
      (op = 0x25 → CleanDesc d variantUnregChecks → e.state ≠ .off → tabFind e.variants v = none →
        Completes (.variantUnreg q) s n r d { status := statusBadVariant }) ∧
      (op = 0x26 → CleanDesc d serveStartChecks → ∀ hdr,
        let c := Instr.serveStart q hdr errs
        (w % 64 ≠ 0 ∨ (s.part n).inWindow w 128 = false → Completes c s n r d { status := statusBadAddress }) ∧
        (w % 64 = 0 → (s.part n).inWindow w 128 = true →
          (block.2.blocked = true → Runs c s s) ∧
          (∀ f, block.2.blocked = false → block.1.fail = some f → unread c base w f) ∧
          (block.2.blocked = false → block.1.fail = none →
            let ends := fun (y : Ending) => ∃ t, Runs c s t ∧ OnlyRing n r base t ∧ Ended s t n r d y
            ((s.part n).inWindow prog 1 = false → ends { status := statusBadAddress }) ∧
            ((s.part n).inWindow prog 1 = true → hdr = none → ∃ t, Runs c s t ∧
              Ended s t n r d { status := statusPoisonRead, errSeq := base.err.nextSeq } ∧
              t.err = base.recorded { s.headerUnread n 12 prog with part := n, tag := descTag d.bits, ring := r }) ∧
            ∀ h, (s.part n).inWindow prog 1 = true → hdr = some h →
              let config := h.config = s.config n ∧ (h.latencyCritical = true → (s.part n).lcEnable = true)
              ((s.part n).inWindow prog h.size = false → ends { status := statusBadAddress }) ∧
              ((s.part n).inWindow prog h.size = true →
                (e.state ≠ .off → ends { status := statusBadDescriptor, detail := 0x0008 }) ∧
                (e.state = .off → s.sec.entropyFail = true → ends { status := statusBadDescriptor, detail := 0xFFFF }) ∧
                (e.state = .off → s.sec.entropyFail = false → ¬config → ends { status := statusConfigMismatch }) ∧
                (e.state = .off → s.sec.entropyFail = false → config →
                  (∀ o, firstBad bs (base.configChecks n bs h) = some o →
                    ends { status := statusBadDescriptor, detail := blockDetail o }) ∧
                  ∀ masks, firstBad bs (base.configChecks n bs h) = none → base.reserveMasks n (srvOf bs h) = some masks →
                    let period := numAt bs 8 4 * s.divisor n
                    ∃ t, Runs c s t ∧ Ended s t n r d {} ∧ SameMemory base t ∧
                      t.srv n = { srvOf bs h with
                                  prefixKey := (t.srv n).prefixKey, maskPages := masks,
                                  nextBoundary := (s.tmb.beat / period + 1) * period }))))) ∧
      (op = 0x27 → CleanDesc d serveStopChecks →
        (e.state = .off → Completes (.serveStop q) s n r d {}) ∧
        (e.state ≠ .off → waits (.serveStop q)) ∧
        (e.state ≠ .off → e.lead = true → ∃ t, Runs (.serveStop q) s t ∧
          t.srv n = { e with state := if dfield d.bits 8 1 = 1 ∨ e.state = .aborting then .aborting else .draining })) ∧
      (op = 0x31 → CleanDesc d cocoonSupplyChecks → ∀ got,
        let c := Instr.cocoonSupply q got
        let room := e.bufs.length + count ≤ 65536
        let size := e.bufLog2 = none ∨ e.bufLog2 = some log2
        (¬room → Completes c s n r d { status := statusBadDescriptor, detail := 0x10 }) ∧
        (room → ¬size → Completes c s n r d { status := statusBadDescriptor, detail := 0x14 }) ∧
        (room → size →
          (got = none → tries + 1 < 3 → ∃ t, Runs c s t ∧ OnlyRing n r asked t ∧
            (t.ring n r).flagTries = tries + 1 ∧ (t.ring n r).descs = (s.ring n r).descs) ∧
          (got = none → 3 ≤ tries + 1 → ∃ t, Runs c s t ∧ t.err = s.recorded
              { hostFlagInfo 0x0201 addr with part := n, tag := descTag d.bits, ring := r } ∧
            ∀ y ∈ (t.ring n r).descs, y.id ≠ d.id) ∧
          ∀ as : List DWord, got = some as →
            ((∀ a ∈ as.take count, a.toNat % 2 ^ log2 = 0) → ∃ t, Runs c s t ∧
              t.srv n = { e with bufLog2 := some log2, bufs := addBufs (as.take count) 0 e.bufs } ∧
              OnlyRing n r { asked with srvs := t.srvs } t ∧ Ended s' t n r d { result := (t.srv n).bufs.length }) ∧
            ((∃ a ∈ as.take count, a.toNat % 2 ^ log2 ≠ 0) →
              ∃ t, Runs c s t ∧ OnlyRing n r asked t ∧ Ended s' t n r d { status := statusBadAddress }))) ∧
      (op = 0x32 → CleanDesc d cocoonReclaimChecks →
        let ks := e.freeBufs.take count
        (e.state ≠ .off → waits (.cocoonReclaim q)) ∧
        (e.state = .off → ∃ t, Runs (.cocoonReclaim q) s t ∧ Ended s t n r d { result := ks.length } ∧
          t.srv n = { e with bufs := e.bufs.filter fun b => !ks.contains b.1 } ∧
          t.out = (if ks = [] then s else
            s.hostPut (n + 1) addr (ks.flatMap fun k => bytesOfNat 8 (tabGet (0, false) e.bufs k).1.toNat)).out))

/-! ### Step boundaries, plans, commits and cocoons (R329, R340, R345, R350, R357 to R367, R380, R381, R402 to R405) -/

/-- STEP_BOUNDARY: no boundary comes to an engine that is off, is no lead, whose step or moves still run, or in a hold; a
draining or aborting engine without requests stops and its SERVE_STOP completes; a cancel of an unknown tag completes; and a
prefilling request whose pages are there is placed with as many tokens as the chunk and the step hold, its prompt is read
again, and the step program starts; where that read fails the request ends (R336, R338, R345, R357, R358, R359, R438).

The unit list of a request's plane covers each of its positions once, in list order: the entry of position `x` names the
key unit of the page that the snapshot gives for it, the value unit 16 KiB after it, and the row of query heads (R299, R372,
R381). -/
def Obligations.BoundariesBuild : Prop :=
  (
  ∀ (s : State) (n : Fin 16) (errs : Errs), s.live →
    let e := s.srv n
    let b := s.boundaryBeat n
    let c := Instr.stepBoundary n errs
    let on := e.state ≠ .off ∧ e.lead = true ∧ e.inStep = false ∧ s.engineMoves n = false ∧
      s.inHold (s.part n).swarm.toNat = false
    let single := ∃ h, e.hdr = some h ∧ h.devices ≤ 1
    let idle := ∀ r, r < 8 → ∀ d ∈ (s.ring n r).descs, d.state ≠ .serving
    (¬on → Runs c s s) ∧
    (on → e.state = .running → single → e.reqs = [] → idle →
      ∃ t, Runs c s t ∧ t.tmb.beat = max s.tmb.beat b % 2 ^ 64 ∧
        t.srv n = { e with
                    nextBoundary := b + s.stepPeriod n, placed := [], taken := [], released := [], lists := [],
                    bound := { tokens := [], lengths := List.replicate e.batchMax 0xFFFFFFFF,
                               sampleIdx := List.replicate e.shape.sMax (-1), slots := [] } }) ∧
    (on → e.state ≠ .running → single → e.reqs = [] → idle → ∃ t, Runs c s t ∧ t.srv n = {}) ∧
    (∀ (r : Fin 8) d, on → e.state ≠ .running → e.reqs = [] → s.heldDescs n [0x21, 0x22, 0x23, 0x25, 0x30, 0x32] = [] →
      s.heldDescs n [0x25, 0x27] = [(r.val, d)] → Held s n r d → ∃ t, Runs c s t ∧ Ended s t n r d {} ∧ t.srv n = {}) ∧
    (∀ (r : Fin 8) d, on → e.state = .running → e.reqs = [] → s.heldDescs n [0x21, 0x22, 0x23, 0x25, 0x30, 0x32] = [(r.val, d)] →
      descOpcode d.bits = 0x21 → Held s n r d → ∃ t, Runs c s t ∧ Ended s t n r d { status := statusUnknownRequest }) ∧
    (∀ i q, on → e.state = .running → single → idle → s.rereads = [] → e.reqs = [(i, q)] → q.state = .prefill →
      q.latency = true → q.hostPaused = false → q.variant = 0 → q.draft = [] → q.saved = none → q.ending = none →
      q.listDirty = false → q.moves = [] → q.maskRow = none → q.cached < e.pageTokens → q.cached < q.promptLen →
      0 < e.chunk → 0 < e.batchMax → 0 < e.shape.sMax → (s.ring n q.ring).enable = true → (s.ring n q.ring).room ≠ 0 →
      let w := min (min e.chunk (q.promptLen - q.cached)) e.tokensMax
      let last := decide (q.promptLen ≤ q.cached + w)
      let read := (s.told errs).winRead n (q.promptOff + 4 * q.cached) (4 * w)
      0 < w → (q.cached + w - 1) / e.pageTokens + 1 ≤ q.list.length →
        (read.1.fail ≠ none → ∃ t, Runs c s t ∧ ((t.srv n).req i).state = .done ∧ ((t.srv n).req i).ending = some 4 ∧
          (t.srv n).inStep = false ∧ (t.srv n).placed = []) ∧
        (read.1.fail = none → ∃ t, Runs c s t ∧ (t.srv n).inStep = true ∧
          (t.srv n).placed = [{ entry := i, position := q.cached, tokens := w, samples := if last then 1 else 0, variant := 0,
                                isPrefill := true, lastChunk := last, tree := false }] ∧
          (t.srv n).lists = [(i, q.generation, q.list)] ∧
          ((t.srv n).req i).prompt = q.prompt.take q.cached ++
            ((List.range w).map fun k => numAt read.1.bytes (4 * k) 4) ++ q.prompt.drop (q.cached + w)))) ∧
  (
  ∀ (e : Srv) (list : List Nat) (plane length rows : Nat),
    let es := e.planeUnits list plane length rows none
    (∀ u ∈ es, u.index0 % e.unitTokens = 0 ∧ 1 ≤ u.slots ∧ u.slots ≤ e.unitTokens ∧ u.index0 + u.slots ≤ length ∧
      u.val = u.key + 16384 ∧ u.qhead = 0 ∧ u.qcount = rows ∧ u.mask = 0xFFFFFFFF) ∧
    (∀ k, k < es.length → (es.map UnitEntry.num)[k]? = some k) ∧
    ∀ x, x < length → ∃ u ∈ es, u.index0 ≤ x ∧ x < u.index0 + u.slots ∧
      (∀ y ∈ es, y.index0 ≤ x → x < y.index0 + y.slots → y = u) ∧
      u.key = e.pageAt (list.getD (x / e.pageTokens) 0) plane + x % e.pageTokens / kvUnitSlots e.shape * 4096)

/-- STEP_PROGRAM_END of a step that ended well: a prefill chunk enters the cache, and a decoded token commits, with its
stream record; of a step that faulted, each placed request ends with reason FAULT; a member only leaves the step (R340,
R357, R360, R365). STEP_PLAN: a member's replica takes the plan's entry, and the step runs; a variant that is not registered
here faults the step, and a plan that stops the engine stops it (R329, R337, R350). The clauses speak of a device without a
granule under re-read. -/
def Obligations.StepsCommit : Prop :=
  ∀ (s : State) (n : Fin 16) (logits : Option (List (List Word))) (appends : List KvAppend) (errs : Errs), s.live →
    let was := s.srv n
    let s0 := if was.stepFault then s.told errs else forAll appends (fun a s => s.appendKv n a) (s.told errs)
    let s1 := s0.endStepJob n
    let e := s1.srv n
    let c := Instr.stepProgramEnd n logits appends errs
    let ends := fun (p : Placed) (y : Req) =>
      ∃ t, Runs c s t ∧ (t.srv n).inStep = false ∧ (t.srv n).placed = [] ∧ (t.srv n).req p.entry = y
    let runs := was.state ≠ .off ∧ was.inStep = true ∧ s.engineMoves n = false
    let takes := was.state ≠ .off ∧ was.lead = false ∧ was.inStep = false ∧ s.engineMoves n = false
    (¬runs → Runs c s s) ∧
    (runs → s.rereads = [] → e.lead = false → ∃ t, Runs c s t ∧
      t.srv n = { e with inStep := false, stepFault := false, placed := [], bound := {}, lists := [] }) ∧
    (∀ p, runs → s.rereads = [] → e.lead = true → e.placed = [p] →
      let q := e.req p.entry
      q.going = true → q.ending = none → (∀ z ∈ e.reqs, z.2.ending = none) → q.countLog2 = 0 →
      (e.stepFault = false → p.isPrefill = true → p.samples = 0 → q.penalizePrompt = false →
        ends p { q with cached := p.position + p.tokens }) ∧
      (∀ tok, e.stepFault = false → p.isPrefill = false → p.samples = 1 → p.tokens = 1 → q.draft = [] →
        q.params.choose (fun _ => 0) (logitsRow s1.freshCount e.vocab logits 0) q.nextPos = some tok →
        q.stop.contains (BitVec.ofNat 32 tok) = false → q.generated + 1 < q.maxNew → q.deadline = 0 →
        ends p { q with
                 state := .decode, tokens := q.tokens ++ [tok], generated := q.generated + 1, firstSent := true, moves := [],
                 cached := p.position + 1 } ∧
        ((s1.part n).discard = false → (s1.ring n q.ring).takes → (s1.ring n q.ring).over = false → ∃ t, Runs c s t ∧
          (t.ring n q.ring).owed = (s1.ring n q.ring).owed ++
            [{ body := .token (tokenRecord q.tag [tok] q.nextPos 0 (if q.firstSent then 0 else 1)), irq := false }])) ∧
      (e.stepFault = true → ∃ t, Runs c s t ∧ ((t.srv n).req p.entry).state = .done ∧
        ((t.srv n).req p.entry).ending = some 4)) ∧
    (¬takes → ∀ plan, Runs (.stepPlan n plan errs) s s) ∧
    (∀ plan, takes →
      (plan.stop = true → s.heldDescs n [0x32] = [] → ∃ t, Runs (.stepPlan n plan errs) s t ∧ t.srv n = {}) ∧
      (∀ p x, plan.stop = false → plan.entries = [p] → p.length = some x → plan.pauses = [] → plan.resumes = [] →
        was.reqs = [] → s.heldDescs n [0x25, 0x32] = [] → s.rereads = [] → numAt (bytesOf p.row 128) 0 1 ≠ 0 →
        (p.variant = 0 → was.hdr.isSome = true → ∃ t, Runs (.stepPlan n plan errs) s t ∧ (t.srv n).inStep = true ∧
          (t.srv n).placed = [placedOf p.entry x] ∧
          (t.srv n).lists = [(p.entry, ((t.srv n).req p.entry).generation, p.pages.map (·.toNat))] ∧
          (t.srv n).req p.entry =
            { replicaReq {} (bytesOf p.row 128) p with listDirty := false, blocks := ((t.srv n).req p.entry).blocks }) ∧
        (p.variant ≠ 0 → tabFind was.variants p.variant.toNat = none →
          ∃ t, Runs (.stepPlan n plan errs) s t ∧ (t.srv n).inStep = true ∧ (t.srv n).stepFault = true)))

/-- COCOON_WRITE_COMPLETE: a paused request's pages are read and its stream stands in its buffers, with its MAGIC and
DIGEST, or where a read or a write failed the cocoon is of no more use. COCOON_READ_COMPLETE: a resuming request's pages
take what the stream holds where its MAGIC and DIGEST are good; a failed read is tried again within the budget, and a broken
stream, or the last failed read, ends its use (R401, R402, R404, R405, R511, R512). -/
def Obligations.CocoonsMove : Prop :=
  ∀ (s : State) (n : Fin 16) (tag : DWord) (i : Nat) (q : Req) (k : Cocoon) (errs : Errs), s.live →
    let e := s.srv n
    let becomes := fun (row : Instr) (y : Cocoon) => ∃ t, Runs row s t ∧ ((t.srv n).req i).saved = some y
    let write := fun ok => Instr.cocoonWriteComplete n tag ok errs
    let back := fun readable bs => Instr.cocoonReadComplete n tag readable bs
    let pages := k.saved.map fun x => q.list.getD x.1 0
    let buffers := k.bufs.map fun b => (tabGet (0, false) e.bufs b).1
    let read := (s.told errs).readAll n (e.cocoonRanges q pages)
    let skip := cocoonHeader k.saved.length k.bufs.length
    let asked := forAll buffers (fun a u => u.hostAsk (n + 1) a) s
    let ranges := (if e.lead = true ∧ q.countBytes ≠ 0 then [(q.countOff, q.countBytes, 0)] else []) ++
      k.newPages.flatMap fun p =>
        (List.range (kvPlanes e.shape)).map (fun j => (e.pageAt p j, 32768, 0)) ++ [(e.structAt p, 1024, 3072)]
    (e.findSaved tag .paused = some (i, q, k) → k.written = false → k.failed = false → s.engineMoves n = false →
      (e.req i).saved = some k →
      (∀ ok, read.2.blocked = true → Runs (write ok) s s) ∧
      (∀ w f ok, read.2.blocked = false → read.1 = some (w, f) → ∃ t, Runs (write ok) s t ∧
        ((t.srv n).req i).saved = some { k with failed := true } ∧
        t.err = (s.after read.2).recorded (readInfo n 12 0 w f 0 ringNone 1)) ∧
      (read.2.blocked = false → read.1 = none →
        becomes (write false) { k with failed := true } ∧
        ∃ t stream, Runs (write true) s t ∧
          ((t.srv n).req i).saved = some { k with written := true, size := stream.length } ∧
          cocoonIntact stream = true ∧ stream.drop skip = read.2.cocoonBody n q pages ∧
          t.out = (forAll (digestLast (bufferPieces (2 ^ e.bufLog2.getD 0) buffers stream))
            (fun x u => u.hostPut (n + 1) x.1 x.2) read.2).out)) ∧
    (e.findSaved tag .resuming = some (i, q, k) → k.restored = false → k.failed = false → (e.req i).saved = some k →
      (∀ bs, cocoonIntact (bs.take k.size) = true →
        let u := restoreRanges n ranges (bs.drop skip) asked
        (u.blocked = true → Runs (back true bs) s s) ∧
        (u.blocked = false → ∃ t, Runs (back true bs) s t ∧ t.mem = u.mem.canon ∧
          ((t.srv n).req i).saved = some { k with restored := true })) ∧
      (∀ bs, cocoonIntact (bs.take k.size) = false → becomes (back true bs) { k with failed := true }) ∧
      (3 ≤ k.tries + 1 → ∀ bs, becomes (back false bs) { k with failed := true }) ∧
      (k.tries + 1 < 3 → ∀ bs, becomes (back false bs) { k with tries := k.tries + 1 })) ∧
    (e.findSaved tag .paused = none → ∀ ok, Runs (write ok) s s) ∧
    (e.findSaved tag .resuming = none → ∀ readable bs, Runs (back readable bs) s s) ∧
    ∀ bs, exec (.hostCompletionTimeout (.cocoon n tag)) s = exec (back false bs) s

/-! ### Fabric ports (R408 to R421, R441 to R443) -/

/-- FRAME_RECEIVE: an uncorrectable codeword, one with a set reserved bit or bad parity, or one out of sequence is
discarded, and a run's NAK leaves in the next frame, at once unless 512 wait for acknowledgment; an accepted one gives its
cells and its message, acknowledges frames, and its SEQ is the last accepted (R413, R415, R416). REPLAY_TIMEOUT sends every
unacknowledged frame again, and after eight replays without an advance fails the port (R417, R418, R441).

The states of a port: PORT_ENABLE begins training, TRAIN tells the partner's place, TRAINING_COMPLETE with a partner of
the same swarm brings the port UP, TRAINING_TIMEOUT and LIGHT_LOSS bring it DOWN with their causes, PORT_DISABLE turns it
OFF, and FORCE_DOWN holds it DOWN (R410, R421, R441, R443, R444). -/
def Obligations.PortsAndFrames : Prop :=
  (
  ∀ (s : State) (p : Fin 16) (c : Codeword), s.live →
    let g := s.port p
    let f := frameOf c.bits
    let good := cwClean c.bits = true ∧ (g.accepted = none ∨ g.accepted = some (f.seq - 1)) ∧
      (g.discarding = true → f.replay = true)
    let left := if f.av then ackedDrop f.ack g.unacked else g.unacked
    let on := g.state = .up ∨ g.state = .training
    let got := fun (k : Nat) => f.cells.foldl (fun g x => g.cell x.1 x.2)
      { g with
        fecCorr := g.fecCorr + BitVec.ofNat 64 k, accepted := some f.seq, discarding := false, unacked := left,
        partnerPause := f.pause, light := true, tries := if left.length < g.unacked.length then 0 else g.tries,
        inMsgs := if f.ctrl.typ = 0 then g.inMsgs else g.inMsgs ++ [f.ctrl] }
    let naks := fun (t : State) =>
      (512 ≤ g.unacked.length → t.out = s.out ∧ (t.port p).nakDue = true) ∧
      (g.unacked.length < 512 → (t.port p).nakDue = false ∧
        ∃ rest, t.out = s.out ++ .frame p (frameBits (frameWords g.sendSeq (g.accepted.getD 0) g.accepted.isSome true
          false g.pausing (g.outMsgs.headD ctrlNone) (if g.partnerPause then [] else g.outCells.take 9))) :: rest)
    (¬on → Runs (.frameReceive p c) s s) ∧
    (on → c.corrected = none → ∃ t, Runs (.frameReceive p c) s t ∧ PortOnly s t ∧
      (t.port p).fecUncorr = g.fecUncorr + 1 ∧ (t.port p).discarding = true ∧ (t.port p).accepted = g.accepted ∧
      (t.port p).arrived = g.arrived ∧ (t.port p).inMsgs = g.inMsgs ∧ (g.discarding = false → naks t)) ∧
    (∀ k, on → c.corrected = some k → ¬good → ∃ t, Runs (.frameReceive p c) s t ∧ PortOnly s t ∧
      (t.port p).fecCorr = g.fecCorr + BitVec.ofNat 64 k ∧ (t.port p).discarding = true ∧
      (t.port p).accepted = g.accepted ∧ (t.port p).arrived = g.arrived ∧ (t.port p).inMsgs = g.inMsgs ∧
      (g.discarding = false → naks t)) ∧
    (∀ k, on → c.corrected = some k → good → f.nak = false → ∃ t, Runs (.frameReceive p c) s t ∧ PortOnly s t ∧
      (∀ r, r ≠ p.val → t.port r = s.port r) ∧
      (t.port p).accepted = some f.seq ∧ (t.port p).discarding = false ∧ (t.port p).fecCorr = (got k).fecCorr ∧
      (t.port p).partnerPause = f.pause ∧ (t.port p).tries = (got k).tries ∧ (t.port p).arriving = (got k).arriving ∧
      (t.port p).arrived = (got k).arrived ∧ (t.port p).inMsgs = (got k).inMsgs ∧
      (g.outMsgs = [] → g.outCells = [] → g.nakDue = false → t.out = s.out ∧ t.port p = got k)) ∧
    (∀ k, on → c.corrected = some k → good → f.nak = true → (got k).tries < 8 → ∃ t rest, Runs (.frameReceive p c) s t ∧
      PortOnly s t ∧ (t.port p).tries = (got k).tries + 1 ∧ (t.port p).replayCount = g.replayCount + 1 ∧
      t.out = s.out ++ left.map (fun x =>
        .frame p (frameBits (frameWords x.seq f.seq true false true (got k).pausing x.ctrl x.cells))) ++ rest) ∧
    (g.unacked = [] ∨ g.partnerPause = true ∨ ¬on → Runs (.replayTimeout p) s s) ∧
    (g.unacked ≠ [] → g.partnerPause = false → on → g.tries < 8 → ∃ t, Runs (.replayTimeout p) s t ∧
      t.port p = { g with tries := g.tries + 1, replayCount := g.replayCount + 1 } ∧
      t = { s with ports := t.ports, out := t.out } ∧
      t.out = s.out ++ g.unacked.map fun x =>
        .frame p (frameBits (frameWords x.seq (g.accepted.getD 0) g.accepted.isSome false true g.pausing x.ctrl x.cells))) ∧
    (g.unacked ≠ [] → g.partnerPause = false → on → 8 ≤ g.tries → ∃ t, Runs (.replayTimeout p) s t ∧
      (t.port p).state = .down ∧ (t.port p).cause = .budget)) ∧
  (
  ∀ (s : State) (p : Fin 16), s.live →
    let g := s.port p
    let mine := s.portSwarm p
    let down := fun (c : Instr) (why : PortCause) =>
      ∃ t, Runs c s t ∧ (t.port p).state = .down ∧ (t.port p).cause = why ∧ (t.port p).unacked = []
    (g.enable = true → Runs (.portEnable p) s s) ∧
    (g.enable = false → g.forceDown = false → ∃ t, Runs (.portEnable p) s t ∧ (t.port p).state = .training ∧
      (t.port p).enable = true ∧ (t.port p).partnerSwarm = none) ∧
    (g.enable = false → g.forceDown = true → ∃ t, Runs (.portEnable p) s t ∧ (t.port p).state = .down ∧
      (t.port p).cause = .forced ∧ (t.port p).enable = true) ∧
    (∀ c, g.inMsgs.find? (fun m => m.typ.toNat == 5) = some c → g.state = .training →
      ∃ t, Runs (.train p) s t ∧ t = { s with ports := t.ports } ∧
        t.port p = { g with
                     inMsgs := g.inMsgs.erase c, light := true, partnerPos := field c.body 110 10, partnerPort := field c.body 106 4,
                     partnerSwarm := some (field c.body 102 4) }) ∧
    (let ready := g.state = .training ∧ s.laserOk p = true ∧ g.partnerSwarm.isSome = true ∧ g.partnerSwarm = mine
     (ready → ∃ t, Runs (.trainingComplete p) s t ∧ t.port p = { g with state := .up, cause := .none_ } ∧
       t = { s with ports := t.ports, evc := t.evc, msix := t.msix, out := t.out }) ∧
     (¬ready → Runs (.trainingComplete p) s s)) ∧
    (g.state ≠ .training → ∀ b, Runs (.trainingTimeout p b) s s) ∧
    (g.state = .training → down (.trainingTimeout p true) .length ∧
      (g.partnerSwarm.isSome = true → g.partnerSwarm ≠ mine → down (.trainingTimeout p false) .swarm) ∧
      (g.partnerSwarm = none ∨ g.partnerSwarm = mine → down (.trainingTimeout p false) .training)) ∧
    (g.state = .up → down (.lightLoss p) .light) ∧
    (g.state ≠ .up → Runs (.lightLoss p) s s) ∧
    (∃ t, Runs (.portDisable p) s t ∧ (t.port p).state = .off ∧ (t.port p).enable = false ∧ (t.port p).unacked = [] ∧
      t = { s with ports := t.ports, evc := t.evc, msix := t.msix, out := t.out }) ∧
    (g.enable = true → down (.forceDown p) .forced) ∧
    (g.enable = false → ∃ t, Runs (.forceDown p) s t ∧ t.port p = { g with forceDown := true }))

/-- TRANSFER_RECEIVE: a transfer with hops left goes on by its next port, and is dropped with a record where that port
cannot take it; one that is here waits for the port of its vat, if a job of its swarm with its start beat holds that vat
(R424, R425, R426). TRANSFER_ACK frees the slot of its SEND (R425). FAB_TIMEOUT faults a SEND that has left and is not
acknowledged at the beat where its timer of FAB_CFG.TIMEOUT microseconds ends; the timer stands still in a hold and while
a port replays (R428). -/
def Obligations.TransfersArrive : Prop :=
  ∀ (s : State) (p : Fin 16), s.live →
    let g := s.port p
    (g.arrived = [] → Runs (.transferReceive p) s s ∧ Runs (.transferAck p) s s) ∧
    (∀ x rest, g.arrived = x :: rest →
      let h := x.head
      let hops := headField h 0 0 4
      let out := headField h 0 4 4
      let sw := headField h 0x0C 0 4
      let v := headField h 0x10 24 7
      let ack := h.getLsbD (8 * 0x0D + 2)
      let taken := s.modPort p fun g => { g with arrived := rest }
      let flag := if h.getLsbD (8 * 0x0D) then some (v, headField h 0x14 0 24, headField h 0x14 24 5) else none
      let lines := inboundLines (.fabric h) (headField h 0x10 0 24) flag (transferLines x).length
        (fun i => (transferLines x).getD i 0) fun _ => none
      (hops ≠ 0 → (taken.port out).state = .up → s.portSwarm out = some (BitVec.ofNat 4 sw) →
        ∃ t h', Runs (.transferReceive p) s t ∧ t = taken.sendCells out { x with head := h' } ∧
          headField h' 0 0 4 = hops - 1 ∧ (∀ k, k < 10 → headField h' 0 (4 + 4 * k) 4 = headField h 0 (8 + 4 * k) 4) ∧
          ∀ o, 8 ≤ o → o < 64 → headField h' o 0 8 = headField h o 0 8) ∧
      (hops ≠ 0 → (taken.port out).state ≠ .up → ∃ t, Runs (.transferReceive p) s t ∧ (t.port p).arrived = rest ∧
        s.err.openRecs.length < t.err.openRecs.length) ∧
      (∀ j, hops = 0 → ack = false → s.destJob h = some j → headField h 0x08 0 10 = s.gen.fabPos.toNat →
        headField h 0x24 0 32 = j.askedBeat % 2 ^ 32 → h.getLsbD (8 * 0x0D + 1) = false →
        ∃ t, Runs (.transferReceive p) s t ∧ t = { taken with vats := t.vats } ∧ (∀ w, w ≠ v → t.vat w = s.vat w) ∧
          t.vat v = { s.vat v with inbound := (s.vat v).inbound ++ lines }) ∧
      (hops = 0 → ack = true → Runs (.transferReceive p) s s) ∧
      (hops ≠ 0 ∨ ack = false → Runs (.transferAck p) s s) ∧
      (∀ y, hops = 0 → ack = true → tabFind (s.vat (headField h 0x22 3 7)).xfers (headField h 0x22 0 3) = some y →
        y.kind = .send → y.departed.isSome = true → (s.vat (headField h 0x22 3 7)).run ≠ .ending →
        ∃ t, Runs (.transferAck p) s t ∧ (t.port p).arrived = rest ∧ t.vat (headField h 0x22 3 7) =
          { s.vat (headField h 0x22 3 7) with
            xfers := tabErase (headField h 0x22 0 3) (s.vat (headField h 0x22 3 7)).xfers })) ∧
    ∀ (v : Fin 128) (k : Fin 8) (x : Xfer), tabFind (s.vat v).xfers k = some x →
      let k0 := (s.part (s.vatPart v)).swarm.toNat
      let left := x.clock + 250 * s.gen.fabTimeout.toNat - tabGet 0 s.tmb.clocks k0
      let still := x.kind ≠ .send ∨ x.departed = none ∨
        (left ≠ 0 ∧ (s.inHold k0 = true ∨ ∃ r, r < 16 ∧ (s.port r).tries ≠ 0))
      (still → Runs (.fabTimeout v k) s s) ∧
      (¬still → ∃ t, Runs (.fabTimeout v k) s t ∧ t.tmb.beat = (s.tmb.beat + left) % 2 ^ 64 ∧
        (∀ id, (s.vat v).job = some id → tabFind t.jobs id = none) ∧
        ((s.vat v).job = none → (t.vat v).run = .stopped))

/-- FAB_RT_SEL selects an entry, and loads it where the port is the partition's. FAB_RT_DATA_WRITE stores the entry, which
the compared configuration then holds, and with AUTOINC goes to the next; another partition's port is refused, and so is a partition with a job
(R427, R595). -/
def Obligations.RouteTables : Prop :=
  ∀ (s : State) (n : Fin 16) (w : Word), s.live →
    let v := s.vf n
    let p := v.rtPort.toNat
    let d := fun k => tabGet 0 v.rtData k
    (let port := field w 16 4
     let entry : BitVec 12 := field w 0 12
     let mine := s.portOwner port.toNat = some n.val
     let e := if mine then s.route port.toNat entry.toNat else 0
     ∃ t, Runs (.fabRtSel n w) s t ∧ t = { s with vfs := t.vfs } ∧ (∀ m, m ≠ n.val → t.vf m = s.vf m) ∧
       t.vf n = { v with rtAutoinc := w.getLsbD 31, rtPort := port, rtEntry := entry, rtData := (t.vf n).rtData,
                         rtForeign := v.rtForeign || decide (¬mine) } ∧
       ∀ k, k < 4 → tabGet 0 (t.vf n).rtData k = field e (32 * k) 32) ∧
    (s.portOwner p ≠ some n.val → ∃ t, Runs (.fabRtDataWrite n w) s t ∧ t = { s with vfs := t.vfs } ∧
      t.vf n = { v with rtForeign := true }) ∧
    (s.portOwner p = some n.val → s.partBusy n = true → ∃ t, Runs (.fabRtDataWrite n w) s t ∧
      t.vf n = { v with rtBusy := true } ∧ t.port p = { s.port p with routeBusy := true } ∧
      t = { s with vfs := t.vfs, ports := t.ports }) ∧
    (s.portOwner p = some n.val → s.partBusy n = false → ∃ t, Runs (.fabRtDataWrite n w) s t ∧
      t.route p v.rtEntry.toNat = w ++ d 2 ++ d 1 ++ d 0 ∧
      (∀ q k, q ≠ p ∨ k ≠ v.rtEntry.toNat → t.route q k = s.route q k) ∧
      (p, (t.port p).routes) ∈ (t.config n).routes ∧
      (t.vf n).rtEntry = (if v.rtAutoinc then v.rtEntry + 1 else v.rtEntry))

/-! ### The timebase, holds and ABORTs (R429 to R441, R446, R453) -/

/-- BEACON: of the upstream port of a device that is no root, it sets the beat of one without lock, and counts the good
ones of another: the sixteenth in a row locks it (R431). BEACON_LOSS moves to the alternate port, or LOCK is lost (R432).
QUANTUM_BOUNDARY is the next multiple of 64 beats; the written controls, and the written beat at the root, take effect
there (R429, R446, R448, R453).

HOLD_REQ: the root announces a hold for the first quantum boundary after HOLD_LEAD; another device sends it on toward
the root, joined with one that waits. An ANNOUNCE from the upstream port is noted before its START, and aborts its swarm's
jobs where it is late. At HOLD_START the job beats stop, or with no
quanta the divisor changes; at HOLD_END they go on, and each member counts the hold (R435 to R440). ABORT stops the jobs of
its swarm once (R441). -/
def Obligations.TimebaseAndHolds : Prop :=
  (
  ∀ s : State, s.live →
    let u := s.tmb
    let alt := u.onAlt = false ∧ u.ctl.altEn = true ∧ (s.port u.ctl.altPort.toNat).state = .up
    (∀ (p : Fin 16) (e : Nat),
      let found := (s.port p).inMsgs.find? (fun m => m.typ.toNat == 1)
      let heard := u.ctl.root = false ∧ u.upstream = p.val ∧ (s.port p).state = .up
      let good := if e < 100 then u.goodBeacons + 1 else 0
      (found = none → Runs (.beacon p e) s s) ∧
      (∀ c, found = some c → ¬heard → ∃ t, Runs (.beacon p e) s t ∧ t = { s with ports := t.ports } ∧
        t.port p = { s.port p with inMsgs := (s.port p).inMsgs.erase c }) ∧
      (∀ c, found = some c → heard → u.lock = .free ∨ u.lock = .lost → ∃ t, Runs (.beacon p e) s t ∧
        t.tmb = { u with beat := (ctrlField c 119 56 + 45) % 2 ^ 64, lock := .acquiring, goodBeacons := 0, missedBeacons := 0 }) ∧
      (∀ c, found = some c → heard → u.lock = .acquiring ∨ u.lock = .locked → ∃ t, Runs (.beacon p e) s t ∧
        t.tmb = { u with goodBeacons := min good 16, missedBeacons := 0, lock := if 16 ≤ good then .locked else u.lock })) ∧
    (u.lock = .free ∨ u.ctl.root = true ∨ u.lock = .lost → Runs .beaconLoss s s) ∧
    (u.lock = .acquiring ∨ u.lock = .locked → u.ctl.root = false →
      (alt → ∃ t, Runs .beaconLoss s t ∧ t = { s with tmb := { u with onAlt := true, missedBeacons := 0 } }) ∧
      (¬alt → ∃ t, Runs .beaconLoss s t ∧ t.tmb.lock = .lost)) ∧
    (let ctl := u.ctlNext.getD u.ctl
     ∃ t, Runs .quantumBoundary s t ∧ t.tmb.ctl = ctl ∧ t.tmb.ctlNext = none ∧ t.tmb.beatSetDue = false ∧
       t.tmb.beat = (if u.beatSetDue = true ∧ ctl.root = true then u.beatSet.toNat else quantumAt (u.beat + 1) % 2 ^ 64) ∧
       ∀ n x, tabFind s.parts n = some x → tabFind t.parts n = some { x with guardNow := x.guard, weightNow := x.weight })) ∧
  (
  ∀ s : State, s.live →
    let msg := fun (p k : Nat) => (s.port p).inMsgs.find? fun m => m.typ.toNat == k
    (∀ (p : Fin 16) c, msg p 2 = some c →
      let k := ctrlField c 119 116
      let x := s.slot k
      let q := ctrlField c 115 108
      let a : Announced :=
        { start := quantumAt (s.tmb.beat + 64 * s.tmb.ctl.holdLead.toNat), quanta := q, divisor := x.wantedDivisor }
      let up := s.tmb.upstream
      let g := s.port up
      (s.tmb.ctl.root = true → ctrlField c 107 105 = 0 → x.announced = [] → x.hold = none →
        ∃ t, Runs (.holdReq p) s t ∧
          t.slot k = { x with announced := [a], requested := if x.requested ≤ x.ended + q then 0 else x.requested,
                              ended := if x.requested ≤ x.ended + q then 0 else x.ended,
                              lastEnd := max x.lastEnd (a.start + 64 * q) } ∧ t.tmb.beat = s.tmb.beat) ∧
      (s.tmb.ctl.root = false → g.outMsgs = [] → g.outCells = [] → g.unacked.length < 512 → g.state = .up →
        ∃ t, Runs (.holdReq p) s t ∧ t = { s with ports := t.ports, out := t.out } ∧
          (t.port up).unacked = g.unacked ++ [{ seq := g.sendSeq, ctrl := c, cells := [] }] ∧
          t.out = s.out ++ [.frame up (frameBits
            (frameWords g.sendSeq (g.accepted.getD 0) g.accepted.isSome g.nakDue false g.pausing c []))]) ∧
      (s.tmb.ctl.root = false → ∀ ms, mergeReq c g.outMsgs = some ms →
        ∃ t, Runs (.holdReq p) s t ∧ t = { s with ports := t.ports } ∧ (t.port up).outMsgs = ms)) ∧
    (∀ (p : Fin 16) c, msg p 3 = some c →
      let k := ctrlField c 119 116
      let x := s.slot k
      let a : Announced :=
        { start := nearBeat s.tmb.beat (ctrlField c 115 68), quanta := ctrlField c 67 60, divisor := ctrlField c 59 57 }
      let from_ := s.tmb.ctl.root = false ∧ p.val = s.tmb.upstream
      (¬from_ → ∃ t, Runs (.announce p) s t ∧ t = { s with ports := t.ports } ∧
        t.port p = { s.port p with inMsgs := (s.port p).inMsgs.erase c }) ∧
      (from_ → s.tmb.beat < a.start → ∃ t, Runs (.announce p) s t ∧ t.tmb.beat = s.tmb.beat ∧
        (s.isMember k = false → t.slot k = x) ∧
        (s.isMember k = true → t.slot k =
          let x1 := { x with announced := (x.announced.filter fun y => y.start != a.start) ++ [a] }
          if x1.requested ≤ x1.granted then { x1 with requested := 0, ended := 0 } else x1)) ∧
      (from_ → a.start ≤ s.tmb.beat → ∃ t, Runs (.announce p) s t ∧
        ∀ j, j ∈ s.swarmJobs k → s.abortable j = true → tabFind t.jobs j.id = none)) ∧
    (∀ k : Fin 16,
      let x := s.slot k
      (x.hold.isSome = true ∨ x.announced = [] → Runs (.holdStart k) s s) ∧
      (∀ a, x.hold = none → x.nextAnnounced = some a → ∃ t, Runs (.holdStart k) s t ∧
        t.tmb.beat = max s.tmb.beat a.start % 2 ^ 64 ∧ t.slot k =
          { x with announced := x.announced.filter fun b => b.start != a.start,
                   divisor := if a.quanta = 0 then max 1 a.divisor else x.divisor,
                   hold := if a.quanta = 0 then none else some a }) ∧
      (x.hold = none → Runs (.holdEnd k) s s) ∧
      (∀ a, x.hold = some a → ∃ t, Runs (.holdEnd k) s t ∧
        t.tmb.beat = max s.tmb.beat (a.start + 64 * a.quanta) % 2 ^ 64 ∧ t.slot k =
          { x with hold := none, divisor := max 1 a.divisor,
                   ended := if x.requested = 0 then 0 else x.ended + a.quanta,
                   events := if s.isMember k then x.events + 1 else x.events,
                   quanta := if s.isMember k then x.quanta + BitVec.ofNat 64 a.quanta else x.quanta } ∧
        (∀ n ∈ s.swarmParts k, (t.srv n).nextBoundary = (s.srv n).nextBoundary + 64 * a.quanta) ∧
        ∀ j, s.jobs = [(j.id, j)] → j.begun = true → s.swarmJobs k = [j] →
          ∃ y, tabFind t.jobs j.id = some y ∧ y.holdQuanta = j.holdQuanta + a.quanta ∧ y.beat = j.beat)) ∧
    ∀ (p : Fin 16) c, msg p 4 = some c →
      let k := ctrlField c 119 116
      let key := (k, ctrlField c 115 106, ctrlField c 105 102, ctrlField c 101 70)
      (key ∈ s.tmb.abortsSeen → ∃ t, Runs (.abort p) s t ∧ t = { s with ports := t.ports }) ∧
      (key ∉ s.tmb.abortsSeen → ∃ t, Runs (.abort p) s t ∧ key ∈ t.tmb.abortsSeen ∧
        ∀ j, j ∈ s.swarmJobs k → s.abortable j = true → tabFind t.jobs j.id = none))

/-! ### Partitions and halts (R454 to R458, R475, R504, R523 to R525, R586) -/

/-- PARTITION_ENABLE makes a partition that passes every check ACTIVE with its vats clearing, and else gives the failed
check's number (R449, R454, R548). PARTITION_TEARDOWN disables its rings and ports and ends its jobs and engine (R457);
TEARDOWN_COMPLETE, once every descriptor has completed and its record is written or discarded, scrubs its regions, and
turns it OFF (R102, R266, R457). A function-level reset tears down and then resets the
VF's registers; clearing VF Enable tears every partition down (R456, R586).

An uncorrectable error in a partition's SRAM halts it, and one in the device's SRAM, or an IDE failure, halts the
device: the record is written, an ACTIVE partition is HALTED with its SEQ, its jobs, descriptors and engine stop
(R66, R504, R523 to R525). SLOWDOWN_UPDATE adds the millisecond to the counters, and RATIO is BUSY / (BUSY - WAIT) with
8 fraction bits, saturating (R475, R476); the last bit of an inexact quotient is free (the model's choice). -/
def Obligations.PartitionsAndHalts : Prop :=
  (
  ∀ (s : State) (n : Fin 16), s.live →
    let p := s.part n
    let e := s.enableError n
    let up := p.state = .active ∨ p.state = .halted
    let torn := fun (t : State) (n : Fin 16) => (t.part n).state = .teardown ∧ (t.part n).enable = false ∧ t.srv n = {} ∧
      (∀ x ∈ t.jobs, x.2.part ≠ n.val) ∧ ∀ r, r < 8 → (t.ring n r).enable = false
    (p.state ≠ .off → Runs (.partitionEnable n) s s) ∧
    (p.state = .off → e ≠ 0 → ∃ t, Runs (.partitionEnable n) s t ∧ t = { s with parts := t.parts } ∧
      t.part n = { p with error := BitVec.ofNat 8 e, enable := false }) ∧
    (p.state = .off → e = 0 → ∃ t, Runs (.partitionEnable n) s t ∧
      t.part n = { p with
        state := .active, enable := true, error := 0, chain := 0, count := 0, progLog := [], haltSeq := 0, discard := false,
        haltAfterTeardown := false } ∧
      (∀ m, m ≠ n.val → t.part m = s.part m) ∧ (∀ v ∈ p.vats, t.vat v = { run := .clearing }) ∧
      (∀ v, v ∉ p.vats → t.vat v = s.vat v) ∧ ∀ k ∈ p.nbes, t.nbe k = {}) ∧
    (¬up → ∃ t, Runs (.partitionTeardown n) s t ∧ t = { s with parts := t.parts } ∧ t.part n = { p with enable := false }) ∧
    (up → ∃ t, Runs (.partitionTeardown n) s t ∧ torn t n ∧
      ∀ k, k < 16 → p.portSet.getLsbD k = true → (t.port k).state = .off) ∧
    (let due := p.state = .teardown ∧ ∀ r, r < 8 → (s.ring n r).descs = [] ∧ (s.ring n r).owed = []
     (¬due → Runs (.teardownComplete n) s s) ∧
     (due → ∃ t, Runs (.teardownComplete n) s t ∧
       (t.part n).state = (if p.haltAfterTeardown then .halted else .off) ∧ (t.part n).progLog = [] ∧
       (∀ v ∈ p.vats, t.vat v = {}) ∧ (∀ x ∈ t.nbeJobs, x.2.part ≠ n.val) ∧
       ∀ k ∈ p.regionList, ∀ a, a / 2 ^ 28 = k → t.mem.byte a = some 0 ∧ t.mem.devBias (a / 4096) = false)) ∧
    (up → ∃ t, Runs (.vfFlr n) s t ∧ torn t n ∧ (t.vf n).flr = true) ∧
    (p.state = .off → ∃ t, Runs (.vfFlr n) s t ∧ t.vf n = {} ∧ t.part n = { p with enable := false }) ∧
    ∃ t, Runs .vfEnableClear s t ∧ t.gen.numVfs = 0 ∧
      ∀ m : Fin 16, (s.part m).state = .active ∨ (s.part m).state = .halted → (t.part m).state = .teardown) ∧
  (
  ∀ s : State, s.live →
    let stops := fun (t : State) (n : Fin 16) => (t.part n).state = .halted ∧ (t.part n).haltSeq = s.err.nextSeq ∧
      (t.srv n).state = .off ∧ (∀ x ∈ t.jobs, x.2.part ≠ n.val) ∧ ∀ r, r < 8 → (t.ring n r).descs = []
    let device := fun (c : Instr) (i : ErrInfo) => ∃ t, Runs c s t ∧ t.err = { s.recorded i with halted := true } ∧
      (∀ n : Fin 16, (s.part n).state = .active → (t.part n).state = .halted ∧ (t.part n).haltSeq = s.err.nextSeq) ∧
      (s.err.viralOn = true → ∃ o, t.out = o ++ [.viral])
    (∀ n : Fin 16, (s.part n).state = .active → ∃ t, Runs (.sramUncorrectable (.part n)) s t ∧
      t.err = s.recorded { code := 0x0801, severity := 2, part := n.val, path := 14 } ∧ stops t n ∧
      ∀ m, m ≠ n.val → t.part m = s.part m) ∧
    device (.sramUncorrectable .device) { code := 0x0802, severity := 3, part := partDevice, path := 14 } ∧
    (∀ k, device (.ideFail k) { code := 0x0204, severity := 3, part := partDevice, path := 8 }) ∧
    ∀ (n : Fin 16) (busy wait stk net host srv : Nat), ∃ t, Runs (.slowdownUpdate n busy wait stk net host srv) s t ∧
      t = { s with parts := t.parts, evc := t.evc, msix := t.msix, out := t.out, freshCount := s.freshCount + 1 } ∧
      (let p := s.part n
       let b := fun (k : Nat) => (BitVec.ofNat 64 k : DWord)
       t.part n = { p with
         busy := p.busy + b busy, wait := p.wait + b wait, waitStk := p.waitStk + b stk, waitNet := p.waitNet + b net,
         waitHost := p.waitHost + b host, waitSrv := p.waitSrv + b srv, ratio := (t.part n).ratio, limitNow := p.limit }) ∧
      (let r := (t.part n).ratio.toNat
       let q := 256 * busy / (busy - wait)
       (busy = 0 → r = 0x0100) ∧ (busy ≠ 0 → busy ≤ wait → r = 0xFFFF) ∧
       (wait < busy → 256 * busy % (busy - wait) = 0 → r = min 0xFFFF q) ∧
       (wait < busy → r = min 0xFFFF q ∨ r = min 0xFFFF (q + 1))))

/-! ### Power and temperature (R485 to R502) -/

/-- THROTTLE_UPDATE moves f by at most SLEW / 64 a period, and POWER_TRIM keeps T between 0.75 CAP and CAP (R492, R494).
CAP_UNMET, DIV_REQ_CHANGE, VPOINT_IDLE and THERMAL_LIMIT_CLEAR come when their condition has stood for its time
(R490, R496, R497, R500). VOLTAGE_RISE_COMPLETE ends a rise (R485).

A sensor whose conversion was requested takes its reading; one at an end of the range, or more than 8 °C from the
median of three neighbours or more, is suspect, and so is one that gives no reading in time (R498, R499). At 110 °C the
device shuts down (R501). -/
def Obligations.PowerAndHeat : Prop :=
  (
  ∀ s : State, s.live →
    let p := s.pwr
    let at_ := fun (c : Instr) (b : Nat) (f : State → Prop) =>
      ∃ t, Runs c s t ∧ t.tmb.beat = max s.tmb.beat b % 2 ^ 64 ∧ f t
    (∀ w : Half, ∃ t, Runs (.throttleUpdate w) s t ∧ t = { s with pwr := t.pwr } ∧ t.pwr.p10us = w.toNat ∧
      t.pwr.fNum * (64 * p.fDen) ≤ (64 * p.fNum + p.slew * p.fDen) * t.pwr.fDen ∧
      (64 * p.fNum - p.slew * p.fDen) * t.pwr.fDen ≤ t.pwr.fNum * (64 * p.fDen)) ∧
    (∀ (w : Half) e, ∃ t, Runs (.powerTrim w e) s t ∧ t = { s with pwr := t.pwr } ∧ t.pwr.p1ms = w.toNat ∧
      t.pwr.energy = p.energy + BitVec.ofNat 64 e ∧ t.pwr.capped = (p.capped || decide (p.cap < w.toNat)) ∧
      3 * p.cap ≤ t.pwr.target ∧ t.pwr.target ≤ 4 * p.cap) ∧
    (∀ b, p.unmet = some (b, false) → at_ .capUnmet (b + 2500000) fun t => t.pwr.unmet = some (b, true) ∧
      t.err = (s.advanceTo (b + 2500000)).recorded { code := 0x0701, severity := 0, part := partDevice, path := 13 }) ∧
    ((∀ b, p.unmet ≠ some (b, false)) → Runs .capUnmet s s) ∧
    (p.divAuto = false → ∀ up, Runs (.divReqChange up) s s) ∧
    (∀ b, p.divAuto = true → earlier p.highSince p.hotSince = some b → p.divReq < 4 →
      at_ (.divReqChange true) (b + 250000) fun t => t.pwr.divReq = p.divReq + 1) ∧
    (4 ≤ p.divReq → Runs (.divReqChange true) s s) ∧
    (∀ b, p.divAuto = true → p.lowSince = some b → max p.minDiv s.leastDivisor < p.divReq →
      at_ (.divReqChange false) (b + 25000000) fun t => t.pwr.divReq = p.divReq - 1) ∧
    (p.divReq ≤ max p.minDiv s.leastDivisor → Runs (.divReqChange false) s s) ∧
    (∀ i : Fin 96,
      let v := s.vpoint i
      (∀ n b, s.islandPart i = some n → v.idleSince = some b → (s.part n).lcEnable = false → v.auto = true →
        s.islandBusy i = false →
        at_ (.vpointIdle i) (b + 25000) fun t => t.vpoint i = { v with point := 0, rising := none }) ∧
      (s.islandPart i = none ∨ v.idleSince = none ∨ v.auto = false ∨ s.islandBusy i = true → Runs (.vpointIdle i) s s) ∧
      ∃ t, Runs (.voltageRiseComplete i) s t ∧ t = { s with pwr := t.pwr } ∧ t.vpoint i = { v with rising := none }) ∧
    (∀ b, s.thm.limitActive = true → s.thm.belowSince = some b →
      at_ .thermalLimitClear (b + 25000000) fun t => t.thm.limitActive = false) ∧
    (s.thm.limitActive = false ∨ s.thm.belowSince = none → Runs .thermalLimitClear s s)) ∧
  (
  ∀ (s : State) (k : Fin 416), s.live →
    let x := s.sensor k
    let xs := s.neighbourReadings k
    (s.sensorOn k = true → ∃ t, Runs (.sensorConversion k) s t ∧ t = { s with thm := t.thm } ∧
      t.sensor k = { x with converting := true }) ∧
    (s.sensorOn k = false → Runs (.sensorConversion k) s s) ∧
    (x.converting = false → (∀ raw b, Runs (.conversionResult k raw b) s s) ∧ Runs (.conversionTimeout k) s s) ∧
    (x.converting = true →
      (∀ raw b, ∃ t, Runs (.conversionResult k raw b) s t ∧
        t.sensor k = { x with raw := raw, valid := true, converting := false, last := some s.tmb.beat,
                              suspect := (t.sensor k).suspect, good := (t.sensor k).good,
                              effective := (t.sensor k).effective } ∧
        (raw = 0 ∨ 760 ≤ raw.toNat → (t.sensor k).suspect = true) ∧
        (∀ m, 3 ≤ xs.length → median xs = some m → (m + 32 < raw.toNat ∨ raw.toNat + 32 < m) →
          (t.sensor k).suspect = true ∧ (t.sensor k).effective = BitVec.ofNat 12 m) ∧
        (∀ m, x.suspect = false → raw ≠ 0 → raw.toNat < 760 → 3 ≤ xs.length → median xs = some m → raw.toNat ≤ m + 32 →
          m ≤ raw.toNat + 32 → (t.sensor k).suspect = false ∧ (t.sensor k).effective = raw) ∧
        (600 ≤ (t.sensor k).effective.toNat → t.pins.mode = .thermalOff ∧ t.pins.thermtripLow = true ∧ t.vats = [])) ∧
      ∃ t, Runs (.conversionTimeout k) s t ∧ t.sensor k =
        { x with converting := false, suspect := true, good := 0,
                 effective := match median xs with
                   | some m => BitVec.ofNat 12 m
                   | none => x.effective }))

/-! ### Registers (R517 to R520, R578 to R595) -/

/-- A read of a register with RC fields answers its word and clears them (R444, R492, R517, R571, R580, R588, R594,
R595).

REGISTER_WRITE: an offset without a register is ignored (R578); a 64-bit register changes when its high half is
written, with the low half written last (R582), and a locked one does not (R453); a VF's rings and their controls are its
own (R69, R594). -/
def Obligations.RegistersReadAndWrite : Prop :=
  (
  ∀ s : State, s.live →
    let reads := fun (w : Word) (t : State) => t.out = s.out ++ [.regValue w]
    (∃ t, Runs .errStatusRead s t ∧ reads s.errStatusWord t ∧
      t = { s with err := { s.err with overflow := false, lostSeverity := 0 }, out := t.out }) ∧
    (∃ t, Runs .genStatusRead s t ∧ reads s.genStatusWord t ∧ t = { s with gen := { s.gen with refused := false }, out := t.out }) ∧
    (∃ t, Runs .pwrStatusRead s t ∧ reads s.pwrStatusWord t ∧
      t = { s with pwr := { s.pwr with capped := false }, out := t.out, freshCount := t.freshCount }) ∧
    (∀ p : Fin 16, ∃ t, Runs (.fabPortStatusRead p) s t ∧ reads (s.portStatusWord p) t ∧
      t = { s with ports := t.ports, out := t.out } ∧ t.port p = { s.port p with routeBusy := false } ∧
      ∀ q, q ≠ p.val → t.port q = s.port q) ∧
    (∀ n : Fin 16, ∃ t, Runs (.fabRtStatusRead n) s t ∧ reads (s.rtStatusWord n) t ∧ t = { s with vfs := t.vfs, out := t.out } ∧
      t.vf n = { s.vf n with rtBusy := false, rtForeign := false } ∧ ∀ m, m ≠ n.val → t.vf m = s.vf m) ∧
    (∀ q : RingRef, ∃ t, Runs (.hifRingStatusRead q) s t ∧ reads (s.ringStatusWord q.vf q.ring) t ∧
      t = { s with vfs := t.vfs, out := t.out } ∧ t.ring q.vf q.ring = { s.ring q.vf q.ring with badField := 0 } ∧
      ∀ m r, m ≠ q.vf.val ∨ r ≠ q.ring.val → t.ring m r = s.ring m r) ∧
    (∀ f : Fn, ∃ t, Runs (.evcQLostRead f) s t ∧ reads (s.evq (Fn.queue f)).lost t ∧
      t = { s with evc := t.evc, out := t.out } ∧ t.evq (Fn.queue f) = { s.evq (Fn.queue f) with lost := 0 }) ∧
    (∀ n : Fin 16, ∃ t, Runs (.errVfRecRead n) s t ∧ t = { s with out := s.out ++ [.regBytes (s.vfRecord n)] }) ∧
    ∀ n : Nat, (∀ x ∈ s.err.slots, x.2.seq = (s.vf n).errVfSeq → x.2.part = n → x.2.path = 13) →
      s.vfRecord n = List.replicate 64 0) ∧
  (
  ∀ (s : State) (w : Word), s.live →
    let pf := fun (off : BitVec 25) => Instr.registerWrite (.bar .pf off) w
    (∀ off : BitVec 25, pfReg off.toNat = none → Runs (pf off) s s) ∧
    (∀ (n : Fin 16) off, vfReg off.toNat = none → Runs (.registerWrite (.bar (.vf n) off) w) s s) ∧
    (∀ (n : Nat) (off : BitVec 25),
      let p := s.part n
      let lo := 0x11000 + 0x100 * n + 0x08
      (pfReg off.toNat = some (.part n 0x08) ∨ pfReg off.toNat = some (.part n 0x0C) → p.state ≠ .off → Runs (pf off) s s) ∧
      (pfReg off.toNat = some (.part n 0x08) → p.state = .off → ∃ t, Runs (pf off) s t ∧ t = { s with gen := t.gen } ∧
        t.gen.heldLow 0 lo = some w) ∧
      (pfReg off.toNat = some (.part n 0x0C) → p.state = .off → ∃ t, Runs (pf off) s t ∧
        t = { s with gen := t.gen, parts := t.parts } ∧ t.gen.heldLow 0 lo = none ∧
        t.part n = { p with islands := w ++ (s.gen.heldLow 0 lo).getD (field p.islands 0 32) })) ∧
    (∀ (n : Fin 16) (r : Nat) off, vfReg off.toNat = some (.ringCtl r) → w.getLsbD 0 = false →
      ∃ t, Runs (.registerWrite (.bar (.vf n) off) w) s t ∧ (t.ring n r).enable = false) ∧
    (∀ (n : Fin 16) off, vfReg off.toNat = some .errSeq → ∃ t, Runs (.registerWrite (.bar (.vf n) off) w) s t ∧
      t = { s with vfs := t.vfs } ∧ t.vf n = { s.vf n with errVfSeq := w }) ∧
    (∀ on, ∃ t, Runs (.registerWrite (.busMaster on) w) s t ∧ t = { s with gen := { s.gen with busMaster := on } }) ∧
    ∀ k : Fin 17, k ≠ 0 → s.gen.numVfs = 0 → ∃ t, Runs (.registerWrite (.sriov k) w) s t ∧
      t = { s with gen := { s.gen with numVfs := k.val } })

/-- SEQ is 1 after reset, rises by 1 for every record, whether it is stored or lost, and passes from 0xFFFF_FFFE to 1, so
that it is never 0 or 0xFFFF_FFFF (R515). A stored record lies at its production count modulo 64; one that finds no room is
counted (R514, R517, R518). ERR_CONSUME takes a value from the current one to ERR_PRODUCE, modulo 2^32, and ignores any
other; the records that it passes close (R519, R521). -/
def Obligations.LogCounts : Prop :=
  State.reset.err.nextSeq = 1 ∧
  (∀ (s : State) (i : ErrInfo),
    let e := s.err
    let u := s.recorded i
    u.nextSeq = (if e.nextSeq = 0xFFFFFFFE then 1 else e.nextSeq + 1) ∧
    (e.nextSeq ≠ 0 ∧ e.nextSeq ≠ 0xFFFFFFFF → u.nextSeq ≠ 0 ∧ u.nextSeq ≠ 0xFFFFFFFF) ∧
    (e.produce - e.consume < (if i.severity ≤ 1 then 60 else 64) →
      u.produce = e.produce + 1 ∧ u.overflowCount = e.overflowCount ∧
        (∃ r, tabFind u.slots (e.produce % 64) = some r ∧ r.seq = e.nextSeq ∧ r.code = i.code ∧ r.severity = i.severity ∧
          r.part = i.part ∧ r.path = i.path ∧ r.beat = s.tmb.beat) ∧
        ∀ k, k ≠ e.produce % 64 → tabFind u.slots k = tabFind e.slots k) ∧
    ((if i.severity ≤ 1 then 60 else 64) ≤ e.produce - e.consume →
      u.produce = e.produce ∧ u.slots = e.slots ∧ u.overflowCount = e.overflowCount + 1 ∧ u.overflow = true)) ∧
  ∀ (s : State) (w : Word), s.live →
    let e := s.err
    let k := (w - BitVec.ofNat 32 e.consume).toNat
    (e.opened < k → Runs (.errConsumeWrite w) s s) ∧
    (k ≤ e.opened → ∃ t, Runs (.errConsumeWrite w) s t ∧
      t = { s with err := { e with consume := e.consume + k,
                                   openRecs := e.openRecs.filter fun o => decide (e.consume + k ≤ o.idx) } })

/-- Writing 0xA6E7 to GEN_UNLOCK.KEY arms the key, and any other value disarms it (R583).

The first write to a register that holds WK fields consumes the arm; without it the WK fields keep their values, and
KEY_REFUSED is set (R584, R585). Shown for TST_MUX_CTL, which also takes no unit that its group does not have (R574 to
R576), TMB_CTL and STK_REFRESH, whose other field takes the written value; a value of TMB_CTL waits for the next quantum
boundary (R446). -/
def Obligations.KeyedWrites : Prop :=
  (
  ∀ (s : State) (w : Word), s.live →
    ∃ t, Runs (.genUnlock w) s t ∧ t = { s with gen := { s.gen with armed := decide (field w 0 16 = 0xA6E7#16) } }) ∧
  (
  ∀ (s : State) (w : Word), s.live →
    let s' := { s with gen := { s.gen with armed := false, refused := s.gen.refused || !s.gen.armed } }
    let write := fun (off : BitVec 25) => Instr.registerWrite (.bar .pf off) w
    let g := field w 16 3
    let u := field w 0 7
    let becomes := fun (c : Instr) (t : State) => Runs c s t
    (s.gen.armed = false ∨ muxUnits g.toNat ≤ u.toNat → becomes (.tstMuxCtlWrite w) s') ∧
    (s.gen.armed = true → u.toNat < muxUnits g.toNat → becomes (.tstMuxCtlWrite w)
      { s' with tst := { enable := w.getLsbD 31, group := g, unit := u, stack := if g = 3 then u.toNat else s.tst.stack },
                sec := { s.sec with muxSeen := s.sec.muxSeen || w.getLsbD 31 } }) ∧
    (∀ off, pfReg off.toNat = some .tmbCtl →
      (s.gen.armed = false → becomes (write off) s') ∧
      (s.gen.armed = true → ∃ t c, becomes (write off) t ∧ t = { s' with tmb := { s.tmb with ctlNext := some c } } ∧
        c.root = w.getLsbD 12 ∧ c.upPort = field w 16 4 ∧ c.altPort = field w 20 4 ∧ c.altEn = w.getLsbD 15)) ∧
    ∀ (k : Nat) (off : BitVec 25), pfReg off.toNat = some (.refresh k) →
      ∃ t, becomes (write off) t ∧ t = { s' with stks := t.stks } ∧
        t.stk k = { s.stk k with
          forceDouble := w.getLsbD 1, allBank := if s.gen.armed then w.getLsbD 0 else (s.stk k).allBank })

/-! ### Events (R563 to R573) -/

/-- A claim of target 0 takes its deliverable source of highest PRIO, and the level runs until its completion; it reads 0
where none is deliverable, and the PF's claim of another target reads 0 (R566, R567, R587). EVC_SRC_CLEAR takes a
source out of every target (R564). EVC_Q_HEAD frees slots, and the vector goes out again where records remain (R571). The
falling edge of an external input raises its source (R569).

A vector of a function that is due sends the address and data of its MSI-X entry; where its entry or the function is
masked its pending bit is set, and sent once nothing masks it (R51; the table's layout, its enable and its masks are the
model's, log 109). A write to host memory asks for the translation first where the function's ATS is on (R53). -/
def Obligations.EventsAndMessages : Prop :=
  (
  ∀ s : State, s.live →
    let top := s.evc.target 0
    (s.evc.best 0 top.level = none → ∃ t, Runs (.evcClaimRead 0) s t ∧ t = { s with out := s.out ++ [.regValue 0] }) ∧
    (∀ k p, s.evc.best 0 top.level = some (k, p) → ∃ t o, Runs (.evcClaimRead 0) s t ∧ EvcOnly s t ∧
      t.out = o ++ [.regValue (BitVec.ofNat 32 (2 ^ 31 + p * 2 ^ 8 + k))] ∧
      (t.evc.target 0).running = (p, k) :: top.running ∧ tabFind (t.evc.target 0).counts k = none ∧
      ((s.evc.source k).prio.toNat = p ∧ top.level < p ∧ top.thresh.toNat < p ∧ ∃ c, (k, c) ∈ top.counts) ∧
      ∀ j c, (j, c) ∈ top.counts → (s.evc.source j).prio.toNat ≤ p) ∧
    (∀ i : Fin 3, i ≠ 0 → (∃ t, Runs (.evcClaimRead i) s t ∧ t = { s with out := s.out ++ [.regValue 0] }) ∧
      ∀ w, Runs (.evcCompleteWrite i w) s s) ∧
    (∀ w : Word, (∀ p, top.running.head? ≠ some (p, (field w 0 8).toNat)) → Runs (.evcCompleteWrite 0 w) s s) ∧
    (∀ (w : Word) p rest, top.running = (p, (field w 0 8).toNat) :: rest →
      ∃ t, Runs (.evcCompleteWrite 0 w) s t ∧ EvcOnly s t ∧ (t.evc.target 0).running = rest) ∧
    (∀ j : Fin 256, ∃ t, Runs (.evcSrcClear j) s t ∧ EvcOnly s t ∧ ∀ i, i < 3 → tabFind (t.evc.target i).counts j = none) ∧
    (∀ (f : Fn) (w : Word),
      let n := Fn.queue f
      let q := s.evq n
      ¬(n = 0 ∧ s.evc.pfQueueMode = true) → ∃ t base, Runs (.evcQHeadWrite f w) s t ∧ base = { s with evc := base.evc } ∧
        base.evq n = { q with head := w } ∧ (∀ m, m ≠ n → base.evq m = s.evq m) ∧
        t = if q.enable = true ∧ q.tail ≠ w then base.interrupt n (evqVector n) else base) ∧
    ∀ j : Fin 2,
      let was := tabGet false s.evc.level j
      (∃ t, Runs (.extInAssert j) s t ∧ EvcOnly s t ∧ tabGet false t.evc.level j = true ∧
        (was = false → tabFind t.evc.latest (0x43 + j) = some (s.tmb.beat, j.val)) ∧
        (was = true → t.evc.latest = s.evc.latest ∧ t.out = s.out)) ∧
      ∃ t, Runs (.extInDeassert j) s t ∧ EvcOnly s t ∧ tabGet false t.evc.level j = false ∧ t.evc.latest = s.evc.latest ∧
        t.out = s.out) ∧
  (
  (∀ (s : State) (fn k : Nat),
    let m := s.msixOf fn
    let v := tabGet {} m.vecs k
    let t := s.interrupt fn k
    (m.enable = false → t = s) ∧
    (m.enable = true → m.mask = true ∨ v.masked = true → t = { s with msix := t.msix } ∧
      tabGet {} (t.msixOf fn).vecs k = { v with pending := true } ∧
      (∀ j, j ≠ k → tabGet {} (t.msixOf fn).vecs j = tabGet {} m.vecs j) ∧ ∀ f, f ≠ fn → t.msixOf f = s.msixOf f) ∧
    (m.enable = true → m.mask = false → v.masked = false → t = { s with out := s.out ++ [.vector fn k v.addr v.data] })) ∧
  (∀ (s : State) (fn : Nat) (a : DWord) (bs : List Byte),
    let t := s.hostPut fn a bs
    t = { s with out := t.out } ∧
    (fn ∉ s.gen.ats → t.out = s.out ++ [.hostWrite fn a bs]) ∧
    (fn ∈ s.gen.ats → ∃ b, t.out = s.out ++ [.translate fn a, .hostWrite fn b bs])) ∧
  ∀ (s : State) (f : Fn) (w : Word), s.live →
    let fn := Fn.queue f
    let m := s.msixOf fn
    let vec := fun (k : Nat) => tabGet {} m.vecs k
    (∀ on mask, ∃ t, Runs (.registerWrite (.msix f on mask) w) s t ∧ t = { s with msix := t.msix, out := t.out } ∧
      (t.msixOf fn).enable = on ∧ (t.msixOf fn).mask = mask ∧
      (on = false ∨ mask = true → t.out = s.out ∧ (t.msixOf fn).vecs = m.vecs) ∧
      (on = true → mask = false →
        let due := (List.range (vectorsOfFn fn)).filter fun k => (vec k).pending && !(vec k).masked
        t.out = s.out ++ (due.map fun k => .vector fn k (vec k).addr (vec k).data) ∧
        ∀ k ∈ due, tabGet {} (t.msixOf fn).vecs k = { vec k with pending := false })) ∧
    ∀ off : BitVec 16,
      let k := off.toNat / 16
      (vectorsOfFn fn ≤ k → Runs (.registerWrite (.bar2 f off) w) s s) ∧
      (k < vectorsOfFn fn → ∃ t, Runs (.registerWrite (.bar2 f off) w) s t ∧ t = { s with msix := t.msix, out := t.out } ∧
        let v := tabGet {} (t.msixOf fn).vecs k
        (off.toNat % 16 = 0 → v = { vec k with addr := field (vec k).addr 32 32 ++ w } ∧ t.out = s.out) ∧
        (off.toNat % 16 = 4 → v = { vec k with addr := w ++ field (vec k).addr 0 32 } ∧ t.out = s.out) ∧
        (off.toNat % 16 = 8 → v = { vec k with data := w } ∧ t.out = s.out) ∧
        (off.toNat % 16 = 12 → v.masked = w.getLsbD 0 ∧ v.addr = (vec k).addr ∧ v.data = (vec k).data)))

/-! ### Security protocols (R64, R65, R545 to R551) -/

/-- The CDAT holds four entries (R65). SPDM, DOE and IDE keys: a transport that does not reach Hevos answers nothing. The exchange goes GET_VERSION,
GET_CAPABILITIES, NEGOTIATE_ALGORITHMS, and only then the other requests (R546). Digests and certificates are of slot 0,
which is empty in debug state; there CHALLENGE and signed measurements are refused (R545, R551). KEY_EXCHANGE is refused
once the DRBG has stopped (R550). IDE keys enter in a session of the DOE mailbox alone (R549). -/
def Obligations.SecurityAnswers : Prop :=
  (cdatEntryAt 0 = some (.dsmas 0 (512 * 2 ^ 30) false) ∧ cdatEntryAt 1 = some (.dslbisLatency 240 240) ∧
    cdatEntryAt 2 = some (.dslbisBandwidth 64 64) ∧ cdatEntryAt 3 = some .dsemtsSpecificPurpose ∧
    ∀ k, 3 < k → cdatEntryAt k = none) ∧
  ∀ (s : State) (p : Transport), s.memOk → s.quiet → s.reachable p = true →
    let x := s.spdm p
    let tells := fun (c : Instr) (a : Answer) => Runs c s { s with out := s.out ++ [.answer p a] }
    let acts := fun (c : Instr) (y : Spdm) (a : Answer) => ∃ t, Runs c s t ∧
      t = { s with sec := { s.sec with spdm := t.sec.spdm }, out := s.out ++ [.answer p a] } ∧ t.spdm p = y ∧
      ∀ q, q ≠ p → t.spdm q = s.spdm q
    let early := Answer.spdmError .unexpectedRequest
    let refused := Answer.spdmError .invalidRequest
    (∀ s' : State, s'.memOk → s'.quiet → s'.reachable p = false → Runs (.getVersion p) s' s' ∧ Runs (.getDigests p) s' s') ∧
    acts (.getVersion p) { versionDone := true } (.version [110, 120]) ∧
    (x.versionDone = true → acts (.getCapabilities p) { x with capabilitiesDone := true } (.capabilities false)) ∧
    (x.versionDone = false → tells (.getCapabilities p) early) ∧
    (x.capabilitiesDone = true → acts (.negotiateAlgorithms p) { x with algorithmsDone := true } .algorithms) ∧
    (x.capabilitiesDone = false → tells (.negotiateAlgorithms p) early) ∧
    (x.algorithmsDone = false → tells (.getDigests p) early ∧ (∀ o l, tells (.getCertificate p o l) early) ∧
      (∀ n, tells (.challenge p n) early) ∧ (∀ i b n, tells (.getMeasurements p i b n) early) ∧
      ∀ e, tells (.keyExchange p e) early) ∧
    (x.algorithmsDone = true →
      tells (.getDigests p) (.digests (s.chainDer.map sha256)) ∧
      (∀ (o l : Half) c, s.chainDer = some c → o.toNat < c.length →
        tells (.getCertificate p o l) (.certificate ((c.drop o.toNat).take l.toNat) (c.length - o.toNat - l.toNat))) ∧
      (s.chainDer = none → ∀ o l, tells (.getCertificate p o l) refused) ∧
      (∀ n, s.sec.debug = true → tells (.challenge p n) refused) ∧
      (∀ n : Bits256, s.sec.debug = false → Runs (.challenge p n) s { s with
        freshCount := s.freshCount + 1,
        out := s.out ++ [.answer p (.challengeAuth (s.signature (digestBytes n)))] }) ∧
      (∀ (i : Byte) b n, i ≠ 0xFF → s.measurement i.toNat = some b →
        tells (.getMeasurements p i false n) (.measurements [(i.toNat, b)] none)) ∧
      (∀ (i : Byte) n, s.sec.debug = true → tells (.getMeasurements p i true n) refused) ∧
      (s.sec.entropyFail = true → ∀ e, tells (.keyExchange p e) (.spdmError .unspecified)) ∧
      (s.sec.entropyFail = false → s.sec.debug = true → ∀ e, tells (.keyExchange p e) refused) ∧
      (s.sec.entropyFail = false → s.sec.debug = false → ∀ e, ∃ t m g, Runs (.keyExchange p e) s t ∧
        t.spdm p = { x with handshake := true, session := false } ∧ t.out = s.out ++ [.answer p (.keyExchange m g)])) ∧
    (x.handshake = false → ∀ b, tells (.finish p b) early) ∧
    (x.handshake = true → acts (.finish p true) { x with handshake := false, session := true } .finish ∧
      acts (.finish p false) { x with handshake := false } (.spdmError .decryptError)) ∧
    (x.session = false → tells (.heartbeat p) early ∧ tells (.keyUpdate p) early ∧ tells (.endSession p) early) ∧
    (x.session = true → tells (.heartbeat p) .heartbeatAck ∧ tells (.keyUpdate p) .keyUpdateAck ∧
      acts (.endSession p) { x with session := false } .endSessionAck) ∧
    (p = .doe →
      (∀ i : Byte, tells (.doeDiscovery i) (.doeProtocol i.toNat (doeProtocolAt i.toNat))) ∧
      (∀ e : Half, tells (.cdatTableAccess e) (.cdat e.toNat (cdatEntryAt e.toNat))) ∧
      ∀ (k : Fin 3) (d m : Fin 2) (key : Bits256),
        let ide := tabGet ({} : IdeStream) s.sec.ide k
        (x.session = false → tells (.ideKmKeyProg k d m key) (.keyProgAck false) ∧ tells (.keySetGo k d m) (.keyGoAck false)) ∧
        (x.session = true → ∃ t, Runs (.ideKmKeyProg k d m key) s t ∧
          t.out = s.out ++ [.answer p (.keyProgAck true)] ∧ (d.val, m.val, key) ∈ (tabGet ({} : IdeStream) t.sec.ide k).keys) ∧
        (x.session = true → (∃ y ∈ ide.keys, y.1 = d.val ∧ y.2.1 = m.val) → ∃ t, Runs (.keySetGo k d m) s t ∧
          t.out = s.out ++ [.answer p (.keyGoAck true)] ∧ (tabGet ({} : IdeStream) t.sec.ide k).enabled = true ∧
          (tabGet ({} : IdeStream) t.sec.ide k).active = ide.active.filter (fun a => a.1 != d.val) ++ [(d.val, m.val)])) ∧
    (s.running = true → Runs .entropyFail s { s with sec := { s.sec with entropyFail := true } })

/-! ### Management, updates and recovery (R491, R534 to R543, R554 to R562) -/

/-- The MCTP bindings: endpoint identifiers, the event receiver, sensors, the power cap, events of target 2, stored
records, and the flash values that vendor commands set (R491, R554, R557, R558, R560 to R562, R565). -/
def Obligations.ManagementAnswers : Prop :=
  ∀ (s : State) (p : Transport), s.memOk → s.quiet → s.reachable p = true → p ≠ .doe →
    let tells := fun (c : Instr) (a : Answer) => Runs c s { s with out := s.out ++ [.answer p a] }
    let reply := fun (cmd code : Nat) (bs : List Byte) => Output.reply p (bytesOfNat 1 cmd ++ bytesOfNat 1 code ++ bs)
    let busy := (∃ x ∈ s.parts, x.2.state ≠ .off) ∨ s.mgt.update.busy = true
    (∀ e, ∃ t, Runs (.setEndpointId p e) s t ∧
      t = { s with mgt := t.mgt, out := s.out ++ [.answer p .mctpOk] } ∧
      (p = .i3c → t.mgt = { s.mgt with i3cEid := e }) ∧ (p = .vdm → t.mgt = { s.mgt with vdmEid := e })) ∧
    (∀ e, ∃ t, Runs (.setEventReceiver p e) s t ∧ t.mgt = { s.mgt with receiver := some (p, e) }) ∧
    (∀ (i : Byte) v, s.sensorValue i.toNat = some v → tells (.getSensorReading p i) (.sensor v)) ∧
    (∀ i : Byte, s.sensorValue i.toNat = none → tells (.getSensorReading p i) .pldmUnknownId) ∧
    s.sensorValue 1 = some s.pwr.p1ms ∧ s.sensorValue 3 = some ((s.hottest.2 - 160) / 4) ∧
    (∀ (i : Byte) v, i ≠ 30 → tells (.setNumericEffecterValue p i v) .pldmUnknownId) ∧
    (∀ v : Half, v.toNat < 600 ∨ 1800 < v.toNat → tells (.setNumericEffecterValue p 30 v) .pldmInvalidData) ∧
    (∀ v : Half, 600 ≤ v.toNat → v.toNat ≤ 1800 → ∃ t, Runs (.setNumericEffecterValue p 30 v) s t ∧
      t = { s with pwr := t.pwr, out := s.out ++ [.answer p .pldmOk] } ∧ t.pwr.cap = v.toNat ∧
      3 * v.toNat ≤ t.pwr.target ∧ t.pwr.target ≤ 4 * v.toNat) ∧
    tells (.activateFirmware p) .activationNeedsReset ∧
    (busy → Runs (.restoreFactory p) s { s with out := s.out ++ [reply 1 2 []] }) ∧
    (¬busy → Runs (.restoreFactory p) s { s with
      flash := { s.flash with agingTrim := [], userOffset := [] }, out := s.out ++ [reply 1 0 []] }) ∧
    (s.evc.best 2 (s.evc.target 2).level = none →
      Runs (.eventClaim p) s { s with out := s.out ++ [reply 2 0 (bytesOf (0 : Word) 4)] }) ∧
    (∀ k q, s.evc.best 2 (s.evc.target 2).level = some (k, q) → ∃ t o, Runs (.eventClaim p) s t ∧ EvcOnly s t ∧
      t.out = o ++ [reply 2 0 (bytesOf (BitVec.ofNat 32 (2 ^ 31 + q * 2 ^ 8 + k)) 4)] ∧
      (t.evc.target 2).running = (q, k) :: (s.evc.target 2).running) ∧
    (∀ (k : Byte) q rest, (s.evc.target 2).running = (q, k.toNat) :: rest → ∃ t o, Runs (.eventComplete p k) s t ∧
      EvcOnly s t ∧ t.out = o ++ [reply 3 0 []] ∧ (t.evc.target 2).running = rest) ∧
    (∀ seq, (∀ x ∈ s.err.slots, x.2.seq ≠ seq) → Runs (.readError p seq) s { s with out := s.out ++ [reply 4 5 []] }) ∧
    (∀ k r, s.err.slots = [(k, r)] → Runs (.readError p r.seq) s { s with out := s.out ++ [reply 4 0 r.bytes] }) ∧
    (∀ (k : Half) (o : Byte), 416 ≤ k.toNat ∨ o.toInt < -16 ∨ 16 < o.toInt →
      Runs (.setSensorOffset p k o) s { s with out := s.out ++ [reply 5 3 []] }) ∧
    ∀ (k : Half) (o : Byte), k.toNat < 416 → -16 ≤ o.toInt → o.toInt ≤ 16 → ∃ t, Runs (.setSensorOffset p k o) s t ∧
      t = { s with flash := { s.flash with userOffset := t.flash.userOffset }, out := s.out ++ [reply 5 0 []] } ∧
      tabGet 0 t.flash.userOffset k.toNat = o

/-- A firmware image is verified in full before the slot is touched, and the slot's content is checked again after it was
written; the update takes effect at the next reset (R536, R539, R559). In the fallback the host's upload follows the same
checks, and its failures name their causes (R540 to R543). -/
def Obligations.ImagesWritten : Prop :=
  ∀ (s : State) (p : Transport), s.memOk → s.quiet →
    let reach := s.reachable p = true ∧ p ≠ .doe
    let ends := fun (t : State) (st : Nat) (code : Nat) => t.sec = { s.sec with rcvState := st, rcvCode := code }
    (reach → s.mgt.update.busy = true → Runs (.requestUpdate p) s { s with out := s.out ++ [.answer p .alreadyInUpdateMode] }) ∧
    (reach → s.mgt.update.busy = false → Runs (.requestUpdate p) s { s with
      mgt := { s.mgt with update := .requested, updateOn := some p }, out := s.out ++ [.answer p .pldmOk] }) ∧
    (∀ img, reach → s.mgt.updateOn = some p → s.mgt.update = .requested →
      let code := imageCode s.otp img
      ∃ t, Runs (.verifyComplete img) s t ∧ t.flash = s.flash ∧ t.otp = s.otp ∧
        (code = 0 → t.mgt.update = .verified img) ∧ (code ≠ 0 → t.mgt.update = .idle ∧ t.mgt.updateOn = none)) ∧
    (∀ img, reach → s.mgt.updateOn = some p → s.mgt.update = .verified img →
      (imageCode s.otp img = 0 → ∃ t, Runs (.applyComplete true) s t ∧ t.flash = { s.flash with slot := img } ∧
        t.mgt.update = .awaitingReset ∧ t.otp = s.otp ∧ t.sec = s.sec) ∧
      ∃ t, Runs (.applyComplete false) s t ∧ t.flash = { s.flash with slot := [] } ∧ t.mgt.update = .idle) ∧
    (s.pins.mode = .recovery →
      (s.sec.rcvState = 1 ∨ s.sec.rcvState = 2 → Runs .secRcvGo s s) ∧
      (s.sec.rcvState ≠ 1 → s.sec.rcvState ≠ 2 → ∃ t, Runs .secRcvGo s t ∧
        if s.sec.rcvCause = 3 then ends t 3 0x18 else ends t 1 0) ∧
      (s.sec.rcvState ≠ 1 → ∀ a b c, Runs (.recoveryUploadComplete a b c) s s) ∧
      (s.sec.rcvState = 1 →
        (∀ b c, ∃ t, Runs (.recoveryUploadComplete none b c) s t ∧ ends t 3 0x15 ∧ t.flash = s.flash) ∧
        (∀ img, s.gen.busMaster = true →
          (imageCode s.otp img ≠ 0 → ∀ b c, ∃ t, Runs (.recoveryUploadComplete (some img) b c) s t ∧
            ends t 3 (imageCode s.otp img) ∧ t.flash = s.flash) ∧
          (imageCode s.otp img = 0 →
            (∀ c, ∃ t, Runs (.recoveryUploadComplete (some img) false c) s t ∧ ends t 3 0x16) ∧
            (∃ t, Runs (.recoveryUploadComplete (some img) true none) s t ∧ ends t 3 0x15) ∧
            ∀ again, ∃ t, Runs (.recoveryUploadComplete (some img) true (some again)) s t ∧
              t.flash = { s.flash with slot := again } ∧ t.otp = s.otp ∧
              if imageCode s.otp again = 0 then ends t 2 0 else ends t 3 0x17))))

/-! ### Pins, boot and reset (R408, R530, R532, R537, R586, R600 to R605) -/

/-- PERST_RELEASE, or the last condition of R602, boots: a valid image runs, its SVN and revocations are burnt and no fuse
is cleared, the link trains at x16, x8 or x4 and 32, 16 or 8 GT/s, and every register is at its
reset value; without a valid image, or with failed health tests, the boot ROM
enters the fallback and names the cause (R48, R530, R532, R537, R538, R586, R602, R605).

PERST_ASSERT and VAUX_LOSS return every register to its reset value, and only OTP and flash stay; a brown-out switches
a running device off and loses stack memory (R586, R603, R604). The laser inputs follow their pins (R408), and the TAP
takes boundary scan always, and any other instruction in debug state alone (R551). -/
def Obligations.ImagesAndPins : Prop :=
  (
  ∀ s : State, s.memOk → s.quiet →
    let img := s.flash.slot
    let code := imageCode s.otp img
    let found := imgField img 0 4 = 0x57465648
    let p := s.pins
    let fresh := fun (t : State) => t.parts = [] ∧ t.vfs = [] ∧ t.vats = [] ∧ t.jobs = [] ∧ t.srvs = [] ∧ t.ports = [] ∧
      t.err = {} ∧ t.evc = {} ∧ t.pwr = {} ∧ t.tmb = {} ∧ t.hdm = [] ∧ t.mem = State.reset.mem ∧ t.flash = s.flash
    let trained := fun (t : State) => (t.pins.linkWidth = 16 ∨ t.pins.linkWidth = 8 ∨ t.pins.linkWidth = 4) ∧
      (t.pins.linkRate = 32 ∨ t.pins.linkRate = 16 ∨ t.pins.linkRate = 8)
    let boots := fun (c : Bool → Instr) =>
      (found → code = 0 → ∃ t, Runs (c true) s t ∧ fresh t ∧ t.pins.mode = .running ∧ t.pins.link = .cxl ∧ trained t ∧
        t.mgt.running = true ∧ t.gen.ready = true ∧ t.sec.image = some (img.take 256) ∧ t.otp = s.otp.commit img) ∧
      (found → code ≠ 0 → ∃ t, Runs (c true) s t ∧ fresh t ∧ t.pins.mode = .recovery ∧ t.pins.link = .pcieOnly ∧ trained t ∧
        t.sec.rcvCause = 2 ∧ t.sec.rcvCode = code ∧ t.otp = s.otp) ∧
      (¬found → ∃ t, Runs (c true) s t ∧ fresh t ∧ t.pins.mode = .recovery ∧ t.sec.rcvCause = 1 ∧ t.otp = s.otp) ∧
      ∃ t, Runs (c false) s t ∧ fresh t ∧ t.pins.mode = .recovery ∧ t.sec.rcvCause = 3 ∧ t.otp = s.otp
    (∀ (o : Otp) img, o.counter ≤ (o.commit img).counter ∧ ∀ k, o.revoked.getLsbD k = true →
      (o.commit img).revoked.getLsbD k = true) ∧
    (p.mode = .inReset → p.vinGood = true → p.vauxGood = true → p.refclkStable = true → boots .perstRelease) ∧
    (p.mode ≠ .inReset → ∀ e, Runs (.perstRelease e) s { s with pins := { p with perst := false } }) ∧
    (p.mode = .inReset ∨ p.mode = .brownout → p.perst = false → p.vauxGood = true → p.refclkStable = true → boots .vinGood) ∧
    (p.mode = .inReset ∨ p.mode = .unpowered → p.perst = false → p.vinGood = true → p.refclkStable = true → boots .vauxGood) ∧
    (p.mode = .inReset → p.perst = false → p.vinGood = true → p.vauxGood = true → boots .refclkStable) ∧
    (p.perst = true → p.mode = .inReset → ∀ e,
      Runs (.vinGood e) s { s with pins := { p with vinGood := true } } ∧
      Runs (.vauxGood e) s { s with pins := { p with vauxGood := true } } ∧
      Runs (.refclkStable e) s { s with pins := { p with refclkStable := true } })) ∧
  (
  ∀ s : State, s.memOk → s.quiet →
    let p := s.pins
    let cleared := fun (t : State) => t = { State.reset with
      pending := s.pending, freshCount := t.freshCount, stamp := s.stamp, out := t.out, otp := s.otp, flash := t.flash,
      pins := t.pins }
    let still := p.mode ≠ .recovery ∧ ∀ img, s.mgt.update ≠ .verified img
    (∃ t, Runs .perstAssert s t ∧ cleared t ∧ t.pins.perst = true ∧
      t.pins.mode = (if p.mode = .unpowered then .unpowered else .inReset) ∧ t.pins.link = .down ∧ (still → t.flash = s.flash)) ∧
    (∃ t, Runs .vauxLoss s t ∧ cleared t ∧ t.pins.mode = .unpowered ∧ t.pins.vauxGood = false ∧ t.pins.link = .down ∧
      (still → t.flash = s.flash)) ∧
    (p.mode = .running → ∃ t, Runs .vinBrownout s t ∧ t.pins.mode = .brownout ∧ t.pins.vinGood = false ∧
      t.pins.link = .down ∧ t.vats = [] ∧ t.jobs = [] ∧ t.mem.cells = [] ∧ t.mem.zeroed = [] ∧ t.parts = s.parts ∧
      t.err = s.err ∧ t.flash = { s.flash with log := s.flash.log ++ [(2, 0, s.tmb.beat)] }) ∧
    (p.mode = .inReset ∨ p.mode = .unpowered → Runs .vinBrownout s { s with pins := { p with vinGood := false } }) ∧
    (∀ (e : Fin 8) ok, ∃ t, Runs (.laserInputChange e ok) s t ∧ t = { s with pins := { p with laserBad := t.pins.laserBad } } ∧
      (e.val ∈ t.pins.laserBad ↔ ok = false) ∧ ∀ k, k ≠ e.val → (k ∈ t.pins.laserBad ↔ k ∈ p.laserBad)) ∧
    ∀ b code, (p.mode = .unpowered → Runs (.tapInstruction b code) s s) ∧
      (p.mode ≠ .unpowered → b = true ∨ s.sec.debug = true → Runs (.tapInstruction b code) s
        { s with freshCount := s.freshCount + 1, out := s.out ++ [.tdo (Config.tapData s.freshCount code)] }) ∧
      (p.mode ≠ .unpowered → b = false → s.sec.debug = false → Runs (.tapInstruction b code) s
        { s with out := s.out ++ [.tapRefused] }))

/-! ### Slot words and reset (R221, R227, R234, R235, R238 to R241, R243, R586) -/

/-- A few words written out from the field tables of the slots: each is the operation that the tables name, and a word
with a reserved bit or an unlisted OP is none (R227, R234, R235, R238 to R241, R243). -/
def Obligations.SlotWords : Prop :=
  ∀ (v : Fin 128) (p : Bool),
    decodeSlot v p 0 0x0400000000000100 = some (.jmp v 0x100) ∧
    decodeSlot v p 0 0x1064000000000040 = some (.brlt v 3 4 0x40) ∧
    decodeSlot v p 0 0x1400000000000100 = none ∧
    decodeSlot v p 0 0x0400000100000100 = none ∧
    decodeSlot v p 1 0x40220005 = some (.addi v 1 2 5) ∧
    decodeSlot v p 2 0x0C080A6000000800 = some (.lda v { amask := 0x81, reg := 0, base := 5, inc := 6, sel := false,
                                                         count := 0, msel := 0, vm := 0, offset := 0x800 } p) ∧
    decodeSlot v p 3 0xFF0C1000 = some (.arrIssue v { amask := 0xFF, row := 3, sel := false, index := 2, last := false,
                                                      lx := false }) ∧
    decodeSlot v p 4 0x10100000 = some (.swap v 1) ∧
    decodeSlot v p 4 0x20F04280 = some (.cfg v 0x0F { wfmt := 1, afmt := 2, exact := true, quad := false, raw := false,
                                                      rmode := false }) ∧
    decodeSlot v p 5 0x10304400 = some (.drain v { amask := 3, row := 1, reg := 2, raw := false, qsel := false }) ∧
    decodeSlot v p 6 0x042218003FC00000 = some (.fadd v { vd := 1, va := 2, vb := 3, vc := 0, fmt := 0, rnd := 0,
                                                          gmask := 0xFF, sb := false }) ∧
    decodeSlot v p 7 0x0844000000000000 = some (.sld v { ra := 1, rb := 2, rf := 0, fbit := 0, flag := false,
                                                         atbeat := false, rt := 0, lines := 0 }) ∧
    decodeSlot v p 7 0x0844000000000001 = none

/-- Every slot operation, with its operands at every value that its fields hold, is written as a word of its slot that
fits the slot and decodes to it; and every word that decodes is such an operation of that slot (R221, R227, R234, R235,
R238 to R241, R243). -/
def Obligations.SlotRoundTrip : Prop :=
  (∀ c v p k w, encodeSlot c = some (v, p, k, w) →
    k < 8 ∧ w < 2 ^ (8 * slotBytes k) ∧ decodeSlot v p k w = some c) ∧
  ∀ v p k w c, k < 8 → decodeSlot v p k w = some c → ∃ q u, encodeSlot c = some (v, q, k, u) ∧ decodeSlot v q k u = some c

/-- The state after reset: no command waits, nothing runs, the link is down, stack memory has its canonical form, every
partition is off, and the registers hold the reset values of their tables (R69, R279, R445, R473, R491, R519, R583,
R586, R604). -/
def Obligations.ResetState : Prop :=
  let s := State.reset
  s.memOk ∧ s.pending = [] ∧ s.running = false ∧ s.pins.mode = .inReset ∧ s.pins.link = .down ∧ s.tmb.beat = 0 ∧
    s.mgt.running = false ∧ s.gen.ready = false ∧ s.gen.armed = false ∧ s.gen.numVfs = 0 ∧
    s.gen.scrubPeriod = 24 ∧ s.gen.scrubEnable = true ∧ s.gen.fabTimeout = 1000 ∧ s.gen.fabPos = 0 ∧ s.pwr.cap = 1800 ∧
    s.err.produce = 0 ∧ s.err.consume = 0 ∧ s.err.halted = false ∧ s.sec.rcvState = 0 ∧
    (∀ n, (s.part n).state = .off ∧ (s.part n).win = []) ∧ (∀ n r, (s.ring n r).enable = false) ∧
    (∀ v r, (s.vat v).sreg r = 0) ∧ ∀ p, (s.port p).state = .off
/-! ### Programs -/

/-- The loader makes its checks in order and reports the first failure with its offset; an image too short to hold MAGIC
fails check 1, and one that passes checks 1 and 2 with fewer than 128 bytes is refused with BAD_SIZE (R43). In an image
that passes the checks of the image alone the supplied bytes have the stated size and digest (R26, R27), no reserved bit
is set (R25), step ids are unique and name no unknown operator (R34, R36), each step's outputs and inputs meet only where
they may, no later step
writes what a step reads (of a KV tensor, the model's choice, no later step of the same layer, log 106), only an UPDATE
writes a parameter, no exchange does (R35, R47, R168), and in exact mode every SUM exchange has EXACT set (R40). -/
def Obligations.LoaderChecks : Prop :=
  ∀ (img : List Byte) (c : LoadConfig),
    let checks := imageChecks img ++ configChecks img c
    (loaderRefuses img c = none ↔ ∀ x ∈ checks, x.2 () = []) ∧
    (∀ r, loaderRefuses img c = some r → ∃ before f after rest, checks = before ++ (r.code, f) :: after ∧
      (∀ x ∈ before, x.2 () = []) ∧ f () = r.offset :: rest) ∧
    (img.length < 4 → loaderRefuses img c = some { code := .badMagic, offset := 0 }) ∧
    (magicBad img = [] → versionBad img = [] → img.length < 128 →
      loaderRefuses img c = some { code := .badSize, offset := 0x10 }) ∧
    (firstFailure (imageChecks img) = none →
      numAt img 0x10 8 = img.length ∧ digestOf ((img.drop 0x40).take 32) = programDigest img ∧
      (∀ o m, (o, m) ∈ reservedBits img → numAt img o 1 &&& m = 0) ∧
      ((stepDecls img).map (·.id)).Nodup ∧
      (∀ x ∈ stepDecls img, x.sub ∈ subcodesOf x.op ∧
        ∀ i ∈ x.writes, ∃ t, tensorNamed (tensorDecls img) i = some t ∧ t.curd = false ∧ (t.kind = 1 → x.op = 0x12) ∧
          (i ∈ x.reads → x.op = 0x06 ∨ x.op = 0x12)) ∧
      (∀ before x after, stepDecls img = before ++ x :: after → ∀ i ∈ x.reads, ∀ y ∈ after, i ∈ y.writes →
        ∃ t, tensorNamed (tensorDecls img) i = some t ∧ t.kind = 4 ∧ y.intAttr 0x000E 0 ≠ x.intAttr 0x000E 0) ∧
      (∀ x ∈ exchangeDecls img, ∃ t, tensorNamed (tensorDecls img) x.dst = some t ∧ t.kind ≠ 1 ∧ t.place ≠ 2) ∧
      (imageExact img = true → ∀ x ∈ exchangeDecls img, x.op = 1 → x.exact = true))
end

