-- ==== Sys2Proof/Laws/Tab.lean ====
section
/-! SUPPORT. Laws of tables and range sets. -/

namespace Sys2Proof.Machine

variable {β : Type}

/-! ### Tables -/

@[simp] theorem tabFind_nil (k : Nat) : tabFind ([] : Tab β) k = none := rfl

theorem tabFind_cons (j : Nat) (w : β) (t : Tab β) (k : Nat) :
    tabFind ((j, w) :: t) k = if j = k then some w else tabFind t k := rfl

@[simp] theorem tabFind_put_same (k : Nat) (v : β) (t : Tab β) : tabFind (tabPut k v t) k = some v := by
  induction t with
  | nil => simp [tabPut, tabFind]
  | cons x t ih =>
    obtain ⟨j, w⟩ := x
    unfold tabPut
    split
    · simp [tabFind]
    · split
      · simp [tabFind]
      · rename_i h; simp [tabFind, ih, Ne.symm h]

theorem tabFind_put_ne {k k' : Nat} (h : k' ≠ k) (v : β) (t : Tab β) : tabFind (tabPut k v t) k' = tabFind t k' := by
  induction t with
  | nil => simp [tabPut, tabFind, Ne.symm h]
  | cons x t ih =>
    obtain ⟨j, w⟩ := x
    unfold tabPut
    split
    · simp [tabFind, Ne.symm h]
    · split
      · subst_vars; simp [tabFind, Ne.symm h]
      · simp [tabFind, ih]

@[simp] theorem tabFind_erase_same (k : Nat) (t : Tab β) : tabFind (tabErase k t) k = none := by
  induction t with
  | nil => rfl
  | cons x t ih =>
    obtain ⟨j, w⟩ := x
    unfold tabErase
    split
    · exact ih
    · rename_i h; simp [tabFind, ih, h]

theorem tabFind_erase_ne {k k' : Nat} (h : k' ≠ k) (t : Tab β) : tabFind (tabErase k t) k' = tabFind t k' := by
  induction t with
  | nil => rfl
  | cons x t ih =>
    obtain ⟨j, w⟩ := x
    unfold tabErase
    split
    · subst_vars; simp [tabFind, ih, Ne.symm h]
    · simp [tabFind, ih]

variable [DecidableEq β]

@[simp] theorem tabGet_set_same (d : β) (t : Tab β) (k : Nat) (v : β) : tabGet d (tabSet d t k v) k = v := by
  unfold tabGet tabSet
  split
  · subst_vars; simp
  · simp

theorem tabGet_set_ne {k k' : Nat} (h : k' ≠ k) (d : β) (t : Tab β) (v : β) :
    tabGet d (tabSet d t k v) k' = tabGet d t k' := by
  unfold tabGet tabSet
  split
  · rw [tabFind_erase_ne h]
  · rw [tabFind_put_ne h]

@[simp] theorem tabGet_mod_same (d : β) (t : Tab β) (k : Nat) (f : β → β) :
    tabGet d (tabMod d t k f) k = f (tabGet d t k) := by simp [tabMod]

theorem tabGet_mod_ne {k k' : Nat} (h : k' ≠ k) (d : β) (t : Tab β) (f : β → β) :
    tabGet d (tabMod d t k f) k' = tabGet d t k' := by simp [tabMod, tabGet_set_ne h]

/-- A read after a replacement, at any key. -/
theorem tabGet_mod (d : β) (t : Tab β) (k k' : Nat) (f : β → β) :
    tabGet d (tabMod d t k f) k' = if k' = k then f (tabGet d t k) else tabGet d t k' := by
  split
  · subst_vars; simp
  · rename_i h; exact tabGet_mod_ne h ..

omit [DecidableEq β] in
theorem tabFind_append (l m : Tab β) (k : Nat) : tabFind (l ++ m) k = (tabFind l k).or (tabFind m k) := by
  induction l with
  | nil => simp
  | cons x t ih =>
    obtain ⟨j, w⟩ := x
    simp only [List.cons_append, tabFind]
    split <;> simp [ih]

/-! ### Sorted tables -/

/-- Every key of the table lies at or above `c`. -/
def tabFrom (c : Nat) (t : Tab β) : Prop := ∀ x ∈ t, c ≤ x.1

omit [DecidableEq β] in
theorem tabSorted_cons (j : Nat) (w : β) (t : Tab β) :
    tabSorted ((j, w) :: t) = true ↔ tabFrom (j + 1) t ∧ tabSorted t = true := by
  induction t generalizing j w with
  | nil => simp [tabSorted, tabFrom]
  | cons y t ih =>
    obtain ⟨k, u⟩ := y
    have e := ih k u
    constructor
    · intro h
      simp only [tabSorted, Bool.and_eq_true, decide_eq_true_eq] at h
      have hs : tabSorted ((k, u) :: t) = true := by simp only [tabSorted, Bool.and_eq_true]; exact h.2
      refine ⟨fun x hx => ?_, hs⟩
      rcases List.mem_cons.1 hx with rfl | hx
      · exact h.1
      · have := (e.1 hs).1 x hx; omega
    · intro ⟨h1, h2⟩
      have := h1 (k, u) (by simp)
      simp only [tabSorted, Bool.and_eq_true, decide_eq_true_eq] at h2 ⊢
      exact ⟨by omega, h2⟩

omit [DecidableEq β] in
theorem tabFind_none_of_from {c k : Nat} {t : Tab β} (h : tabFrom c t) (hk : k < c) : tabFind t k = none := by
  induction t with
  | nil => rfl
  | cons x t ih =>
    obtain ⟨j, w⟩ := x
    have h1 := h (j, w) (by simp)
    simp only at h1
    rw [tabFind_cons, if_neg (by omega)]
    exact ih fun y hy => h y (List.mem_cons_of_mem _ hy)

omit [DecidableEq β] in
/-- Two sorted tables, the second above the first, join to a sorted one. -/
theorem tabSorted_append {l m : Tab β} (hl : tabSorted l = true) (hm : tabSorted m = true)
    (h : ∀ x ∈ l, ∀ y ∈ m, x.1 < y.1) : tabSorted (l ++ m) = true := by
  induction l with
  | nil => exact hm
  | cons x t ih =>
    obtain ⟨j, w⟩ := x
    rw [tabSorted_cons] at hl
    rw [List.cons_append, tabSorted_cons]
    refine ⟨fun y hy => ?_, ih hl.2 fun a ha b hb => h a (List.mem_cons_of_mem _ ha) b hb⟩
    rcases List.mem_append.1 hy with hy | hy
    · exact hl.1 y hy
    · exact h (j, w) (by simp) y hy

omit [DecidableEq β] in
theorem tabSorted_filter (p : Nat × β → Bool) {t : Tab β} (h : tabSorted t = true) : tabSorted (t.filter p) = true := by
  induction t with
  | nil => rfl
  | cons x t ih =>
    obtain ⟨j, w⟩ := x
    rw [tabSorted_cons] at h
    rw [List.filter_cons]
    split
    · rw [tabSorted_cons]
      exact ⟨fun y hy => h.1 y (List.mem_of_mem_filter hy), ih h.2⟩
    · exact ih h.2

omit [DecidableEq β] in
theorem takeWhile_sorted {t : Tab β} (h : tabSorted t = true) (a : Nat) :
    (t.takeWhile fun c => decide (c.1 < a)) = t.filter fun c => decide (c.1 < a) := by
  induction t with
  | nil => rfl
  | cons x t ih =>
    obtain ⟨j, w⟩ := x
    rw [tabSorted_cons] at h
    by_cases hj : j < a
    · simp [hj, ih h.2]
    · have : (t.filter fun c => decide (c.1 < a)) = [] := by
        rw [List.filter_eq_nil_iff]
        intro y hy
        have := h.1 y hy
        simp only [decide_eq_true_eq]; omega
      simp [hj, this]

omit [DecidableEq β] in
theorem dropWhile_sorted {t : Tab β} (h : tabSorted t = true) (a : Nat) :
    (t.dropWhile fun c => decide (c.1 < a)) = t.filter fun c => decide (a ≤ c.1) := by
  induction t with
  | nil => rfl
  | cons x t ih =>
    obtain ⟨j, w⟩ := x
    rw [tabSorted_cons] at h
    by_cases hj : j < a
    · have : ¬ a ≤ j := by omega
      simp [hj, this, ih h.2]
    · have : (t.filter fun c => decide (a ≤ c.1)) = t := by
        rw [List.filter_eq_self]
        intro y hy
        have := h.1 y hy
        simp only [decide_eq_true_eq]; omega
      have h' : a ≤ j := by omega
      simp [hj, h', this]

omit [DecidableEq β] in
theorem tabFind_filter (p : Nat → Bool) (t : Tab β) (k : Nat) :
    tabFind (t.filter fun c => p c.1) k = if p k then tabFind t k else none := by
  induction t with
  | nil => simp
  | cons x t ih =>
    obtain ⟨j, w⟩ := x
    rw [List.filter_cons]
    by_cases hj : j = k
    · subst hj
      by_cases hp : p j <;> simp [hp, tabFind, ih]
    · by_cases hp : p j <;> simp [hp, tabFind, ih, hj]

omit [DecidableEq β] in
theorem tabFind_mem {t : Tab β} {k : Nat} {v : β} (h : tabFind t k = some v) : (k, v) ∈ t := by
  induction t with
  | nil => simp at h
  | cons x t ih =>
    obtain ⟨j, w⟩ := x
    rw [tabFind_cons] at h
    split at h
    · subst_vars; simp at h; simp [h]
    · exact List.mem_cons_of_mem _ (ih h)

/-! ### Range sets -/

@[simp] theorem rangesMem_nil (x : Nat) : rangesMem x [] = false := rfl

theorem rangesMem_cons (x lo hi : Nat) (t : Ranges) :
    rangesMem x ((lo, hi) :: t) = true ↔ (lo ≤ x ∧ x < hi) ∨ rangesMem x t = true := by simp [rangesMem]

/-- Every range begins at or above `c`. -/
def rangesFrom (c : Nat) (r : Ranges) : Prop := match r with
  | [] => True
  | (a, _) :: _ => c ≤ a

theorem rangesWf_cons (a b : Nat) (t : Ranges) :
    rangesWf ((a, b) :: t) = true ↔ a < b ∧ rangesFrom (b + 1) t ∧ rangesWf t = true := by
  cases t with
  | nil => simp [rangesWf, rangesFrom]
  | cons y t =>
    obtain ⟨c, d⟩ := y
    simp only [rangesWf, rangesFrom, Bool.and_eq_true, decide_eq_true_eq]
    constructor
    · intro ⟨⟨h1, h2⟩, h3⟩; exact ⟨h1, by omega, h3⟩
    · intro ⟨h1, h2, h3⟩; exact ⟨⟨h1, by omega⟩, h3⟩

theorem rangesFrom_mono {c d : Nat} {r : Ranges} (h : rangesFrom d r) (hc : c ≤ d) : rangesFrom c r := by
  cases r with
  | nil => trivial
  | cons x t => simp only [rangesFrom] at *; omega

theorem rangesMem_false_of_from {c x : Nat} {r : Ranges} (hw : rangesWf r = true) (h : rangesFrom c r) (hx : x < c) :
    rangesMem x r = false := by
  induction r generalizing c with
  | nil => rfl
  | cons y t ih =>
    obtain ⟨a, b⟩ := y
    rw [rangesWf_cons] at hw
    simp only [rangesFrom] at h
    rw [Bool.eq_false_iff, ne_eq, rangesMem_cons]
    rintro (h1 | h1)
    · omega
    · rw [ih hw.2.2 hw.2.1 (by omega)] at h1; exact absurd h1 (by simp)

theorem rangesAddAux_wf {lo hi : Nat} {r : Ranges} (h : lo < hi) (hw : rangesWf r = true) :
    rangesWf (rangesAddAux lo hi r) = true ∧
      ∀ c, c ≤ lo → rangesFrom c r → rangesFrom c (rangesAddAux lo hi r) := by
  induction r generalizing lo hi with
  | nil => simp [rangesAddAux, rangesWf, rangesFrom, h]
  | cons x t ih =>
    obtain ⟨a, b⟩ := x
    have hw' := (rangesWf_cons a b t).1 hw
    unfold rangesAddAux
    split
    · rename_i h1
      refine ⟨?_, fun c hc _ => hc⟩
      rw [rangesWf_cons]
      exact ⟨h, by simp only [rangesFrom]; omega, hw⟩
    · split
      · rename_i h1 h2
        have e := ih h hw'.2.2
        refine ⟨?_, fun c _ hf => hf⟩
        rw [rangesWf_cons]
        exact ⟨hw'.1, e.2 (b + 1) (by omega) hw'.2.1, e.1⟩
      · rename_i h1 h2
        have e := ih (lo := min lo a) (hi := max hi b) (by omega) hw'.2.2
        refine ⟨e.1, fun c hc hf => e.2 c ?_ ?_⟩
        · simp only [rangesFrom] at hf; omega
        · simp only [rangesFrom] at hf
          exact rangesFrom_mono hw'.2.1 (by omega)

theorem rangesMem_addAux {lo hi x : Nat} {r : Ranges} (h : lo < hi) (hw : rangesWf r = true) :
    rangesMem x (rangesAddAux lo hi r) = true ↔ (lo ≤ x ∧ x < hi) ∨ rangesMem x r = true := by
  induction r generalizing lo hi with
  | nil => simp [rangesAddAux, rangesMem]
  | cons y t ih =>
    obtain ⟨a, b⟩ := y
    have hw' := (rangesWf_cons a b t).1 hw
    unfold rangesAddAux
    split
    · rw [rangesMem_cons]
    · split
      · rw [rangesMem_cons, ih h hw'.2.2, rangesMem_cons]; tauto
      · rw [ih (by omega) hw'.2.2, rangesMem_cons]
        have := hw'.1
        constructor
        · rintro (h1 | h1)
          · by_cases h3 : lo ≤ x ∧ x < hi
            · exact .inl h3
            · exact .inr (.inl (by omega))
          · exact .inr (.inr h1)
        · rintro (h1 | h1 | h1)
          · exact .inl (by omega)
          · exact .inl (by omega)
          · exact .inr h1

/-- Adding keeps the form. -/
theorem rangesAdd_wf {r : Ranges} (lo hi : Nat) (hw : rangesWf r = true) : rangesWf (rangesAdd lo hi r) = true := by
  unfold rangesAdd
  split
  · rename_i h; exact (rangesAddAux_wf h hw).1
  · exact hw

/-- Adding adds the range and nothing else. -/
theorem rangesMem_add {r : Ranges} (lo hi x : Nat) (hw : rangesWf r = true) :
    rangesMem x (rangesAdd lo hi r) = true ↔ (lo ≤ x ∧ x < hi) ∨ rangesMem x r = true := by
  unfold rangesAdd
  split
  · rename_i h; exact rangesMem_addAux h hw
  · have : ¬ (lo ≤ x ∧ x < hi) := by omega
    simp [this]

theorem rangesSub_wf_from {r : Ranges} (lo hi : Nat) (hw : rangesWf r = true) :
    rangesWf (rangesSub lo hi r) = true ∧ ∀ c, rangesFrom c r → rangesFrom c (rangesSub lo hi r) := by
  induction r with
  | nil => simp [rangesSub, rangesWf, rangesFrom]
  | cons y t ih =>
    obtain ⟨a, b⟩ := y
    have hw' := (rangesWf_cons a b t).1 hw
    have e := ih hw'.2.2
    have hf := e.2 (b + 1) hw'.2.1
    unfold rangesSub
    by_cases h0 : hi ≤ lo
    · simp only [if_pos h0]
      exact ⟨(rangesWf_cons _ _ _).2 ⟨hw'.1, hf, e.1⟩, fun c h => h⟩
    · simp only [if_neg h0]
      by_cases h1 : a < min b lo <;> by_cases h2 : max a hi < b
      · simp only [if_pos h1, if_pos h2, List.cons_append, List.nil_append]
        refine ⟨(rangesWf_cons _ _ _).2 ⟨h1, by simp only [rangesFrom]; omega, (rangesWf_cons _ _ _).2 ⟨h2, hf, e.1⟩⟩, ?_⟩
        intro c h; simp only [rangesFrom] at *; omega
      · simp only [if_pos h1, if_neg h2, List.append_nil, List.cons_append, List.nil_append]
        refine ⟨(rangesWf_cons _ _ _).2 ⟨h1, rangesFrom_mono hf (by omega), e.1⟩, ?_⟩
        intro c h; simp only [rangesFrom] at *; omega
      · simp only [if_neg h1, if_pos h2, List.nil_append, List.cons_append]
        refine ⟨(rangesWf_cons _ _ _).2 ⟨h2, hf, e.1⟩, ?_⟩
        intro c h; simp only [rangesFrom] at *; omega
      · simp only [if_neg h1, if_neg h2, List.nil_append]
        refine ⟨e.1, fun c h => ?_⟩
        simp only [rangesFrom] at h
        exact rangesFrom_mono hf (by omega)

/-- Taking out keeps the form. -/
theorem rangesSub_wf {r : Ranges} (lo hi : Nat) (hw : rangesWf r = true) : rangesWf (rangesSub lo hi r) = true :=
  (rangesSub_wf_from lo hi hw).1

theorem rangesMem_append (x : Nat) (l m : Ranges) : rangesMem x (l ++ m) = (rangesMem x l || rangesMem x m) := by
  induction l with
  | nil => simp
  | cons y t ih => obtain ⟨a, b⟩ := y; simp [rangesMem, ih, Bool.or_assoc]

/-- Taking out takes the range out and nothing else. -/
theorem rangesMem_sub (r : Ranges) (lo hi x : Nat) :
    rangesMem x (rangesSub lo hi r) = true ↔ rangesMem x r = true ∧ ¬ (lo ≤ x ∧ x < hi) := by
  induction r with
  | nil => simp [rangesSub]
  | cons y t ih =>
    obtain ⟨a, b⟩ := y
    unfold rangesSub
    by_cases h0 : hi ≤ lo
    · simp only [if_pos h0, rangesMem_cons, ih]
      constructor
      · rintro (h | h)
        · exact ⟨.inl h, by omega⟩
        · exact ⟨.inr h.1, h.2⟩
      · rintro ⟨h | h, h'⟩
        · exact .inl h
        · exact .inr ⟨h, h'⟩
    · have hl : ∀ (p q : Nat) (c : Prop) [Decidable c],
          rangesMem x (if c then [(p, q)] else []) = true ↔ c ∧ p ≤ x ∧ x < q := by
        intro p q c _; by_cases hc : c <;> simp [hc, rangesMem]
      simp only [if_neg h0, rangesMem_append, Bool.or_eq_true, hl, ih, rangesMem_cons]
      constructor
      · rintro ((h | h) | h)
        · exact ⟨.inl (by omega), by omega⟩
        · exact ⟨.inl (by omega), by omega⟩
        · exact ⟨.inr h.1, h.2⟩
      · rintro ⟨h | h, h'⟩
        · by_cases hx : x < lo
          · exact .inl (.inl (by omega))
          · exact .inl (.inr (by omega))
        · exact .inr ⟨h, h'⟩

end Sys2Proof.Machine
end

