-- ==== Sys2Proof/Laws/Memory.lean ====
section
/-! SUPPORT. Laws of stack memory: every operation keeps the canonical form, and what a byte reads as after each. -/

namespace Sys2Proof.Machine

/-! ### What the canonical form says -/

theorem Mem.wf_iff (m : Mem) :
    m.wf = true ↔ tabSorted m.cells = true ∧ (∀ c ∈ m.cells, c.2 ≠ 0 ∧ rangesMem c.1 m.zeroed = false) ∧
      rangesWf m.zeroed = true ∧ rangesWf m.marked = true ∧ rangesWf m.bias = true := by
  simp [Mem.wf, and_assoc]

/-! ### New cells and zeros -/

theorem newCells_from (a : Nat) (bs : List Byte) : ∀ c ∈ newCells a bs, a ≤ c.1 ∧ c.1 < a + bs.length ∧ c.2 ≠ 0 := by
  induction bs generalizing a with
  | nil => simp [newCells]
  | cons b bs ih =>
    intro c hc
    unfold newCells at hc
    split at hc
    · have := ih (a + 1) c hc; simp only [List.length_cons]; exact ⟨by omega, by omega, this.2.2⟩
    · rename_i hb
      rcases List.mem_cons.1 hc with rfl | hc
      · exact ⟨le_refl _, by simp, hb⟩
      · have := ih (a + 1) c hc; simp only [List.length_cons]; exact ⟨by omega, by omega, this.2.2⟩

theorem newCells_sorted (a : Nat) (bs : List Byte) : tabSorted (newCells a bs) = true := by
  induction bs generalizing a with
  | nil => rfl
  | cons b bs ih =>
    unfold newCells
    split
    · exact ih (a + 1)
    · rw [tabSorted_cons]
      exact ⟨fun x hx => (newCells_from (a + 1) bs x hx).1, ih (a + 1)⟩

theorem tabFind_newCells (a : Nat) (bs : List Byte) (x : Nat) :
    tabFind (newCells a bs) x =
      if a ≤ x ∧ x < a + bs.length ∧ bs.getD (x - a) 0 ≠ 0 then some (bs.getD (x - a) 0) else none := by
  induction bs generalizing a with
  | nil => simp [newCells]
  | cons b bs ih =>
    have step : ∀ h : x ≠ a, (b :: bs).getD (x - a) 0 = if a ≤ x then bs.getD (x - (a + 1)) 0 else b := by
      intro h
      by_cases hx : a ≤ x
      · obtain ⟨k, rfl⟩ : ∃ k, x = a + 1 + k := ⟨x - (a + 1), by omega⟩
        rw [show a + 1 + k - a = k + 1 by omega, if_pos hx, List.getD_cons_succ, show a + 1 + k - (a + 1) = k by omega]
      · simp [hx, show x - a = 0 by omega]
    unfold newCells
    by_cases hb : b = 0
    · subst hb
      rw [if_pos rfl, ih]
      by_cases hx : x = a
      · subst hx; simp
      · rw [step hx]
        by_cases h : a ≤ x
        · simp only [h, if_true, List.length_cons, show a + 1 ≤ x by omega, true_and,
            show (x < a + 1 + bs.length) = (x < a + (bs.length + 1)) by rw [eq_iff_iff]; omega]
        · simp [h, show ¬ a + 1 ≤ x by omega]
    · rw [if_neg hb, tabFind_cons]
      by_cases hx : x = a
      · subst hx
        rw [if_pos rfl, if_pos ⟨le_refl _, by simp, by rw [Nat.sub_self, List.getD_cons_zero]; exact hb⟩]
        simp
      · rw [if_neg (Ne.symm hx), ih, step hx]
        by_cases h : a ≤ x
        · simp only [h, if_true, List.length_cons, show a + 1 ≤ x by omega, true_and,
            show (x < a + 1 + bs.length) = (x < a + (bs.length + 1)) by rw [eq_iff_iff]; omega]
        · simp [h, show ¬ a + 1 ≤ x by omega]

theorem newZeros_wf {r : Ranges} (a : Nat) (bs : List Byte) (h : rangesWf r = true) : rangesWf (newZeros a bs r) = true := by
  induction bs generalizing a r with
  | nil => exact h
  | cons b bs ih =>
    unfold newZeros
    apply ih
    split
    · exact rangesAdd_wf _ _ h
    · exact h

theorem rangesMem_newZeros {r : Ranges} (a : Nat) (bs : List Byte) (x : Nat) (h : rangesWf r = true) :
    rangesMem x (newZeros a bs r) = true ↔
      (a ≤ x ∧ x < a + bs.length ∧ bs.getD (x - a) 0 = 0) ∨ rangesMem x r = true := by
  induction bs generalizing a r with
  | nil => simp only [newZeros, List.length_nil, Nat.add_zero]; constructor
           · exact .inr
           · rintro (h | h)
             · omega
             · exact h
  | cons b bs ih =>
    unfold newZeros
    have hw : rangesWf (if b = 0 then rangesAdd a (a + 1) r else r) = true := by
      split
      · exact rangesAdd_wf _ _ h
      · exact h
    rw [ih _ hw]
    have key : rangesMem x (if b = 0 then rangesAdd a (a + 1) r else r) = true ↔ (b = 0 ∧ x = a) ∨ rangesMem x r = true := by
      by_cases hb : b = 0
      · rw [if_pos hb, rangesMem_add _ _ _ h]
        constructor
        · rintro (h | h)
          · exact .inl ⟨hb, by omega⟩
          · exact .inr h
        · rintro (h | h)
          · exact .inl (by omega)
          · exact .inr h
      · rw [if_neg hb]
        exact ⟨.inr, fun h => h.resolve_left fun h => hb h.1⟩
    rw [key]
    by_cases hx : x = a
    · subst hx
      have h1 : ¬ (x + 1 ≤ x) := by omega
      simp [h1]
    · by_cases h2 : a ≤ x
      · obtain ⟨k, rfl⟩ : ∃ k, x = a + 1 + k := ⟨x - (a + 1), by omega⟩
        simp only [show a + 1 + k - a = k + 1 by omega, show a + 1 + k - (a + 1) = k by omega, List.getD_cons_succ,
          List.length_cons]
        constructor
        · rintro (h | h | h)
          · exact .inl ⟨by omega, by omega, h.2.2⟩
          · omega
          · exact .inr h
        · rintro (h | h)
          · exact .inl ⟨by omega, by omega, h.2.2⟩
          · exact .inr (.inr h)
      · constructor
        · rintro (h | h | h)
          · omega
          · omega
          · exact .inr h
        · rintro (h | h)
          · omega
          · exact .inr (.inr h)

/-! ### Writes -/

theorem Mem.put_cells {m : Mem} (h : tabSorted m.cells = true) (a : Nat) (bs : List Byte) :
    (m.put a bs).cells = (m.cells.filter fun c => decide (c.1 < a)) ++ (newCells a bs ++
      m.cells.filter fun c => decide (a + bs.length ≤ c.1)) := by
  have h1 := tabSorted_filter (fun c => decide (a ≤ c.1)) h
  simp only [Mem.put, takeWhile_sorted h, dropWhile_sorted h, dropWhile_sorted h1, List.filter_filter, List.append_assoc]
  congr 2
  apply List.filter_congr
  intro c _
  by_cases hc : a + bs.length ≤ c.1
  · simp [hc, show a ≤ c.1 by omega]
  · simp [hc]

/-- A write keeps the canonical form. -/
theorem Mem.put_wf {m : Mem} (h : m.wf = true) (a : Nat) (bs : List Byte) : (m.put a bs).wf = true := by
  rw [Mem.wf_iff] at h
  obtain ⟨hs, hc, hz, hm, hb⟩ := h
  have hw := rangesSub_wf a (a + bs.length) hz
  rw [Mem.wf_iff]
  refine ⟨?_, ?_, newZeros_wf _ _ hw, hm, hb⟩
  · rw [Mem.put_cells hs]
    refine tabSorted_append (tabSorted_filter _ hs)
      (tabSorted_append (newCells_sorted a bs) (tabSorted_filter _ hs) ?_) ?_
    · intro x hx y hy
      have := (newCells_from a bs x hx).2.1
      have := (List.mem_filter.1 hy).2
      simp only [decide_eq_true_eq] at this; omega
    · intro x hx y hy
      have hx' := (List.mem_filter.1 hx).2
      simp only [decide_eq_true_eq] at hx'
      rcases List.mem_append.1 hy with hy | hy
      · have := (newCells_from a bs y hy).1; omega
      · have := (List.mem_filter.1 hy).2
        simp only [decide_eq_true_eq] at this; omega
  · rw [Mem.put_cells hs]
    intro c hc'
    have hzero : ∀ x, rangesMem x (m.put a bs).zeroed = true ↔
        (a ≤ x ∧ x < a + bs.length ∧ bs.getD (x - a) 0 = 0) ∨
          (rangesMem x m.zeroed = true ∧ ¬ (a ≤ x ∧ x < a + bs.length)) := by
      intro x
      rw [show (m.put a bs).zeroed = newZeros a bs (rangesSub a (a + bs.length) m.zeroed) from rfl,
        rangesMem_newZeros a bs x hw, rangesMem_sub]
    rcases List.mem_append.1 hc' with h1 | h1
    · have h2 := List.mem_filter.1 h1
      simp only [decide_eq_true_eq] at h2
      refine ⟨(hc c h2.1).1, ?_⟩
      rw [Bool.eq_false_iff, ne_eq, hzero]
      rintro (h3 | h3)
      · omega
      · rw [(hc c h2.1).2] at h3; exact absurd h3.1 (by simp)
    · rcases List.mem_append.1 h1 with h1 | h1
      · have h2 := newCells_from a bs c h1
        refine ⟨h2.2.2, ?_⟩
        rw [Bool.eq_false_iff, ne_eq, hzero]
        rintro (h3 | h3)
        · have h4 := tabFind_newCells a bs c.1
          have h5 : tabFind (newCells a bs) c.1 = none := by rw [h4, if_neg fun h => h.2.2 h3.2.2]
          have h6 : ∀ (t : Tab Byte) (c : Nat × Byte), c ∈ t → tabFind t c.1 ≠ none := by
            intro t c hc
            induction t with
            | nil => simp at hc
            | cons y t ih =>
              obtain ⟨j, w⟩ := y
              rw [tabFind_cons]
              split
              · simp
              · rcases List.mem_cons.1 hc with rfl | hc
                · contradiction
                · exact ih hc
          exact h6 _ c h1 h5
        · exact h3.2 ⟨h2.1, h2.2.1⟩
      · have h2 := List.mem_filter.1 h1
        simp only [decide_eq_true_eq] at h2
        refine ⟨(hc c h2.1).1, ?_⟩
        rw [Bool.eq_false_iff, ne_eq, hzero]
        rintro (h3 | h3)
        · omega
        · rw [(hc c h2.1).2] at h3; exact absurd h3.1 (by simp)

/-- A byte after a write: the byte written, or what it was. -/
theorem Mem.byte_put {m : Mem} (h : m.wf = true) (a : Nat) (bs : List Byte) (x : Nat) :
    (m.put a bs).byte x = if a ≤ x ∧ x < a + bs.length then some (bs.getD (x - a) 0) else m.byte x := by
  rw [Mem.wf_iff] at h
  obtain ⟨hs, hc, hz, hm, hb⟩ := h
  have hw := rangesSub_wf a (a + bs.length) hz
  have hzero : rangesMem x (m.put a bs).zeroed = true ↔
      (a ≤ x ∧ x < a + bs.length ∧ bs.getD (x - a) 0 = 0) ∨
        (rangesMem x m.zeroed = true ∧ ¬ (a ≤ x ∧ x < a + bs.length)) := by
    rw [show (m.put a bs).zeroed = newZeros a bs (rangesSub a (a + bs.length) m.zeroed) from rfl,
      rangesMem_newZeros a bs x hw, rangesMem_sub]
  have hfind : tabFind (m.put a bs).cells x =
      if a ≤ x ∧ x < a + bs.length then (if bs.getD (x - a) 0 = 0 then none else some (bs.getD (x - a) 0))
      else tabFind m.cells x := by
    rw [Mem.put_cells hs, tabFind_append, tabFind_append, tabFind_filter (fun k => decide (k < a)),
      tabFind_filter (fun k => decide (a + bs.length ≤ k)), tabFind_newCells]
    by_cases h1 : x < a
    · simp [h1, show ¬ a ≤ x by omega, show ¬ a + bs.length ≤ x by omega]
    · by_cases h2 : x < a + bs.length
      · by_cases h3 : bs.getD (x - a) 0 = 0
        · have h1' : a ≤ x := by omega
          have h2' : ¬ a + bs.length ≤ x := by omega
          simp only [h1, h2, h1', h2', h3]; simp
        · have h1' : a ≤ x := by omega
          have h2' : ¬ a + bs.length ≤ x := by omega
          have e1 : (a ≤ x ∧ x < a + bs.length ∧ bs.getD (x - a) 0 ≠ 0) = True := eq_true ⟨h1', h2, h3⟩
          have e2 : (a ≤ x ∧ x < a + bs.length) = True := eq_true ⟨h1', h2⟩
          simp only [e1, e2, if_true, if_neg h3, h1, h2', decide_false, Bool.false_eq_true, if_false, Option.none_or,
            Option.some_or]
      · simp [h1, h2, show a + bs.length ≤ x by omega]
  unfold Mem.byte unlisted
  rw [hfind]
  by_cases h1 : a ≤ x ∧ x < a + bs.length
  · rw [if_pos h1, if_pos h1]
    by_cases h3 : bs.getD (x - a) 0 = 0
    · have hz' := hzero.2 (.inl ⟨h1.1, h1.2, h3⟩)
      simp only [hz', if_true, h3]
    · simp only [if_neg h3]
  · rw [if_neg h1, if_neg h1]
    have hz' : rangesMem x (m.put a bs).zeroed = rangesMem x m.zeroed := by
      rw [Bool.eq_iff_iff, hzero]
      constructor
      · rintro (h | h)
        · exact absurd ⟨h.1, h.2.1⟩ h1
        · exact h.1
      · exact fun h => .inr ⟨h, h1⟩
    rw [hz']

/-! ### Scrubs and losses -/

theorem cellsOut_sorted {t : List Host.Cell} (lo hi : Nat) (h : tabSorted t = true) : tabSorted (cellsOut lo hi t) = true :=
  tabSorted_filter _ h

/-- A scrub keeps the canonical form. -/
theorem Mem.scrub_wf {m : Mem} (h : m.wf = true) (lo hi : Nat) : (m.scrub lo hi).wf = true := by
  rw [Mem.wf_iff] at h ⊢
  obtain ⟨hs, hc, hz, hm, hb⟩ := h
  refine ⟨cellsOut_sorted lo hi hs, ?_, rangesAdd_wf _ _ hz, rangesSub_wf _ _ hm, hb⟩
  intro c hc'
  have h2 := List.mem_filter.1 hc'
  refine ⟨(hc c h2.1).1, ?_⟩
  rw [Bool.eq_false_iff, ne_eq, show (m.scrub lo hi).zeroed = rangesAdd lo hi m.zeroed from rfl, rangesMem_add _ _ _ hz,
    (hc c h2.1).2]
  have h3 := h2.2
  simp only [Bool.or_eq_true, decide_eq_true_eq] at h3
  rintro (h | h)
  · omega
  · simp at h

/-- A loss keeps the canonical form. -/
theorem Mem.forget_wf {m : Mem} (h : m.wf = true) (lo hi : Nat) : (m.forget lo hi).wf = true := by
  rw [Mem.wf_iff] at h ⊢
  obtain ⟨hs, hc, hz, hm, hb⟩ := h
  refine ⟨cellsOut_sorted lo hi hs, ?_, rangesSub_wf _ _ hz, rangesSub_wf _ _ hm, hb⟩
  intro c hc'
  have h2 := List.mem_filter.1 hc'
  refine ⟨(hc c h2.1).1, ?_⟩
  rw [Bool.eq_false_iff, ne_eq, show (m.forget lo hi).zeroed = rangesSub lo hi m.zeroed from rfl, rangesMem_sub,
    (hc c h2.1).2]
  simp

theorem tabFind_cellsOut (lo hi x : Nat) (t : List Host.Cell) :
    tabFind (cellsOut lo hi t) x = if lo ≤ x ∧ x < hi then none else tabFind t x := by
  have e : cellsOut lo hi t = t.filter fun c => (fun k => decide (k < lo) || decide (hi ≤ k)) c.1 := rfl
  rw [e, tabFind_filter (fun k => decide (k < lo) || decide (hi ≤ k))]
  by_cases h : lo ≤ x ∧ x < hi
  · simp [h, show ¬ x < lo by omega]
  · have : x < lo ∨ hi ≤ x := by omega
    simp [h, this]

/-- A byte after a scrub: zero inside the range (R266). -/
theorem Mem.byte_scrub {m : Mem} (h : m.wf = true) (lo hi x : Nat) :
    (m.scrub lo hi).byte x = if lo ≤ x ∧ x < hi then some 0 else m.byte x := by
  have hz := ((Mem.wf_iff m).1 h).2.2.1
  have hzero := rangesMem_add (r := m.zeroed) lo hi x hz
  unfold Mem.byte unlisted
  rw [show (m.scrub lo hi).cells = cellsOut lo hi m.cells from rfl, tabFind_cellsOut,
    show (m.scrub lo hi).zeroed = rangesAdd lo hi m.zeroed from rfl]
  by_cases h1 : lo ≤ x ∧ x < hi
  · have := hzero.2 (.inl h1)
    simp [h1, this]
  · have : rangesMem x (rangesAdd lo hi m.zeroed) = rangesMem x m.zeroed := by
      rw [Bool.eq_iff_iff, hzero]; simp [h1]
    simp [h1, this]

/-- A byte after a loss: none inside the range. -/
theorem Mem.byte_forget (m : Mem) (lo hi x : Nat) :
    (m.forget lo hi).byte x = if lo ≤ x ∧ x < hi then none else m.byte x := by
  have hzero := rangesMem_sub m.zeroed lo hi x
  unfold Mem.byte unlisted
  rw [show (m.forget lo hi).cells = cellsOut lo hi m.cells from rfl, tabFind_cellsOut,
    show (m.forget lo hi).zeroed = rangesSub lo hi m.zeroed from rfl]
  by_cases h1 : lo ≤ x ∧ x < hi
  · have : rangesMem x (rangesSub lo hi m.zeroed) = false := by
      rw [Bool.eq_false_iff, ne_eq, hzero]; exact fun h => h.2 h1
    simp [h1, this]
  · have : rangesMem x (rangesSub lo hi m.zeroed) = rangesMem x m.zeroed := by
      rw [Bool.eq_iff_iff, hzero]; simp [h1]
    simp [h1, this]

/-! ### Merges, stores and poison -/

/-- A merge into one check word keeps the canonical form. -/
theorem Mem.merge_wf {m : Mem} (h : m.wf = true) (cw a : Nat) (bs : List Byte) : (m.merge cw a bs).1.wf = true := by
  unfold Mem.merge
  dsimp only
  split
  · exact h
  · split
    · exact h
    · exact Mem.put_wf h a bs

/-- Marks alone change: the canonical form stays. -/
theorem Mem.wf_marks {m : Mem} (h : m.wf = true) {r : Ranges} (hr : rangesWf r = true) : Mem.wf { m with marked := r } = true := by
  rw [Mem.wf_iff] at h ⊢
  exact ⟨h.1, h.2.1, h.2.2.1, hr, h.2.2.2.2⟩

/-- The marks of a memory in canonical form are in canonical form. -/
theorem Mem.marked_wf {m : Mem} (h : m.wf = true) : rangesWf m.marked = true := ((Mem.wf_iff m).1 h).2.2.2.1

/-- A replacement of whole check words keeps the canonical form. -/
theorem Mem.replace_wf {m : Mem} (h : m.wf = true) (a : Nat) (bs : List Byte) : (m.replace a bs).wf = true := by
  unfold Mem.replace
  split
  · exact h
  · exact Mem.wf_marks (Mem.put_wf h a bs) (rangesSub_wf _ _ (Mem.marked_wf h))

/-- A mark keeps the canonical form. -/
theorem Mem.mark_wf {m : Mem} (h : m.wf = true) (cw c : Nat) : (m.mark cw c).wf = true :=
  Mem.wf_marks (Mem.forget_wf h _ _) (rangesAdd_wf _ _ (Mem.marked_wf h))

/-- A store keeps the canonical form. -/
theorem Mem.store_wf {m : Mem} (h : m.wf = true) (g : Bool) (a : Nat) (bs : List Byte) : (m.store g a bs).1.wf = true := by
  have marks : ∀ (ws : List Nat) (n : Mem), n.wf = true →
      (ws.foldl (fun m w => { m with marked := rangesAdd (markFrom w) (markTo (w + checkWord g)) m.marked }) n).wf = true := by
    intro ws
    induction ws with
    | nil => exact fun n hn => hn
    | cons w ws ih => exact fun n hn => ih _ (Mem.wf_marks hn (rangesAdd_wf _ _ (Mem.marked_wf hn)))
  unfold Mem.store
  dsimp only
  exact marks _ _ (Mem.replace_wf (Mem.merge_wf (Mem.merge_wf h _ _ _) _ _ _) _ _)

/-! ### The canonical form itself -/

theorem ranges_wf (r : Ranges) : rangesWf (ranges r) = true := by
  unfold ranges
  have : ∀ t : Ranges, rangesWf t = true → rangesWf (r.foldl (fun t x => rangesAdd x.1 x.2 t) t) = true := by
    induction r with
    | nil => exact fun t h => h
    | cons x r ih => exact fun t h => ih _ (rangesAdd_wf _ _ h)
  exact this [] rfl

theorem foldl_put_wf (cells : List Host.Cell) {m : Mem} (h : m.wf = true) :
    (cells.foldl (fun m c => m.put c.1 [c.2]) m).wf = true := by
  induction cells generalizing m with
  | nil => exact h
  | cons c cells ih => exact ih (Mem.put_wf h _ _)

/-- The canonical form has the canonical form. -/
@[simp] theorem Mem.canon_wf (m : Mem) : m.canon.wf = true := by
  unfold Mem.canon
  split
  · assumption
  · apply foldl_put_wf
    rw [Mem.wf_iff]
    exact ⟨rfl, by simp, ranges_wf _, ranges_wf _, ranges_wf _⟩

/-- A memory in canonical form is its own. -/
@[simp] theorem Mem.canon_of_wf {m : Mem} (h : m.wf = true) : m.canon = m := by simp [Mem.canon, h]

end Sys2Proof.Machine
end

