-- ==== Sys2Proof/Laws/State.lean ====
section
/-! SUPPORT. What each named update of State changes: one lemma for each field and each accessor. -/

namespace Sys2Proof.Machine

variable (s : State)

/-! ### modPart -/

@[simp] theorem State.modPart_pending (n : Nat) (f : Part → Part) : (s.modPart n f).pending = s.pending := rfl
@[simp] theorem State.modPart_freshCount (n : Nat) (f : Part → Part) : (s.modPart n f).freshCount = s.freshCount := rfl
@[simp] theorem State.modPart_stamp (n : Nat) (f : Part → Part) : (s.modPart n f).stamp = s.stamp := rfl
@[simp] theorem State.modPart_out (n : Nat) (f : Part → Part) : (s.modPart n f).out = s.out := rfl
@[simp] theorem State.modPart_errs (n : Nat) (f : Part → Part) : (s.modPart n f).errs = s.errs := rfl
@[simp] theorem State.modPart_blocked (n : Nat) (f : Part → Part) : (s.modPart n f).blocked = s.blocked := rfl
@[simp] theorem State.modPart_msix (n : Nat) (f : Part → Part) : (s.modPart n f).msix = s.msix := rfl
@[simp] theorem State.modPart_pins (n : Nat) (f : Part → Part) : (s.modPart n f).pins = s.pins := rfl
@[simp] theorem State.modPart_gen (n : Nat) (f : Part → Part) : (s.modPart n f).gen = s.gen := rfl
@[simp] theorem State.modPart_otp (n : Nat) (f : Part → Part) : (s.modPart n f).otp = s.otp := rfl
@[simp] theorem State.modPart_flash (n : Nat) (f : Part → Part) : (s.modPart n f).flash = s.flash := rfl
@[simp] theorem State.modPart_tmb (n : Nat) (f : Part → Part) : (s.modPart n f).tmb = s.tmb := rfl
@[simp] theorem State.modPart_vfs (n : Nat) (f : Part → Part) : (s.modPart n f).vfs = s.vfs := rfl
@[simp] theorem State.modPart_done (n : Nat) (f : Part → Part) : (s.modPart n f).done = s.done := rfl
@[simp] theorem State.modPart_mem (n : Nat) (f : Part → Part) : (s.modPart n f).mem = s.mem := rfl
@[simp] theorem State.modPart_regions (n : Nat) (f : Part → Part) : (s.modPart n f).regions = s.regions := rfl
@[simp] theorem State.modPart_stks (n : Nat) (f : Part → Part) : (s.modPart n f).stks = s.stks := rfl
@[simp] theorem State.modPart_rereads (n : Nat) (f : Part → Part) : (s.modPart n f).rereads = s.rereads := rfl
@[simp] theorem State.modPart_hostWaits (n : Nat) (f : Part → Part) : (s.modPart n f).hostWaits = s.hostWaits := rfl
@[simp] theorem State.modPart_hdm (n : Nat) (f : Part → Part) : (s.modPart n f).hdm = s.hdm := rfl
@[simp] theorem State.modPart_vats (n : Nat) (f : Part → Part) : (s.modPart n f).vats = s.vats := rfl
@[simp] theorem State.modPart_nbes (n : Nat) (f : Part → Part) : (s.modPart n f).nbes = s.nbes := rfl
@[simp] theorem State.modPart_nbeJobs (n : Nat) (f : Part → Part) : (s.modPart n f).nbeJobs = s.nbeJobs := rfl
@[simp] theorem State.modPart_nextNbeJob (n : Nat) (f : Part → Part) : (s.modPart n f).nextNbeJob = s.nextNbeJob := rfl
@[simp] theorem State.modPart_jobs (n : Nat) (f : Part → Part) : (s.modPart n f).jobs = s.jobs := rfl
@[simp] theorem State.modPart_nextJob (n : Nat) (f : Part → Part) : (s.modPart n f).nextJob = s.nextJob := rfl
@[simp] theorem State.modPart_srvs (n : Nat) (f : Part → Part) : (s.modPart n f).srvs = s.srvs := rfl
@[simp] theorem State.modPart_queues (n : Nat) (f : Part → Part) : (s.modPart n f).queues = s.queues := rfl
@[simp] theorem State.modPart_queuesNow (n : Nat) (f : Part → Part) : (s.modPart n f).queuesNow = s.queuesNow := rfl
@[simp] theorem State.modPart_ports (n : Nat) (f : Part → Part) : (s.modPart n f).ports = s.ports := rfl
@[simp] theorem State.modPart_pwr (n : Nat) (f : Part → Part) : (s.modPart n f).pwr = s.pwr := rfl
@[simp] theorem State.modPart_thm (n : Nat) (f : Part → Part) : (s.modPart n f).thm = s.thm := rfl
@[simp] theorem State.modPart_err (n : Nat) (f : Part → Part) : (s.modPart n f).err = s.err := rfl
@[simp] theorem State.modPart_sec (n : Nat) (f : Part → Part) : (s.modPart n f).sec = s.sec := rfl
@[simp] theorem State.modPart_mgt (n : Nat) (f : Part → Part) : (s.modPart n f).mgt = s.mgt := rfl
@[simp] theorem State.modPart_evc (n : Nat) (f : Part → Part) : (s.modPart n f).evc = s.evc := rfl
@[simp] theorem State.modPart_tst (n : Nat) (f : Part → Part) : (s.modPart n f).tst = s.tst := rfl
@[simp] theorem State.modPart_vf (n : Nat) (f : Part → Part) (m : Nat) : (s.modPart n f).vf m = s.vf m := rfl
@[simp] theorem State.modPart_ring (n : Nat) (f : Part → Part) (m q : Nat) : (s.modPart n f).ring m q = s.ring m q := rfl
@[simp] theorem State.modPart_vat (n : Nat) (f : Part → Part) (w : Nat) : (s.modPart n f).vat w = s.vat w := rfl
@[simp] theorem State.modPart_nbe (n : Nat) (f : Part → Part) (j : Nat) : (s.modPart n f).nbe j = s.nbe j := rfl
@[simp] theorem State.modPart_port (n : Nat) (f : Part → Part) (q : Nat) : (s.modPart n f).port q = s.port q := rfl
@[simp] theorem State.modPart_stk (n : Nat) (f : Part → Part) (j : Nat) : (s.modPart n f).stk j = s.stk j := rfl
@[simp] theorem State.modPart_region (n : Nat) (f : Part → Part) (j : Nat) : (s.modPart n f).region j = s.region j := rfl
@[simp] theorem State.modPart_slot (n : Nat) (f : Part → Part) (j : Nat) : (s.modPart n f).slot j = s.slot j := rfl
@[simp] theorem State.modPart_sensor (n : Nat) (f : Part → Part) (j : Nat) : (s.modPart n f).sensor j = s.sensor j := rfl
@[simp] theorem State.modPart_vpoint (n : Nat) (f : Part → Part) (j : Nat) : (s.modPart n f).vpoint j = s.vpoint j := rfl
@[simp] theorem State.modPart_evq (n : Nat) (f : Part → Part) (j : Nat) : (s.modPart n f).evq j = s.evq j := rfl
@[simp] theorem State.modPart_srv (n : Nat) (f : Part → Part) (m : Nat) : (s.modPart n f).srv m = s.srv m := rfl
@[simp] theorem State.modPart_msixOf (n : Nat) (f : Part → Part) (j : Nat) : (s.modPart n f).msixOf j = s.msixOf j := rfl

/-! ### modVf -/

@[simp] theorem State.modVf_pending (n : Nat) (f : Vf → Vf) : (s.modVf n f).pending = s.pending := rfl
@[simp] theorem State.modVf_freshCount (n : Nat) (f : Vf → Vf) : (s.modVf n f).freshCount = s.freshCount := rfl
@[simp] theorem State.modVf_stamp (n : Nat) (f : Vf → Vf) : (s.modVf n f).stamp = s.stamp := rfl
@[simp] theorem State.modVf_out (n : Nat) (f : Vf → Vf) : (s.modVf n f).out = s.out := rfl
@[simp] theorem State.modVf_errs (n : Nat) (f : Vf → Vf) : (s.modVf n f).errs = s.errs := rfl
@[simp] theorem State.modVf_blocked (n : Nat) (f : Vf → Vf) : (s.modVf n f).blocked = s.blocked := rfl
@[simp] theorem State.modVf_msix (n : Nat) (f : Vf → Vf) : (s.modVf n f).msix = s.msix := rfl
@[simp] theorem State.modVf_pins (n : Nat) (f : Vf → Vf) : (s.modVf n f).pins = s.pins := rfl
@[simp] theorem State.modVf_gen (n : Nat) (f : Vf → Vf) : (s.modVf n f).gen = s.gen := rfl
@[simp] theorem State.modVf_otp (n : Nat) (f : Vf → Vf) : (s.modVf n f).otp = s.otp := rfl
@[simp] theorem State.modVf_flash (n : Nat) (f : Vf → Vf) : (s.modVf n f).flash = s.flash := rfl
@[simp] theorem State.modVf_tmb (n : Nat) (f : Vf → Vf) : (s.modVf n f).tmb = s.tmb := rfl
@[simp] theorem State.modVf_parts (n : Nat) (f : Vf → Vf) : (s.modVf n f).parts = s.parts := rfl
@[simp] theorem State.modVf_done (n : Nat) (f : Vf → Vf) : (s.modVf n f).done = s.done := rfl
@[simp] theorem State.modVf_mem (n : Nat) (f : Vf → Vf) : (s.modVf n f).mem = s.mem := rfl
@[simp] theorem State.modVf_regions (n : Nat) (f : Vf → Vf) : (s.modVf n f).regions = s.regions := rfl
@[simp] theorem State.modVf_stks (n : Nat) (f : Vf → Vf) : (s.modVf n f).stks = s.stks := rfl
@[simp] theorem State.modVf_rereads (n : Nat) (f : Vf → Vf) : (s.modVf n f).rereads = s.rereads := rfl
@[simp] theorem State.modVf_hostWaits (n : Nat) (f : Vf → Vf) : (s.modVf n f).hostWaits = s.hostWaits := rfl
@[simp] theorem State.modVf_hdm (n : Nat) (f : Vf → Vf) : (s.modVf n f).hdm = s.hdm := rfl
@[simp] theorem State.modVf_vats (n : Nat) (f : Vf → Vf) : (s.modVf n f).vats = s.vats := rfl
@[simp] theorem State.modVf_nbes (n : Nat) (f : Vf → Vf) : (s.modVf n f).nbes = s.nbes := rfl
@[simp] theorem State.modVf_nbeJobs (n : Nat) (f : Vf → Vf) : (s.modVf n f).nbeJobs = s.nbeJobs := rfl
@[simp] theorem State.modVf_nextNbeJob (n : Nat) (f : Vf → Vf) : (s.modVf n f).nextNbeJob = s.nextNbeJob := rfl
@[simp] theorem State.modVf_jobs (n : Nat) (f : Vf → Vf) : (s.modVf n f).jobs = s.jobs := rfl
@[simp] theorem State.modVf_nextJob (n : Nat) (f : Vf → Vf) : (s.modVf n f).nextJob = s.nextJob := rfl
@[simp] theorem State.modVf_srvs (n : Nat) (f : Vf → Vf) : (s.modVf n f).srvs = s.srvs := rfl
@[simp] theorem State.modVf_queues (n : Nat) (f : Vf → Vf) : (s.modVf n f).queues = s.queues := rfl
@[simp] theorem State.modVf_queuesNow (n : Nat) (f : Vf → Vf) : (s.modVf n f).queuesNow = s.queuesNow := rfl
@[simp] theorem State.modVf_ports (n : Nat) (f : Vf → Vf) : (s.modVf n f).ports = s.ports := rfl
@[simp] theorem State.modVf_pwr (n : Nat) (f : Vf → Vf) : (s.modVf n f).pwr = s.pwr := rfl
@[simp] theorem State.modVf_thm (n : Nat) (f : Vf → Vf) : (s.modVf n f).thm = s.thm := rfl
@[simp] theorem State.modVf_err (n : Nat) (f : Vf → Vf) : (s.modVf n f).err = s.err := rfl
@[simp] theorem State.modVf_sec (n : Nat) (f : Vf → Vf) : (s.modVf n f).sec = s.sec := rfl
@[simp] theorem State.modVf_mgt (n : Nat) (f : Vf → Vf) : (s.modVf n f).mgt = s.mgt := rfl
@[simp] theorem State.modVf_evc (n : Nat) (f : Vf → Vf) : (s.modVf n f).evc = s.evc := rfl
@[simp] theorem State.modVf_tst (n : Nat) (f : Vf → Vf) : (s.modVf n f).tst = s.tst := rfl
@[simp] theorem State.modVf_part (n : Nat) (f : Vf → Vf) (m : Nat) : (s.modVf n f).part m = s.part m := rfl
@[simp] theorem State.modVf_vat (n : Nat) (f : Vf → Vf) (w : Nat) : (s.modVf n f).vat w = s.vat w := rfl
@[simp] theorem State.modVf_nbe (n : Nat) (f : Vf → Vf) (j : Nat) : (s.modVf n f).nbe j = s.nbe j := rfl
@[simp] theorem State.modVf_port (n : Nat) (f : Vf → Vf) (q : Nat) : (s.modVf n f).port q = s.port q := rfl
@[simp] theorem State.modVf_stk (n : Nat) (f : Vf → Vf) (j : Nat) : (s.modVf n f).stk j = s.stk j := rfl
@[simp] theorem State.modVf_region (n : Nat) (f : Vf → Vf) (j : Nat) : (s.modVf n f).region j = s.region j := rfl
@[simp] theorem State.modVf_slot (n : Nat) (f : Vf → Vf) (j : Nat) : (s.modVf n f).slot j = s.slot j := rfl
@[simp] theorem State.modVf_sensor (n : Nat) (f : Vf → Vf) (j : Nat) : (s.modVf n f).sensor j = s.sensor j := rfl
@[simp] theorem State.modVf_vpoint (n : Nat) (f : Vf → Vf) (j : Nat) : (s.modVf n f).vpoint j = s.vpoint j := rfl
@[simp] theorem State.modVf_evq (n : Nat) (f : Vf → Vf) (j : Nat) : (s.modVf n f).evq j = s.evq j := rfl
@[simp] theorem State.modVf_srv (n : Nat) (f : Vf → Vf) (m : Nat) : (s.modVf n f).srv m = s.srv m := rfl
@[simp] theorem State.modVf_msixOf (n : Nat) (f : Vf → Vf) (j : Nat) : (s.modVf n f).msixOf j = s.msixOf j := rfl

/-! ### modRing -/

@[simp] theorem State.modRing_pending (n r : Nat) (f : Ring → Ring) : (s.modRing n r f).pending = s.pending := rfl
@[simp] theorem State.modRing_freshCount (n r : Nat) (f : Ring → Ring) : (s.modRing n r f).freshCount = s.freshCount := rfl
@[simp] theorem State.modRing_stamp (n r : Nat) (f : Ring → Ring) : (s.modRing n r f).stamp = s.stamp := rfl
@[simp] theorem State.modRing_out (n r : Nat) (f : Ring → Ring) : (s.modRing n r f).out = s.out := rfl
@[simp] theorem State.modRing_errs (n r : Nat) (f : Ring → Ring) : (s.modRing n r f).errs = s.errs := rfl
@[simp] theorem State.modRing_blocked (n r : Nat) (f : Ring → Ring) : (s.modRing n r f).blocked = s.blocked := rfl
@[simp] theorem State.modRing_msix (n r : Nat) (f : Ring → Ring) : (s.modRing n r f).msix = s.msix := rfl
@[simp] theorem State.modRing_pins (n r : Nat) (f : Ring → Ring) : (s.modRing n r f).pins = s.pins := rfl
@[simp] theorem State.modRing_gen (n r : Nat) (f : Ring → Ring) : (s.modRing n r f).gen = s.gen := rfl
@[simp] theorem State.modRing_otp (n r : Nat) (f : Ring → Ring) : (s.modRing n r f).otp = s.otp := rfl
@[simp] theorem State.modRing_flash (n r : Nat) (f : Ring → Ring) : (s.modRing n r f).flash = s.flash := rfl
@[simp] theorem State.modRing_tmb (n r : Nat) (f : Ring → Ring) : (s.modRing n r f).tmb = s.tmb := rfl
@[simp] theorem State.modRing_parts (n r : Nat) (f : Ring → Ring) : (s.modRing n r f).parts = s.parts := rfl
@[simp] theorem State.modRing_done (n r : Nat) (f : Ring → Ring) : (s.modRing n r f).done = s.done := rfl
@[simp] theorem State.modRing_mem (n r : Nat) (f : Ring → Ring) : (s.modRing n r f).mem = s.mem := rfl
@[simp] theorem State.modRing_regions (n r : Nat) (f : Ring → Ring) : (s.modRing n r f).regions = s.regions := rfl
@[simp] theorem State.modRing_stks (n r : Nat) (f : Ring → Ring) : (s.modRing n r f).stks = s.stks := rfl
@[simp] theorem State.modRing_rereads (n r : Nat) (f : Ring → Ring) : (s.modRing n r f).rereads = s.rereads := rfl
@[simp] theorem State.modRing_hostWaits (n r : Nat) (f : Ring → Ring) : (s.modRing n r f).hostWaits = s.hostWaits := rfl
@[simp] theorem State.modRing_hdm (n r : Nat) (f : Ring → Ring) : (s.modRing n r f).hdm = s.hdm := rfl
@[simp] theorem State.modRing_vats (n r : Nat) (f : Ring → Ring) : (s.modRing n r f).vats = s.vats := rfl
@[simp] theorem State.modRing_nbes (n r : Nat) (f : Ring → Ring) : (s.modRing n r f).nbes = s.nbes := rfl
@[simp] theorem State.modRing_nbeJobs (n r : Nat) (f : Ring → Ring) : (s.modRing n r f).nbeJobs = s.nbeJobs := rfl
@[simp] theorem State.modRing_nextNbeJob (n r : Nat) (f : Ring → Ring) : (s.modRing n r f).nextNbeJob = s.nextNbeJob := rfl
@[simp] theorem State.modRing_jobs (n r : Nat) (f : Ring → Ring) : (s.modRing n r f).jobs = s.jobs := rfl
@[simp] theorem State.modRing_nextJob (n r : Nat) (f : Ring → Ring) : (s.modRing n r f).nextJob = s.nextJob := rfl
@[simp] theorem State.modRing_srvs (n r : Nat) (f : Ring → Ring) : (s.modRing n r f).srvs = s.srvs := rfl
@[simp] theorem State.modRing_queues (n r : Nat) (f : Ring → Ring) : (s.modRing n r f).queues = s.queues := rfl
@[simp] theorem State.modRing_queuesNow (n r : Nat) (f : Ring → Ring) : (s.modRing n r f).queuesNow = s.queuesNow := rfl
@[simp] theorem State.modRing_ports (n r : Nat) (f : Ring → Ring) : (s.modRing n r f).ports = s.ports := rfl
@[simp] theorem State.modRing_pwr (n r : Nat) (f : Ring → Ring) : (s.modRing n r f).pwr = s.pwr := rfl
@[simp] theorem State.modRing_thm (n r : Nat) (f : Ring → Ring) : (s.modRing n r f).thm = s.thm := rfl
@[simp] theorem State.modRing_err (n r : Nat) (f : Ring → Ring) : (s.modRing n r f).err = s.err := rfl
@[simp] theorem State.modRing_sec (n r : Nat) (f : Ring → Ring) : (s.modRing n r f).sec = s.sec := rfl
@[simp] theorem State.modRing_mgt (n r : Nat) (f : Ring → Ring) : (s.modRing n r f).mgt = s.mgt := rfl
@[simp] theorem State.modRing_evc (n r : Nat) (f : Ring → Ring) : (s.modRing n r f).evc = s.evc := rfl
@[simp] theorem State.modRing_tst (n r : Nat) (f : Ring → Ring) : (s.modRing n r f).tst = s.tst := rfl
@[simp] theorem State.modRing_part (n r : Nat) (f : Ring → Ring) (m : Nat) : (s.modRing n r f).part m = s.part m := rfl
@[simp] theorem State.modRing_vat (n r : Nat) (f : Ring → Ring) (w : Nat) : (s.modRing n r f).vat w = s.vat w := rfl
@[simp] theorem State.modRing_nbe (n r : Nat) (f : Ring → Ring) (j : Nat) : (s.modRing n r f).nbe j = s.nbe j := rfl
@[simp] theorem State.modRing_port (n r : Nat) (f : Ring → Ring) (q : Nat) : (s.modRing n r f).port q = s.port q := rfl
@[simp] theorem State.modRing_stk (n r : Nat) (f : Ring → Ring) (j : Nat) : (s.modRing n r f).stk j = s.stk j := rfl
@[simp] theorem State.modRing_region (n r : Nat) (f : Ring → Ring) (j : Nat) : (s.modRing n r f).region j = s.region j := rfl
@[simp] theorem State.modRing_slot (n r : Nat) (f : Ring → Ring) (j : Nat) : (s.modRing n r f).slot j = s.slot j := rfl
@[simp] theorem State.modRing_sensor (n r : Nat) (f : Ring → Ring) (j : Nat) : (s.modRing n r f).sensor j = s.sensor j := rfl
@[simp] theorem State.modRing_vpoint (n r : Nat) (f : Ring → Ring) (j : Nat) : (s.modRing n r f).vpoint j = s.vpoint j := rfl
@[simp] theorem State.modRing_evq (n r : Nat) (f : Ring → Ring) (j : Nat) : (s.modRing n r f).evq j = s.evq j := rfl
@[simp] theorem State.modRing_srv (n r : Nat) (f : Ring → Ring) (m : Nat) : (s.modRing n r f).srv m = s.srv m := rfl
@[simp] theorem State.modRing_msixOf (n r : Nat) (f : Ring → Ring) (j : Nat) : (s.modRing n r f).msixOf j = s.msixOf j := rfl

/-! ### modVat -/

@[simp] theorem State.modVat_pending (v : Nat) (f : Vat → Vat) : (s.modVat v f).pending = s.pending := rfl
@[simp] theorem State.modVat_freshCount (v : Nat) (f : Vat → Vat) : (s.modVat v f).freshCount = s.freshCount := rfl
@[simp] theorem State.modVat_stamp (v : Nat) (f : Vat → Vat) : (s.modVat v f).stamp = s.stamp := rfl
@[simp] theorem State.modVat_out (v : Nat) (f : Vat → Vat) : (s.modVat v f).out = s.out := rfl
@[simp] theorem State.modVat_errs (v : Nat) (f : Vat → Vat) : (s.modVat v f).errs = s.errs := rfl
@[simp] theorem State.modVat_blocked (v : Nat) (f : Vat → Vat) : (s.modVat v f).blocked = s.blocked := rfl
@[simp] theorem State.modVat_msix (v : Nat) (f : Vat → Vat) : (s.modVat v f).msix = s.msix := rfl
@[simp] theorem State.modVat_pins (v : Nat) (f : Vat → Vat) : (s.modVat v f).pins = s.pins := rfl
@[simp] theorem State.modVat_gen (v : Nat) (f : Vat → Vat) : (s.modVat v f).gen = s.gen := rfl
@[simp] theorem State.modVat_otp (v : Nat) (f : Vat → Vat) : (s.modVat v f).otp = s.otp := rfl
@[simp] theorem State.modVat_flash (v : Nat) (f : Vat → Vat) : (s.modVat v f).flash = s.flash := rfl
@[simp] theorem State.modVat_tmb (v : Nat) (f : Vat → Vat) : (s.modVat v f).tmb = s.tmb := rfl
@[simp] theorem State.modVat_parts (v : Nat) (f : Vat → Vat) : (s.modVat v f).parts = s.parts := rfl
@[simp] theorem State.modVat_vfs (v : Nat) (f : Vat → Vat) : (s.modVat v f).vfs = s.vfs := rfl
@[simp] theorem State.modVat_done (v : Nat) (f : Vat → Vat) : (s.modVat v f).done = s.done := rfl
@[simp] theorem State.modVat_mem (v : Nat) (f : Vat → Vat) : (s.modVat v f).mem = s.mem := rfl
@[simp] theorem State.modVat_regions (v : Nat) (f : Vat → Vat) : (s.modVat v f).regions = s.regions := rfl
@[simp] theorem State.modVat_stks (v : Nat) (f : Vat → Vat) : (s.modVat v f).stks = s.stks := rfl
@[simp] theorem State.modVat_rereads (v : Nat) (f : Vat → Vat) : (s.modVat v f).rereads = s.rereads := rfl
@[simp] theorem State.modVat_hostWaits (v : Nat) (f : Vat → Vat) : (s.modVat v f).hostWaits = s.hostWaits := rfl
@[simp] theorem State.modVat_hdm (v : Nat) (f : Vat → Vat) : (s.modVat v f).hdm = s.hdm := rfl
@[simp] theorem State.modVat_nbes (v : Nat) (f : Vat → Vat) : (s.modVat v f).nbes = s.nbes := rfl
@[simp] theorem State.modVat_nbeJobs (v : Nat) (f : Vat → Vat) : (s.modVat v f).nbeJobs = s.nbeJobs := rfl
@[simp] theorem State.modVat_nextNbeJob (v : Nat) (f : Vat → Vat) : (s.modVat v f).nextNbeJob = s.nextNbeJob := rfl
@[simp] theorem State.modVat_jobs (v : Nat) (f : Vat → Vat) : (s.modVat v f).jobs = s.jobs := rfl
@[simp] theorem State.modVat_nextJob (v : Nat) (f : Vat → Vat) : (s.modVat v f).nextJob = s.nextJob := rfl
@[simp] theorem State.modVat_srvs (v : Nat) (f : Vat → Vat) : (s.modVat v f).srvs = s.srvs := rfl
@[simp] theorem State.modVat_queues (v : Nat) (f : Vat → Vat) : (s.modVat v f).queues = s.queues := rfl
@[simp] theorem State.modVat_queuesNow (v : Nat) (f : Vat → Vat) : (s.modVat v f).queuesNow = s.queuesNow := rfl
@[simp] theorem State.modVat_ports (v : Nat) (f : Vat → Vat) : (s.modVat v f).ports = s.ports := rfl
@[simp] theorem State.modVat_pwr (v : Nat) (f : Vat → Vat) : (s.modVat v f).pwr = s.pwr := rfl
@[simp] theorem State.modVat_thm (v : Nat) (f : Vat → Vat) : (s.modVat v f).thm = s.thm := rfl
@[simp] theorem State.modVat_err (v : Nat) (f : Vat → Vat) : (s.modVat v f).err = s.err := rfl
@[simp] theorem State.modVat_sec (v : Nat) (f : Vat → Vat) : (s.modVat v f).sec = s.sec := rfl
@[simp] theorem State.modVat_mgt (v : Nat) (f : Vat → Vat) : (s.modVat v f).mgt = s.mgt := rfl
@[simp] theorem State.modVat_evc (v : Nat) (f : Vat → Vat) : (s.modVat v f).evc = s.evc := rfl
@[simp] theorem State.modVat_tst (v : Nat) (f : Vat → Vat) : (s.modVat v f).tst = s.tst := rfl
@[simp] theorem State.modVat_part (v : Nat) (f : Vat → Vat) (m : Nat) : (s.modVat v f).part m = s.part m := rfl
@[simp] theorem State.modVat_vf (v : Nat) (f : Vat → Vat) (m : Nat) : (s.modVat v f).vf m = s.vf m := rfl
@[simp] theorem State.modVat_ring (v : Nat) (f : Vat → Vat) (m q : Nat) : (s.modVat v f).ring m q = s.ring m q := rfl
@[simp] theorem State.modVat_nbe (v : Nat) (f : Vat → Vat) (j : Nat) : (s.modVat v f).nbe j = s.nbe j := rfl
@[simp] theorem State.modVat_port (v : Nat) (f : Vat → Vat) (q : Nat) : (s.modVat v f).port q = s.port q := rfl
@[simp] theorem State.modVat_stk (v : Nat) (f : Vat → Vat) (j : Nat) : (s.modVat v f).stk j = s.stk j := rfl
@[simp] theorem State.modVat_region (v : Nat) (f : Vat → Vat) (j : Nat) : (s.modVat v f).region j = s.region j := rfl
@[simp] theorem State.modVat_slot (v : Nat) (f : Vat → Vat) (j : Nat) : (s.modVat v f).slot j = s.slot j := rfl
@[simp] theorem State.modVat_sensor (v : Nat) (f : Vat → Vat) (j : Nat) : (s.modVat v f).sensor j = s.sensor j := rfl
@[simp] theorem State.modVat_vpoint (v : Nat) (f : Vat → Vat) (j : Nat) : (s.modVat v f).vpoint j = s.vpoint j := rfl
@[simp] theorem State.modVat_evq (v : Nat) (f : Vat → Vat) (j : Nat) : (s.modVat v f).evq j = s.evq j := rfl
@[simp] theorem State.modVat_srv (v : Nat) (f : Vat → Vat) (m : Nat) : (s.modVat v f).srv m = s.srv m := rfl
@[simp] theorem State.modVat_msixOf (v : Nat) (f : Vat → Vat) (j : Nat) : (s.modVat v f).msixOf j = s.msixOf j := rfl

/-! ### modNbe -/

@[simp] theorem State.modNbe_pending (k : Nat) (f : Nbe → Nbe) : (s.modNbe k f).pending = s.pending := rfl
@[simp] theorem State.modNbe_freshCount (k : Nat) (f : Nbe → Nbe) : (s.modNbe k f).freshCount = s.freshCount := rfl
@[simp] theorem State.modNbe_stamp (k : Nat) (f : Nbe → Nbe) : (s.modNbe k f).stamp = s.stamp := rfl
@[simp] theorem State.modNbe_out (k : Nat) (f : Nbe → Nbe) : (s.modNbe k f).out = s.out := rfl
@[simp] theorem State.modNbe_errs (k : Nat) (f : Nbe → Nbe) : (s.modNbe k f).errs = s.errs := rfl
@[simp] theorem State.modNbe_blocked (k : Nat) (f : Nbe → Nbe) : (s.modNbe k f).blocked = s.blocked := rfl
@[simp] theorem State.modNbe_msix (k : Nat) (f : Nbe → Nbe) : (s.modNbe k f).msix = s.msix := rfl
@[simp] theorem State.modNbe_pins (k : Nat) (f : Nbe → Nbe) : (s.modNbe k f).pins = s.pins := rfl
@[simp] theorem State.modNbe_gen (k : Nat) (f : Nbe → Nbe) : (s.modNbe k f).gen = s.gen := rfl
@[simp] theorem State.modNbe_otp (k : Nat) (f : Nbe → Nbe) : (s.modNbe k f).otp = s.otp := rfl
@[simp] theorem State.modNbe_flash (k : Nat) (f : Nbe → Nbe) : (s.modNbe k f).flash = s.flash := rfl
@[simp] theorem State.modNbe_tmb (k : Nat) (f : Nbe → Nbe) : (s.modNbe k f).tmb = s.tmb := rfl
@[simp] theorem State.modNbe_parts (k : Nat) (f : Nbe → Nbe) : (s.modNbe k f).parts = s.parts := rfl
@[simp] theorem State.modNbe_vfs (k : Nat) (f : Nbe → Nbe) : (s.modNbe k f).vfs = s.vfs := rfl
@[simp] theorem State.modNbe_done (k : Nat) (f : Nbe → Nbe) : (s.modNbe k f).done = s.done := rfl
@[simp] theorem State.modNbe_mem (k : Nat) (f : Nbe → Nbe) : (s.modNbe k f).mem = s.mem := rfl
@[simp] theorem State.modNbe_regions (k : Nat) (f : Nbe → Nbe) : (s.modNbe k f).regions = s.regions := rfl
@[simp] theorem State.modNbe_stks (k : Nat) (f : Nbe → Nbe) : (s.modNbe k f).stks = s.stks := rfl
@[simp] theorem State.modNbe_rereads (k : Nat) (f : Nbe → Nbe) : (s.modNbe k f).rereads = s.rereads := rfl
@[simp] theorem State.modNbe_hostWaits (k : Nat) (f : Nbe → Nbe) : (s.modNbe k f).hostWaits = s.hostWaits := rfl
@[simp] theorem State.modNbe_hdm (k : Nat) (f : Nbe → Nbe) : (s.modNbe k f).hdm = s.hdm := rfl
@[simp] theorem State.modNbe_vats (k : Nat) (f : Nbe → Nbe) : (s.modNbe k f).vats = s.vats := rfl
@[simp] theorem State.modNbe_nbeJobs (k : Nat) (f : Nbe → Nbe) : (s.modNbe k f).nbeJobs = s.nbeJobs := rfl
@[simp] theorem State.modNbe_nextNbeJob (k : Nat) (f : Nbe → Nbe) : (s.modNbe k f).nextNbeJob = s.nextNbeJob := rfl
@[simp] theorem State.modNbe_jobs (k : Nat) (f : Nbe → Nbe) : (s.modNbe k f).jobs = s.jobs := rfl
@[simp] theorem State.modNbe_nextJob (k : Nat) (f : Nbe → Nbe) : (s.modNbe k f).nextJob = s.nextJob := rfl
@[simp] theorem State.modNbe_srvs (k : Nat) (f : Nbe → Nbe) : (s.modNbe k f).srvs = s.srvs := rfl
@[simp] theorem State.modNbe_queues (k : Nat) (f : Nbe → Nbe) : (s.modNbe k f).queues = s.queues := rfl
@[simp] theorem State.modNbe_queuesNow (k : Nat) (f : Nbe → Nbe) : (s.modNbe k f).queuesNow = s.queuesNow := rfl
@[simp] theorem State.modNbe_ports (k : Nat) (f : Nbe → Nbe) : (s.modNbe k f).ports = s.ports := rfl
@[simp] theorem State.modNbe_pwr (k : Nat) (f : Nbe → Nbe) : (s.modNbe k f).pwr = s.pwr := rfl
@[simp] theorem State.modNbe_thm (k : Nat) (f : Nbe → Nbe) : (s.modNbe k f).thm = s.thm := rfl
@[simp] theorem State.modNbe_err (k : Nat) (f : Nbe → Nbe) : (s.modNbe k f).err = s.err := rfl
@[simp] theorem State.modNbe_sec (k : Nat) (f : Nbe → Nbe) : (s.modNbe k f).sec = s.sec := rfl
@[simp] theorem State.modNbe_mgt (k : Nat) (f : Nbe → Nbe) : (s.modNbe k f).mgt = s.mgt := rfl
@[simp] theorem State.modNbe_evc (k : Nat) (f : Nbe → Nbe) : (s.modNbe k f).evc = s.evc := rfl
@[simp] theorem State.modNbe_tst (k : Nat) (f : Nbe → Nbe) : (s.modNbe k f).tst = s.tst := rfl
@[simp] theorem State.modNbe_part (k : Nat) (f : Nbe → Nbe) (m : Nat) : (s.modNbe k f).part m = s.part m := rfl
@[simp] theorem State.modNbe_vf (k : Nat) (f : Nbe → Nbe) (m : Nat) : (s.modNbe k f).vf m = s.vf m := rfl
@[simp] theorem State.modNbe_ring (k : Nat) (f : Nbe → Nbe) (m q : Nat) : (s.modNbe k f).ring m q = s.ring m q := rfl
@[simp] theorem State.modNbe_vat (k : Nat) (f : Nbe → Nbe) (w : Nat) : (s.modNbe k f).vat w = s.vat w := rfl
@[simp] theorem State.modNbe_port (k : Nat) (f : Nbe → Nbe) (q : Nat) : (s.modNbe k f).port q = s.port q := rfl
@[simp] theorem State.modNbe_stk (k : Nat) (f : Nbe → Nbe) (j : Nat) : (s.modNbe k f).stk j = s.stk j := rfl
@[simp] theorem State.modNbe_region (k : Nat) (f : Nbe → Nbe) (j : Nat) : (s.modNbe k f).region j = s.region j := rfl
@[simp] theorem State.modNbe_slot (k : Nat) (f : Nbe → Nbe) (j : Nat) : (s.modNbe k f).slot j = s.slot j := rfl
@[simp] theorem State.modNbe_sensor (k : Nat) (f : Nbe → Nbe) (j : Nat) : (s.modNbe k f).sensor j = s.sensor j := rfl
@[simp] theorem State.modNbe_vpoint (k : Nat) (f : Nbe → Nbe) (j : Nat) : (s.modNbe k f).vpoint j = s.vpoint j := rfl
@[simp] theorem State.modNbe_evq (k : Nat) (f : Nbe → Nbe) (j : Nat) : (s.modNbe k f).evq j = s.evq j := rfl
@[simp] theorem State.modNbe_srv (k : Nat) (f : Nbe → Nbe) (m : Nat) : (s.modNbe k f).srv m = s.srv m := rfl
@[simp] theorem State.modNbe_msixOf (k : Nat) (f : Nbe → Nbe) (j : Nat) : (s.modNbe k f).msixOf j = s.msixOf j := rfl

/-! ### modPort -/

@[simp] theorem State.modPort_pending (p : Nat) (f : Port → Port) : (s.modPort p f).pending = s.pending := rfl
@[simp] theorem State.modPort_freshCount (p : Nat) (f : Port → Port) : (s.modPort p f).freshCount = s.freshCount := rfl
@[simp] theorem State.modPort_stamp (p : Nat) (f : Port → Port) : (s.modPort p f).stamp = s.stamp := rfl
@[simp] theorem State.modPort_out (p : Nat) (f : Port → Port) : (s.modPort p f).out = s.out := rfl
@[simp] theorem State.modPort_errs (p : Nat) (f : Port → Port) : (s.modPort p f).errs = s.errs := rfl
@[simp] theorem State.modPort_blocked (p : Nat) (f : Port → Port) : (s.modPort p f).blocked = s.blocked := rfl
@[simp] theorem State.modPort_msix (p : Nat) (f : Port → Port) : (s.modPort p f).msix = s.msix := rfl
@[simp] theorem State.modPort_pins (p : Nat) (f : Port → Port) : (s.modPort p f).pins = s.pins := rfl
@[simp] theorem State.modPort_gen (p : Nat) (f : Port → Port) : (s.modPort p f).gen = s.gen := rfl
@[simp] theorem State.modPort_otp (p : Nat) (f : Port → Port) : (s.modPort p f).otp = s.otp := rfl
@[simp] theorem State.modPort_flash (p : Nat) (f : Port → Port) : (s.modPort p f).flash = s.flash := rfl
@[simp] theorem State.modPort_tmb (p : Nat) (f : Port → Port) : (s.modPort p f).tmb = s.tmb := rfl
@[simp] theorem State.modPort_parts (p : Nat) (f : Port → Port) : (s.modPort p f).parts = s.parts := rfl
@[simp] theorem State.modPort_vfs (p : Nat) (f : Port → Port) : (s.modPort p f).vfs = s.vfs := rfl
@[simp] theorem State.modPort_done (p : Nat) (f : Port → Port) : (s.modPort p f).done = s.done := rfl
@[simp] theorem State.modPort_mem (p : Nat) (f : Port → Port) : (s.modPort p f).mem = s.mem := rfl
@[simp] theorem State.modPort_regions (p : Nat) (f : Port → Port) : (s.modPort p f).regions = s.regions := rfl
@[simp] theorem State.modPort_stks (p : Nat) (f : Port → Port) : (s.modPort p f).stks = s.stks := rfl
@[simp] theorem State.modPort_rereads (p : Nat) (f : Port → Port) : (s.modPort p f).rereads = s.rereads := rfl
@[simp] theorem State.modPort_hostWaits (p : Nat) (f : Port → Port) : (s.modPort p f).hostWaits = s.hostWaits := rfl
@[simp] theorem State.modPort_hdm (p : Nat) (f : Port → Port) : (s.modPort p f).hdm = s.hdm := rfl
@[simp] theorem State.modPort_vats (p : Nat) (f : Port → Port) : (s.modPort p f).vats = s.vats := rfl
@[simp] theorem State.modPort_nbes (p : Nat) (f : Port → Port) : (s.modPort p f).nbes = s.nbes := rfl
@[simp] theorem State.modPort_nbeJobs (p : Nat) (f : Port → Port) : (s.modPort p f).nbeJobs = s.nbeJobs := rfl
@[simp] theorem State.modPort_nextNbeJob (p : Nat) (f : Port → Port) : (s.modPort p f).nextNbeJob = s.nextNbeJob := rfl
@[simp] theorem State.modPort_jobs (p : Nat) (f : Port → Port) : (s.modPort p f).jobs = s.jobs := rfl
@[simp] theorem State.modPort_nextJob (p : Nat) (f : Port → Port) : (s.modPort p f).nextJob = s.nextJob := rfl
@[simp] theorem State.modPort_srvs (p : Nat) (f : Port → Port) : (s.modPort p f).srvs = s.srvs := rfl
@[simp] theorem State.modPort_queues (p : Nat) (f : Port → Port) : (s.modPort p f).queues = s.queues := rfl
@[simp] theorem State.modPort_queuesNow (p : Nat) (f : Port → Port) : (s.modPort p f).queuesNow = s.queuesNow := rfl
@[simp] theorem State.modPort_pwr (p : Nat) (f : Port → Port) : (s.modPort p f).pwr = s.pwr := rfl
@[simp] theorem State.modPort_thm (p : Nat) (f : Port → Port) : (s.modPort p f).thm = s.thm := rfl
@[simp] theorem State.modPort_err (p : Nat) (f : Port → Port) : (s.modPort p f).err = s.err := rfl
@[simp] theorem State.modPort_sec (p : Nat) (f : Port → Port) : (s.modPort p f).sec = s.sec := rfl
@[simp] theorem State.modPort_mgt (p : Nat) (f : Port → Port) : (s.modPort p f).mgt = s.mgt := rfl
@[simp] theorem State.modPort_evc (p : Nat) (f : Port → Port) : (s.modPort p f).evc = s.evc := rfl
@[simp] theorem State.modPort_tst (p : Nat) (f : Port → Port) : (s.modPort p f).tst = s.tst := rfl
@[simp] theorem State.modPort_part (p : Nat) (f : Port → Port) (m : Nat) : (s.modPort p f).part m = s.part m := rfl
@[simp] theorem State.modPort_vf (p : Nat) (f : Port → Port) (m : Nat) : (s.modPort p f).vf m = s.vf m := rfl
@[simp] theorem State.modPort_ring (p : Nat) (f : Port → Port) (m q : Nat) : (s.modPort p f).ring m q = s.ring m q := rfl
@[simp] theorem State.modPort_vat (p : Nat) (f : Port → Port) (w : Nat) : (s.modPort p f).vat w = s.vat w := rfl
@[simp] theorem State.modPort_nbe (p : Nat) (f : Port → Port) (j : Nat) : (s.modPort p f).nbe j = s.nbe j := rfl
@[simp] theorem State.modPort_stk (p : Nat) (f : Port → Port) (j : Nat) : (s.modPort p f).stk j = s.stk j := rfl
@[simp] theorem State.modPort_region (p : Nat) (f : Port → Port) (j : Nat) : (s.modPort p f).region j = s.region j := rfl
@[simp] theorem State.modPort_slot (p : Nat) (f : Port → Port) (j : Nat) : (s.modPort p f).slot j = s.slot j := rfl
@[simp] theorem State.modPort_sensor (p : Nat) (f : Port → Port) (j : Nat) : (s.modPort p f).sensor j = s.sensor j := rfl
@[simp] theorem State.modPort_vpoint (p : Nat) (f : Port → Port) (j : Nat) : (s.modPort p f).vpoint j = s.vpoint j := rfl
@[simp] theorem State.modPort_evq (p : Nat) (f : Port → Port) (j : Nat) : (s.modPort p f).evq j = s.evq j := rfl
@[simp] theorem State.modPort_srv (p : Nat) (f : Port → Port) (m : Nat) : (s.modPort p f).srv m = s.srv m := rfl
@[simp] theorem State.modPort_msixOf (p : Nat) (f : Port → Port) (j : Nat) : (s.modPort p f).msixOf j = s.msixOf j := rfl

/-! ### modStk -/

@[simp] theorem State.modStk_pending (k : Nat) (f : StackRegs → StackRegs) : (s.modStk k f).pending = s.pending := rfl
@[simp] theorem State.modStk_freshCount (k : Nat) (f : StackRegs → StackRegs) : (s.modStk k f).freshCount = s.freshCount := rfl
@[simp] theorem State.modStk_stamp (k : Nat) (f : StackRegs → StackRegs) : (s.modStk k f).stamp = s.stamp := rfl
@[simp] theorem State.modStk_out (k : Nat) (f : StackRegs → StackRegs) : (s.modStk k f).out = s.out := rfl
@[simp] theorem State.modStk_errs (k : Nat) (f : StackRegs → StackRegs) : (s.modStk k f).errs = s.errs := rfl
@[simp] theorem State.modStk_blocked (k : Nat) (f : StackRegs → StackRegs) : (s.modStk k f).blocked = s.blocked := rfl
@[simp] theorem State.modStk_msix (k : Nat) (f : StackRegs → StackRegs) : (s.modStk k f).msix = s.msix := rfl
@[simp] theorem State.modStk_pins (k : Nat) (f : StackRegs → StackRegs) : (s.modStk k f).pins = s.pins := rfl
@[simp] theorem State.modStk_gen (k : Nat) (f : StackRegs → StackRegs) : (s.modStk k f).gen = s.gen := rfl
@[simp] theorem State.modStk_otp (k : Nat) (f : StackRegs → StackRegs) : (s.modStk k f).otp = s.otp := rfl
@[simp] theorem State.modStk_flash (k : Nat) (f : StackRegs → StackRegs) : (s.modStk k f).flash = s.flash := rfl
@[simp] theorem State.modStk_tmb (k : Nat) (f : StackRegs → StackRegs) : (s.modStk k f).tmb = s.tmb := rfl
@[simp] theorem State.modStk_parts (k : Nat) (f : StackRegs → StackRegs) : (s.modStk k f).parts = s.parts := rfl
@[simp] theorem State.modStk_vfs (k : Nat) (f : StackRegs → StackRegs) : (s.modStk k f).vfs = s.vfs := rfl
@[simp] theorem State.modStk_done (k : Nat) (f : StackRegs → StackRegs) : (s.modStk k f).done = s.done := rfl
@[simp] theorem State.modStk_mem (k : Nat) (f : StackRegs → StackRegs) : (s.modStk k f).mem = s.mem := rfl
@[simp] theorem State.modStk_regions (k : Nat) (f : StackRegs → StackRegs) : (s.modStk k f).regions = s.regions := rfl
@[simp] theorem State.modStk_rereads (k : Nat) (f : StackRegs → StackRegs) : (s.modStk k f).rereads = s.rereads := rfl
@[simp] theorem State.modStk_hostWaits (k : Nat) (f : StackRegs → StackRegs) : (s.modStk k f).hostWaits = s.hostWaits := rfl
@[simp] theorem State.modStk_hdm (k : Nat) (f : StackRegs → StackRegs) : (s.modStk k f).hdm = s.hdm := rfl
@[simp] theorem State.modStk_vats (k : Nat) (f : StackRegs → StackRegs) : (s.modStk k f).vats = s.vats := rfl
@[simp] theorem State.modStk_nbes (k : Nat) (f : StackRegs → StackRegs) : (s.modStk k f).nbes = s.nbes := rfl
@[simp] theorem State.modStk_nbeJobs (k : Nat) (f : StackRegs → StackRegs) : (s.modStk k f).nbeJobs = s.nbeJobs := rfl
@[simp] theorem State.modStk_nextNbeJob (k : Nat) (f : StackRegs → StackRegs) : (s.modStk k f).nextNbeJob = s.nextNbeJob := rfl
@[simp] theorem State.modStk_jobs (k : Nat) (f : StackRegs → StackRegs) : (s.modStk k f).jobs = s.jobs := rfl
@[simp] theorem State.modStk_nextJob (k : Nat) (f : StackRegs → StackRegs) : (s.modStk k f).nextJob = s.nextJob := rfl
@[simp] theorem State.modStk_srvs (k : Nat) (f : StackRegs → StackRegs) : (s.modStk k f).srvs = s.srvs := rfl
@[simp] theorem State.modStk_queues (k : Nat) (f : StackRegs → StackRegs) : (s.modStk k f).queues = s.queues := rfl
@[simp] theorem State.modStk_queuesNow (k : Nat) (f : StackRegs → StackRegs) : (s.modStk k f).queuesNow = s.queuesNow := rfl
@[simp] theorem State.modStk_ports (k : Nat) (f : StackRegs → StackRegs) : (s.modStk k f).ports = s.ports := rfl
@[simp] theorem State.modStk_pwr (k : Nat) (f : StackRegs → StackRegs) : (s.modStk k f).pwr = s.pwr := rfl
@[simp] theorem State.modStk_thm (k : Nat) (f : StackRegs → StackRegs) : (s.modStk k f).thm = s.thm := rfl
@[simp] theorem State.modStk_err (k : Nat) (f : StackRegs → StackRegs) : (s.modStk k f).err = s.err := rfl
@[simp] theorem State.modStk_sec (k : Nat) (f : StackRegs → StackRegs) : (s.modStk k f).sec = s.sec := rfl
@[simp] theorem State.modStk_mgt (k : Nat) (f : StackRegs → StackRegs) : (s.modStk k f).mgt = s.mgt := rfl
@[simp] theorem State.modStk_evc (k : Nat) (f : StackRegs → StackRegs) : (s.modStk k f).evc = s.evc := rfl
@[simp] theorem State.modStk_tst (k : Nat) (f : StackRegs → StackRegs) : (s.modStk k f).tst = s.tst := rfl
@[simp] theorem State.modStk_part (k : Nat) (f : StackRegs → StackRegs) (m : Nat) : (s.modStk k f).part m = s.part m := rfl
@[simp] theorem State.modStk_vf (k : Nat) (f : StackRegs → StackRegs) (m : Nat) : (s.modStk k f).vf m = s.vf m := rfl
@[simp] theorem State.modStk_ring (k : Nat) (f : StackRegs → StackRegs) (m q : Nat) : (s.modStk k f).ring m q = s.ring m q := rfl
@[simp] theorem State.modStk_vat (k : Nat) (f : StackRegs → StackRegs) (w : Nat) : (s.modStk k f).vat w = s.vat w := rfl
@[simp] theorem State.modStk_nbe (k : Nat) (f : StackRegs → StackRegs) (j : Nat) : (s.modStk k f).nbe j = s.nbe j := rfl
@[simp] theorem State.modStk_port (k : Nat) (f : StackRegs → StackRegs) (q : Nat) : (s.modStk k f).port q = s.port q := rfl
@[simp] theorem State.modStk_region (k : Nat) (f : StackRegs → StackRegs) (j : Nat) : (s.modStk k f).region j = s.region j := rfl
@[simp] theorem State.modStk_slot (k : Nat) (f : StackRegs → StackRegs) (j : Nat) : (s.modStk k f).slot j = s.slot j := rfl
@[simp] theorem State.modStk_sensor (k : Nat) (f : StackRegs → StackRegs) (j : Nat) : (s.modStk k f).sensor j = s.sensor j := rfl
@[simp] theorem State.modStk_vpoint (k : Nat) (f : StackRegs → StackRegs) (j : Nat) : (s.modStk k f).vpoint j = s.vpoint j := rfl
@[simp] theorem State.modStk_evq (k : Nat) (f : StackRegs → StackRegs) (j : Nat) : (s.modStk k f).evq j = s.evq j := rfl
@[simp] theorem State.modStk_srv (k : Nat) (f : StackRegs → StackRegs) (m : Nat) : (s.modStk k f).srv m = s.srv m := rfl
@[simp] theorem State.modStk_msixOf (k : Nat) (f : StackRegs → StackRegs) (j : Nat) : (s.modStk k f).msixOf j = s.msixOf j := rfl

/-! ### modRegion -/

@[simp] theorem State.modRegion_pending (k : Nat) (f : Region → Region) : (s.modRegion k f).pending = s.pending := rfl
@[simp] theorem State.modRegion_freshCount (k : Nat) (f : Region → Region) : (s.modRegion k f).freshCount = s.freshCount := rfl
@[simp] theorem State.modRegion_stamp (k : Nat) (f : Region → Region) : (s.modRegion k f).stamp = s.stamp := rfl
@[simp] theorem State.modRegion_out (k : Nat) (f : Region → Region) : (s.modRegion k f).out = s.out := rfl
@[simp] theorem State.modRegion_errs (k : Nat) (f : Region → Region) : (s.modRegion k f).errs = s.errs := rfl
@[simp] theorem State.modRegion_blocked (k : Nat) (f : Region → Region) : (s.modRegion k f).blocked = s.blocked := rfl
@[simp] theorem State.modRegion_msix (k : Nat) (f : Region → Region) : (s.modRegion k f).msix = s.msix := rfl
@[simp] theorem State.modRegion_pins (k : Nat) (f : Region → Region) : (s.modRegion k f).pins = s.pins := rfl
@[simp] theorem State.modRegion_gen (k : Nat) (f : Region → Region) : (s.modRegion k f).gen = s.gen := rfl
@[simp] theorem State.modRegion_otp (k : Nat) (f : Region → Region) : (s.modRegion k f).otp = s.otp := rfl
@[simp] theorem State.modRegion_flash (k : Nat) (f : Region → Region) : (s.modRegion k f).flash = s.flash := rfl
@[simp] theorem State.modRegion_tmb (k : Nat) (f : Region → Region) : (s.modRegion k f).tmb = s.tmb := rfl
@[simp] theorem State.modRegion_parts (k : Nat) (f : Region → Region) : (s.modRegion k f).parts = s.parts := rfl
@[simp] theorem State.modRegion_vfs (k : Nat) (f : Region → Region) : (s.modRegion k f).vfs = s.vfs := rfl
@[simp] theorem State.modRegion_done (k : Nat) (f : Region → Region) : (s.modRegion k f).done = s.done := rfl
@[simp] theorem State.modRegion_mem (k : Nat) (f : Region → Region) : (s.modRegion k f).mem = s.mem := rfl
@[simp] theorem State.modRegion_stks (k : Nat) (f : Region → Region) : (s.modRegion k f).stks = s.stks := rfl
@[simp] theorem State.modRegion_rereads (k : Nat) (f : Region → Region) : (s.modRegion k f).rereads = s.rereads := rfl
@[simp] theorem State.modRegion_hostWaits (k : Nat) (f : Region → Region) : (s.modRegion k f).hostWaits = s.hostWaits := rfl
@[simp] theorem State.modRegion_hdm (k : Nat) (f : Region → Region) : (s.modRegion k f).hdm = s.hdm := rfl
@[simp] theorem State.modRegion_vats (k : Nat) (f : Region → Region) : (s.modRegion k f).vats = s.vats := rfl
@[simp] theorem State.modRegion_nbes (k : Nat) (f : Region → Region) : (s.modRegion k f).nbes = s.nbes := rfl
@[simp] theorem State.modRegion_nbeJobs (k : Nat) (f : Region → Region) : (s.modRegion k f).nbeJobs = s.nbeJobs := rfl
@[simp] theorem State.modRegion_nextNbeJob (k : Nat) (f : Region → Region) : (s.modRegion k f).nextNbeJob = s.nextNbeJob := rfl
@[simp] theorem State.modRegion_jobs (k : Nat) (f : Region → Region) : (s.modRegion k f).jobs = s.jobs := rfl
@[simp] theorem State.modRegion_nextJob (k : Nat) (f : Region → Region) : (s.modRegion k f).nextJob = s.nextJob := rfl
@[simp] theorem State.modRegion_srvs (k : Nat) (f : Region → Region) : (s.modRegion k f).srvs = s.srvs := rfl
@[simp] theorem State.modRegion_queues (k : Nat) (f : Region → Region) : (s.modRegion k f).queues = s.queues := rfl
@[simp] theorem State.modRegion_queuesNow (k : Nat) (f : Region → Region) : (s.modRegion k f).queuesNow = s.queuesNow := rfl
@[simp] theorem State.modRegion_ports (k : Nat) (f : Region → Region) : (s.modRegion k f).ports = s.ports := rfl
@[simp] theorem State.modRegion_pwr (k : Nat) (f : Region → Region) : (s.modRegion k f).pwr = s.pwr := rfl
@[simp] theorem State.modRegion_thm (k : Nat) (f : Region → Region) : (s.modRegion k f).thm = s.thm := rfl
@[simp] theorem State.modRegion_err (k : Nat) (f : Region → Region) : (s.modRegion k f).err = s.err := rfl
@[simp] theorem State.modRegion_sec (k : Nat) (f : Region → Region) : (s.modRegion k f).sec = s.sec := rfl
@[simp] theorem State.modRegion_mgt (k : Nat) (f : Region → Region) : (s.modRegion k f).mgt = s.mgt := rfl
@[simp] theorem State.modRegion_evc (k : Nat) (f : Region → Region) : (s.modRegion k f).evc = s.evc := rfl
@[simp] theorem State.modRegion_tst (k : Nat) (f : Region → Region) : (s.modRegion k f).tst = s.tst := rfl
@[simp] theorem State.modRegion_part (k : Nat) (f : Region → Region) (m : Nat) : (s.modRegion k f).part m = s.part m := rfl
@[simp] theorem State.modRegion_vf (k : Nat) (f : Region → Region) (m : Nat) : (s.modRegion k f).vf m = s.vf m := rfl
@[simp] theorem State.modRegion_ring (k : Nat) (f : Region → Region) (m q : Nat) : (s.modRegion k f).ring m q = s.ring m q := rfl
@[simp] theorem State.modRegion_vat (k : Nat) (f : Region → Region) (w : Nat) : (s.modRegion k f).vat w = s.vat w := rfl
@[simp] theorem State.modRegion_nbe (k : Nat) (f : Region → Region) (j : Nat) : (s.modRegion k f).nbe j = s.nbe j := rfl
@[simp] theorem State.modRegion_port (k : Nat) (f : Region → Region) (q : Nat) : (s.modRegion k f).port q = s.port q := rfl
@[simp] theorem State.modRegion_stk (k : Nat) (f : Region → Region) (j : Nat) : (s.modRegion k f).stk j = s.stk j := rfl
@[simp] theorem State.modRegion_slot (k : Nat) (f : Region → Region) (j : Nat) : (s.modRegion k f).slot j = s.slot j := rfl
@[simp] theorem State.modRegion_sensor (k : Nat) (f : Region → Region) (j : Nat) : (s.modRegion k f).sensor j = s.sensor j := rfl
@[simp] theorem State.modRegion_vpoint (k : Nat) (f : Region → Region) (j : Nat) : (s.modRegion k f).vpoint j = s.vpoint j := rfl
@[simp] theorem State.modRegion_evq (k : Nat) (f : Region → Region) (j : Nat) : (s.modRegion k f).evq j = s.evq j := rfl
@[simp] theorem State.modRegion_srv (k : Nat) (f : Region → Region) (m : Nat) : (s.modRegion k f).srv m = s.srv m := rfl
@[simp] theorem State.modRegion_msixOf (k : Nat) (f : Region → Region) (j : Nat) : (s.modRegion k f).msixOf j = s.msixOf j := rfl

/-! ### modSlot -/

@[simp] theorem State.modSlot_pending (k : Nat) (f : SwarmSlot → SwarmSlot) : (s.modSlot k f).pending = s.pending := rfl
@[simp] theorem State.modSlot_freshCount (k : Nat) (f : SwarmSlot → SwarmSlot) : (s.modSlot k f).freshCount = s.freshCount := rfl
@[simp] theorem State.modSlot_stamp (k : Nat) (f : SwarmSlot → SwarmSlot) : (s.modSlot k f).stamp = s.stamp := rfl
@[simp] theorem State.modSlot_out (k : Nat) (f : SwarmSlot → SwarmSlot) : (s.modSlot k f).out = s.out := rfl
@[simp] theorem State.modSlot_errs (k : Nat) (f : SwarmSlot → SwarmSlot) : (s.modSlot k f).errs = s.errs := rfl
@[simp] theorem State.modSlot_blocked (k : Nat) (f : SwarmSlot → SwarmSlot) : (s.modSlot k f).blocked = s.blocked := rfl
@[simp] theorem State.modSlot_msix (k : Nat) (f : SwarmSlot → SwarmSlot) : (s.modSlot k f).msix = s.msix := rfl
@[simp] theorem State.modSlot_pins (k : Nat) (f : SwarmSlot → SwarmSlot) : (s.modSlot k f).pins = s.pins := rfl
@[simp] theorem State.modSlot_gen (k : Nat) (f : SwarmSlot → SwarmSlot) : (s.modSlot k f).gen = s.gen := rfl
@[simp] theorem State.modSlot_otp (k : Nat) (f : SwarmSlot → SwarmSlot) : (s.modSlot k f).otp = s.otp := rfl
@[simp] theorem State.modSlot_flash (k : Nat) (f : SwarmSlot → SwarmSlot) : (s.modSlot k f).flash = s.flash := rfl
@[simp] theorem State.modSlot_parts (k : Nat) (f : SwarmSlot → SwarmSlot) : (s.modSlot k f).parts = s.parts := rfl
@[simp] theorem State.modSlot_vfs (k : Nat) (f : SwarmSlot → SwarmSlot) : (s.modSlot k f).vfs = s.vfs := rfl
@[simp] theorem State.modSlot_done (k : Nat) (f : SwarmSlot → SwarmSlot) : (s.modSlot k f).done = s.done := rfl
@[simp] theorem State.modSlot_mem (k : Nat) (f : SwarmSlot → SwarmSlot) : (s.modSlot k f).mem = s.mem := rfl
@[simp] theorem State.modSlot_regions (k : Nat) (f : SwarmSlot → SwarmSlot) : (s.modSlot k f).regions = s.regions := rfl
@[simp] theorem State.modSlot_stks (k : Nat) (f : SwarmSlot → SwarmSlot) : (s.modSlot k f).stks = s.stks := rfl
@[simp] theorem State.modSlot_rereads (k : Nat) (f : SwarmSlot → SwarmSlot) : (s.modSlot k f).rereads = s.rereads := rfl
@[simp] theorem State.modSlot_hostWaits (k : Nat) (f : SwarmSlot → SwarmSlot) : (s.modSlot k f).hostWaits = s.hostWaits := rfl
@[simp] theorem State.modSlot_hdm (k : Nat) (f : SwarmSlot → SwarmSlot) : (s.modSlot k f).hdm = s.hdm := rfl
@[simp] theorem State.modSlot_vats (k : Nat) (f : SwarmSlot → SwarmSlot) : (s.modSlot k f).vats = s.vats := rfl
@[simp] theorem State.modSlot_nbes (k : Nat) (f : SwarmSlot → SwarmSlot) : (s.modSlot k f).nbes = s.nbes := rfl
@[simp] theorem State.modSlot_nbeJobs (k : Nat) (f : SwarmSlot → SwarmSlot) : (s.modSlot k f).nbeJobs = s.nbeJobs := rfl
@[simp] theorem State.modSlot_nextNbeJob (k : Nat) (f : SwarmSlot → SwarmSlot) : (s.modSlot k f).nextNbeJob = s.nextNbeJob := rfl
@[simp] theorem State.modSlot_jobs (k : Nat) (f : SwarmSlot → SwarmSlot) : (s.modSlot k f).jobs = s.jobs := rfl
@[simp] theorem State.modSlot_nextJob (k : Nat) (f : SwarmSlot → SwarmSlot) : (s.modSlot k f).nextJob = s.nextJob := rfl
@[simp] theorem State.modSlot_srvs (k : Nat) (f : SwarmSlot → SwarmSlot) : (s.modSlot k f).srvs = s.srvs := rfl
@[simp] theorem State.modSlot_queues (k : Nat) (f : SwarmSlot → SwarmSlot) : (s.modSlot k f).queues = s.queues := rfl
@[simp] theorem State.modSlot_queuesNow (k : Nat) (f : SwarmSlot → SwarmSlot) : (s.modSlot k f).queuesNow = s.queuesNow := rfl
@[simp] theorem State.modSlot_ports (k : Nat) (f : SwarmSlot → SwarmSlot) : (s.modSlot k f).ports = s.ports := rfl
@[simp] theorem State.modSlot_pwr (k : Nat) (f : SwarmSlot → SwarmSlot) : (s.modSlot k f).pwr = s.pwr := rfl
@[simp] theorem State.modSlot_thm (k : Nat) (f : SwarmSlot → SwarmSlot) : (s.modSlot k f).thm = s.thm := rfl
@[simp] theorem State.modSlot_err (k : Nat) (f : SwarmSlot → SwarmSlot) : (s.modSlot k f).err = s.err := rfl
@[simp] theorem State.modSlot_sec (k : Nat) (f : SwarmSlot → SwarmSlot) : (s.modSlot k f).sec = s.sec := rfl
@[simp] theorem State.modSlot_mgt (k : Nat) (f : SwarmSlot → SwarmSlot) : (s.modSlot k f).mgt = s.mgt := rfl
@[simp] theorem State.modSlot_evc (k : Nat) (f : SwarmSlot → SwarmSlot) : (s.modSlot k f).evc = s.evc := rfl
@[simp] theorem State.modSlot_tst (k : Nat) (f : SwarmSlot → SwarmSlot) : (s.modSlot k f).tst = s.tst := rfl
@[simp] theorem State.modSlot_part (k : Nat) (f : SwarmSlot → SwarmSlot) (m : Nat) : (s.modSlot k f).part m = s.part m := rfl
@[simp] theorem State.modSlot_vf (k : Nat) (f : SwarmSlot → SwarmSlot) (m : Nat) : (s.modSlot k f).vf m = s.vf m := rfl
@[simp] theorem State.modSlot_ring (k : Nat) (f : SwarmSlot → SwarmSlot) (m q : Nat) : (s.modSlot k f).ring m q = s.ring m q := rfl
@[simp] theorem State.modSlot_vat (k : Nat) (f : SwarmSlot → SwarmSlot) (w : Nat) : (s.modSlot k f).vat w = s.vat w := rfl
@[simp] theorem State.modSlot_nbe (k : Nat) (f : SwarmSlot → SwarmSlot) (j : Nat) : (s.modSlot k f).nbe j = s.nbe j := rfl
@[simp] theorem State.modSlot_port (k : Nat) (f : SwarmSlot → SwarmSlot) (q : Nat) : (s.modSlot k f).port q = s.port q := rfl
@[simp] theorem State.modSlot_stk (k : Nat) (f : SwarmSlot → SwarmSlot) (j : Nat) : (s.modSlot k f).stk j = s.stk j := rfl
@[simp] theorem State.modSlot_region (k : Nat) (f : SwarmSlot → SwarmSlot) (j : Nat) : (s.modSlot k f).region j = s.region j := rfl
@[simp] theorem State.modSlot_sensor (k : Nat) (f : SwarmSlot → SwarmSlot) (j : Nat) : (s.modSlot k f).sensor j = s.sensor j := rfl
@[simp] theorem State.modSlot_vpoint (k : Nat) (f : SwarmSlot → SwarmSlot) (j : Nat) : (s.modSlot k f).vpoint j = s.vpoint j := rfl
@[simp] theorem State.modSlot_evq (k : Nat) (f : SwarmSlot → SwarmSlot) (j : Nat) : (s.modSlot k f).evq j = s.evq j := rfl
@[simp] theorem State.modSlot_srv (k : Nat) (f : SwarmSlot → SwarmSlot) (m : Nat) : (s.modSlot k f).srv m = s.srv m := rfl
@[simp] theorem State.modSlot_msixOf (k : Nat) (f : SwarmSlot → SwarmSlot) (j : Nat) : (s.modSlot k f).msixOf j = s.msixOf j := rfl

/-! ### modSensor -/

@[simp] theorem State.modSensor_pending (k : Nat) (f : Sensor → Sensor) : (s.modSensor k f).pending = s.pending := rfl
@[simp] theorem State.modSensor_freshCount (k : Nat) (f : Sensor → Sensor) : (s.modSensor k f).freshCount = s.freshCount := rfl
@[simp] theorem State.modSensor_stamp (k : Nat) (f : Sensor → Sensor) : (s.modSensor k f).stamp = s.stamp := rfl
@[simp] theorem State.modSensor_out (k : Nat) (f : Sensor → Sensor) : (s.modSensor k f).out = s.out := rfl
@[simp] theorem State.modSensor_errs (k : Nat) (f : Sensor → Sensor) : (s.modSensor k f).errs = s.errs := rfl
@[simp] theorem State.modSensor_blocked (k : Nat) (f : Sensor → Sensor) : (s.modSensor k f).blocked = s.blocked := rfl
@[simp] theorem State.modSensor_msix (k : Nat) (f : Sensor → Sensor) : (s.modSensor k f).msix = s.msix := rfl
@[simp] theorem State.modSensor_pins (k : Nat) (f : Sensor → Sensor) : (s.modSensor k f).pins = s.pins := rfl
@[simp] theorem State.modSensor_gen (k : Nat) (f : Sensor → Sensor) : (s.modSensor k f).gen = s.gen := rfl
@[simp] theorem State.modSensor_otp (k : Nat) (f : Sensor → Sensor) : (s.modSensor k f).otp = s.otp := rfl
@[simp] theorem State.modSensor_flash (k : Nat) (f : Sensor → Sensor) : (s.modSensor k f).flash = s.flash := rfl
@[simp] theorem State.modSensor_tmb (k : Nat) (f : Sensor → Sensor) : (s.modSensor k f).tmb = s.tmb := rfl
@[simp] theorem State.modSensor_parts (k : Nat) (f : Sensor → Sensor) : (s.modSensor k f).parts = s.parts := rfl
@[simp] theorem State.modSensor_vfs (k : Nat) (f : Sensor → Sensor) : (s.modSensor k f).vfs = s.vfs := rfl
@[simp] theorem State.modSensor_done (k : Nat) (f : Sensor → Sensor) : (s.modSensor k f).done = s.done := rfl
@[simp] theorem State.modSensor_mem (k : Nat) (f : Sensor → Sensor) : (s.modSensor k f).mem = s.mem := rfl
@[simp] theorem State.modSensor_regions (k : Nat) (f : Sensor → Sensor) : (s.modSensor k f).regions = s.regions := rfl
@[simp] theorem State.modSensor_stks (k : Nat) (f : Sensor → Sensor) : (s.modSensor k f).stks = s.stks := rfl
@[simp] theorem State.modSensor_rereads (k : Nat) (f : Sensor → Sensor) : (s.modSensor k f).rereads = s.rereads := rfl
@[simp] theorem State.modSensor_hostWaits (k : Nat) (f : Sensor → Sensor) : (s.modSensor k f).hostWaits = s.hostWaits := rfl
@[simp] theorem State.modSensor_hdm (k : Nat) (f : Sensor → Sensor) : (s.modSensor k f).hdm = s.hdm := rfl
@[simp] theorem State.modSensor_vats (k : Nat) (f : Sensor → Sensor) : (s.modSensor k f).vats = s.vats := rfl
@[simp] theorem State.modSensor_nbes (k : Nat) (f : Sensor → Sensor) : (s.modSensor k f).nbes = s.nbes := rfl
@[simp] theorem State.modSensor_nbeJobs (k : Nat) (f : Sensor → Sensor) : (s.modSensor k f).nbeJobs = s.nbeJobs := rfl
@[simp] theorem State.modSensor_nextNbeJob (k : Nat) (f : Sensor → Sensor) : (s.modSensor k f).nextNbeJob = s.nextNbeJob := rfl
@[simp] theorem State.modSensor_jobs (k : Nat) (f : Sensor → Sensor) : (s.modSensor k f).jobs = s.jobs := rfl
@[simp] theorem State.modSensor_nextJob (k : Nat) (f : Sensor → Sensor) : (s.modSensor k f).nextJob = s.nextJob := rfl
@[simp] theorem State.modSensor_srvs (k : Nat) (f : Sensor → Sensor) : (s.modSensor k f).srvs = s.srvs := rfl
@[simp] theorem State.modSensor_queues (k : Nat) (f : Sensor → Sensor) : (s.modSensor k f).queues = s.queues := rfl
@[simp] theorem State.modSensor_queuesNow (k : Nat) (f : Sensor → Sensor) : (s.modSensor k f).queuesNow = s.queuesNow := rfl
@[simp] theorem State.modSensor_ports (k : Nat) (f : Sensor → Sensor) : (s.modSensor k f).ports = s.ports := rfl
@[simp] theorem State.modSensor_pwr (k : Nat) (f : Sensor → Sensor) : (s.modSensor k f).pwr = s.pwr := rfl
@[simp] theorem State.modSensor_err (k : Nat) (f : Sensor → Sensor) : (s.modSensor k f).err = s.err := rfl
@[simp] theorem State.modSensor_sec (k : Nat) (f : Sensor → Sensor) : (s.modSensor k f).sec = s.sec := rfl
@[simp] theorem State.modSensor_mgt (k : Nat) (f : Sensor → Sensor) : (s.modSensor k f).mgt = s.mgt := rfl
@[simp] theorem State.modSensor_evc (k : Nat) (f : Sensor → Sensor) : (s.modSensor k f).evc = s.evc := rfl
@[simp] theorem State.modSensor_tst (k : Nat) (f : Sensor → Sensor) : (s.modSensor k f).tst = s.tst := rfl
@[simp] theorem State.modSensor_part (k : Nat) (f : Sensor → Sensor) (m : Nat) : (s.modSensor k f).part m = s.part m := rfl
@[simp] theorem State.modSensor_vf (k : Nat) (f : Sensor → Sensor) (m : Nat) : (s.modSensor k f).vf m = s.vf m := rfl
@[simp] theorem State.modSensor_ring (k : Nat) (f : Sensor → Sensor) (m q : Nat) : (s.modSensor k f).ring m q = s.ring m q := rfl
@[simp] theorem State.modSensor_vat (k : Nat) (f : Sensor → Sensor) (w : Nat) : (s.modSensor k f).vat w = s.vat w := rfl
@[simp] theorem State.modSensor_nbe (k : Nat) (f : Sensor → Sensor) (j : Nat) : (s.modSensor k f).nbe j = s.nbe j := rfl
@[simp] theorem State.modSensor_port (k : Nat) (f : Sensor → Sensor) (q : Nat) : (s.modSensor k f).port q = s.port q := rfl
@[simp] theorem State.modSensor_stk (k : Nat) (f : Sensor → Sensor) (j : Nat) : (s.modSensor k f).stk j = s.stk j := rfl
@[simp] theorem State.modSensor_region (k : Nat) (f : Sensor → Sensor) (j : Nat) : (s.modSensor k f).region j = s.region j := rfl
@[simp] theorem State.modSensor_slot (k : Nat) (f : Sensor → Sensor) (j : Nat) : (s.modSensor k f).slot j = s.slot j := rfl
@[simp] theorem State.modSensor_vpoint (k : Nat) (f : Sensor → Sensor) (j : Nat) : (s.modSensor k f).vpoint j = s.vpoint j := rfl
@[simp] theorem State.modSensor_evq (k : Nat) (f : Sensor → Sensor) (j : Nat) : (s.modSensor k f).evq j = s.evq j := rfl
@[simp] theorem State.modSensor_srv (k : Nat) (f : Sensor → Sensor) (m : Nat) : (s.modSensor k f).srv m = s.srv m := rfl
@[simp] theorem State.modSensor_msixOf (k : Nat) (f : Sensor → Sensor) (j : Nat) : (s.modSensor k f).msixOf j = s.msixOf j := rfl

/-! ### modVpoint -/

@[simp] theorem State.modVpoint_pending (k : Nat) (f : VPoint → VPoint) : (s.modVpoint k f).pending = s.pending := rfl
@[simp] theorem State.modVpoint_freshCount (k : Nat) (f : VPoint → VPoint) : (s.modVpoint k f).freshCount = s.freshCount := rfl
@[simp] theorem State.modVpoint_stamp (k : Nat) (f : VPoint → VPoint) : (s.modVpoint k f).stamp = s.stamp := rfl
@[simp] theorem State.modVpoint_out (k : Nat) (f : VPoint → VPoint) : (s.modVpoint k f).out = s.out := rfl
@[simp] theorem State.modVpoint_errs (k : Nat) (f : VPoint → VPoint) : (s.modVpoint k f).errs = s.errs := rfl
@[simp] theorem State.modVpoint_blocked (k : Nat) (f : VPoint → VPoint) : (s.modVpoint k f).blocked = s.blocked := rfl
@[simp] theorem State.modVpoint_msix (k : Nat) (f : VPoint → VPoint) : (s.modVpoint k f).msix = s.msix := rfl
@[simp] theorem State.modVpoint_pins (k : Nat) (f : VPoint → VPoint) : (s.modVpoint k f).pins = s.pins := rfl
@[simp] theorem State.modVpoint_gen (k : Nat) (f : VPoint → VPoint) : (s.modVpoint k f).gen = s.gen := rfl
@[simp] theorem State.modVpoint_otp (k : Nat) (f : VPoint → VPoint) : (s.modVpoint k f).otp = s.otp := rfl
@[simp] theorem State.modVpoint_flash (k : Nat) (f : VPoint → VPoint) : (s.modVpoint k f).flash = s.flash := rfl
@[simp] theorem State.modVpoint_tmb (k : Nat) (f : VPoint → VPoint) : (s.modVpoint k f).tmb = s.tmb := rfl
@[simp] theorem State.modVpoint_parts (k : Nat) (f : VPoint → VPoint) : (s.modVpoint k f).parts = s.parts := rfl
@[simp] theorem State.modVpoint_vfs (k : Nat) (f : VPoint → VPoint) : (s.modVpoint k f).vfs = s.vfs := rfl
@[simp] theorem State.modVpoint_done (k : Nat) (f : VPoint → VPoint) : (s.modVpoint k f).done = s.done := rfl
@[simp] theorem State.modVpoint_mem (k : Nat) (f : VPoint → VPoint) : (s.modVpoint k f).mem = s.mem := rfl
@[simp] theorem State.modVpoint_regions (k : Nat) (f : VPoint → VPoint) : (s.modVpoint k f).regions = s.regions := rfl
@[simp] theorem State.modVpoint_stks (k : Nat) (f : VPoint → VPoint) : (s.modVpoint k f).stks = s.stks := rfl
@[simp] theorem State.modVpoint_rereads (k : Nat) (f : VPoint → VPoint) : (s.modVpoint k f).rereads = s.rereads := rfl
@[simp] theorem State.modVpoint_hostWaits (k : Nat) (f : VPoint → VPoint) : (s.modVpoint k f).hostWaits = s.hostWaits := rfl
@[simp] theorem State.modVpoint_hdm (k : Nat) (f : VPoint → VPoint) : (s.modVpoint k f).hdm = s.hdm := rfl
@[simp] theorem State.modVpoint_vats (k : Nat) (f : VPoint → VPoint) : (s.modVpoint k f).vats = s.vats := rfl
@[simp] theorem State.modVpoint_nbes (k : Nat) (f : VPoint → VPoint) : (s.modVpoint k f).nbes = s.nbes := rfl
@[simp] theorem State.modVpoint_nbeJobs (k : Nat) (f : VPoint → VPoint) : (s.modVpoint k f).nbeJobs = s.nbeJobs := rfl
@[simp] theorem State.modVpoint_nextNbeJob (k : Nat) (f : VPoint → VPoint) : (s.modVpoint k f).nextNbeJob = s.nextNbeJob := rfl
@[simp] theorem State.modVpoint_jobs (k : Nat) (f : VPoint → VPoint) : (s.modVpoint k f).jobs = s.jobs := rfl
@[simp] theorem State.modVpoint_nextJob (k : Nat) (f : VPoint → VPoint) : (s.modVpoint k f).nextJob = s.nextJob := rfl
@[simp] theorem State.modVpoint_srvs (k : Nat) (f : VPoint → VPoint) : (s.modVpoint k f).srvs = s.srvs := rfl
@[simp] theorem State.modVpoint_queues (k : Nat) (f : VPoint → VPoint) : (s.modVpoint k f).queues = s.queues := rfl
@[simp] theorem State.modVpoint_queuesNow (k : Nat) (f : VPoint → VPoint) : (s.modVpoint k f).queuesNow = s.queuesNow := rfl
@[simp] theorem State.modVpoint_ports (k : Nat) (f : VPoint → VPoint) : (s.modVpoint k f).ports = s.ports := rfl
@[simp] theorem State.modVpoint_thm (k : Nat) (f : VPoint → VPoint) : (s.modVpoint k f).thm = s.thm := rfl
@[simp] theorem State.modVpoint_err (k : Nat) (f : VPoint → VPoint) : (s.modVpoint k f).err = s.err := rfl
@[simp] theorem State.modVpoint_sec (k : Nat) (f : VPoint → VPoint) : (s.modVpoint k f).sec = s.sec := rfl
@[simp] theorem State.modVpoint_mgt (k : Nat) (f : VPoint → VPoint) : (s.modVpoint k f).mgt = s.mgt := rfl
@[simp] theorem State.modVpoint_evc (k : Nat) (f : VPoint → VPoint) : (s.modVpoint k f).evc = s.evc := rfl
@[simp] theorem State.modVpoint_tst (k : Nat) (f : VPoint → VPoint) : (s.modVpoint k f).tst = s.tst := rfl
@[simp] theorem State.modVpoint_part (k : Nat) (f : VPoint → VPoint) (m : Nat) : (s.modVpoint k f).part m = s.part m := rfl
@[simp] theorem State.modVpoint_vf (k : Nat) (f : VPoint → VPoint) (m : Nat) : (s.modVpoint k f).vf m = s.vf m := rfl
@[simp] theorem State.modVpoint_ring (k : Nat) (f : VPoint → VPoint) (m q : Nat) : (s.modVpoint k f).ring m q = s.ring m q := rfl
@[simp] theorem State.modVpoint_vat (k : Nat) (f : VPoint → VPoint) (w : Nat) : (s.modVpoint k f).vat w = s.vat w := rfl
@[simp] theorem State.modVpoint_nbe (k : Nat) (f : VPoint → VPoint) (j : Nat) : (s.modVpoint k f).nbe j = s.nbe j := rfl
@[simp] theorem State.modVpoint_port (k : Nat) (f : VPoint → VPoint) (q : Nat) : (s.modVpoint k f).port q = s.port q := rfl
@[simp] theorem State.modVpoint_stk (k : Nat) (f : VPoint → VPoint) (j : Nat) : (s.modVpoint k f).stk j = s.stk j := rfl
@[simp] theorem State.modVpoint_region (k : Nat) (f : VPoint → VPoint) (j : Nat) : (s.modVpoint k f).region j = s.region j := rfl
@[simp] theorem State.modVpoint_slot (k : Nat) (f : VPoint → VPoint) (j : Nat) : (s.modVpoint k f).slot j = s.slot j := rfl
@[simp] theorem State.modVpoint_sensor (k : Nat) (f : VPoint → VPoint) (j : Nat) : (s.modVpoint k f).sensor j = s.sensor j := rfl
@[simp] theorem State.modVpoint_evq (k : Nat) (f : VPoint → VPoint) (j : Nat) : (s.modVpoint k f).evq j = s.evq j := rfl
@[simp] theorem State.modVpoint_srv (k : Nat) (f : VPoint → VPoint) (m : Nat) : (s.modVpoint k f).srv m = s.srv m := rfl
@[simp] theorem State.modVpoint_msixOf (k : Nat) (f : VPoint → VPoint) (j : Nat) : (s.modVpoint k f).msixOf j = s.msixOf j := rfl

/-! ### modEvq -/

@[simp] theorem State.modEvq_pending (fn : Nat) (f : EvQueue → EvQueue) : (s.modEvq fn f).pending = s.pending := rfl
@[simp] theorem State.modEvq_freshCount (fn : Nat) (f : EvQueue → EvQueue) : (s.modEvq fn f).freshCount = s.freshCount := rfl
@[simp] theorem State.modEvq_stamp (fn : Nat) (f : EvQueue → EvQueue) : (s.modEvq fn f).stamp = s.stamp := rfl
@[simp] theorem State.modEvq_out (fn : Nat) (f : EvQueue → EvQueue) : (s.modEvq fn f).out = s.out := rfl
@[simp] theorem State.modEvq_errs (fn : Nat) (f : EvQueue → EvQueue) : (s.modEvq fn f).errs = s.errs := rfl
@[simp] theorem State.modEvq_blocked (fn : Nat) (f : EvQueue → EvQueue) : (s.modEvq fn f).blocked = s.blocked := rfl
@[simp] theorem State.modEvq_msix (fn : Nat) (f : EvQueue → EvQueue) : (s.modEvq fn f).msix = s.msix := rfl
@[simp] theorem State.modEvq_pins (fn : Nat) (f : EvQueue → EvQueue) : (s.modEvq fn f).pins = s.pins := rfl
@[simp] theorem State.modEvq_gen (fn : Nat) (f : EvQueue → EvQueue) : (s.modEvq fn f).gen = s.gen := rfl
@[simp] theorem State.modEvq_otp (fn : Nat) (f : EvQueue → EvQueue) : (s.modEvq fn f).otp = s.otp := rfl
@[simp] theorem State.modEvq_flash (fn : Nat) (f : EvQueue → EvQueue) : (s.modEvq fn f).flash = s.flash := rfl
@[simp] theorem State.modEvq_tmb (fn : Nat) (f : EvQueue → EvQueue) : (s.modEvq fn f).tmb = s.tmb := rfl
@[simp] theorem State.modEvq_parts (fn : Nat) (f : EvQueue → EvQueue) : (s.modEvq fn f).parts = s.parts := rfl
@[simp] theorem State.modEvq_vfs (fn : Nat) (f : EvQueue → EvQueue) : (s.modEvq fn f).vfs = s.vfs := rfl
@[simp] theorem State.modEvq_done (fn : Nat) (f : EvQueue → EvQueue) : (s.modEvq fn f).done = s.done := rfl
@[simp] theorem State.modEvq_mem (fn : Nat) (f : EvQueue → EvQueue) : (s.modEvq fn f).mem = s.mem := rfl
@[simp] theorem State.modEvq_regions (fn : Nat) (f : EvQueue → EvQueue) : (s.modEvq fn f).regions = s.regions := rfl
@[simp] theorem State.modEvq_stks (fn : Nat) (f : EvQueue → EvQueue) : (s.modEvq fn f).stks = s.stks := rfl
@[simp] theorem State.modEvq_rereads (fn : Nat) (f : EvQueue → EvQueue) : (s.modEvq fn f).rereads = s.rereads := rfl
@[simp] theorem State.modEvq_hostWaits (fn : Nat) (f : EvQueue → EvQueue) : (s.modEvq fn f).hostWaits = s.hostWaits := rfl
@[simp] theorem State.modEvq_hdm (fn : Nat) (f : EvQueue → EvQueue) : (s.modEvq fn f).hdm = s.hdm := rfl
@[simp] theorem State.modEvq_vats (fn : Nat) (f : EvQueue → EvQueue) : (s.modEvq fn f).vats = s.vats := rfl
@[simp] theorem State.modEvq_nbes (fn : Nat) (f : EvQueue → EvQueue) : (s.modEvq fn f).nbes = s.nbes := rfl
@[simp] theorem State.modEvq_nbeJobs (fn : Nat) (f : EvQueue → EvQueue) : (s.modEvq fn f).nbeJobs = s.nbeJobs := rfl
@[simp] theorem State.modEvq_nextNbeJob (fn : Nat) (f : EvQueue → EvQueue) : (s.modEvq fn f).nextNbeJob = s.nextNbeJob := rfl
@[simp] theorem State.modEvq_jobs (fn : Nat) (f : EvQueue → EvQueue) : (s.modEvq fn f).jobs = s.jobs := rfl
@[simp] theorem State.modEvq_nextJob (fn : Nat) (f : EvQueue → EvQueue) : (s.modEvq fn f).nextJob = s.nextJob := rfl
@[simp] theorem State.modEvq_srvs (fn : Nat) (f : EvQueue → EvQueue) : (s.modEvq fn f).srvs = s.srvs := rfl
@[simp] theorem State.modEvq_queues (fn : Nat) (f : EvQueue → EvQueue) : (s.modEvq fn f).queues = s.queues := rfl
@[simp] theorem State.modEvq_queuesNow (fn : Nat) (f : EvQueue → EvQueue) : (s.modEvq fn f).queuesNow = s.queuesNow := rfl
@[simp] theorem State.modEvq_ports (fn : Nat) (f : EvQueue → EvQueue) : (s.modEvq fn f).ports = s.ports := rfl
@[simp] theorem State.modEvq_pwr (fn : Nat) (f : EvQueue → EvQueue) : (s.modEvq fn f).pwr = s.pwr := rfl
@[simp] theorem State.modEvq_thm (fn : Nat) (f : EvQueue → EvQueue) : (s.modEvq fn f).thm = s.thm := rfl
@[simp] theorem State.modEvq_err (fn : Nat) (f : EvQueue → EvQueue) : (s.modEvq fn f).err = s.err := rfl
@[simp] theorem State.modEvq_sec (fn : Nat) (f : EvQueue → EvQueue) : (s.modEvq fn f).sec = s.sec := rfl
@[simp] theorem State.modEvq_mgt (fn : Nat) (f : EvQueue → EvQueue) : (s.modEvq fn f).mgt = s.mgt := rfl
@[simp] theorem State.modEvq_tst (fn : Nat) (f : EvQueue → EvQueue) : (s.modEvq fn f).tst = s.tst := rfl
@[simp] theorem State.modEvq_part (fn : Nat) (f : EvQueue → EvQueue) (m : Nat) : (s.modEvq fn f).part m = s.part m := rfl
@[simp] theorem State.modEvq_vf (fn : Nat) (f : EvQueue → EvQueue) (m : Nat) : (s.modEvq fn f).vf m = s.vf m := rfl
@[simp] theorem State.modEvq_ring (fn : Nat) (f : EvQueue → EvQueue) (m q : Nat) : (s.modEvq fn f).ring m q = s.ring m q := rfl
@[simp] theorem State.modEvq_vat (fn : Nat) (f : EvQueue → EvQueue) (w : Nat) : (s.modEvq fn f).vat w = s.vat w := rfl
@[simp] theorem State.modEvq_nbe (fn : Nat) (f : EvQueue → EvQueue) (j : Nat) : (s.modEvq fn f).nbe j = s.nbe j := rfl
@[simp] theorem State.modEvq_port (fn : Nat) (f : EvQueue → EvQueue) (q : Nat) : (s.modEvq fn f).port q = s.port q := rfl
@[simp] theorem State.modEvq_stk (fn : Nat) (f : EvQueue → EvQueue) (j : Nat) : (s.modEvq fn f).stk j = s.stk j := rfl
@[simp] theorem State.modEvq_region (fn : Nat) (f : EvQueue → EvQueue) (j : Nat) : (s.modEvq fn f).region j = s.region j := rfl
@[simp] theorem State.modEvq_slot (fn : Nat) (f : EvQueue → EvQueue) (j : Nat) : (s.modEvq fn f).slot j = s.slot j := rfl
@[simp] theorem State.modEvq_sensor (fn : Nat) (f : EvQueue → EvQueue) (j : Nat) : (s.modEvq fn f).sensor j = s.sensor j := rfl
@[simp] theorem State.modEvq_vpoint (fn : Nat) (f : EvQueue → EvQueue) (j : Nat) : (s.modEvq fn f).vpoint j = s.vpoint j := rfl
@[simp] theorem State.modEvq_srv (fn : Nat) (f : EvQueue → EvQueue) (m : Nat) : (s.modEvq fn f).srv m = s.srv m := rfl
@[simp] theorem State.modEvq_msixOf (fn : Nat) (f : EvQueue → EvQueue) (j : Nat) : (s.modEvq fn f).msixOf j = s.msixOf j := rfl

/-! ### modSrv -/

@[simp] theorem State.modSrv_pending (n : Nat) (f : Srv → Srv) : (s.modSrv n f).pending = s.pending := rfl
@[simp] theorem State.modSrv_freshCount (n : Nat) (f : Srv → Srv) : (s.modSrv n f).freshCount = s.freshCount := rfl
@[simp] theorem State.modSrv_stamp (n : Nat) (f : Srv → Srv) : (s.modSrv n f).stamp = s.stamp := rfl
@[simp] theorem State.modSrv_out (n : Nat) (f : Srv → Srv) : (s.modSrv n f).out = s.out := rfl
@[simp] theorem State.modSrv_errs (n : Nat) (f : Srv → Srv) : (s.modSrv n f).errs = s.errs := rfl
@[simp] theorem State.modSrv_blocked (n : Nat) (f : Srv → Srv) : (s.modSrv n f).blocked = s.blocked := rfl
@[simp] theorem State.modSrv_msix (n : Nat) (f : Srv → Srv) : (s.modSrv n f).msix = s.msix := rfl
@[simp] theorem State.modSrv_pins (n : Nat) (f : Srv → Srv) : (s.modSrv n f).pins = s.pins := rfl
@[simp] theorem State.modSrv_gen (n : Nat) (f : Srv → Srv) : (s.modSrv n f).gen = s.gen := rfl
@[simp] theorem State.modSrv_otp (n : Nat) (f : Srv → Srv) : (s.modSrv n f).otp = s.otp := rfl
@[simp] theorem State.modSrv_flash (n : Nat) (f : Srv → Srv) : (s.modSrv n f).flash = s.flash := rfl
@[simp] theorem State.modSrv_tmb (n : Nat) (f : Srv → Srv) : (s.modSrv n f).tmb = s.tmb := rfl
@[simp] theorem State.modSrv_parts (n : Nat) (f : Srv → Srv) : (s.modSrv n f).parts = s.parts := rfl
@[simp] theorem State.modSrv_vfs (n : Nat) (f : Srv → Srv) : (s.modSrv n f).vfs = s.vfs := rfl
@[simp] theorem State.modSrv_done (n : Nat) (f : Srv → Srv) : (s.modSrv n f).done = s.done := rfl
@[simp] theorem State.modSrv_mem (n : Nat) (f : Srv → Srv) : (s.modSrv n f).mem = s.mem := rfl
@[simp] theorem State.modSrv_regions (n : Nat) (f : Srv → Srv) : (s.modSrv n f).regions = s.regions := rfl
@[simp] theorem State.modSrv_stks (n : Nat) (f : Srv → Srv) : (s.modSrv n f).stks = s.stks := rfl
@[simp] theorem State.modSrv_rereads (n : Nat) (f : Srv → Srv) : (s.modSrv n f).rereads = s.rereads := rfl
@[simp] theorem State.modSrv_hostWaits (n : Nat) (f : Srv → Srv) : (s.modSrv n f).hostWaits = s.hostWaits := rfl
@[simp] theorem State.modSrv_hdm (n : Nat) (f : Srv → Srv) : (s.modSrv n f).hdm = s.hdm := rfl
@[simp] theorem State.modSrv_vats (n : Nat) (f : Srv → Srv) : (s.modSrv n f).vats = s.vats := rfl
@[simp] theorem State.modSrv_nbes (n : Nat) (f : Srv → Srv) : (s.modSrv n f).nbes = s.nbes := rfl
@[simp] theorem State.modSrv_nbeJobs (n : Nat) (f : Srv → Srv) : (s.modSrv n f).nbeJobs = s.nbeJobs := rfl
@[simp] theorem State.modSrv_nextNbeJob (n : Nat) (f : Srv → Srv) : (s.modSrv n f).nextNbeJob = s.nextNbeJob := rfl
@[simp] theorem State.modSrv_jobs (n : Nat) (f : Srv → Srv) : (s.modSrv n f).jobs = s.jobs := rfl
@[simp] theorem State.modSrv_nextJob (n : Nat) (f : Srv → Srv) : (s.modSrv n f).nextJob = s.nextJob := rfl
@[simp] theorem State.modSrv_queues (n : Nat) (f : Srv → Srv) : (s.modSrv n f).queues = s.queues := rfl
@[simp] theorem State.modSrv_queuesNow (n : Nat) (f : Srv → Srv) : (s.modSrv n f).queuesNow = s.queuesNow := rfl
@[simp] theorem State.modSrv_ports (n : Nat) (f : Srv → Srv) : (s.modSrv n f).ports = s.ports := rfl
@[simp] theorem State.modSrv_pwr (n : Nat) (f : Srv → Srv) : (s.modSrv n f).pwr = s.pwr := rfl
@[simp] theorem State.modSrv_thm (n : Nat) (f : Srv → Srv) : (s.modSrv n f).thm = s.thm := rfl
@[simp] theorem State.modSrv_err (n : Nat) (f : Srv → Srv) : (s.modSrv n f).err = s.err := rfl
@[simp] theorem State.modSrv_sec (n : Nat) (f : Srv → Srv) : (s.modSrv n f).sec = s.sec := rfl
@[simp] theorem State.modSrv_mgt (n : Nat) (f : Srv → Srv) : (s.modSrv n f).mgt = s.mgt := rfl
@[simp] theorem State.modSrv_evc (n : Nat) (f : Srv → Srv) : (s.modSrv n f).evc = s.evc := rfl
@[simp] theorem State.modSrv_tst (n : Nat) (f : Srv → Srv) : (s.modSrv n f).tst = s.tst := rfl
@[simp] theorem State.modSrv_part (n : Nat) (f : Srv → Srv) (m : Nat) : (s.modSrv n f).part m = s.part m := rfl
@[simp] theorem State.modSrv_vf (n : Nat) (f : Srv → Srv) (m : Nat) : (s.modSrv n f).vf m = s.vf m := rfl
@[simp] theorem State.modSrv_ring (n : Nat) (f : Srv → Srv) (m q : Nat) : (s.modSrv n f).ring m q = s.ring m q := rfl
@[simp] theorem State.modSrv_vat (n : Nat) (f : Srv → Srv) (w : Nat) : (s.modSrv n f).vat w = s.vat w := rfl
@[simp] theorem State.modSrv_nbe (n : Nat) (f : Srv → Srv) (j : Nat) : (s.modSrv n f).nbe j = s.nbe j := rfl
@[simp] theorem State.modSrv_port (n : Nat) (f : Srv → Srv) (q : Nat) : (s.modSrv n f).port q = s.port q := rfl
@[simp] theorem State.modSrv_stk (n : Nat) (f : Srv → Srv) (j : Nat) : (s.modSrv n f).stk j = s.stk j := rfl
@[simp] theorem State.modSrv_region (n : Nat) (f : Srv → Srv) (j : Nat) : (s.modSrv n f).region j = s.region j := rfl
@[simp] theorem State.modSrv_slot (n : Nat) (f : Srv → Srv) (j : Nat) : (s.modSrv n f).slot j = s.slot j := rfl
@[simp] theorem State.modSrv_sensor (n : Nat) (f : Srv → Srv) (j : Nat) : (s.modSrv n f).sensor j = s.sensor j := rfl
@[simp] theorem State.modSrv_vpoint (n : Nat) (f : Srv → Srv) (j : Nat) : (s.modSrv n f).vpoint j = s.vpoint j := rfl
@[simp] theorem State.modSrv_evq (n : Nat) (f : Srv → Srv) (j : Nat) : (s.modSrv n f).evq j = s.evq j := rfl
@[simp] theorem State.modSrv_msixOf (n : Nat) (f : Srv → Srv) (j : Nat) : (s.modSrv n f).msixOf j = s.msixOf j := rfl

/-! ### modMsix -/

@[simp] theorem State.modMsix_pending (k : Nat) (f : Msix → Msix) : (s.modMsix k f).pending = s.pending := rfl
@[simp] theorem State.modMsix_freshCount (k : Nat) (f : Msix → Msix) : (s.modMsix k f).freshCount = s.freshCount := rfl
@[simp] theorem State.modMsix_stamp (k : Nat) (f : Msix → Msix) : (s.modMsix k f).stamp = s.stamp := rfl
@[simp] theorem State.modMsix_out (k : Nat) (f : Msix → Msix) : (s.modMsix k f).out = s.out := rfl
@[simp] theorem State.modMsix_errs (k : Nat) (f : Msix → Msix) : (s.modMsix k f).errs = s.errs := rfl
@[simp] theorem State.modMsix_blocked (k : Nat) (f : Msix → Msix) : (s.modMsix k f).blocked = s.blocked := rfl
@[simp] theorem State.modMsix_pins (k : Nat) (f : Msix → Msix) : (s.modMsix k f).pins = s.pins := rfl
@[simp] theorem State.modMsix_gen (k : Nat) (f : Msix → Msix) : (s.modMsix k f).gen = s.gen := rfl
@[simp] theorem State.modMsix_otp (k : Nat) (f : Msix → Msix) : (s.modMsix k f).otp = s.otp := rfl
@[simp] theorem State.modMsix_flash (k : Nat) (f : Msix → Msix) : (s.modMsix k f).flash = s.flash := rfl
@[simp] theorem State.modMsix_tmb (k : Nat) (f : Msix → Msix) : (s.modMsix k f).tmb = s.tmb := rfl
@[simp] theorem State.modMsix_parts (k : Nat) (f : Msix → Msix) : (s.modMsix k f).parts = s.parts := rfl
@[simp] theorem State.modMsix_vfs (k : Nat) (f : Msix → Msix) : (s.modMsix k f).vfs = s.vfs := rfl
@[simp] theorem State.modMsix_done (k : Nat) (f : Msix → Msix) : (s.modMsix k f).done = s.done := rfl
@[simp] theorem State.modMsix_mem (k : Nat) (f : Msix → Msix) : (s.modMsix k f).mem = s.mem := rfl
@[simp] theorem State.modMsix_regions (k : Nat) (f : Msix → Msix) : (s.modMsix k f).regions = s.regions := rfl
@[simp] theorem State.modMsix_stks (k : Nat) (f : Msix → Msix) : (s.modMsix k f).stks = s.stks := rfl
@[simp] theorem State.modMsix_rereads (k : Nat) (f : Msix → Msix) : (s.modMsix k f).rereads = s.rereads := rfl
@[simp] theorem State.modMsix_hostWaits (k : Nat) (f : Msix → Msix) : (s.modMsix k f).hostWaits = s.hostWaits := rfl
@[simp] theorem State.modMsix_hdm (k : Nat) (f : Msix → Msix) : (s.modMsix k f).hdm = s.hdm := rfl
@[simp] theorem State.modMsix_vats (k : Nat) (f : Msix → Msix) : (s.modMsix k f).vats = s.vats := rfl
@[simp] theorem State.modMsix_nbes (k : Nat) (f : Msix → Msix) : (s.modMsix k f).nbes = s.nbes := rfl
@[simp] theorem State.modMsix_nbeJobs (k : Nat) (f : Msix → Msix) : (s.modMsix k f).nbeJobs = s.nbeJobs := rfl
@[simp] theorem State.modMsix_nextNbeJob (k : Nat) (f : Msix → Msix) : (s.modMsix k f).nextNbeJob = s.nextNbeJob := rfl
@[simp] theorem State.modMsix_jobs (k : Nat) (f : Msix → Msix) : (s.modMsix k f).jobs = s.jobs := rfl
@[simp] theorem State.modMsix_nextJob (k : Nat) (f : Msix → Msix) : (s.modMsix k f).nextJob = s.nextJob := rfl
@[simp] theorem State.modMsix_srvs (k : Nat) (f : Msix → Msix) : (s.modMsix k f).srvs = s.srvs := rfl
@[simp] theorem State.modMsix_queues (k : Nat) (f : Msix → Msix) : (s.modMsix k f).queues = s.queues := rfl
@[simp] theorem State.modMsix_queuesNow (k : Nat) (f : Msix → Msix) : (s.modMsix k f).queuesNow = s.queuesNow := rfl
@[simp] theorem State.modMsix_ports (k : Nat) (f : Msix → Msix) : (s.modMsix k f).ports = s.ports := rfl
@[simp] theorem State.modMsix_pwr (k : Nat) (f : Msix → Msix) : (s.modMsix k f).pwr = s.pwr := rfl
@[simp] theorem State.modMsix_thm (k : Nat) (f : Msix → Msix) : (s.modMsix k f).thm = s.thm := rfl
@[simp] theorem State.modMsix_err (k : Nat) (f : Msix → Msix) : (s.modMsix k f).err = s.err := rfl
@[simp] theorem State.modMsix_sec (k : Nat) (f : Msix → Msix) : (s.modMsix k f).sec = s.sec := rfl
@[simp] theorem State.modMsix_mgt (k : Nat) (f : Msix → Msix) : (s.modMsix k f).mgt = s.mgt := rfl
@[simp] theorem State.modMsix_evc (k : Nat) (f : Msix → Msix) : (s.modMsix k f).evc = s.evc := rfl
@[simp] theorem State.modMsix_tst (k : Nat) (f : Msix → Msix) : (s.modMsix k f).tst = s.tst := rfl
@[simp] theorem State.modMsix_part (k : Nat) (f : Msix → Msix) (m : Nat) : (s.modMsix k f).part m = s.part m := rfl
@[simp] theorem State.modMsix_vf (k : Nat) (f : Msix → Msix) (m : Nat) : (s.modMsix k f).vf m = s.vf m := rfl
@[simp] theorem State.modMsix_ring (k : Nat) (f : Msix → Msix) (m q : Nat) : (s.modMsix k f).ring m q = s.ring m q := rfl
@[simp] theorem State.modMsix_vat (k : Nat) (f : Msix → Msix) (w : Nat) : (s.modMsix k f).vat w = s.vat w := rfl
@[simp] theorem State.modMsix_nbe (k : Nat) (f : Msix → Msix) (j : Nat) : (s.modMsix k f).nbe j = s.nbe j := rfl
@[simp] theorem State.modMsix_port (k : Nat) (f : Msix → Msix) (q : Nat) : (s.modMsix k f).port q = s.port q := rfl
@[simp] theorem State.modMsix_stk (k : Nat) (f : Msix → Msix) (j : Nat) : (s.modMsix k f).stk j = s.stk j := rfl
@[simp] theorem State.modMsix_region (k : Nat) (f : Msix → Msix) (j : Nat) : (s.modMsix k f).region j = s.region j := rfl
@[simp] theorem State.modMsix_slot (k : Nat) (f : Msix → Msix) (j : Nat) : (s.modMsix k f).slot j = s.slot j := rfl
@[simp] theorem State.modMsix_sensor (k : Nat) (f : Msix → Msix) (j : Nat) : (s.modMsix k f).sensor j = s.sensor j := rfl
@[simp] theorem State.modMsix_vpoint (k : Nat) (f : Msix → Msix) (j : Nat) : (s.modMsix k f).vpoint j = s.vpoint j := rfl
@[simp] theorem State.modMsix_evq (k : Nat) (f : Msix → Msix) (j : Nat) : (s.modMsix k f).evq j = s.evq j := rfl
@[simp] theorem State.modMsix_srv (k : Nat) (f : Msix → Msix) (m : Nat) : (s.modMsix k f).srv m = s.srv m := rfl

/-! ### drew -/

@[simp] theorem State.drew_pending : (s.drew).pending = s.pending := rfl
@[simp] theorem State.drew_stamp : (s.drew).stamp = s.stamp := rfl
@[simp] theorem State.drew_out : (s.drew).out = s.out := rfl
@[simp] theorem State.drew_errs : (s.drew).errs = s.errs := rfl
@[simp] theorem State.drew_blocked : (s.drew).blocked = s.blocked := rfl
@[simp] theorem State.drew_msix : (s.drew).msix = s.msix := rfl
@[simp] theorem State.drew_pins : (s.drew).pins = s.pins := rfl
@[simp] theorem State.drew_gen : (s.drew).gen = s.gen := rfl
@[simp] theorem State.drew_otp : (s.drew).otp = s.otp := rfl
@[simp] theorem State.drew_flash : (s.drew).flash = s.flash := rfl
@[simp] theorem State.drew_tmb : (s.drew).tmb = s.tmb := rfl
@[simp] theorem State.drew_parts : (s.drew).parts = s.parts := rfl
@[simp] theorem State.drew_vfs : (s.drew).vfs = s.vfs := rfl
@[simp] theorem State.drew_done : (s.drew).done = s.done := rfl
@[simp] theorem State.drew_mem : (s.drew).mem = s.mem := rfl
@[simp] theorem State.drew_regions : (s.drew).regions = s.regions := rfl
@[simp] theorem State.drew_stks : (s.drew).stks = s.stks := rfl
@[simp] theorem State.drew_rereads : (s.drew).rereads = s.rereads := rfl
@[simp] theorem State.drew_hostWaits : (s.drew).hostWaits = s.hostWaits := rfl
@[simp] theorem State.drew_hdm : (s.drew).hdm = s.hdm := rfl
@[simp] theorem State.drew_vats : (s.drew).vats = s.vats := rfl
@[simp] theorem State.drew_nbes : (s.drew).nbes = s.nbes := rfl
@[simp] theorem State.drew_nbeJobs : (s.drew).nbeJobs = s.nbeJobs := rfl
@[simp] theorem State.drew_nextNbeJob : (s.drew).nextNbeJob = s.nextNbeJob := rfl
@[simp] theorem State.drew_jobs : (s.drew).jobs = s.jobs := rfl
@[simp] theorem State.drew_nextJob : (s.drew).nextJob = s.nextJob := rfl
@[simp] theorem State.drew_srvs : (s.drew).srvs = s.srvs := rfl
@[simp] theorem State.drew_queues : (s.drew).queues = s.queues := rfl
@[simp] theorem State.drew_queuesNow : (s.drew).queuesNow = s.queuesNow := rfl
@[simp] theorem State.drew_ports : (s.drew).ports = s.ports := rfl
@[simp] theorem State.drew_pwr : (s.drew).pwr = s.pwr := rfl
@[simp] theorem State.drew_thm : (s.drew).thm = s.thm := rfl
@[simp] theorem State.drew_err : (s.drew).err = s.err := rfl
@[simp] theorem State.drew_sec : (s.drew).sec = s.sec := rfl
@[simp] theorem State.drew_mgt : (s.drew).mgt = s.mgt := rfl
@[simp] theorem State.drew_evc : (s.drew).evc = s.evc := rfl
@[simp] theorem State.drew_tst : (s.drew).tst = s.tst := rfl
@[simp] theorem State.drew_part (m : Nat) : (s.drew).part m = s.part m := rfl
@[simp] theorem State.drew_vf (m : Nat) : (s.drew).vf m = s.vf m := rfl
@[simp] theorem State.drew_ring (m q : Nat) : (s.drew).ring m q = s.ring m q := rfl
@[simp] theorem State.drew_vat (w : Nat) : (s.drew).vat w = s.vat w := rfl
@[simp] theorem State.drew_nbe (j : Nat) : (s.drew).nbe j = s.nbe j := rfl
@[simp] theorem State.drew_port (q : Nat) : (s.drew).port q = s.port q := rfl
@[simp] theorem State.drew_stk (j : Nat) : (s.drew).stk j = s.stk j := rfl
@[simp] theorem State.drew_region (j : Nat) : (s.drew).region j = s.region j := rfl
@[simp] theorem State.drew_slot (j : Nat) : (s.drew).slot j = s.slot j := rfl
@[simp] theorem State.drew_sensor (j : Nat) : (s.drew).sensor j = s.sensor j := rfl
@[simp] theorem State.drew_vpoint (j : Nat) : (s.drew).vpoint j = s.vpoint j := rfl
@[simp] theorem State.drew_evq (j : Nat) : (s.drew).evq j = s.evq j := rfl
@[simp] theorem State.drew_srv (m : Nat) : (s.drew).srv m = s.srv m := rfl
@[simp] theorem State.drew_msixOf (j : Nat) : (s.drew).msixOf j = s.msixOf j := rfl

/-! ### stamped -/

@[simp] theorem State.stamped_pending : (s.stamped).pending = s.pending := rfl
@[simp] theorem State.stamped_freshCount : (s.stamped).freshCount = s.freshCount := rfl
@[simp] theorem State.stamped_out : (s.stamped).out = s.out := rfl
@[simp] theorem State.stamped_errs : (s.stamped).errs = s.errs := rfl
@[simp] theorem State.stamped_blocked : (s.stamped).blocked = s.blocked := rfl
@[simp] theorem State.stamped_msix : (s.stamped).msix = s.msix := rfl
@[simp] theorem State.stamped_pins : (s.stamped).pins = s.pins := rfl
@[simp] theorem State.stamped_gen : (s.stamped).gen = s.gen := rfl
@[simp] theorem State.stamped_otp : (s.stamped).otp = s.otp := rfl
@[simp] theorem State.stamped_flash : (s.stamped).flash = s.flash := rfl
@[simp] theorem State.stamped_tmb : (s.stamped).tmb = s.tmb := rfl
@[simp] theorem State.stamped_parts : (s.stamped).parts = s.parts := rfl
@[simp] theorem State.stamped_vfs : (s.stamped).vfs = s.vfs := rfl
@[simp] theorem State.stamped_done : (s.stamped).done = s.done := rfl
@[simp] theorem State.stamped_mem : (s.stamped).mem = s.mem := rfl
@[simp] theorem State.stamped_regions : (s.stamped).regions = s.regions := rfl
@[simp] theorem State.stamped_stks : (s.stamped).stks = s.stks := rfl
@[simp] theorem State.stamped_rereads : (s.stamped).rereads = s.rereads := rfl
@[simp] theorem State.stamped_hostWaits : (s.stamped).hostWaits = s.hostWaits := rfl
@[simp] theorem State.stamped_hdm : (s.stamped).hdm = s.hdm := rfl
@[simp] theorem State.stamped_vats : (s.stamped).vats = s.vats := rfl
@[simp] theorem State.stamped_nbes : (s.stamped).nbes = s.nbes := rfl
@[simp] theorem State.stamped_nbeJobs : (s.stamped).nbeJobs = s.nbeJobs := rfl
@[simp] theorem State.stamped_nextNbeJob : (s.stamped).nextNbeJob = s.nextNbeJob := rfl
@[simp] theorem State.stamped_jobs : (s.stamped).jobs = s.jobs := rfl
@[simp] theorem State.stamped_nextJob : (s.stamped).nextJob = s.nextJob := rfl
@[simp] theorem State.stamped_srvs : (s.stamped).srvs = s.srvs := rfl
@[simp] theorem State.stamped_queues : (s.stamped).queues = s.queues := rfl
@[simp] theorem State.stamped_queuesNow : (s.stamped).queuesNow = s.queuesNow := rfl
@[simp] theorem State.stamped_ports : (s.stamped).ports = s.ports := rfl
@[simp] theorem State.stamped_pwr : (s.stamped).pwr = s.pwr := rfl
@[simp] theorem State.stamped_thm : (s.stamped).thm = s.thm := rfl
@[simp] theorem State.stamped_err : (s.stamped).err = s.err := rfl
@[simp] theorem State.stamped_sec : (s.stamped).sec = s.sec := rfl
@[simp] theorem State.stamped_mgt : (s.stamped).mgt = s.mgt := rfl
@[simp] theorem State.stamped_evc : (s.stamped).evc = s.evc := rfl
@[simp] theorem State.stamped_tst : (s.stamped).tst = s.tst := rfl
@[simp] theorem State.stamped_part (m : Nat) : (s.stamped).part m = s.part m := rfl
@[simp] theorem State.stamped_vf (m : Nat) : (s.stamped).vf m = s.vf m := rfl
@[simp] theorem State.stamped_ring (m q : Nat) : (s.stamped).ring m q = s.ring m q := rfl
@[simp] theorem State.stamped_vat (w : Nat) : (s.stamped).vat w = s.vat w := rfl
@[simp] theorem State.stamped_nbe (j : Nat) : (s.stamped).nbe j = s.nbe j := rfl
@[simp] theorem State.stamped_port (q : Nat) : (s.stamped).port q = s.port q := rfl
@[simp] theorem State.stamped_stk (j : Nat) : (s.stamped).stk j = s.stk j := rfl
@[simp] theorem State.stamped_region (j : Nat) : (s.stamped).region j = s.region j := rfl
@[simp] theorem State.stamped_slot (j : Nat) : (s.stamped).slot j = s.slot j := rfl
@[simp] theorem State.stamped_sensor (j : Nat) : (s.stamped).sensor j = s.sensor j := rfl
@[simp] theorem State.stamped_vpoint (j : Nat) : (s.stamped).vpoint j = s.vpoint j := rfl
@[simp] theorem State.stamped_evq (j : Nat) : (s.stamped).evq j = s.evq j := rfl
@[simp] theorem State.stamped_srv (m : Nat) : (s.stamped).srv m = s.srv m := rfl
@[simp] theorem State.stamped_msixOf (j : Nat) : (s.stamped).msixOf j = s.msixOf j := rfl

/-! ### emit -/

@[simp] theorem State.emit_pending (o : Output) : (s.emit o).pending = s.pending := rfl
@[simp] theorem State.emit_freshCount (o : Output) : (s.emit o).freshCount = s.freshCount := rfl
@[simp] theorem State.emit_stamp (o : Output) : (s.emit o).stamp = s.stamp := rfl
@[simp] theorem State.emit_errs (o : Output) : (s.emit o).errs = s.errs := rfl
@[simp] theorem State.emit_blocked (o : Output) : (s.emit o).blocked = s.blocked := rfl
@[simp] theorem State.emit_msix (o : Output) : (s.emit o).msix = s.msix := rfl
@[simp] theorem State.emit_pins (o : Output) : (s.emit o).pins = s.pins := rfl
@[simp] theorem State.emit_gen (o : Output) : (s.emit o).gen = s.gen := rfl
@[simp] theorem State.emit_otp (o : Output) : (s.emit o).otp = s.otp := rfl
@[simp] theorem State.emit_flash (o : Output) : (s.emit o).flash = s.flash := rfl
@[simp] theorem State.emit_tmb (o : Output) : (s.emit o).tmb = s.tmb := rfl
@[simp] theorem State.emit_parts (o : Output) : (s.emit o).parts = s.parts := rfl
@[simp] theorem State.emit_vfs (o : Output) : (s.emit o).vfs = s.vfs := rfl
@[simp] theorem State.emit_done (o : Output) : (s.emit o).done = s.done := rfl
@[simp] theorem State.emit_mem (o : Output) : (s.emit o).mem = s.mem := rfl
@[simp] theorem State.emit_regions (o : Output) : (s.emit o).regions = s.regions := rfl
@[simp] theorem State.emit_stks (o : Output) : (s.emit o).stks = s.stks := rfl
@[simp] theorem State.emit_rereads (o : Output) : (s.emit o).rereads = s.rereads := rfl
@[simp] theorem State.emit_hostWaits (o : Output) : (s.emit o).hostWaits = s.hostWaits := rfl
@[simp] theorem State.emit_hdm (o : Output) : (s.emit o).hdm = s.hdm := rfl
@[simp] theorem State.emit_vats (o : Output) : (s.emit o).vats = s.vats := rfl
@[simp] theorem State.emit_nbes (o : Output) : (s.emit o).nbes = s.nbes := rfl
@[simp] theorem State.emit_nbeJobs (o : Output) : (s.emit o).nbeJobs = s.nbeJobs := rfl
@[simp] theorem State.emit_nextNbeJob (o : Output) : (s.emit o).nextNbeJob = s.nextNbeJob := rfl
@[simp] theorem State.emit_jobs (o : Output) : (s.emit o).jobs = s.jobs := rfl
@[simp] theorem State.emit_nextJob (o : Output) : (s.emit o).nextJob = s.nextJob := rfl
@[simp] theorem State.emit_srvs (o : Output) : (s.emit o).srvs = s.srvs := rfl
@[simp] theorem State.emit_queues (o : Output) : (s.emit o).queues = s.queues := rfl
@[simp] theorem State.emit_queuesNow (o : Output) : (s.emit o).queuesNow = s.queuesNow := rfl
@[simp] theorem State.emit_ports (o : Output) : (s.emit o).ports = s.ports := rfl
@[simp] theorem State.emit_pwr (o : Output) : (s.emit o).pwr = s.pwr := rfl
@[simp] theorem State.emit_thm (o : Output) : (s.emit o).thm = s.thm := rfl
@[simp] theorem State.emit_err (o : Output) : (s.emit o).err = s.err := rfl
@[simp] theorem State.emit_sec (o : Output) : (s.emit o).sec = s.sec := rfl
@[simp] theorem State.emit_mgt (o : Output) : (s.emit o).mgt = s.mgt := rfl
@[simp] theorem State.emit_evc (o : Output) : (s.emit o).evc = s.evc := rfl
@[simp] theorem State.emit_tst (o : Output) : (s.emit o).tst = s.tst := rfl
@[simp] theorem State.emit_part (o : Output) (m : Nat) : (s.emit o).part m = s.part m := rfl
@[simp] theorem State.emit_vf (o : Output) (m : Nat) : (s.emit o).vf m = s.vf m := rfl
@[simp] theorem State.emit_ring (o : Output) (m q : Nat) : (s.emit o).ring m q = s.ring m q := rfl
@[simp] theorem State.emit_vat (o : Output) (w : Nat) : (s.emit o).vat w = s.vat w := rfl
@[simp] theorem State.emit_nbe (o : Output) (j : Nat) : (s.emit o).nbe j = s.nbe j := rfl
@[simp] theorem State.emit_port (o : Output) (q : Nat) : (s.emit o).port q = s.port q := rfl
@[simp] theorem State.emit_stk (o : Output) (j : Nat) : (s.emit o).stk j = s.stk j := rfl
@[simp] theorem State.emit_region (o : Output) (j : Nat) : (s.emit o).region j = s.region j := rfl
@[simp] theorem State.emit_slot (o : Output) (j : Nat) : (s.emit o).slot j = s.slot j := rfl
@[simp] theorem State.emit_sensor (o : Output) (j : Nat) : (s.emit o).sensor j = s.sensor j := rfl
@[simp] theorem State.emit_vpoint (o : Output) (j : Nat) : (s.emit o).vpoint j = s.vpoint j := rfl
@[simp] theorem State.emit_evq (o : Output) (j : Nat) : (s.emit o).evq j = s.evq j := rfl
@[simp] theorem State.emit_srv (o : Output) (m : Nat) : (s.emit o).srv m = s.srv m := rfl
@[simp] theorem State.emit_msixOf (o : Output) (j : Nat) : (s.emit o).msixOf j = s.msixOf j := rfl

/-! ### Reading back -/

theorem State.part_modPart (n m : Nat) (f : Part → Part) :
    (s.modPart n f).part m = if m = n then f (s.part n) else s.part m := tabGet_mod ..
@[simp] theorem State.part_modPart_same (n : Nat) (f : Part → Part) : (s.modPart n f).part n = f (s.part n) :=
  tabGet_mod_same ..
theorem State.vf_modVf (n m : Nat) (f : Vf → Vf) : (s.modVf n f).vf m = if m = n then f (s.vf n) else s.vf m := tabGet_mod ..
@[simp] theorem State.vf_modVf_same (n : Nat) (f : Vf → Vf) : (s.modVf n f).vf n = f (s.vf n) := tabGet_mod_same ..
theorem State.vat_modVat (v w : Nat) (f : Vat → Vat) :
    (s.modVat v f).vat w = if w = v then f (s.vat v) else s.vat w := tabGet_mod ..
@[simp] theorem State.vat_modVat_same (v : Nat) (f : Vat → Vat) : (s.modVat v f).vat v = f (s.vat v) := tabGet_mod_same ..
theorem State.nbe_modNbe (k j : Nat) (f : Nbe → Nbe) :
    (s.modNbe k f).nbe j = if j = k then f (s.nbe k) else s.nbe j := tabGet_mod ..
@[simp] theorem State.nbe_modNbe_same (k : Nat) (f : Nbe → Nbe) : (s.modNbe k f).nbe k = f (s.nbe k) := tabGet_mod_same ..
theorem State.port_modPort (p q : Nat) (f : Port → Port) :
    (s.modPort p f).port q = if q = p then f (s.port p) else s.port q := tabGet_mod ..
@[simp] theorem State.port_modPort_same (p : Nat) (f : Port → Port) : (s.modPort p f).port p = f (s.port p) :=
  tabGet_mod_same ..
theorem State.stk_modStk (k j : Nat) (f : StackRegs → StackRegs) :
    (s.modStk k f).stk j = if j = k then f (s.stk k) else s.stk j := tabGet_mod ..
@[simp] theorem State.stk_modStk_same (k : Nat) (f : StackRegs → StackRegs) : (s.modStk k f).stk k = f (s.stk k) :=
  tabGet_mod_same ..
theorem State.region_modRegion (k j : Nat) (f : Region → Region) :
    (s.modRegion k f).region j = if j = k then f (s.region k) else s.region j := tabGet_mod ..
@[simp] theorem State.region_modRegion_same (k : Nat) (f : Region → Region) :
    (s.modRegion k f).region k = f (s.region k) := tabGet_mod_same ..
theorem State.slot_modSlot (k j : Nat) (f : SwarmSlot → SwarmSlot) :
    (s.modSlot k f).slot j = if j = k then f (s.slot k) else s.slot j := tabGet_mod ..
@[simp] theorem State.slot_modSlot_same (k : Nat) (f : SwarmSlot → SwarmSlot) : (s.modSlot k f).slot k = f (s.slot k) :=
  tabGet_mod_same ..
theorem State.sensor_modSensor (k j : Nat) (f : Sensor → Sensor) :
    (s.modSensor k f).sensor j = if j = k then f (s.sensor k) else s.sensor j := tabGet_mod ..
@[simp] theorem State.sensor_modSensor_same (k : Nat) (f : Sensor → Sensor) :
    (s.modSensor k f).sensor k = f (s.sensor k) := tabGet_mod_same ..
theorem State.vpoint_modVpoint (k j : Nat) (f : VPoint → VPoint) :
    (s.modVpoint k f).vpoint j = if j = k then f (s.vpoint k) else s.vpoint j := tabGet_mod ..
@[simp] theorem State.vpoint_modVpoint_same (k : Nat) (f : VPoint → VPoint) :
    (s.modVpoint k f).vpoint k = f (s.vpoint k) := tabGet_mod_same ..
theorem State.evq_modEvq (k j : Nat) (f : EvQueue → EvQueue) :
    (s.modEvq k f).evq j = if j = k then f (s.evq k) else s.evq j := tabGet_mod ..
@[simp] theorem State.evq_modEvq_same (k : Nat) (f : EvQueue → EvQueue) : (s.modEvq k f).evq k = f (s.evq k) :=
  tabGet_mod_same ..
theorem State.msixOf_modMsix (k j : Nat) (f : Msix → Msix) :
    (s.modMsix k f).msixOf j = if j = k then f (s.msixOf k) else s.msixOf j := tabGet_mod ..
@[simp] theorem State.msixOf_modMsix_same (k : Nat) (f : Msix → Msix) : (s.modMsix k f).msixOf k = f (s.msixOf k) :=
  tabGet_mod_same ..
theorem State.srv_modSrv (n m : Nat) (f : Srv → Srv) :
    (s.modSrv n f).srv m = if m = n then f (s.srv n) else s.srv m := tabGet_mod ..
@[simp] theorem State.srv_modSrv_same (n : Nat) (f : Srv → Srv) : (s.modSrv n f).srv n = f (s.srv n) := tabGet_mod_same ..

theorem State.ring_modRing (n r m q : Nat) (f : Ring → Ring) :
    (s.modRing n r f).ring m q = if m = n ∧ q = r then f (s.ring n r) else s.ring m q := by
  unfold State.modRing State.ring
  rw [State.vf_modVf]
  by_cases h : m = n
  · subst h
    simp only [if_true, true_and]
    rw [tabGet_mod]
  · simp [h]

@[simp] theorem State.ring_modRing_same (n r : Nat) (f : Ring → Ring) :
    (s.modRing n r f).ring n r = f (s.ring n r) := by simp [State.ring_modRing]

@[simp] theorem State.emit_out_eq (o : Output) : (s.emit o).out = s.out ++ [o] := rfl
@[simp] theorem State.drew_count : s.drew.freshCount = s.freshCount + 1 := rfl
@[simp] theorem State.stamped_count : s.stamped.stamp = s.stamp + 1 := rfl

/-- A replacement of a job changes the job table alone. -/
theorem State.modJob_only (j : Nat) (f : Job → Job) : ∃ js, s.modJob j f = { s with jobs := js } := by
  unfold State.modJob
  split
  · exact ⟨_, rfl⟩
  · exact ⟨s.jobs, rfl⟩

/-! ### Carrying a command out -/

/-- What a command leaves has memory in canonical form, the queue as it was, and nothing under way. -/
@[simp] theorem State.after_mem (s t : State) : (s.after t).mem = t.mem.canon := rfl
@[simp] theorem State.after_pending (s t : State) : (s.after t).pending = s.pending := rfl
@[simp] theorem State.after_errs (s t : State) : (s.after t).errs = [] := rfl
@[simp] theorem State.after_blocked (s t : State) : (s.after t).blocked = false := rfl

/-- It is the effect itself where that keeps the queue and memory's form and leaves nothing under way. -/
theorem State.after_eq {s t : State} (hp : t.pending = s.pending) (hm : t.mem.wf = true) (he : t.errs = [])
    (hb : t.blocked = false) : s.after t = t := by
  unfold State.after
  rw [Mem.canon_of_wf hm, ← hp, ← he, ← hb]

/-- A command always answers a next state. -/
theorem act_next (f : State → State) (s : State) : act f s = .next (s.after (f s)) := rfl

/-- A command that reads the stacks answers a next state: its effect, or none while it has to wait. -/
theorem actOn_next (errs : Errs) (f : State → State) (s : State) :
    actOn errs f s = .next (s.after (if (f { s with errs := errs }).blocked then s else f { s with errs := errs })) := rfl

/-- A running device has the effect. -/
theorem whenRunning_on {s : State} (h : s.running = true) (f : State → State) : whenRunning f s = f s := by
  simp [whenRunning, h]

/-- A device that does not run keeps its state. -/
theorem whenRunning_off {s : State} (h : s.running = false) (f : State → State) : whenRunning f s = s := by
  simp [whenRunning, h]

end Sys2Proof.Machine
end

