-- ==== Sys2Proof/Laws/Ops.lean ====
section
/-! SUPPORT. What the shared operations can do: one lemma for each says which fields of State it may change, and the
lemmas of completion say what a descriptor's end leaves. -/

namespace Sys2Proof.Machine

variable (s : State)

/-! ### Event controller -/

theorem EvcOnly.refl : EvcOnly s s := ⟨s.evc, s.msix, s.out, rfl⟩

theorem EvcOnly.trans {s t u : State} (h : EvcOnly s t) (g : EvcOnly t u) : EvcOnly s u := by
  obtain ⟨e, m, o, rfl⟩ := h
  obtain ⟨e', m', o', rfl⟩ := g
  exact ⟨e', m', o', rfl⟩

theorem State.emit_evcOnly (o : Output) : EvcOnly s (s.emit o) := ⟨s.evc, s.msix, _, rfl⟩

theorem State.setEvc_evcOnly (e : Evc) : EvcOnly s { s with evc := e } := ⟨e, s.msix, s.out, rfl⟩

theorem State.modEvq_evcOnly (fn : Nat) (f : EvQueue → EvQueue) : EvcOnly s (s.modEvq fn f) := ⟨_, s.msix, s.out, rfl⟩

/-- A vector that is due changes pending bits and the outputs alone. -/
theorem State.interrupt_evcOnly (fn k : Nat) : EvcOnly s (s.interrupt fn k) := by
  unfold State.interrupt
  dsimp only
  split
  · exact .refl s
  · split
    · exact ⟨s.evc, _, s.out, rfl⟩
    · exact s.emit_evcOnly _

/-- A write of host memory changes the outputs alone. -/
theorem State.hostPut_evcOnly (fn : Nat) (addr : DWord) (bytes : List Byte) : EvcOnly s (s.hostPut fn addr bytes) := by
  unfold State.hostPut
  split
  · exact (s.emit_evcOnly _).trans (State.emit_evcOnly _ _)
  · exact s.emit_evcOnly _

theorem State.evqWrite_evcOnly (fn : Nat) (body : List Byte) : EvcOnly s (s.evqWrite fn body) := by
  unfold State.evqWrite
  dsimp only
  split
  · exact ((s.modEvq_evcOnly _ _).trans (State.hostPut_evcOnly _ _ _ _)).trans (State.interrupt_evcOnly _ _ _)
  · exact (s.modEvq_evcOnly _ _).trans (State.hostPut_evcOnly _ _ _ _)

theorem State.vfPost_evcOnly (n k beat info : Nat) : EvcOnly s (s.vfPost n k beat info) := by
  unfold State.vfPost
  dsimp only
  split
  · exact .refl s
  · split
    · exact (s.evqWrite_evcOnly _ _).trans (State.modEvq_evcOnly _ _ _)
    · exact s.modEvq_evcOnly _ _

theorem hevosServe_evcOnly (k : Nat) (s : State) : EvcOnly s (hevosServe k s) := by
  induction k generalizing s with
  | zero => exact .refl s
  | succ k ih =>
    unfold hevosServe
    split
    · exact .refl s
    · split
      · exact .refl s
      · rename_i c _ _
        refine EvcOnly.trans (s.setEvc_evcOnly (s.evc.taken 1 c)) ?_
        dsimp only
        split
        · exact (State.emit_evcOnly _ _).trans (ih _)
        · exact ih _

theorem pfQueueServe_evcOnly (k : Nat) (s : State) : EvcOnly s (pfQueueServe k s) := by
  induction k generalizing s with
  | zero => exact .refl s
  | succ k ih =>
    unfold pfQueueServe
    split
    · exact .refl s
    · dsimp only
      split
      · exact ((s.evqWrite_evcOnly _ _).trans (State.setEvc_evcOnly _ _)).trans (ih _)
      · exact .refl s

theorem State.evcServe_evcOnly (was : Bool) : EvcOnly s (s.evcServe was) := by
  unfold State.evcServe
  refine (hevosServe_evcOnly 256 s).trans ?_
  generalize hevosServe 256 s = u
  dsimp only
  split
  · exact pfQueueServe_evcOnly 256 u
  · split
    · exact u.interrupt_evcOnly _ _
    · exact .refl u

theorem State.evcDo_evcOnly (f : Evc → Evc) : EvcOnly s (s.evcDo f) :=
  (s.setEvc_evcOnly _).trans (State.evcServe_evcOnly _ _)

/-- Raising a source changes the event controller and the outputs alone. -/
theorem State.raise_evcOnly (k info : Nat) : EvcOnly s (s.raise k info) := by
  unfold State.raise
  split
  · exact .refl s
  · dsimp only
    split
    · exact (s.evcDo_evcOnly _).trans (State.vfPost_evcOnly _ _ _ _ _)
    · exact s.evcDo_evcOnly _

/-! ### The error log -/

theorem LogOnly.refl : LogOnly s s := ⟨s.err, s.evc, s.msix, s.out, rfl⟩

theorem LogOnly.trans {s t u : State} (h : LogOnly s t) (g : LogOnly t u) : LogOnly s u := by
  obtain ⟨l, e, m, o, rfl⟩ := h
  obtain ⟨l', e', m', o', rfl⟩ := g
  exact ⟨l', e', m', o', rfl⟩

theorem EvcOnly.logOnly {s t : State} (h : EvcOnly s t) : LogOnly s t := by
  obtain ⟨e, m, o, rfl⟩ := h
  exact ⟨s.err, e, m, o, rfl⟩

/-- The number of a new record. -/
@[simp] theorem State.logError_seq (i : ErrInfo) : (s.logError i).1 = s.err.nextSeq := rfl

theorem State.raise_err (k info : Nat) : (s.raise k info).err = s.err := by
  obtain ⟨e, m, o, h⟩ := s.raise_evcOnly k info
  rw [h]

/-- A new record's state differs in the error log, which `recorded` gives, in the events and in the outputs. -/
theorem State.logError_only (i : ErrInfo) : EvcOnly { s with err := s.recorded i } (s.logError i).2 := by
  unfold State.logError
  dsimp only
  split_ifs
  · exact (State.raise_evcOnly _ _ _).trans (State.vfPost_evcOnly _ _ _ _ _)
  · exact State.vfPost_evcOnly _ _ _ _ _
  · exact State.raise_evcOnly _ _ _
  · exact EvcOnly.refl _

@[simp] theorem State.logError_err (i : ErrInfo) : (s.logError i).2.err = s.recorded i := by
  obtain ⟨e, m, o, h⟩ := s.logError_only i
  rw [h]

@[simp] theorem State.log_err (i : ErrInfo) : (s.log i).err = s.recorded i := s.logError_err i

theorem State.logError_logOnly (i : ErrInfo) : LogOnly s (s.logError i).2 := by
  obtain ⟨e, m, o, h⟩ := s.logError_only i
  rw [h]
  exact ⟨_, e, m, o, rfl⟩

theorem State.log_logOnly (i : ErrInfo) : LogOnly s (s.log i) := s.logError_logOnly i

/-! ### The stacks -/

theorem StackOnly.refl : StackOnly s s := ⟨s.mem, s.stks, s.err, s.evc, s.msix, s.out, s.freshCount, s.blocked, rfl⟩

theorem StackOnly.trans {s t u : State} (h : StackOnly s t) (g : StackOnly t u) : StackOnly s u := by
  obtain ⟨m, x, l, e, i, o, d, b, rfl⟩ := h
  obtain ⟨m', x', l', e', i', o', d', b', rfl⟩ := g
  exact ⟨m', x', l', e', i', o', d', b', rfl⟩

theorem LogOnly.stackOnly {s t : State} (h : LogOnly s t) : StackOnly s t := by
  obtain ⟨l, e, i, o, rfl⟩ := h
  exact ⟨s.mem, s.stks, l, e, i, o, s.freshCount, s.blocked, rfl⟩

theorem State.setMem_stackOnly (m : Mem) : StackOnly s { s with mem := m } :=
  ⟨m, s.stks, s.err, s.evc, s.msix, s.out, s.freshCount, s.blocked, rfl⟩

theorem State.modStk_stackOnly (k : Nat) (f : StackRegs → StackRegs) : StackOnly s (s.modStk k f) :=
  ⟨s.mem, _, s.err, s.evc, s.msix, s.out, s.freshCount, s.blocked, rfl⟩

theorem forAll_stackOnly {α : Type} (f : α → State → State) (h : ∀ a s, StackOnly s (f a s)) (xs : List α) (s : State) :
    StackOnly s (forAll xs f s) := by
  induction xs generalizing s with
  | nil => exact .refl s
  | cons x xs ih => exact (h x s).trans (ih _)

/-- Counting a correctable error changes the stack's registers, the error log, the events and the outputs. -/
theorem State.countCe_stackOnly (k : Nat) : StackOnly s (s.countCe k) := by
  unfold State.countCe
  dsimp only
  split
  · exact (((s.modStk_stackOnly _ _).trans (State.modStk_stackOnly _ _ _)).trans
      (State.log_logOnly _ _).stackOnly).trans (State.raise_evcOnly _ _ _).logOnly.stackOnly
  · exact (s.modStk_stackOnly _ _).trans (State.modStk_stackOnly _ _ _)

theorem State.takeLine_stackOnly (l : Nat) (s : State) : StackOnly s (s.takeLine l) := by
  unfold State.takeLine
  dsimp only
  split
  · exact (s.emit_evcOnly _).logOnly.stackOnly.trans (State.setMem_stackOnly _ _)
  · exact (s.emit_evcOnly _).logOnly.stackOnly

/-- Reaching device ranges takes their host-bias lines, and may find that the command has to wait. -/
theorem State.cohere_stackOnly (segs : List (Nat × Nat)) : StackOnly s (s.cohere segs) := by
  unfold State.cohere
  refine StackOnly.trans ?_ (forAll_stackOnly _ State.takeLine_stackOnly _ _)
  split
  · exact ⟨s.mem, s.stks, s.err, s.evc, s.msix, s.out, s.freshCount, true, rfl⟩
  · exact .refl s

theorem State.markAt_stackOnly (a : Nat) : StackOnly s (s.markAt a) := s.setMem_stackOnly _

theorem State.meetGranule_stackOnly (g : Nat) (s : State) : StackOnly s (s.meetGranule g) := by
  unfold State.meetGranule
  dsimp only
  have h1 : StackOnly s (if (s.guardedAt g && !(s.errsAt g .single).isEmpty) = true then s.countCe (stackOf g) else s) := by
    split
    · exact s.countCe_stackOnly _
    · exact .refl s
  refine StackOnly.trans h1 ?_
  generalize (if (s.guardedAt g && !(s.errsAt g .single).isEmpty) = true then s.countCe (stackOf g) else s) = u
  generalize (s.errsAt g .lost ++ if s.guardedAt g = true then [] else s.errsAt g .single) = lost
  have h2 : StackOnly u (if (s.errsAt g .recovered).isEmpty = true then u else u.countCe (stackOf g)) := by
    split
    · exact .refl u
    · exact u.countCe_stackOnly _
  refine StackOnly.trans h2 ?_
  generalize (if (s.errsAt g .recovered).isEmpty = true then u else u.countCe (stackOf g)) = v
  split
  · exact .refl _
  · exact (forAll_stackOnly _ (fun w s => s.markAt_stackOnly (4 * w)) _ _).trans (State.modStk_stackOnly _ _ _)

/-- The checks of a read change what errors change. -/
theorem State.meet_stackOnly (segs : List (Nat × Nat)) : StackOnly s (s.meet segs) :=
  forAll_stackOnly _ State.meetGranule_stackOnly _ s

/-! ### Windows -/

/-- A read of device ranges. -/
theorem State.readSegs_stackOnly (segs : List (Nat × Nat)) : StackOnly s (s.readSegs segs).2 :=
  ((s.cohere_stackOnly segs).trans (State.meet_stackOnly _ _)).trans
    ⟨_, _, _, _, _, _, _, _, rfl⟩

/-- A read of a window range. -/
theorem State.winRead_stackOnly (n w len : Nat) : StackOnly s (s.winRead n w len).2 := s.readSegs_stackOnly _

/-- A store inside one region. -/
theorem State.storeAt_stackOnly (a : Nat) (bs : List Byte) : StackOnly s (s.storeAt a bs).1 :=
  ((s.cohere_stackOnly _).trans (State.meet_stackOnly _ _)).trans (State.setMem_stackOnly _ _)

theorem writeSegs_stackOnly (segs : List (Nat × Nat)) (bs : List Byte) (s : State) : StackOnly s (writeSegs s segs bs).1 := by
  induction segs generalizing bs s with
  | nil => exact .refl s
  | cons x t ih => exact (s.storeAt_stackOnly x.1 (bs.take x.2)).trans (ih _ _)

/-- A window write. -/
theorem State.winWrite_stackOnly (n w : Nat) (bs : List Byte) : StackOnly s (s.winWrite n w bs).1 := writeSegs_stackOnly _ _ s

/-- A window's whole check words become zero. -/
theorem State.winZero_stackOnly (n w len : Nat) : StackOnly s (s.winZero n w len) :=
  (s.cohere_stackOnly _).trans (State.setMem_stackOnly _ _)

/-- Where no error is told and no line is shared with the host, a read takes nothing and counts only itself. -/
theorem State.meet_none (h : s.errs = []) (segs : List (Nat × Nat)) : s.meet segs = s := by
  unfold State.meet State.badGranules
  rw [h]
  rfl

theorem State.cohere_none (segs : List (Nat × Nat)) (hl : s.hostLines segs = []) (hh : s.held segs = false) :
    s.cohere segs = s := by
  unfold State.cohere
  rw [hl, hh]
  rfl

/-- Device-bias memory that is under no re-read and shows no error is read as it stands. -/
theorem State.readSegs_plain (he : s.errs = []) (segs : List (Nat × Nat)) (hl : s.hostLines segs = []) (hh : s.held segs = false) :
    (s.readSegs segs).2 = s.drew ∧ (s.readSegs segs).1.bytes = segs.flatMap fun x => s.mem.read s.freshCount x.1 x.2 := by
  unfold State.readSegs
  dsimp only
  rw [s.cohere_none segs hl hh, s.meet_none he]
  exact ⟨rfl, rfl⟩

/-! ### The timebase -/

/-- The beat after `k` beats. -/
@[simp] theorem State.advance_beat (k : Nat) : (s.advance k).tmb.beat = (s.tmb.beat + k) % 2 ^ 64 := rfl

/-- Beats that pass change the beat, the transfer clocks and the jobs' beats alone. -/
theorem State.advance_only (k : Nat) :
    ∃ j, s.advance k = { s with tmb := { s.tmb with beat := (s.tmb.beat + k) % 2 ^ 64, clocks := s.clocksAfter k }, jobs := j } :=
  ⟨_, rfl⟩

/-! ### Fabric ports -/

theorem PortOnly.refl : PortOnly s s := ⟨s.ports, s.out, rfl⟩

theorem PortOnly.trans {s t u : State} (h : PortOnly s t) (g : PortOnly t u) : PortOnly s u := by
  obtain ⟨p, o, rfl⟩ := h
  obtain ⟨p', o', rfl⟩ := g
  exact ⟨p', o', rfl⟩

theorem State.modPort_portOnly (p : Nat) (f : Port → Port) : PortOnly s (s.modPort p f) := ⟨_, s.out, rfl⟩

theorem State.emitFrame_portOnly (p : Nat) (nak replay : Bool) (f : SentFrame) : PortOnly s (s.emitFrame p nak replay f) :=
  ⟨s.ports, _, rfl⟩

theorem pump_portOnly (p k : Nat) (s : State) : PortOnly s (pump p k s) := by
  induction k generalizing s with
  | zero => exact .refl s
  | succ k ih =>
    unfold pump
    dsimp only
    generalize (if (s.port p).partnerPause then [] else (s.port p).outCells.take 9) = cells
    split
    · exact .refl s
    · exact ((s.modPort_portOnly _ _).trans (State.emitFrame_portOnly _ _ _ _ _)).trans (ih _)

theorem State.pumped_portOnly (p : Nat) : PortOnly s (s.pumped p) := pump_portOnly _ _ _

/-- Sending a control message changes the ports and the outputs alone. -/
theorem State.sendCtrl_portOnly (p : Nat) (c : Ctrl) : PortOnly s (s.sendCtrl p c) :=
  (s.modPort_portOnly _ _).trans (State.pumped_portOnly _ _)

/-- Sending a transfer changes the ports and the outputs alone. -/
theorem State.sendCells_portOnly (p : Nat) (t : Transfer) : PortOnly s (s.sendCells p t) :=
  (s.modPort_portOnly _ _).trans (State.pumped_portOnly _ _)

/-! ### Records and completions -/

/-- Owing a record changes the rings alone. -/
theorem State.owe_only (n r : Nat) (o : Owed) : ∃ v, s.owe n r o = { s with vfs := v } := by
  unfold State.owe
  dsimp only
  split
  · exact ⟨s.vfs, rfl⟩
  · exact ⟨_, rfl⟩

theorem RingOnly.refl : RingOnly s s := ⟨s.vfs, s.done, s.stamp, rfl⟩

theorem RingOnly.trans {s t u : State} (h : RingOnly s t) (g : RingOnly t u) : RingOnly s u := by
  obtain ⟨p, o, k, rfl⟩ := h
  obtain ⟨p', o', k', rfl⟩ := g
  exact ⟨p', o', k', rfl⟩

theorem State.modRing_ringOnly (n r : Nat) (f : Ring → Ring) : RingOnly s (s.modRing n r f) := ⟨_, s.done, s.stamp, rfl⟩

theorem State.owe_ringOnly (n r : Nat) (o : Owed) : RingOnly s (s.owe n r o) := by
  obtain ⟨v, h⟩ := s.owe_only n r o
  exact ⟨v, s.done, s.stamp, h⟩

theorem State.setDesc_ringOnly (n r id : Nat) (st : DescState) : RingOnly s (s.setDesc n r id st) :=
  s.modRing_ringOnly n r _

/-- A descriptor's end changes the rings, the list of completed descriptors and the order of acceptance alone. -/
theorem State.endDesc_ringOnly (n r id : Nat) (e : Ending) : RingOnly s (s.endDesc n r id e) := by
  unfold State.endDesc
  split
  · exact .refl s
  · rename_i d _
    dsimp only
    have h : RingOnly s (if d.orphan = true ∨ descQuiet d.bits = true ∧ e.status = statusOk then s
        else s.owe n r (endRecord d e)) := by
      split
      · exact .refl s
      · exact s.owe_ringOnly n r _
    exact h.trans ⟨_, _, _, rfl⟩

theorem settleFences_ringOnly (n k : Nat) (s : State) : RingOnly s (settleFences n k s) := by
  induction k generalizing s with
  | zero => exact .refl s
  | succ k ih =>
    unfold settleFences
    dsimp only
    split
    · exact .refl s
    · refine RingOnly.trans ?_ (ih _)
      split
      · exact ((s.endDesc_ringOnly _ _ _ _).trans (State.modRing_ringOnly _ _ _ _)).trans (State.modRing_ringOnly _ _ _ _)
      · exact (s.endDesc_ringOnly _ _ _ _).trans (State.modRing_ringOnly _ _ _ _)

/-- Completing a descriptor changes the rings, the list of completed descriptors and the order of acceptance alone. -/
theorem State.complete_ringOnly (n r id : Nat) (e : Ending) : RingOnly s (s.complete n r id e) :=
  (s.endDesc_ringOnly n r id e).trans (settleFences_ringOnly n 16 _)

/-- A FENCE of the VF covers nothing more and is due to end. -/
def State.fenceDue (s : State) (n : Nat) : Bool := (List.range 8).any fun r => (s.ring n r).descs.any fun d =>
  match d.state with
  | .fence [] _ => true
  | _ => false

/-- Where no FENCE is due to end, settling changes nothing. -/
theorem settleFences_none (n k : Nat) (s : State) (h : s.fenceDue n = false) : settleFences n k s = s := by
  cases k with
  | zero => rfl
  | succ k =>
    unfold settleFences
    dsimp only
    split
    · rfl
    · rename_i r d ready hf
      exfalso
      obtain ⟨a, ha, hb⟩ := List.exists_of_findSome?_eq_some hf
      obtain ⟨x, hx, hy⟩ := List.exists_of_findSome?_eq_some hb
      have : s.fenceDue n = true := by
        unfold State.fenceDue
        rw [List.any_eq_true]
        refine ⟨a, ha, ?_⟩
        rw [List.any_eq_true]
        refine ⟨x, hx, ?_⟩
        cases hst : x.state with
        | fence c rd => cases c <;> simp_all
        | _ => simp_all
      rw [h] at this
      exact absurd this (by decide)

end Sys2Proof.Machine
end

