-- ==== Sys2Proof/Laws/Ends.lean ====
section
/-! SUPPORT. How a descriptor ends where no FENCE has started: its ring, its record, and nothing else. -/

namespace Sys2Proof.Machine

/-- An association list keeps its values where a map does not change them. -/
theorem map_snd_id {β : Type} (f : β → β) (t : Tab β) (h : ∀ x ∈ t, f x.2 = x.2) : (t.map fun x => (x.1, f x.2)) = t := by
  induction t with
  | nil => rfl
  | cons x t ih =>
    rw [List.map_cons, h x (List.mem_cons_self), ih fun y hy => h y (List.mem_cons_of_mem _ hy)]

/-- A ring that can take a record has been enabled. -/
theorem Ring.used_of_room {g : Ring} (h : g.room ≠ 0) : g.used.isNone = false := by
  unfold Ring.room Ring.slotsFree at h
  cases hu : g.used with
  | none => rw [hu] at h; simp at h
  | some u => rfl

/-- A ring that may start a descriptor can take its record. -/
theorem State.room_of_startable {s : State} {n r : Nat} {d : Desc} (h : s.startable n r = some d) :
    (s.ring n r).room ≠ 0 := by
  intro h0
  unfold State.startable at h
  rw [if_pos (Or.inl h0)] at h
  exact absurd h (by simp)

/-- A table's entry is one of its pairs, or the default. -/
theorem tabGet_mem {β : Type} (d : β) (t : Tab β) (k : Nat) : (k, tabGet d t k) ∈ t ∨ tabGet d t k = d := by
  unfold tabGet
  cases h : tabFind t k with
  | none => exact Or.inr rfl
  | some v => exact Or.inl (tabFind_mem h)

/-- After a change of one entry every pair is the new one or an old one. -/
theorem mem_tabPut {β : Type} {k : Nat} {v : β} {t : Tab β} {x : Nat × β} (h : x ∈ tabPut k v t) : x = (k, v) ∨ x ∈ t := by
  induction t with
  | nil => simpa [tabPut] using h
  | cons y t ih =>
    obtain ⟨j, w⟩ := y
    unfold tabPut at h
    split_ifs at h with h1 h2
    · rcases List.mem_cons.1 h with h | h
      · exact Or.inl h
      · exact Or.inr h
    · rcases List.mem_cons.1 h with h | h
      · exact Or.inl h
      · exact Or.inr (List.mem_cons_of_mem _ h)
    · rcases List.mem_cons.1 h with h | h
      · exact Or.inr (h ▸ List.mem_cons_self)
      · rcases ih h with h | h
        · exact Or.inl h
        · exact Or.inr (List.mem_cons_of_mem _ h)

theorem mem_tabErase {β : Type} {k : Nat} {t : Tab β} {x : Nat × β} (h : x ∈ tabErase k t) : x ∈ t := by
  induction t with
  | nil => simp [tabErase] at h
  | cons y t ih =>
    obtain ⟨j, w⟩ := y
    unfold tabErase at h
    split_ifs at h with h1
    · exact List.mem_cons_of_mem _ (ih h)
    · rcases List.mem_cons.1 h with h | h
      · exact h ▸ List.mem_cons_self
      · exact List.mem_cons_of_mem _ (ih h)

theorem mem_tabMod {β : Type} [DecidableEq β] {d : β} {k : Nat} {f : β → β} {t : Tab β} {x : Nat × β}
    (h : x ∈ tabMod d t k f) : x = (k, f (tabGet d t k)) ∨ x ∈ t := by
  unfold tabMod tabSet at h
  split_ifs at h with h1
  · exact Or.inr (mem_tabErase h)
  · exact mem_tabPut h

/-- Where no FENCE has started, a completed descriptor is covered by none. -/
theorem Ring.uncover_id {g : Ring} (y : Nat × Nat) (h : ∀ d ∈ g.descs, ∀ c k, d.state ≠ .fence c k) : g.uncover y = g := by
  have : (g.descs.map fun d => d.uncover y) = g.descs := by
    conv_rhs => rw [← List.map_id g.descs]
    apply List.map_congr_left
    intro d hd
    unfold Desc.uncover
    cases hs : d.state with
    | fence c k => exact absurd hs (h d hd c k)
    | _ => rfl
  unfold Ring.uncover
  rw [this]

theorem Vf.uncover_id {v : Vf} (y : Nat × Nat) (h : ∀ x ∈ v.rings, ∀ d ∈ x.2.descs, ∀ c k, d.state ≠ .fence c k) :
    v.uncover y = v := by
  unfold Vf.uncover
  rw [map_snd_id (fun g : Ring => g.uncover y) v.rings fun x hx => Ring.uncover_id y (h x hx)]

/-- No FENCE stands where none has started. -/
theorem State.noFence_modRing {s : State} {n : Nat} (h : s.noFence n) (r : Nat) (f : Ring → Ring)
    (hf : ∀ g : Ring, ∀ d ∈ (f g).descs, ∀ c k, d.state = .fence c k → d ∈ g.descs) : (s.modRing n r f).noFence n := by
  intro x hx d hd c k hk
  unfold State.modRing at hx
  rw [State.vf_modVf_same] at hx
  rcases mem_tabMod hx with rfl | hx
  · have hm := hf _ d hd c k hk
    rcases tabGet_mem ({} : Ring) (s.vf n).rings r with hg | hg
    · exact h _ hg d hm c k hk
    · rw [hg] at hm
      simp at hm
  · exact h _ hx d hd c k hk

theorem State.noFence_due {s : State} {n : Nat} (h : s.noFence n) : s.fenceDue n = false := by
  by_contra hc
  rw [Bool.not_eq_false] at hc
  unfold State.fenceDue at hc
  rw [List.any_eq_true] at hc
  obtain ⟨r, -, hr⟩ := hc
  rw [List.any_eq_true] at hr
  obtain ⟨d, hd, hk⟩ := hr
  have hst : ∃ c k, d.state = .fence c k := by
    cases hs : d.state with
    | fence c k => exact ⟨c, k, rfl⟩
    | _ => rw [hs] at hk; simp at hk
  obtain ⟨c, k, hst⟩ := hst
  unfold State.ring at hd
  rcases tabGet_mem ({} : Ring) (s.vf n).rings r with hm | hm
  · exact h _ hm d hd c k hst
  · rw [hm] at hd
    simp at hd

/-- Rings are read through their VF. -/
theorem State.ring_congr {s t : State} {n : Nat} (h : t.vf n = s.vf n) (q : Nat) : t.ring n q = s.ring n q := by
  unfold State.ring
  rw [h]

/-- A ring that holds a descriptor of its own takes its record. -/
theorem State.owe_takes {s : State} {n r : Nat} {d : Desc} (o : Owed) (hf : (s.ring n r).find d.id = some d)
    (ho : d.orphan = false) (hr : (s.ring n r).takes) (hp : (s.part n).discard = false) :
    s.owe n r o = s.modRing n r fun g => { g with owed := g.owed ++ [o] } := by
  have hover : (s.ring n r).over = false := by
    have hm : d ∈ (s.ring n r).descs := List.mem_of_find?_eq_some hf
    have : (s.ring n r).descs.all (·.orphan) = false := by
      rw [List.all_eq_false]
      exact ⟨d, hm, by simp [ho]⟩
    unfold Ring.over
    rw [this, Bool.and_false]
  unfold State.owe
  dsimp only
  rw [if_neg]
  rw [hp, hr.1, hover]
  rcases hr.2 with h | h
  · simp [h]
  · simp [h]

/-- The end of a descriptor of a VF without FENCEs: its ring, and nothing else of the rings. -/
theorem State.endDesc_spec {s : State} {n r : Nat} {d : Desc} (e : Ending) (hf : (s.ring n r).find d.id = some d)
    (ho : d.orphan = false) (hr : (s.ring n r).takes) (hn : s.noFence n) (hp : (s.part n).discard = false) :
    (s.endDesc n r d.id e).noFence n ∧ Ended s (s.endDesc n r d.id e) n r d e ∧
      (∀ m, m ≠ n → (s.endDesc n r d.id e).vf m = s.vf m) ∧
      ∀ q, q ≠ r → (s.endDesc n r d.id e).ring n q = s.ring n q := by
  unfold State.endDesc
  rw [hf]
  dsimp only
  generalize hs0 : (if d.orphan = true ∨ descQuiet d.bits = true ∧ e.status = statusOk then s
    else s.owe n r (endRecord d e)) = s0
  have h0 : s0 = (s.modRing n r fun g => { g with owed := g.owed ++
      (if descQuiet d.bits = true ∧ e.status = statusOk then [] else [endRecord d e]) }) ∨ s0 = s ∧
      (if descQuiet d.bits = true ∧ e.status = statusOk then [] else [endRecord d e]) = [] := by
    rw [← hs0, ho, State.owe_takes _ hf ho hr hp]
    by_cases hq : descQuiet d.bits = true ∧ e.status = statusOk
    · rw [if_pos (Or.inr hq), if_pos hq]
      exact Or.inr ⟨rfl, rfl⟩
    · rw [if_neg (by simpa using hq), if_neg hq]
      exact Or.inl rfl
  unfold Ended
  generalize (if descQuiet d.bits = true ∧ e.status = statusOk then [] else [endRecord d e]) = rec at h0 ⊢
  have r0 : ∀ q, s0.ring n q = if q = r then { s.ring n r with owed := (s.ring n r).owed ++ rec } else s.ring n q := by
    intro q
    rcases h0 with rfl | ⟨rfl, rfl⟩
    · rw [State.ring_modRing]
      simp
    · split_ifs with h
      · rw [h, List.append_nil]
      · rfl
  have v0 : ∀ m, m ≠ n → s0.vf m = s.vf m := by
    intro m hm
    rcases h0 with rfl | ⟨rfl, -⟩
    · unfold State.modRing
      rw [State.vf_modVf, if_neg hm]
    · rfl
  have n0 : s0.noFence n := by
    rcases h0 with rfl | ⟨rfl, -⟩
    · exact State.noFence_modRing hn r _ fun g x hx c k _ => hx
    · exact hn
  clear h0 hs0
  generalize hs1 : (s0.modRing n r fun g => { g with descs := g.descs.filter fun x => x.id != d.id }) = s1
  have n1 : s1.noFence n := by
    rw [← hs1]
    refine State.noFence_modRing n0 r _ ?_
    intro g x hx c k _
    exact List.mem_of_mem_filter hx
  have v1 : ∀ m, m ≠ n → s1.vf m = s.vf m := by
    intro m hm
    rw [← hs1]
    unfold State.modRing
    rw [State.vf_modVf, if_neg hm]
    exact v0 m hm
  have r1 : ∀ q, s1.ring n q = if q = r then { s.ring n r with
      descs := (s.ring n r).descs.filter fun x => x.id != d.id, owed := (s.ring n r).owed ++ rec } else s.ring n q := by
    intro q
    rw [← hs1, State.ring_modRing]
    simp only [true_and, r0]
    split_ifs <;> rfl
  suffices H : ∀ s2 : State, (∀ m, s2.vf m = s1.vf m) →
      (s2.modVf n fun v => v.uncover (r, d.id)).noFence n ∧
      ((s2.modVf n fun v => v.uncover (r, d.id)).ring n r = { s.ring n r with
        descs := (s.ring n r).descs.filter fun x => x.id != d.id, owed := (s.ring n r).owed ++ rec }) ∧
      (∀ m, m ≠ n → (s2.modVf n fun v => v.uncover (r, d.id)).vf m = s.vf m) ∧
      ∀ q, q ≠ r → (s2.modVf n fun v => v.uncover (r, d.id)).ring n q = s.ring n q from
    H _ fun _ => rfl
  intro s2 e2
  have n2 : s2.noFence n := by
    unfold State.noFence
    rw [e2]
    exact n1
  generalize hs3 : (s2.modVf n fun v => v.uncover (r, d.id)) = s3
  have e3 : ∀ m, s3.vf m = s2.vf m := by
    intro m
    rw [← hs3, State.vf_modVf]
    split_ifs with hm
    · subst hm
      exact Vf.uncover_id _ n2
    · rfl
  have r3 : ∀ q, s3.ring n q = s1.ring n q := fun q => State.ring_congr ((e3 n).trans (e2 n)) q
  refine ⟨?_, ?_, fun m hm => (e3 m).trans ((e2 m).trans (v1 m hm)), ?_⟩
  · unfold State.noFence
    rw [e3]
    exact n2
  · rw [r3, r1, if_pos rfl]
  · intro q hqr
    rw [r3, r1, if_neg hqr]

/-- A descriptor of a VF without FENCEs completes: its ring, its record, and nothing else of the rings. -/
theorem State.complete_spec {s : State} {n r : Nat} {d : Desc} (e : Ending) (hf : (s.ring n r).find d.id = some d)
    (ho : d.orphan = false) (hr : (s.ring n r).takes) (hn : s.noFence n) (hp : (s.part n).discard = false) :
    Ended s (s.complete n r d.id e) n r d e ∧ OnlyRing n r s (s.complete n r d.id e) := by
  obtain ⟨h1, h2, h3, h4⟩ := State.endDesc_spec e hf ho hr hn hp
  have hc : s.complete n r d.id e = s.endDesc n r d.id e := settleFences_none n 16 _ (State.noFence_due h1)
  rw [hc]
  refine ⟨h2, ?_, h3, h4⟩
  obtain ⟨v, dn, k, h⟩ := s.endDesc_ringOnly n r d.id e
  rw [h]

/-- The descriptor that a ring starts completes. -/
theorem Starts.complete {s : State} {n r : Nat} {d : Desc} (h : Starts s n r d) (e : Ending) :
    Ended s (s.complete n r d.id e) n r d e ∧ OnlyRing n r s (s.complete n r d.id e) :=
  State.complete_spec e h.2.1 h.2.2.1
    ⟨Ring.used_of_room (State.room_of_startable h.1), Or.inr (State.room_of_startable h.1)⟩ h.2.2.2.1 h.2.2.2.2

/-- A descriptor that a ring holds completes. -/
theorem Held.complete {s : State} {n r : Nat} {d : Desc} (h : Held s n r d) (e : Ending) :
    Ended s (s.complete n r d.id e) n r d e ∧ OnlyRing n r s (s.complete n r d.id e) :=
  State.complete_spec e h.1 h.2.1 h.2.2.1 h.2.2.2.1 h.2.2.2.2

end Sys2Proof.Machine
end

