-- ==== Sys2Proof/Laws/Image.lean ====
section
/-! SUPPORT. Lemmas about the loader's checks. -/

namespace Sys2Proof.Machine

/-- A check reports nothing where its condition holds. -/
@[simp] theorem fieldBad_eq_nil {off : Nat} {ok : Bool} : fieldBad off ok = [] ↔ ok = true := by
  cases ok <;> simp [fieldBad]

/-- The least of a list is missing only where the list is empty. -/
theorem minOf_eq_none {l : List Nat} : minOf l = none ↔ l = [] := by
  cases l with
  | nil => simp [minOf]
  | cons a t =>
    suffices h : ∀ (t : List Nat) (o : Option Nat), o ≠ none →
        t.foldl (fun m x => some (match m with | some y => min x y | none => x)) o ≠ none by
      simp only [List.cons_ne_nil, iff_false]
      exact h (a :: t).tail _ (by simp)
    intro t
    induction t with
    | nil => intro o h; exact h
    | cons b t ih => intro o _; exact ih _ (by simp)

end Sys2Proof.Machine
end

