-- ==== Sys2Proof/Laws/PerInstr.lean ====
section
/-! SUPPORT. A fact about every command as syntax, one lemma per constructor: the word that a slot operation is written
as lies in one of the eight slots of a bundle and fits that slot (R221). -/

namespace Sys2Proof.Laws

open Sys2Proof.Machine

theorem ctlWord_fits (op : BitVec 6) (ra rb : Fin 32) (c : Bool) (imm : BitVec 32) : ctlWord op ra rb c imm < 2 ^ (8 * slotBytes 0) := by
  rw [show 8 * slotBytes 0 = 64 from rfl]
  cases c <;> simp only [ctlWord, fieldAt, regField, bitField, Bool.toNat] <;> dsimp only [cond] <;> omega

theorem sclWord_fits (op : BitVec 6) (rd ra rb : Fin 32) : sclWord op rd ra rb < 2 ^ (8 * slotBytes 1) := by
  rw [show 8 * slotBytes 1 = 32 from rfl]
  simp only [sclWord, fieldAt, regField]; omega

theorem sclImmWord_fits (op : BitVec 6) (rd ra : Fin 32) (imm : BitVec 16) : sclImmWord op rd ra imm < 2 ^ (8 * slotBytes 1) := by
  rw [show 8 * slotBytes 1 = 32 from rfl]
  simp only [sclImmWord, fieldAt, regField]; omega

theorem bitField_le (b : Bool) (lo : Nat) : bitField b lo ≤ 2 ^ lo := by
  cases b <;> simp [bitField]

theorem portWord_fits (op : BitVec 5) (a : PortArgs) : portWord op a < 2 ^ (8 * slotBytes 2) := by
  rw [show 8 * slotBytes 2 = 64 from rfl]
  have := bitField_le a.sel 35
  simp only [portWord, fieldAt, regField]; omega

theorem arrWord_fits (a : ArrArgs) : arrWord a < 2 ^ (8 * slotBytes 3) := by
  rw [show 8 * slotBytes 3 = 32 from rfl]
  have := bitField_le a.sel 17
  have := bitField_le a.last 10
  have := bitField_le a.lx 9
  simp only [arrWord, fieldAt]; omega

theorem wgtWord_fits (op : BitVec 4) (m : BitVec 8) : wgtWord op m < 2 ^ (8 * slotBytes 4) := by
  rw [show 8 * slotBytes 4 = 32 from rfl]
  simp only [wgtWord, fieldAt]; omega

theorem ceilWord_fits (op : BitVec 4) (m : BitVec 8) (r : Fin 32) :
    wgtWord op m + regField r 15 < 2 ^ (8 * slotBytes 4) := by
  rw [show 8 * slotBytes 4 = 32 from rfl]
  simp only [wgtWord, fieldAt, regField]; omega

theorem ovlWord_fits (op : BitVec 4) (m : BitVec 8) (b n : BitVec 10) :
    wgtWord op m + fieldAt b 10 + n.toNat < 2 ^ (8 * slotBytes 4) := by
  rw [show 8 * slotBytes 4 = 32 from rfl]
  simp only [wgtWord, fieldAt]; omega

theorem cfgWord_fits (m : BitVec 8) (k : CfgArgs) : cfgWord m k < 2 ^ (8 * slotBytes 4) := by
  rw [show 8 * slotBytes 4 = 32 from rfl]
  have := bitField_le k.exact 7
  have := bitField_le k.quad 6
  have := bitField_le k.raw 5
  have := bitField_le k.rmode 4
  simp only [cfgWord, wgtWord, fieldAt]; omega

theorem drnWord_fits (op : BitVec 4) (a : DrnArgs) : drnWord op a < 2 ^ (8 * slotBytes 5) := by
  rw [show 8 * slotBytes 5 = 32 from rfl]
  have := bitField_le a.raw 8
  have := bitField_le a.qsel 7
  simp only [drnWord, fieldAt, regField]; omega

theorem vecWord_fits (op : BitVec 6) (a : VecArgs) : vecWord op a < 2 ^ (8 * slotBytes 6) := by
  rw [show 8 * slotBytes 6 = 64 from rfl]
  have := bitField_le a.sb 21
  simp only [vecWord, fieldAt, regField]; omega

theorem xchWord_fits (op : BitVec 5) (a : XchArgs) : xchWord op a < 2 ^ (8 * slotBytes 7) := by
  rw [show 8 * slotBytes 7 = 64 from rfl]
  have := bitField_le a.flag 38
  have := bitField_le a.atbeat 37
  simp only [xchWord, fieldAt, regField]; omega

/-- A command's word, where it has one, is that of one of the eight slots and fits it. -/
def SlotWord.Statement (i : Instr) : Prop :=
  ∀ v p k w, encodeSlot i = some (v, p, k, w) → k < 8 ∧ w < 2 ^ (8 * slotBytes k)

/-- A command that is no slot operation. -/
theorem SlotWord.of_none {i : Instr} (h : encodeSlot i = none) : SlotWord.Statement i := by
  intro v p k w e; rw [h] at e; cases e

/-- A slot operation's word. -/
theorem SlotWord.of_some {i : Instr} {v : Fin 128} {p : Bool} {k w : Nat} (h : encodeSlot i = some (v, p, k, w))
    (hk : k < 8) (hw : w < 2 ^ (8 * slotBytes k)) : SlotWord.Statement i := by
  intro v' p' k' w' e; rw [h] at e; cases e; exact ⟨hk, hw⟩

theorem SlotWord.nop (r : RingRef) : Statement (.nop r) := of_none rfl
theorem SlotWord.launch (r : RingRef) (hdr : Option ProgHeader) (errs : Errs) : Statement (.launch r hdr errs) := of_none rfl
theorem SlotWord.fence (r : RingRef) : Statement (.fence r) := of_none rfl
theorem SlotWord.flagSet (r : RingRef) (old : Option DWord) (written : Bool) (errs : Errs) : Statement (.flagSet r old written errs) := of_none rfl
theorem SlotWord.flagWait (r : RingRef) (word : Option DWord) (errs : Errs) : Statement (.flagWait r word errs) := of_none rfl
theorem SlotWord.biasSet (r : RingRef) : Statement (.biasSet r) := of_none rfl
theorem SlotWord.undefinedOpcode (r : RingRef) : Statement (.undefinedOpcode r) := of_none rfl
theorem SlotWord.copy (r : RingRef) (errs : Errs) : Statement (.copy r errs) := of_none rfl
theorem SlotWord.fill (r : RingRef) (errs : Errs) : Statement (.fill r errs) := of_none rfl
theorem SlotWord.relayout (r : RingRef) (errs : Errs) : Statement (.relayout r errs) := of_none rfl
theorem SlotWord.gather (r : RingRef) (errs : Errs) : Statement (.gather r errs) := of_none rfl
theorem SlotWord.scatter (r : RingRef) (errs : Errs) : Statement (.scatter r errs) := of_none rfl
theorem SlotWord.reqSubmit (r : RingRef) (errs : Errs) : Statement (.reqSubmit r errs) := of_none rfl
theorem SlotWord.reqCancel (r : RingRef) : Statement (.reqCancel r) := of_none rfl
theorem SlotWord.reqControlPause (r : RingRef) : Statement (.reqControlPause r) := of_none rfl
theorem SlotWord.reqControlResume (r : RingRef) : Statement (.reqControlResume r) := of_none rfl
theorem SlotWord.reqControlPriority (r : RingRef) : Statement (.reqControlPriority r) := of_none rfl
theorem SlotWord.reqControlDeadline (r : RingRef) : Statement (.reqControlDeadline r) := of_none rfl
theorem SlotWord.reqRead (r : RingRef) : Statement (.reqRead r) := of_none rfl
theorem SlotWord.variantReg (r : RingRef) (errs : Errs) : Statement (.variantReg r errs) := of_none rfl
theorem SlotWord.variantUnreg (r : RingRef) : Statement (.variantUnreg r) := of_none rfl
theorem SlotWord.serveStart (r : RingRef) (hdr : Option ProgHeader) (errs : Errs) : Statement (.serveStart r hdr errs) := of_none rfl
theorem SlotWord.serveStop (r : RingRef) : Statement (.serveStop r) := of_none rfl
theorem SlotWord.pageUpdate (r : RingRef) : Statement (.pageUpdate r) := of_none rfl
theorem SlotWord.cocoonSupply (r : RingRef) (addrs : Option (List DWord)) : Statement (.cocoonSupply r addrs) := of_none rfl
theorem SlotWord.cocoonReclaim (r : RingRef) : Statement (.cocoonReclaim r) := of_none rfl
theorem SlotWord.ringEvent (r : RingRef) (line : Option Bits512) : Statement (.ringEvent r line) := of_none rfl
theorem SlotWord.descriptorFetch (r : RingRef) (d : Option Bits512) : Statement (.descriptorFetch r d) := of_none rfl
theorem SlotWord.completionRecordWrite (r : RingRef) (ok : Bool) : Statement (.completionRecordWrite r ok) := of_none rfl
theorem SlotWord.irqTimeExpiry (r : RingRef) : Statement (.irqTimeExpiry r) := of_none rfl
theorem SlotWord.ringEnable (r : RingRef) : Statement (.ringEnable r) := of_none rfl
theorem SlotWord.ringDisable (r : RingRef) : Statement (.ringDisable r) := of_none rfl
theorem SlotWord.restart (r : RingRef) (line : Option Bits512) : Statement (.restart r line) := of_none rfl
theorem SlotWord.flagLineLoss (r : RingRef) (word : Option DWord) (errs : Errs) : Statement (.flagLineLoss r word errs) := of_none rfl
theorem SlotWord.flagWaitTimeout (r : RingRef) : Statement (.flagWaitTimeout r) := of_none rfl
theorem SlotWord.hostCompletionTimeout (q : HostReq) : Statement (.hostCompletionTimeout q) := of_none rfl
theorem SlotWord.hostMemRead (hpa : DWord) (conds : Conds) : Statement (.hostMemRead hpa conds) := of_none rfl
theorem SlotWord.hostMemWrite (hpa : DWord) (data : Bits512) (be : BitVec 64) (poison : Bool) (errs : Errs) : Statement (.hostMemWrite hpa data be poison errs) := of_none rfl
theorem SlotWord.hdmDecoderCommit (d : Fin 4) (base size : DWord) (ew gb : Nat) (skip : DWord) (pos : Nat) : Statement (.hdmDecoderCommit d base size ew gb skip pos) := of_none rfl
theorem SlotWord.vfFlr (n : Fin 16) : Statement (.vfFlr n) := of_none rfl
theorem SlotWord.vfEnableClear : Statement .vfEnableClear := of_none rfl
theorem SlotWord.ideFail (stream : Fin 3) : Statement (.ideFail stream) := of_none rfl
theorem SlotWord.doeDiscovery (index : Byte) : Statement (.doeDiscovery index) := of_none rfl
theorem SlotWord.cdatTableAccess (entry : Half) : Statement (.cdatTableAccess entry) := of_none rfl
theorem SlotWord.getVersion (p : Transport) : Statement (.getVersion p) := of_none rfl
theorem SlotWord.getCapabilities (p : Transport) : Statement (.getCapabilities p) := of_none rfl
theorem SlotWord.negotiateAlgorithms (p : Transport) : Statement (.negotiateAlgorithms p) := of_none rfl
theorem SlotWord.getDigests (p : Transport) : Statement (.getDigests p) := of_none rfl
theorem SlotWord.getCertificate (p : Transport) (offset length : Half) : Statement (.getCertificate p offset length) := of_none rfl
theorem SlotWord.challenge (p : Transport) (nonce : Bits256) : Statement (.challenge p nonce) := of_none rfl
theorem SlotWord.getMeasurements (p : Transport) (index : Byte) (signed : Bool) (nonce : Bits256) : Statement (.getMeasurements p index signed nonce) := of_none rfl
theorem SlotWord.keyExchange (p : Transport) (exchange : Bits512) : Statement (.keyExchange p exchange) := of_none rfl
theorem SlotWord.finish (p : Transport) (verified : Bool) : Statement (.finish p verified) := of_none rfl
theorem SlotWord.heartbeat (p : Transport) : Statement (.heartbeat p) := of_none rfl
theorem SlotWord.keyUpdate (p : Transport) : Statement (.keyUpdate p) := of_none rfl
theorem SlotWord.endSession (p : Transport) : Statement (.endSession p) := of_none rfl
theorem SlotWord.ideKmKeyProg (stream : Fin 3) (dir : Fin 2) (keySet : Fin 2) (key : Bits256) : Statement (.ideKmKeyProg stream dir keySet key) := of_none rfl
theorem SlotWord.keySetGo (stream : Fin 3) (dir : Fin 2) (keySet : Fin 2) : Statement (.keySetGo stream dir keySet) := of_none rfl
theorem SlotWord.bundle (v : Fin 128) (parity : Bool) (cacheParity : Bool) : Statement (.bundle v parity cacheParity) := of_none rfl
theorem SlotWord.jmp (v : Fin 128) (imm : Word) : Statement (.jmp v imm) :=
  of_some rfl (by decide) (ctlWord_fits _ _ _ _ _)
theorem SlotWord.brz (v : Fin 128) (ra : Fin 32) (imm : Word) : Statement (.brz v ra imm) :=
  of_some rfl (by decide) (ctlWord_fits _ _ _ _ _)
theorem SlotWord.brnz (v : Fin 128) (ra : Fin 32) (imm : Word) : Statement (.brnz v ra imm) :=
  of_some rfl (by decide) (ctlWord_fits _ _ _ _ _)
theorem SlotWord.brlt (v : Fin 128) (ra rb : Fin 32) (imm : Word) : Statement (.brlt v ra rb imm) :=
  of_some rfl (by decide) (ctlWord_fits _ _ _ _ _)
theorem SlotWord.loop (v : Fin 128) (ra : Fin 32) (imm : Word) : Statement (.loop v ra imm) :=
  of_some rfl (by decide) (ctlWord_fits _ _ _ _ _)
theorem SlotWord.bsync (v : Fin 128) (ra : Fin 32) (imm : Word) : Statement (.bsync v ra imm) :=
  of_some rfl (by decide) (ctlWord_fits _ _ _ _ _)
theorem SlotWord.bsyncRelease (v : Fin 128) : Statement (.bsyncRelease v) := of_none rfl
theorem SlotWord.waitf (v : Fin 128) (ra rb : Fin 32) (cond : Bool) (imm : Word) (parity : Bool) : Statement (.waitf v ra rb cond imm parity) :=
  of_some rfl (by decide) (ctlWord_fits _ _ _ _ _)
theorem SlotWord.yield (v : Fin 128) (imm : Word) : Statement (.yield v imm) :=
  of_some rfl (by decide) (ctlWord_fits _ _ _ _ _)
theorem SlotWord.trap (v : Fin 128) (imm : Word) : Statement (.trap v imm) :=
  of_some rfl (by decide) (ctlWord_fits _ _ _ _ _)
theorem SlotWord.endJob (v : Fin 128) : Statement (.endJob v) :=
  of_some rfl (by decide) (ctlWord_fits _ _ _ _ _)
theorem SlotWord.add (v : Fin 128) (rd ra rb : Fin 32) : Statement (.add v rd ra rb) :=
  of_some rfl (by decide) (sclWord_fits _ _ _ _)
theorem SlotWord.sub (v : Fin 128) (rd ra rb : Fin 32) : Statement (.sub v rd ra rb) :=
  of_some rfl (by decide) (sclWord_fits _ _ _ _)
theorem SlotWord.and (v : Fin 128) (rd ra rb : Fin 32) : Statement (.and v rd ra rb) :=
  of_some rfl (by decide) (sclWord_fits _ _ _ _)
theorem SlotWord.or (v : Fin 128) (rd ra rb : Fin 32) : Statement (.or v rd ra rb) :=
  of_some rfl (by decide) (sclWord_fits _ _ _ _)
theorem SlotWord.xor (v : Fin 128) (rd ra rb : Fin 32) : Statement (.xor v rd ra rb) :=
  of_some rfl (by decide) (sclWord_fits _ _ _ _)
theorem SlotWord.shl (v : Fin 128) (rd ra rb : Fin 32) : Statement (.shl v rd ra rb) :=
  of_some rfl (by decide) (sclWord_fits _ _ _ _)
theorem SlotWord.shr (v : Fin 128) (rd ra rb : Fin 32) : Statement (.shr v rd ra rb) :=
  of_some rfl (by decide) (sclWord_fits _ _ _ _)
theorem SlotWord.sra (v : Fin 128) (rd ra rb : Fin 32) : Statement (.sra v rd ra rb) :=
  of_some rfl (by decide) (sclWord_fits _ _ _ _)
theorem SlotWord.mul (v : Fin 128) (rd ra rb : Fin 32) : Statement (.mul v rd ra rb) :=
  of_some rfl (by decide) (sclWord_fits _ _ _ _)
theorem SlotWord.slt (v : Fin 128) (rd ra rb : Fin 32) : Statement (.slt v rd ra rb) :=
  of_some rfl (by decide) (sclWord_fits _ _ _ _)
theorem SlotWord.addi (v : Fin 128) (rd ra : Fin 32) (imm : Half) : Statement (.addi v rd ra imm) :=
  of_some rfl (by decide) (sclImmWord_fits _ _ _ _)
theorem SlotWord.shli16 (v : Fin 128) (rd ra : Fin 32) (imm : Half) : Statement (.shli16 v rd ra imm) :=
  of_some rfl (by decide) (sclImmWord_fits _ _ _ _)
theorem SlotWord.andi (v : Fin 128) (rd ra : Fin 32) (imm : Half) : Statement (.andi v rd ra imm) :=
  of_some rfl (by decide) (sclImmWord_fits _ _ _ _)
theorem SlotWord.shli (v : Fin 128) (rd ra : Fin 32) (imm : Half) : Statement (.shli v rd ra imm) :=
  of_some rfl (by decide) (sclImmWord_fits _ _ _ _)
theorem SlotWord.shri (v : Fin 128) (rd ra : Fin 32) (imm : Half) : Statement (.shri v rd ra imm) :=
  of_some rfl (by decide) (sclImmWord_fits _ _ _ _)
theorem SlotWord.rdb (v : Fin 128) (rd : Fin 32) : Statement (.rdb v rd) :=
  of_some rfl (by decide) (sclImmWord_fits _ _ _ _)
theorem SlotWord.rdl (v : Fin 128) (rd : Fin 32) (imm : Half) : Statement (.rdl v rd imm) :=
  of_some rfl (by decide) (sclImmWord_fits _ _ _ _)
theorem SlotWord.rdid (v : Fin 128) (rd : Fin 32) : Statement (.rdid v rd) :=
  of_some rfl (by decide) (sclImmWord_fits _ _ _ _)
theorem SlotWord.lda (v : Fin 128) (a : PortArgs) (parity : Bool) : Statement (.lda v a parity) :=
  of_some rfl (by decide) (portWord_fits _ _)
theorem SlotWord.ldw (v : Fin 128) (a : PortArgs) (parity : Bool) : Statement (.ldw v a parity) :=
  of_some rfl (by decide) (portWord_fits _ _)
theorem SlotWord.ldv (v : Fin 128) (a : PortArgs) (parity : Bool) : Statement (.ldv v a parity) :=
  of_some rfl (by decide) (portWord_fits _ _)
theorem SlotWord.stv (v : Fin 128) (a : PortArgs) : Statement (.stv v a) :=
  of_some rfl (by decide) (portWord_fits _ _)
theorem SlotWord.lds (v : Fin 128) (a : PortArgs) (parity : Bool) : Statement (.lds v a parity) :=
  of_some rfl (by decide) (portWord_fits _ _)
theorem SlotWord.sts (v : Fin 128) (a : PortArgs) : Statement (.sts v a) :=
  of_some rfl (by decide) (portWord_fits _ _)
theorem SlotWord.ldd (v : Fin 128) (a : PortArgs) (parity : Bool) : Statement (.ldd v a parity) :=
  of_some rfl (by decide) (portWord_fits _ _)
theorem SlotWord.ldt (v : Fin 128) (a : PortArgs) (parity : Bool) : Statement (.ldt v a parity) :=
  of_some rfl (by decide) (portWord_fits _ _)
theorem SlotWord.arrIssue (v : Fin 128) (a : ArrArgs) : Statement (.arrIssue v a) :=
  of_some rfl (by decide) (arrWord_fits _)
theorem SlotWord.swap (v : Fin 128) (amask : BitVec 8) : Statement (.swap v amask) :=
  of_some rfl (by decide) (wgtWord_fits _ _)
theorem SlotWord.cfg (v : Fin 128) (amask : BitVec 8) (c : CfgArgs) : Statement (.cfg v amask c) :=
  of_some rfl (by decide) (cfgWord_fits _ _)
theorem SlotWord.ceil (v : Fin 128) (amask : BitVec 8) (reg : Fin 32) : Statement (.ceil v amask reg) :=
  of_some rfl (by decide) (ceilWord_fits _ _ _)
theorem SlotWord.ovl (v : Fin 128) (amask : BitVec 8) (start count : BitVec 10) : Statement (.ovl v amask start count) :=
  of_some rfl (by decide) (ovlWord_fits _ _ _ _)
theorem SlotWord.ovlu (v : Fin 128) (amask : BitVec 8) (start count : BitVec 10) : Statement (.ovlu v amask start count) :=
  of_some rfl (by decide) (ovlWord_fits _ _ _ _)
theorem SlotWord.ovlc (v : Fin 128) (amask : BitVec 8) : Statement (.ovlc v amask) :=
  of_some rfl (by decide) (wgtWord_fits _ _)
theorem SlotWord.drain (v : Fin 128) (a : DrnArgs) : Statement (.drain v a) :=
  of_some rfl (by decide) (drnWord_fits _ _)
theorem SlotWord.preload (v : Fin 128) (a : DrnArgs) : Statement (.preload v a) :=
  of_some rfl (by decide) (drnWord_fits _ _)
theorem SlotWord.setrc (v : Fin 128) (a : DrnArgs) : Statement (.setrc v a) :=
  of_some rfl (by decide) (drnWord_fits _ _)
theorem SlotWord.fadd (v : Fin 128) (a : VecArgs) : Statement (.fadd v a) :=
  of_some rfl (by decide) (vecWord_fits _ _)
theorem SlotWord.fsub (v : Fin 128) (a : VecArgs) : Statement (.fsub v a) :=
  of_some rfl (by decide) (vecWord_fits _ _)
theorem SlotWord.fmul (v : Fin 128) (a : VecArgs) : Statement (.fmul v a) :=
  of_some rfl (by decide) (vecWord_fits _ _)
theorem SlotWord.fmax (v : Fin 128) (a : VecArgs) : Statement (.fmax v a) :=
  of_some rfl (by decide) (vecWord_fits _ _)
theorem SlotWord.fmin (v : Fin 128) (a : VecArgs) : Statement (.fmin v a) :=
  of_some rfl (by decide) (vecWord_fits _ _)
theorem SlotWord.fma (v : Fin 128) (a : VecArgs) : Statement (.fma v a) :=
  of_some rfl (by decide) (vecWord_fits _ _)
theorem SlotWord.fcmplt (v : Fin 128) (a : VecArgs) : Statement (.fcmplt v a) :=
  of_some rfl (by decide) (vecWord_fits _ _)
theorem SlotWord.fcmpeq (v : Fin 128) (a : VecArgs) : Statement (.fcmpeq v a) :=
  of_some rfl (by decide) (vecWord_fits _ _)
theorem SlotWord.iadd (v : Fin 128) (a : VecArgs) : Statement (.iadd v a) :=
  of_some rfl (by decide) (vecWord_fits _ _)
theorem SlotWord.isub (v : Fin 128) (a : VecArgs) : Statement (.isub v a) :=
  of_some rfl (by decide) (vecWord_fits _ _)
theorem SlotWord.iand (v : Fin 128) (a : VecArgs) : Statement (.iand v a) :=
  of_some rfl (by decide) (vecWord_fits _ _)
theorem SlotWord.ior (v : Fin 128) (a : VecArgs) : Statement (.ior v a) :=
  of_some rfl (by decide) (vecWord_fits _ _)
theorem SlotWord.ixor (v : Fin 128) (a : VecArgs) : Statement (.ixor v a) :=
  of_some rfl (by decide) (vecWord_fits _ _)
theorem SlotWord.ishl (v : Fin 128) (a : VecArgs) : Statement (.ishl v a) :=
  of_some rfl (by decide) (vecWord_fits _ _)
theorem SlotWord.ishr (v : Fin 128) (a : VecArgs) : Statement (.ishr v a) :=
  of_some rfl (by decide) (vecWord_fits _ _)
theorem SlotWord.islt (v : Fin 128) (a : VecArgs) : Statement (.islt v a) :=
  of_some rfl (by decide) (vecWord_fits _ _)
theorem SlotWord.cvtf (v : Fin 128) (a : VecArgs) : Statement (.cvtf v a) :=
  of_some rfl (by decide) (vecWord_fits _ _)
theorem SlotWord.cvti (v : Fin 128) (a : VecArgs) : Statement (.cvti v a) :=
  of_some rfl (by decide) (vecWord_fits _ _)
theorem SlotWord.mxq (v : Fin 128) (a : VecArgs) : Statement (.mxq v a) :=
  of_some rfl (by decide) (vecWord_fits _ _)
theorem SlotWord.exp2 (v : Fin 128) (a : VecArgs) : Statement (.exp2 v a) :=
  of_some rfl (by decide) (vecWord_fits _ _)
theorem SlotWord.rcp (v : Fin 128) (a : VecArgs) : Statement (.rcp v a) :=
  of_some rfl (by decide) (vecWord_fits _ _)
theorem SlotWord.log (v : Fin 128) (a : VecArgs) : Statement (.log v a) :=
  of_some rfl (by decide) (vecWord_fits _ _)
theorem SlotWord.rsqrt (v : Fin 128) (a : VecArgs) : Statement (.rsqrt v a) :=
  of_some rfl (by decide) (vecWord_fits _ _)
theorem SlotWord.xadd (v : Fin 128) (a : VecArgs) : Statement (.xadd v a) :=
  of_some rfl (by decide) (vecWord_fits _ _)
theorem SlotWord.xcvt (v : Fin 128) (a : VecArgs) : Statement (.xcvt v a) :=
  of_some rfl (by decide) (vecWord_fits _ _)
theorem SlotWord.rmax (v : Fin 128) (a : VecArgs) : Statement (.rmax v a) :=
  of_some rfl (by decide) (vecWord_fits _ _)
theorem SlotWord.rsum (v : Fin 128) (a : VecArgs) : Statement (.rsum v a) :=
  of_some rfl (by decide) (vecWord_fits _ _)
theorem SlotWord.sld (v : Fin 128) (x : XchArgs) : Statement (.sld v x) :=
  of_some rfl (by decide) (xchWord_fits _ _)
theorem SlotWord.sst (v : Fin 128) (x : XchArgs) (parity : Bool) : Statement (.sst v x parity) :=
  of_some rfl (by decide) (xchWord_fits _ _)
theorem SlotWord.put (v : Fin 128) (x : XchArgs) (parity : Bool) : Statement (.put v x parity) :=
  of_some rfl (by decide) (xchWord_fits _ _)
theorem SlotWord.send (v : Fin 128) (x : XchArgs) (parity : Bool) : Statement (.send v x parity) :=
  of_some rfl (by decide) (xchWord_fits _ _)
theorem SlotWord.nbj (v : Fin 128) (x : XchArgs) : Statement (.nbj v x) :=
  of_some rfl (by decide) (xchWord_fits _ _)
theorem SlotWord.sendDepart (v : Fin 128) (slot : Fin 8) : Statement (.sendDepart v slot) := of_none rfl
theorem SlotWord.inboundWrite (v : Fin 128) (errs : Errs) : Statement (.inboundWrite v errs) := of_none rfl
theorem SlotWord.sstComplete (v : Fin 128) (slot : Fin 8) (errs : Errs) : Statement (.sstComplete v slot errs) := of_none rfl
theorem SlotWord.icacheFill (v : Fin 128) (errs : Errs) : Statement (.icacheFill v errs) := of_none rfl
theorem SlotWord.yieldBarrier (job : Nat) : Statement (.yieldBarrier job) := of_none rfl
theorem SlotWord.saveComplete (job : Nat) (failed : Option (Fin 128)) : Statement (.saveComplete job failed) := of_none rfl
theorem SlotWord.restore (job : Nat) : Statement (.restore job) := of_none rfl
theorem SlotWord.restoreComplete (job : Nat) (failed : Option (Fin 128)) : Statement (.restoreComplete job failed) := of_none rfl
theorem SlotWord.vatClear (v : Fin 128) : Statement (.vatClear v) := of_none rfl
theorem SlotWord.jobStart (job : Nat) : Statement (.jobStart job) := of_none rfl
theorem SlotWord.nbeJobAccept (job : Nat) (errs : Errs) : Statement (.nbeJobAccept job errs) := of_none rfl
theorem SlotWord.matvec (job : Nat) (parity : Bool) (errs : Errs) : Statement (.matvec job parity errs) := of_none rfl
theorem SlotWord.attnScore (job : Nat) (parity : Bool) (errs : Errs) : Statement (.attnScore job parity errs) := of_none rfl
theorem SlotWord.attnValue (job : Nat) (parity : Bool) (errs : Errs) : Statement (.attnValue job parity errs) := of_none rfl
theorem SlotWord.move (job : Nat) (errs : Errs) : Statement (.move job errs) := of_none rfl
theorem SlotWord.nbeJobComplete (job : Nat) : Statement (.nbeJobComplete job) := of_none rfl
theorem SlotWord.copyPieceComplete (r : RingRef) (id piece : Nat) (channel : Fin 32) (errs : Errs) : Statement (.copyPieceComplete r id piece channel errs) := of_none rfl
theorem SlotWord.granuleReread (dpa : DWord) (consumer : Consumer) (conds : Conds) : Statement (.granuleReread dpa consumer conds) := of_none rfl
theorem SlotWord.ceLeakPeriod (s : Fin 8) : Statement (.ceLeakPeriod s) := of_none rfl
theorem SlotWord.patrolScrub (dpa : DWord) (conds : Conds) : Statement (.patrolScrub dpa conds) := of_none rfl
theorem SlotWord.refresh (s : Fin 8) (pc : Fin 64) (bank : Fin 32) : Statement (.refresh s pc bank) := of_none rfl
theorem SlotWord.refreshNormalRate (s : Fin 8) : Statement (.refreshNormalRate s) := of_none rfl
theorem SlotWord.stepBoundary (n : Fin 16) (errs : Errs) : Statement (.stepBoundary n errs) := of_none rfl
theorem SlotWord.stepPlan (n : Fin 16) (plan : StepPlan) (errs : Errs) : Statement (.stepPlan n plan errs) := of_none rfl
theorem SlotWord.stepProgramEnd (n : Fin 16) (logits : Option (List (List Word))) (appends : List KvAppend) (errs : Errs) : Statement (.stepProgramEnd n logits appends errs) := of_none rfl
theorem SlotWord.cocoonWriteComplete (n : Fin 16) (tag : DWord) (ok : Bool) (errs : Errs) : Statement (.cocoonWriteComplete n tag ok errs) := of_none rfl
theorem SlotWord.cocoonReadComplete (n : Fin 16) (tag : DWord) (readable : Bool) (stream : List Byte) : Statement (.cocoonReadComplete n tag readable stream) := of_none rfl
theorem SlotWord.frameReceive (p : Fin 16) (c : Codeword) : Statement (.frameReceive p c) := of_none rfl
theorem SlotWord.replayTimeout (p : Fin 16) : Statement (.replayTimeout p) := of_none rfl
theorem SlotWord.beacon (p : Fin 16) (errorPs : Nat) : Statement (.beacon p errorPs) := of_none rfl
theorem SlotWord.holdReq (p : Fin 16) : Statement (.holdReq p) := of_none rfl
theorem SlotWord.announce (p : Fin 16) : Statement (.announce p) := of_none rfl
theorem SlotWord.abort (p : Fin 16) : Statement (.abort p) := of_none rfl
theorem SlotWord.train (p : Fin 16) : Statement (.train p) := of_none rfl
theorem SlotWord.trainingComplete (p : Fin 16) : Statement (.trainingComplete p) := of_none rfl
theorem SlotWord.trainingTimeout (p : Fin 16) (tooLong : Bool) : Statement (.trainingTimeout p tooLong) := of_none rfl
theorem SlotWord.lightLoss (p : Fin 16) : Statement (.lightLoss p) := of_none rfl
theorem SlotWord.transferReceive (p : Fin 16) : Statement (.transferReceive p) := of_none rfl
theorem SlotWord.transferAck (p : Fin 16) : Statement (.transferAck p) := of_none rfl
theorem SlotWord.fabTimeout (v : Fin 128) (slot : Fin 8) : Statement (.fabTimeout v slot) := of_none rfl
theorem SlotWord.quantumBoundary : Statement .quantumBoundary := of_none rfl
theorem SlotWord.beaconLoss : Statement .beaconLoss := of_none rfl
theorem SlotWord.holdStart (s : Fin 16) : Statement (.holdStart s) := of_none rfl
theorem SlotWord.holdEnd (s : Fin 16) : Statement (.holdEnd s) := of_none rfl
theorem SlotWord.portEnable (p : Fin 16) : Statement (.portEnable p) := of_none rfl
theorem SlotWord.portDisable (p : Fin 16) : Statement (.portDisable p) := of_none rfl
theorem SlotWord.forceDown (p : Fin 16) : Statement (.forceDown p) := of_none rfl
theorem SlotWord.fabRtSel (n : Fin 16) (w : Word) : Statement (.fabRtSel n w) := of_none rfl
theorem SlotWord.fabRtDataWrite (n : Fin 16) (w : Word) : Statement (.fabRtDataWrite n w) := of_none rfl
theorem SlotWord.partitionEnable (n : Fin 16) : Statement (.partitionEnable n) := of_none rfl
theorem SlotWord.partitionTeardown (n : Fin 16) : Statement (.partitionTeardown n) := of_none rfl
theorem SlotWord.teardownComplete (n : Fin 16) : Statement (.teardownComplete n) := of_none rfl
theorem SlotWord.sramUncorrectable (o : SramOwner) : Statement (.sramUncorrectable o) := of_none rfl
theorem SlotWord.slowdownUpdate (n : Fin 16) (busy wait stk net host srv : Nat) : Statement (.slowdownUpdate n busy wait stk net host srv) := of_none rfl
theorem SlotWord.throttleUpdate (p10us : Half) : Statement (.throttleUpdate p10us) := of_none rfl
theorem SlotWord.powerTrim (p1ms : Half) (energyMj : Nat) : Statement (.powerTrim p1ms energyMj) := of_none rfl
theorem SlotWord.capUnmet : Statement .capUnmet := of_none rfl
theorem SlotWord.divReqChange (up : Bool) : Statement (.divReqChange up) := of_none rfl
theorem SlotWord.vpointIdle (i : Fin 96) : Statement (.vpointIdle i) := of_none rfl
theorem SlotWord.voltageRiseComplete (i : Fin 96) : Statement (.voltageRiseComplete i) := of_none rfl
theorem SlotWord.sensorConversion (k : Fin 416) : Statement (.sensorConversion k) := of_none rfl
theorem SlotWord.conversionResult (k : Fin 416) (raw : BitVec 12) (rateLow : Bool) : Statement (.conversionResult k raw rateLow) := of_none rfl
theorem SlotWord.conversionTimeout (k : Fin 416) : Statement (.conversionTimeout k) := of_none rfl
theorem SlotWord.thermalLimitClear : Statement .thermalLimitClear := of_none rfl
theorem SlotWord.errConsumeWrite (w : Word) : Statement (.errConsumeWrite w) := of_none rfl
theorem SlotWord.errVfRecRead (n : Fin 16) : Statement (.errVfRecRead n) := of_none rfl
theorem SlotWord.evcClaimRead (t : Fin 3) : Statement (.evcClaimRead t) := of_none rfl
theorem SlotWord.evcCompleteWrite (t : Fin 3) (w : Word) : Statement (.evcCompleteWrite t w) := of_none rfl
theorem SlotWord.evcSrcClear (j : Fin 256) : Statement (.evcSrcClear j) := of_none rfl
theorem SlotWord.evcQHeadWrite (f : Fn) (w : Word) : Statement (.evcQHeadWrite f w) := of_none rfl
theorem SlotWord.extInAssert (j : Fin 2) : Statement (.extInAssert j) := of_none rfl
theorem SlotWord.hifRingStatusRead (r : RingRef) : Statement (.hifRingStatusRead r) := of_none rfl
theorem SlotWord.fabPortStatusRead (p : Fin 16) : Statement (.fabPortStatusRead p) := of_none rfl
theorem SlotWord.fabRtStatusRead (n : Fin 16) : Statement (.fabRtStatusRead n) := of_none rfl
theorem SlotWord.pwrStatusRead : Statement .pwrStatusRead := of_none rfl
theorem SlotWord.errStatusRead : Statement .errStatusRead := of_none rfl
theorem SlotWord.evcQLostRead (f : Fn) : Statement (.evcQLostRead f) := of_none rfl
theorem SlotWord.genStatusRead : Statement .genStatusRead := of_none rfl
theorem SlotWord.genUnlock (w : Word) : Statement (.genUnlock w) := of_none rfl
theorem SlotWord.tstMuxCtlWrite (w : Word) : Statement (.tstMuxCtlWrite w) := of_none rfl
theorem SlotWord.registerWrite (t : RegTarget) (w : Word) : Statement (.registerWrite t w) := of_none rfl
theorem SlotWord.setEndpointId (p : Transport) (eid : Byte) : Statement (.setEndpointId p eid) := of_none rfl
theorem SlotWord.getSensorReading (p : Transport) (id : Byte) : Statement (.getSensorReading p id) := of_none rfl
theorem SlotWord.setNumericEffecterValue (p : Transport) (id : Byte) (value : Half) : Statement (.setNumericEffecterValue p id value) := of_none rfl
theorem SlotWord.setEventReceiver (p : Transport) (eid : Byte) : Statement (.setEventReceiver p eid) := of_none rfl
theorem SlotWord.requestUpdate (p : Transport) : Statement (.requestUpdate p) := of_none rfl
theorem SlotWord.verifyComplete (image : List Byte) : Statement (.verifyComplete image) := of_none rfl
theorem SlotWord.applyComplete (ok : Bool) : Statement (.applyComplete ok) := of_none rfl
theorem SlotWord.activateFirmware (p : Transport) : Statement (.activateFirmware p) := of_none rfl
theorem SlotWord.restoreFactory (p : Transport) : Statement (.restoreFactory p) := of_none rfl
theorem SlotWord.eventClaim (p : Transport) : Statement (.eventClaim p) := of_none rfl
theorem SlotWord.eventComplete (p : Transport) (source : Byte) : Statement (.eventComplete p source) := of_none rfl
theorem SlotWord.readError (p : Transport) (seq : Word) : Statement (.readError p seq) := of_none rfl
theorem SlotWord.setSensorOffset (p : Transport) (sensor : Half) (offset : Byte) : Statement (.setSensorOffset p sensor offset) := of_none rfl
theorem SlotWord.secRcvGo : Statement .secRcvGo := of_none rfl
theorem SlotWord.recoveryUploadComplete (image : Option (List Byte)) (flashOk : Bool) (second : Option (List Byte)) : Statement (.recoveryUploadComplete image flashOk second) := of_none rfl
theorem SlotWord.entropyFail : Statement .entropyFail := of_none rfl
theorem SlotWord.perstAssert : Statement .perstAssert := of_none rfl
theorem SlotWord.perstRelease (entropyOk : Bool) : Statement (.perstRelease entropyOk) := of_none rfl
theorem SlotWord.vinBrownout : Statement .vinBrownout := of_none rfl
theorem SlotWord.vinGood (entropyOk : Bool) : Statement (.vinGood entropyOk) := of_none rfl
theorem SlotWord.vauxLoss : Statement .vauxLoss := of_none rfl
theorem SlotWord.lateStart (job : Nat) : Statement (.lateStart job) := of_none rfl
theorem SlotWord.extInDeassert (j : Fin 2) : Statement (.extInDeassert j) := of_none rfl
theorem SlotWord.laserInputChange (e : Fin 8) (ok : Bool) : Statement (.laserInputChange e ok) := of_none rfl
theorem SlotWord.vauxGood (entropyOk : Bool) : Statement (.vauxGood entropyOk) := of_none rfl
theorem SlotWord.refclkStable (entropyOk : Bool) : Statement (.refclkStable entropyOk) := of_none rfl
theorem SlotWord.tapInstruction (boundaryScan : Bool) (code : Half) : Statement (.tapInstruction boundaryScan code) := of_none rfl

end Sys2Proof.Laws
end

