-- ==== Sys2Proof/Tests/Slice0.lean ====
section
/-! SUPPORT. Tests: ill-formed commands, words and numbers from the worked examples of spec/, and for each statement
with hypotheses a state and operands that meet them. Expected values come from the spec's tables and examples, or from
hand calculation. -/

namespace Sys2Proof.Tests

open Sys2Proof.Machine

set_option Elab.async false

/-! ### States -/

/-- A device that runs, all its pages in device bias. -/
def on : State :=
  { mem := { State.reset.mem with bias := [(0, 2 ^ 27)] }, pins := { mode := .running, link := .cxl, perst := false }, mgt := { running := true }, gen := { ready := true } }

/-- A state with the pins and the memory of `on` is live. -/
theorem live_of (s : State) (hp : s.pins = on.pins) (hm : s.mem = on.mem) (he : s.errs = []) (hb : s.blocked = false) :
    s.live := by
  simp only [State.live, State.running, State.quiet, hp, hm, he, hb]
  decide

def device : DeviceConfig :=
  { islands := 1, stackSet := 1, regions := [], firmwareMajor := 0, lcEnable := false, portSet := 0, routes := [],
    saveBase := 0, saveStride := 0 }

def prog : ProgHeader :=
  { fingerprint := 0, imageDigest := 0, config := device, latencyCritical := false, serving := false, devices := 1,
    position := 0, size := 4096, codeOff := 1024, codeSize := 1024, vats := 1, stackSet := 0, portSet := 0, args := [],
    exclusive := [], yields := [],
    shape := { layers := 1, kvhLocal := 1, pageTokens := 16, headWidth := 64, kvFormat := 1, exact := false,
               budgetBeats := 64, tokensMax := 32, sMax := 32, vocab := 64, rennet := [], attn := [] } }

def job : Job :=
  { id := 0, part := 0, ring := 0, desc := 1, tag := 0, program := 0, hdr := prog, startBeat := 64, askedBeat := 0,
    state := .running, readyStamp := 0, preemptStamp := 0, beat := 5, beatSub := 0, holdQuanta := 0, ended := [],
    yieldStep := 0, serving := false }

/-- A running job of class latency-critical. -/
def jobLc : Job := { job with hdr := { prog with latencyCritical := true } }

/-- Vat 0 alone, without a job. -/
def vat (x : Vat) : State := { on with vats := [(0, x)] }

/-- Partition 0 with one region in its window. -/
def part : Part := { state := .active, islands := 1, stackSet := 1, channels := 1, win := [(0, (true, 3))], entries := 16 }

/-- Vat 0 in job 0 of partition 0. -/
def vatIn (j : Job) (x : Vat) : State :=
  { on with vats := [(0, { x with job := some 0 })], jobs := [(0, j)], parts := [(0, part)] }

/-- A ring whose descriptor is `d`. -/
def ringWith (ds : List Desc) : Ring :=
  { used := some { cqLog2 := 4, sqLog2 := 4 }, enable := true, descs := ds, fetch := 1, sqTail := 1 }

def descOf (bits : Bits512) : Desc := { id := 7, slot := 0, bits := bits, state := .fetched, orphan := false }

/-- Partition 0 with descriptor `bits` fetched on ring 0. -/
def ringOf (bits : Bits512) : State :=
  { on with parts := [(0, part)], vfs := [(0, { rings := [(0, ringWith [descOf bits])] })] }

def r0 : RingRef := { vf := 0, ring := 0 }

/-! ### Ill-formed commands -/

theorem test_wf_launch_no_devices : (Instr.launch r0 (some { prog with devices := 0 }) []).wf = false := by decide
theorem test_wf_launch_position : (Instr.launch r0 (some { prog with position := 1 }) []).wf = false := by decide
theorem test_wf_launch_yields : (Instr.launch r0 (some { prog with yields := [(1, []), (1, [])] }) []).wf = false := by decide
theorem test_wf_serveStart_args :
    (Instr.serveStart r0 (some { prog with args := [⟨1, 8⟩, ⟨1, 8⟩] }) []).wf = false := by decide
theorem test_wf_serveStart_rennet :
    (Instr.serveStart r0 (some { prog with shape := { prog.shape with rennet := [⟨2, 1⟩, ⟨2, 1⟩] } }) []).wf = false := by
  decide
theorem test_wf_memRead_word : (Instr.hostMemRead 0 [(16, .bad)]).wf = false := by decide
theorem test_wf_memRead_twice : (Instr.hostMemRead 0 [(1, .bad), (1, .single)]).wf = false := by decide
theorem test_wf_memWrite : (Instr.hostMemWrite 0 0 0 false [(16, .lost), (16, .single)]).wf = false := by decide
theorem test_wf_sst : (Instr.sstComplete 0 0 [(5, .lost), (5, .lost)]).wf = false := by decide
theorem test_wf_reread : (Instr.granuleReread 0 .host [(8, .bad)]).wf = false := by decide
theorem test_wf_yield_lines :
    (Instr.launch r0 (some { prog with yields := [(1, [(0, [5, 4])])] }) []).wf = false ∧
    (Instr.launch r0 (some { prog with yields := [(1, [(0, [2048])])] }) []).wf = false ∧
    (Instr.launch r0 (some { prog with yields := [(1, [(0, [4, 5])])] }) []).wf = true := by decide
theorem test_wf_patrol : (Instr.patrolScrub 0 [(8, .bad)]).wf = false := by decide
theorem test_wf_codeword : (Instr.frameReceive 0 ⟨some 16, 0⟩).wf = false := by decide
theorem test_wf_good : (Instr.launch r0 (some prog) []).wf = true ∧ (Instr.hostMemRead 0 [(15, .bad)]).wf = true ∧
    (Instr.frameReceive 0 ⟨some 15, 0⟩).wf = true := by decide

/-- The opcode table gives no row any bits. -/
theorem test_no_table_word : decodeTableWord 32 0 = none ∧ decodeTableWord 0 0 = none := by decide

/-! ### Words of the inner loop of chapter 07 -/

theorem test_word_loop : decodeSlot 0 false 0 0x2020000000000460 = some (.loop 0 1 0x460) := by decide
theorem test_word_loop_ga0 : decodeSlot 0 false 0 0x2060000000000424 = some (.loop 0 3 0x424) := by decide
theorem test_word_lda : decodeSlot 0 false 2 0x0FF8044800000000 =
    some (.lda 0 { amask := 0xFF, reg := 0, base := 2, inc := 4, sel := true, count := 0, msel := 0, vm := 0,
                   offset := 0 } false) := by decide
theorem test_word_arr : decodeSlot 0 false 3 0xFF040A00 =
    some (.arrIssue 0 { amask := 0xFF, row := 1, sel := false, index := 1, last := false, lx := true }) := by decide
theorem test_word_ldw : decodeSlot 0 false 2 0x17F80A6180000000 =
    some (.ldw 0 { amask := 0xFF, reg := 0, base := 5, inc := 6, sel := false, count := 3, msel := 0, vm := 0,
                   offset := 0 } false) := by decide
theorem test_word_arr_line1 : decodeSlot 0 false 3 0xFFFFF800 =
    some (.arrIssue 0 { amask := 0xFF, row := 63, sel := true, index := 63, last := false, lx := false }) := by decide
theorem test_word_swap : decodeSlot 0 false 4 0x1FF00000 = some (.swap 0 0xFF) := by decide
theorem test_word_scl : decodeSlot 0 false 1 0x04221800 = some (.add 0 1 2 3) := by decide
theorem test_word_drn : decodeSlot 0 false 5 0x30100000 =
    some (.setrc 0 { amask := 1, row := 0, reg := 0, raw := false, qsel := false }) := by decide
theorem test_word_unlisted_op : decodeSlot 0 false 1 0 = none ∧ decodeSlot 0 false 4 0 = none := by decide

/-- Gc0 of the example, 20 bytes. -/
theorem test_word_bundle :
    decodeSlots 0 false 0x1C000000 [2, 3, 4] (bytesOfNat 8 0x17F80A6180000000 ++ bytesOfNat 4 0xFFFDF800 ++
      bytesOfNat 4 0x1FF00000) =
      [(2, decodeSlot 0 false 2 0x17F80A6180000000), (3, decodeSlot 0 false 3 0xFFFDF800),
       (4, some (.swap 0 0xFF))] := by decide +kernel

/-! ### Numbers of the worked examples -/

/-- The BF16 dot product of chapter 04: S is 12,289, on one device and summed over two. -/
theorem test_exact_dot :
    accSum 42 [.fin false 1 40, .fin false 3 (-1), .fin true 1 40, .fin false 1 (-20)] = .fin 12289 ∧
    accCombine (accSum 42 [.fin false 1 40, .fin false 3 (-1)]) (accSum 42 [.fin true 1 40, .fin false 1 (-20)]) =
      .fin 12289 ∧
    encodeVal fmtFp32 .rne (accVal 42 (.fin 12288)) = 0x3FC00000 := by decide +kernel

/-- In fast mode one group of the same dot product is 1.5 and the split one is 0. -/
theorem test_fast_dot :
    encodeVal fmtBf16 .rne (fVal (fRn (groupSum [.fin false 1 40, .fin false 3 (-1), .fin true 1 40,
      .fin false 1 (-20)]))) = 0x3FC0 ∧
    fAdd (fRn (groupSum [.fin false 1 40, .fin false 3 (-1)])) (fRn (groupSum [.fin true 1 40, .fin false 1 (-20)])) =
      0 := by decide +kernel

/-- 2^0, 1 / 2 and log 1. -/
theorem test_special_functions : znExp2 0 = 0x3F800000 ∧ znRecip 0x40000000 = 0x3F000000 ∧ znLog 0x3F800000 = 0 := by
  decide +kernel

/-- SHA-256 of no bytes. -/
theorem test_sha256_empty :
    sha256 [] = 0xE3B0C44298FC1C149AFBF4C8996FB92427AE41E4649B934CA495991B7852B855 := by decide +kernel

/-- The decoder of chapter 08's example: it commits, and claims the host address at DPA 0x30_048D_1678. -/
def decoders : State := on.hdmCommit 0 0x2000000000 (256 * 2 ^ 30) 2 12 (192 * 2 ^ 30) 1

theorem test_hdm_example : decoders.hdmDpa 0x2012345678 = some 0x30048D1678 ∧ decoders.hdmDpa 0x2012344678 = none := by
  decide +kernel

/-- The claims of chapter 18's example: source 0x01 before 0x3B, then 0x02 above it, and last 0x3B. -/
def events : State :=
  let s := ({ on with evc := { targets := [(0, { thresh := 2 })] } }).raise 0x3B 0 |>.raise 0x01 0
  let s1 := ((s.evcClaimRead 0).raise 0x2E 300).raise 0x02 0
  (s1.evcClaimRead 0)

theorem test_claims_example :
    (events.evc.target 0).running = [(12, 0x02), (8, 0x01)] ∧
    ((events.finishEvent 0 0x01).evc.target 0).running = [(12, 0x02), (8, 0x01)] ∧
    ((((events.finishEvent 0 0x02).finishEvent 0 0x01).evcClaimRead 0).evc.target 0).running = [(5, 0x3B)] := by
  decide +kernel

/-! ### Witnesses: the queue -/

theorem test_wit_StepRunsFrontCommand :
    ({ on with pending := [.trap 0 1, .quantumBoundary] }).pending = .trap 0 1 :: [.quantumBoundary] := by decide

theorem test_wit_EmptyQueuePassesABeat : State.reset.pending = [] ∧ State.reset.running = false ∧ on.running = true ∧
    tabFind (vatIn job {}).jobs 0 = some job ∧ (vatIn job {}).inHold 0 = false ∧ ((vatIn job {}).slot 0).divisor = 1 ∧
    (({ vatIn job {} with tmb := { slots := [(0, { hold := some ⟨0, 1, 1⟩ })] } }).slot 0).hold.isSome = true := by decide

theorem test_wit_CommandsAnswer : State.reset.running = false ∧ needsRunning (.trap 0 1) = true := by decide

theorem test_wit_memOk : State.reset.memOk := by unfold State.memOk; decide

theorem test_wit_StepKeepsMemoryCanonical : step State.reset = .next State.reset := rfl

/-! ### Witnesses: vats -/

theorem test_wit_live : on.live ∧ (vatIn job {}).live ∧ (ringOf 0).live :=
  ⟨live_of _ rfl rfl rfl rfl, live_of _ rfl rfl rfl rfl, live_of _ rfl rfl rfl rfl⟩

theorem test_wit_ScalarResults : (vatIn job {}).jobOf 0 = some job ∧ on.jobOf 0 = none ∧
    tabFind ((vat { loops := [(0, {})] }).vat 0).loops (3 % 4 / 4 % 4) = some {} ∧
    tabFind (on.vat 0).loops (13 / 4 % 4) = none := by decide

/-- Depths 3 and 4, an end before and at the next bundle, counts 0 and 1. -/
theorem test_wit_HardwareLoops : ((vat { depth := 4 }).vat 0).depth = 4 ∧ ((vat { depth := 3 }).vat 0).depth < 4 ∧
    (11 : Word).toNat < (0 : Word).toNat + 12 ∧ (0 : Word).toNat + 12 ≤ (12 : Word).toNat ∧
    field ((vat { sregs := [(1, 1)] }).vat 0 |>.sreg 1) 0 32 ≠ 0 ∧ field ((on.vat 0).sreg 1) 0 32 = 0 := by decide

theorem test_wit_loop_levels :
    ({ depth := 1, loops := [(0, { lc := 2, le := 8 })] } : Vat).level.le.toNat = 8 ∧
    1 < ({ depth := 1, loops := [(0, { lc := 2, le := 8 })] } : Vat).level.lc.toNat ∧
    ({ depth := 1, loops := [(0, { lc := 1, le := 8 })] } : Vat).level.lc.toNat ≤ 1 := by decide

/-- The code area has 1,024 bytes: 1,020 is a target in it, 1,024 and 1,022 are none. -/
theorem test_wit_Branches : (vatIn job {}).codeSize 0 = 1024 ∧ (1020 : Word).toNat % 4 = 0 ∧
    (1020 : Word).toNat < (vatIn job {}).codeSize 0 ∧ (vatIn job {}).codeSize 0 ≤ (1024 : Word).toNat ∧
    (1022 : Word).toNat % 4 ≠ 0 := by decide

/-- Job beat 5 against targets 6, 5 and 4. -/
theorem test_wit_bsync : (vatIn jobLc {}).vatLc 0 = true ∧ (vatIn job {}).vatLc 0 = false ∧
    (vatIn jobLc {}).jobBeat 0 = 5 ∧ (0 + (6 : Word).zeroExtend 64 : DWord).toNat = 6 := by decide

theorem test_wit_waitf :
    let x := (vat { sregs := [(1, 4), (2, 1)], spd := [(0, 0x100000000)] }).vat 0
    (x.sreg 1).toNat < 2 ^ 22 ∧ (x.sreg 1).toNat % 4 = 0 ∧ x.word 4 &&& field (x.sreg 2) 0 32 = field (x.sreg 2) 0 32 ∧
    x.word 8 &&& field (x.sreg 2) 0 32 = 0 ∧ (({ sregs := [(1, 5)] } : Vat).sreg 1).toNat % 4 ≠ 0 ∧
    2 ^ 22 ≤ (({ sregs := [(1, 4194304)] } : Vat).sreg 1).toNat := by decide +kernel

def xfer (k : XferKind) : Xfer := newXfer k 1 none

def twoVats : Job := { job with hdr := { prog with vats := 3 } }

theorem test_wit_YieldTrapEnd : ({ xfers := [(0, xfer .sld)] } : Vat).xfers ≠ [] ∧ ({} : Vat).xfers = [] ∧
    on.jobOf 0 = none ∧ (vatIn twoVats {}).jobOf 0 = some twoVats ∧ tabFind (vatIn twoVats {}).jobs 0 = some twoVats ∧
    1 ∈ twoVats.vatList ∧ 1 ∉ twoVats.ended ∧ (∀ w ∈ job.vatList, w = 0 ∨ w ∈ job.ended) := by decide

def port : PortArgs := { amask := 1, reg := 2, base := 5, inc := 6, sel := false, count := 0, msel := 0, vm := 0, offset := 0 }

/-- The last line and the last 8 bytes below the reserved range, and the first beyond them. -/
theorem test_wit_PortLoads :
    (((on.vat 0).sreg 5).toNat + ({ port with offset := 12580864 } : PortArgs).offset.toNat) % 2 ^ 24 + 2048 = 3 * 2 ^ 22 ∧
    12580864 % 2048 = 0 ∧ 12582904 + 8 = 3 * 2 ^ 22 ∧ port.reg.val % 2 = 0 ∧ port.count = 0 := by decide

theorem test_wit_PortStores : port.count = 0 ∧ ({ port with reg := 30 } : PortArgs).reg.val < 31 ∧
    ({ port with msel := 3 } : PortArgs).msel = 3 ∧ (0 : BitVec 24).toNat < 3 * 2 ^ 22 := by decide

def cfgFp8 : CfgArgs := { wfmt := 3, afmt := 3, exact := false, quad := false, raw := true, rmode := false }

/-- Raw FP8 weights in array 0, and curd streams with and without the first half of a block. -/
theorem test_wit_WeightLoads : cfgPairOk cfgFp8 = true ∧ cfgPairOk { cfgFp8 with raw := false } = true ∧
    ({ cfgNext := cfgFp8 } : ArrayUnit).cfgNext.raw = true ∧ port.amask = BitVec.ofNat 8 (2 ^ 0) ∧
    (∀ i, i ≤ port.count.toNat → ((0 : Nat) + 2048 * i) % 2 ^ 24 < 3 * 2 ^ 22) ∧
    ({ halfBlock := some 0 } : ArrayUnit).halfBlock = some 0 ∧ ({} : ArrayUnit).halfBlock = none := by decide +kernel

/-- A block of zeros is bad. -/
theorem test_wit_bad_block : curdExpand ({} : ArrayUnit).tableFor ((0 : Line) ++ (0 : Line)) = .bad := by decide +kernel

theorem test_wit_SlotTraps : ({ port with count := 1 } : PortArgs).count ≠ 0 ∧
    3 * 2 ^ 22 ≤ ({ port with offset := 12582912 } : PortArgs).offset.toNat ∧
    ({ port with reg := 31 } : PortArgs).reg.val % 2 = 1 ∧ checkLdw ((vat { arrays := [(0, { cfgNext := cfgFp8 })] }).vat 0)
      port = none ∧ ((on.vat 0).job = none) := by decide

def vec : VecArgs := { vd := 1, va := 2, vb := 3, vc := 4, fmt := 3, rnd := 0, gmask := 1, sb := true }

theorem test_wit_vec_traps : ({ vec with rnd := 3 } : VecArgs).rnd = 3 ∧ ({ vec with gmask := 0 } : VecArgs).gmask = 0 ∧
    fmtKnown 63 = false ∧ fmtIsMx vec.fmt.toNat = false ∧ ({ vec with sb := false } : VecArgs).sb = false := by decide

def xch : XchArgs := { ra := 1, rb := 2, rf := 3, fbit := 0, flag := false, atbeat := false, rt := 0, lines := 0 }

/-- A vat whose eight transfer slots are taken. -/
def busyVat : Vat := { xfers := (List.range 8).map fun k => (k, xfer .sld) }

theorem test_wit_xch_traps : (vatIn job {}).checkXch 0 ((vatIn job {}).vat 0) (.sld 0 xch) = none ∧
    (vatIn job {}).checkXch 0 ((vatIn job {}).vat 0) (.sst 0 xch false) = none ∧
    (vatIn job {}).checkXch 0 ((vatIn job {}).vat 0) (.nbj 0 xch) = none ∧
    (∀ k, k < 8 → (tabFind ((vatIn job busyVat).vat 0).xfers k).isSome = true) ∧
    (vatIn job {}).checkXch 0 ((vatIn job { sregs := [(1, 268433408)] }).vat 0) (.sld 0 xch) = none ∧
    (vatIn job {}).checkXch 0 ((vatIn job { sregs := [(1, 268433472)] }).vat 0) (.sld 0 xch) = some .window ∧
    (vatIn job {}).checkXch 0 ((vatIn job { sregs := [(1, 32)] }).vat 0) (.sld 0 xch) = some .scratchAddress := by
  decide +kernel

theorem test_wit_put_send : (vatIn job {}).checkXch 0 ((vatIn job {}).vat 0) (.put 0 xch false) = none ∧
    job.hdr.vats.getLsbD (field (1 <<< 24 : DWord) 24 7).toNat = false ∧ routeOk (on.route 0 0) = false := by decide +kernel

theorem test_wit_WeightSlot : cfgPairOk cfgFp8 = true ∧ cfgPairOk { cfgFp8 with wfmt := 63 } = false ∧
    1 ≤ (1 : BitVec 10).toNat ∧ (1023 : BitVec 10).toNat + (1 : BitVec 10).toNat ≤ 1024 ∧
    1024 < (1023 : BitVec 10).toNat + (2 : BitVec 10).toNat := by decide

/-- A full shadow set of FP8 weights, and an empty one. -/
theorem test_wit_swap :
    (List.replicate 1024 (0 : Half)).length = cfgSetSize cfgFp8 ∧ ({} : ArrayUnit).shadow.length ≠ cfgSetSize cfgFp8 := by
  decide +kernel

def arr : ArrArgs := { amask := 1, row := 63, sel := false, index := 63, last := false, lx := false }

/-- The last row and the last operand of a line, in an array set to FP8, and quadrant rows 31 and 32. -/
theorem test_wit_ArrayIssue :
    let x := (vat { arrays := [(0, { cfg := cfgFp8 })] }).vat 0
    cfgPairOk (x.array 0).cfg = true ∧ arrRow x arr = 63 ∧ (arrIndex x arr + 1) * cfgIssueBytes (x.array 0).cfg ≤ 2048 ∧
    cfgPairOk { cfgFp8 with quad := true } = true ∧ arrRow x { arr with row := 31 } < 32 := by decide

def drn : DrnArgs := { amask := 1, row := 31, reg := 1, raw := true, qsel := false }

theorem test_wit_DrainRows : drn.row.toNat < 32 ∧ drn.amask = BitVec.ofNat 8 (2 ^ 0) ∧
    32 ≤ ({ drn with row := 32 } : DrnArgs).row.toNat ∧
    ((vat { arrays := [(0, { cfg := { cfgFp8 with quad := true } })] }).vat 0 |>.array 0).cfg.quad = true := by decide

/-- Shifts by 31 stay in range; formats with and without a scale; anchors 320 and −320. -/
theorem test_wit_vectors : vec.rnd ≠ 3 ∧ vec.gmask ≠ 0 ∧ ((31 : Word).toNat < 32) ∧ fmtKnown vec.fmt.toNat = true ∧
    fmtIsMx vec.fmt.toNat = false ∧ (∃ f : BitVec 6, fmtKnown f.toNat = true ∧ fmtIsMx f.toNat = true) ∧
    (((vat { sregs := [(3, 320)] }).vat 0).sreg vec.vb).toInt ≤ 320 ∧
    -320 ≤ (((vat { sregs := [(3, 0xFFFFFFFFFFFFFEC0)] }).vat 0).sreg vec.vb).toInt := by decide

theorem test_wit_XchIssues : ((vatIn job {}).vat 0).freeSlot = some 0 ∧
    ((vatIn job { xfers := [(0, xfer .sld)] }).vat 0).freeSlot = some 1 ∧
    ((vatIn job {}).winRead ((vatIn job {}).vatPart 0) 0 128).1.fail = none ∧
    ((vatIn job {}).winRead ((vatIn job {}).vatPart 0) 0 128).2.blocked = false := by decide +kernel

/-- A SEND over entry 0 of port 0: valid, with one hop. -/
def sendState : State :=
  { vatIn job {} with parts := [(0, { part with portSet := 1 })],
                      ports := [(0, { state := .up, routes := [(0, 0x8002000000000000)] })] }

theorem test_wit_send_passes : sendState.checkXch 0 (sendState.vat 0) (.send 0 xch false) = none := by decide +kernel

/-! ### Witnesses: bundles and events of vats and jobs -/

/-- Vat 0 of job 0 with the first line of its code in the cache: `bytes` and zeros. -/
def cachedVat (bytes : List Byte) : Vat :=
  { run := .running, icache := [(0, [(0, bytes ++ List.replicate (256 - bytes.length) 0)])] }

theorem test_wit_bundle :
    let x := (vatIn job (cachedVat [])).vat 0
    x.run = .running ∧ x.pc.toNat % 4 = 0 ∧ x.pc.toNat < (vatIn job (cachedVat [])).codeSize 0 ∧
    (x.cached 0).isSome = true ∧ ((vatIn job { run := .running }).vat 0).cached 0 = none ∧ ({} : Vat).run ≠ .running ∧
    natOfBytes [1, 0, 0, 0] % 2 ^ 23 ≠ 0 := by decide +kernel

/-- A bundle of an SCL and a CTL slot at the end of its line, 240 of 256. -/
theorem test_wit_bundle_two :
    let bs := bytesOfNat 4 (3 * 2 ^ 24) ++ bytesOfNat 8 (ctlWord 2 1 0 false 16) ++ bytesOfNat 4 (sclWord 1 1 2 3)
    natOfBytes (bs.take 4) = 3 * 2 ^ 24 ∧ natOfBytes ((bs.drop 4).take 8) = ctlWord 2 1 0 false 16 ∧
    natOfBytes ((bs.drop 12).take 4) = sclWord 1 1 2 3 ∧ 240 % 256 + 16 ≤ 256 ∧ (16 : Word).toNat % 4 = 0 := by decide +kernel

theorem test_wit_icacheFill :
    let s := vatIn job { run := .running, pc := 1020 }
    s.jobOf 0 = some job ∧ (s.vat 0).cached (1020 / 256 * 256) = none ∧ 1020 / 256 * 256 < job.hdr.codeSize ∧
    (s.winRead 0 (job.program + job.hdr.codeOff + 768) 256).1.fail = none ∧
    (s.winRead 0 (job.program + job.hdr.codeOff + 768) 256).2.blocked = false ∧
    job.hdr.codeSize ≤ 1024 / 256 * 256 := by decide +kernel

/-- The same read where a word of the line is marked. -/
theorem test_wit_icacheFill_marked :
    let s := { vatIn job { run := .running } with mem := { on.mem with marked := [(3 * 2 ^ 28 + 1024, 3 * 2 ^ 28 + 1032)] } }
    (s.winRead 0 (job.program + job.hdr.codeOff) 256).1.fail.isSome = true ∧
    (s.winRead 0 (job.program + job.hdr.codeOff) 256).2.blocked = false := by decide +kernel

def line : Inbound :=
  { src := .nbe 0, addr := 2048, lo := 0, hi := 2048, data := 1, flag := none, last := false, read := none }

/-- A line that an SLD asked for: the first of the window, or the first beyond it. -/
def asked (w : Nat) : Inbound := { line with src := .vat 0 7, read := some (0, w), last := true }

/-- A granule of region 3 under re-read. -/
def rereading : Reread :=
  { dpa := 3 * 2 ^ 28, consumer := .host, tries := 1, failing := [0], recovered := false, counted := true }

theorem test_wit_InboundWrites :
    ((vat { inbound := [line] }).vat 0).inbound = [line] ∧ (vat { inbound := [line] }).loadBlocked 0 line = false ∧
    (let s := vatIn job { run := .running, inbound := [asked 0] }
     (asked 0).read = some (0, 0) ∧ s.loadBlocked 0 (asked 0) = false ∧ (s.winRead 0 0 2048).1.fail = none ∧
     (s.winRead 0 0 2048).2.blocked = false ∧ ({ s with rereads := [rereading] }.winRead 0 0 2048).2.blocked = true ∧
     ((s.told [(3 * 2 ^ 28 / 4, .lost)]).winRead 0 0 2048).1.fail.isSome = true) ∧
    ((vat { inbound := [line], run := .clearing }).vat 0).run = .clearing ∧
    ((vat { inbound := [line], run := .waitf 0 1 false 0 }).vat 0).run = .waitf 0 1 false 0 ∧
    ({ line with flag := some (0, 4194300, 31), last := true } : Inbound).flag = some (0, 4194300, 31) ∧
    4194300 < 2 ^ 22 ∧ 4194300 % 4 = 0 ∧ ({ line with src := .vat 1 7 } : Inbound).src = .vat 1 7 := by decide +kernel

def sst : Xfer := { xfer .sst with addr := 2 ^ 28 - 2048, data := [5] }

/-- The last line of the window. -/
theorem test_wit_sstComplete :
    let s := vatIn job { run := .running, xfers := [(7, sst)] }
    tabFind (s.vat 0).xfers 7 = some sst ∧ s.sstBlocked 0 sst = false ∧ sst.addr % 64 = 0 ∧ sst.flag = none ∧
    (s.part (s.vatPart 0)).inWindow sst.addr (2048 * sst.data.length) = true ∧ (s.sstWrite 0 sst).blocked = false ∧
    ({ s with rereads := [{ rereading with dpa := 2 ^ 30 - 2048 }] }.sstWrite 0 sst).blocked = true ∧ sst.data.length ≤ 2048 ∧ (s.vat 0).run ≠ .ending := by decide +kernel

def send (b : Option Nat) : Xfer := { xfer .send with data := [5], beat := b }

def sendOf (j : Job) (b : Option Nat) (p : PortState) : State :=
  { vatIn j { run := .running, xfers := [(0, send b)] } with ports := [(0, { state := p })] }

/-- Beat 5 of a job at beat 5, of either class; and a port that is DOWN. -/
theorem test_wit_sendDepart :
    let s := sendOf job none .up
    let t := sendOf jobLc (some 5) .up
    tabFind (s.vat 0).xfers 0 = some (send none) ∧ (send none).departed = none ∧ (s.vat 0).sendBlocked s (send none) = false ∧
    s.vatLc 0 = false ∧ s.inHold (s.part (s.vatPart 0)).swarm.toNat = false ∧ t.jobOf 0 = some jobLc ∧ jobLc.lc = true ∧
    jobLc.state = .running ∧ jobLc.beat ≤ 5 ∧ (t.slot (t.part (t.vatPart 0)).swarm.toNat).divisor = 1 ∧
    (t.vat 0).sendBlocked t (send (some 5)) = false ∧ ((sendOf job none .down).port ((send none).route / 4096)).state ≠ .up := by
  decide +kernel

def holding : Tmb := { slots := [(0, { hold := some ⟨0, 1, 1⟩ })] }

theorem test_wit_BarriersRelease :
    let s := vatIn jobLc { run := .bsync 5 }
    (s.vat 0).run = .bsync 5 ∧ (s.vat 0).job = some 0 ∧ tabFind s.jobs 0 = some jobLc ∧ s.inHold 0 = false ∧
    ({ s with tmb := holding }).inHold 0 = true ∧ jobLc.beat ≤ 5 ∧ jobLc.beatSub < max 1 (s.slot 0).divisor ∧
    job.lc = false := by decide +kernel

/-- Vat 0 waits at its yield point, or does not yet; the job is preempting, or not. -/
theorem test_wit_yieldBarrier :
    ((vatIn job { run := .yield 3 }).vat 0).run = .yield 3 ∧ ((vatIn job { run := .yield 3 }).vat 0).xfers = [] ∧
    ((vatIn job { run := .running }).vat 0).run = .running ∧ job.hdr.vats.getLsbD 0 = true ∧ 0 ∉ job.ended ∧
    (∀ v, v < 128 → job.hdr.vats.getLsbD v = true → v = 0) ∧ ({ job with state := .preempting } : Job).state = .preempting ∧
    job.state ≠ .preempting := by decide +kernel

theorem test_wit_Preemption : (0 : Nat) < 128 ∧ ([0, 2047] : List Nat).Nodup ∧ (∀ k ∈ ([0, 2047] : List Nat), k < 2048) ∧
    ({ depth := 4 } : Vat).depth ≤ 4 ∧ job.vatList = [0] ∧ job.id = 0 ∧
    tabFind (vatIn { job with state := .saving } { run := .saving }).jobs 0 = some { job with state := .saving } ∧
    ((vatIn { job with state := .restoring } { run := .saving }).winRead 0
      ((vatIn { job with state := .restoring } { run := .saving }).saveOffset 0 0) 4096).1.fail = none ∧
    ((vatIn { job with state := .restoring } { run := .saving }).winRead 0
      ((vatIn { job with state := .restoring } { run := .saving }).saveOffset 0 0) 4096).2.blocked = false ∧
    ({ job with state := .restored } : Job).state = .restored := by decide +kernel

/-- Start beat 64 at beat 64, in a hold, while a voltage rises and while the vat clears. -/
theorem test_wit_JobsStart :
    let j := { job with state := JobState.starting }
    let s := { vatIn j {} with tmb := { beat := 64 } }
    tabFind s.jobs 0 = some j ∧ s.inHold 0 = false ∧ (∀ i ∈ j.islands, (s.vpoint i).rising = none) ∧
    (∀ v ∈ j.vatList, (s.vat v).run ≠ .clearing) ∧ s.tmb.beat ≤ j.startBeat ∧
    ({ s with tmb := holding }).inHold 0 = true ∧ 0 ∈ j.islands ∧
    ({ s with pwr := { vpoints := [(0, { rising := some 1 })] } }.vpoint 0).rising ≠ none ∧
    ¬(1 < j.hdr.devices) ∧ 1 < ({ prog with devices := 2 } : ProgHeader).devices ∧ s.tmb.lock ≠ .locked ∧
    (∃ v ∈ j.vatList, ((vatIn j { run := .clearing }).vat v).run = .clearing) ∧ ((vat { run := .clearing }).vat 0).run = .clearing :=
  by decide +kernel

/-! ### Witnesses: rings and descriptors -/

/-- A descriptor with these fields, each a byte offset and a value. -/
def bits (fs : List (Nat × Nat)) : Bits512 := BitVec.ofNat 512 (fs.foldl (fun n f => n + f.2 * 2 ^ (8 * f.1)) 0)

/-- The descriptor that `ringOf` holds starts next. -/
theorem starts_of (s : State) (b : Bits512) (hp : s.parts = (ringOf b).parts) (hv : s.vfs = (ringOf b).vfs) :
    Starts s 0 0 (descOf b) := by
  have hvf : s.vf 0 = (ringOf b).vf 0 := by simp only [State.vf, hv]
  have hr : s.ring 0 0 = ringWith [descOf b] := by
    simp only [State.ring, State.vf, hv]
    rfl
  have hpt : s.part 0 = part := by
    simp only [State.part, hp]
    rfl
  refine ⟨?_, ?_, rfl, ?_, ?_⟩
  · simp only [State.startable, hr, hpt]
    cases h : descOrdered b <;>
      simp [ringWith, descOf, part, Ring.room, Ring.slotsFree, Desc.holdsBack, Desc.isFetched, h]
  · simp [hr, ringWith, Ring.find]
  · intro x hx d hd c k
    rw [hvf] at hx
    simp [ringOf, State.vf, tabGet, tabFind, ringWith] at hx
    subst hx
    simp at hd
    subst hd
    simp [descOf]
  · rw [hpt]
    rfl

def nopBits : Bits512 := bits [(0, 0)]

/-- Descriptors with good fields: one for each opcode that a chapter defines, and one that none defines. -/
theorem test_wit_clean :
    CleanDesc (descOf (bits [(0, 0)])) (fun _ => [.zero 8 56]) ∧
    CleanDesc (descOf (bits [(0, 1), (8, 4096), (0x18, 1)])) launchChecks ∧
    CleanDesc (descOf (bits [(0, 2), (8, 1)])) fenceChecks ∧
    CleanDesc (descOf (bits [(0, 3)])) flagSetChecks ∧
    CleanDesc (descOf (bits [(0, 4)])) flagWaitChecks ∧
    CleanDesc (descOf (bits [(0, 5), (0x10, 65536), (0x14, 1)])) biasSetChecks ∧
    opcodeDefined (descOpcode (bits [(0, 6)])) = false ∧ descOpcode (bits [(0, 6)]) = 6 := by
  unfold CleanDesc
  decide +kernel

/-- The first and the last reserved byte of a NOP, and reserved header bits beside them. -/
theorem test_wit_DescriptorRefusals :
    firstBad (descBytes (descOf (bits [(0, 0), (8, 1)]))) (headerChecks ++ [.zero 8 56]) = some 8 ∧
    firstBad (descBytes (descOf (bits [(0, 0), (63, 1)]))) (headerChecks ++ [.zero 8 56]) = some 63 ∧
    firstBad (descBytes (descOf (bits [(0, 0), (1, 8), (8, 1)]))) (headerChecks ++ [.zero 8 56]) = some 1 ∧
    firstBad (descBytes (descOf (bits [(0, 1), (0x18, 65537)]))) (headerChecks ++ launchChecks (bits [(0, 1), (0x18, 65537)])) =
      some 0x18 := by decide +kernel

theorem test_wit_NopFenceBias : Starts (ringOf nopBits) 0 0 (descOf nopBits) ∧
    (ringOf (bits [(0, 2)])).fenceCovers 0 0 (descOf (bits [(0, 2)])) = [] ∧
    (let s := { ringOf (bits [(0, 2)]) with
                vfs := [(0, { rings := [(0, ringWith [descOf (bits [(0, 2)])]), (1, ringWith [{ descOf 0 with id := 3 }])] })] }
     s.fenceCovers 0 0 (descOf (bits [(0, 2), (8, 1)])) = [(1, 3)]) ∧
    (bits [(0, 2), (9, 1)]).getLsbD 72 = true ∧
    fenceExamines 0 0 7 false 1 0 { vf := 0, ring := 0, id := 3, doneStamp := 1, failed := true, orphan := false } = true :=
  ⟨starts_of _ _ rfl rfl, by decide +kernel, by decide +kernel, by decide +kernel, by decide +kernel⟩

/-- A FENCE on ring 1 that waits for the NOP of ring 0 alone. -/
theorem test_wit_fence_ends :
    let f : Desc := { descOf (bits [(0, 2)]) with id := 3, state := .fence [(0, 7)] 9 }
    let s := { ringOf nopBits with vfs := [(0, { rings := [(0, ringWith [descOf nopBits]), (1, ringWith [f])] })] }
    s.startable 0 0 = some (descOf nopBits) ∧ (s.ring 0 0).find 7 = some (descOf nopBits) ∧ (s.ring 0 1).find f.id = some f ∧
    f.orphan = false ∧ f.bits.getLsbD 72 = false ∧ (s.ring 0 1).used.isNone = false ∧ (s.ring 0 1).enable = true ∧
    (s.part 0).discard = false := by decide +kernel

/-- The last page of the window, one that is not aligned, and one page too many. -/
theorem test_wit_biasSet : part.inWindow (2 ^ 28 - 4096) (4096 * 1) = true ∧ (2 ^ 28 - 4096) % 4096 = 0 ∧
    part.inWindow (2 ^ 28 - 4096) (4096 * 2) = false ∧ 64 % 4096 ≠ 0 ∧
    dfield (bits [(0x10, 1), (0x14, 1)]) 0x14 1 = 1 ∧ on.held ((part).segs 0 4096) = false ∧
    ({ on with rereads := [rereading] }).held ((part).segs 0 4096) = true ∧ State.reset.mem.devBias 5 = false := by decide +kernel

def setBits : Bits512 := bits [(0, 3), (8, 2 ^ 28 - 8), (0x10, 1)]

/-- The state with every page in host bias. -/
def hosted (s : State) : State := { s with mem := { s.mem with bias := [] } }

/-- The last word of the window in host bias and in device bias, and a word of host memory. Whether the read of a
host-bias line succeeds does not depend on what the host held. -/
theorem test_wit_flagSet : Starts (hosted (ringOf setBits)) 0 0 (descOf setBits) ∧
    (∀ m, m < 16 → ∀ k, k < 8 → (ringOf setBits).activeWait m k = none) ∧ part.inWindow (2 ^ 28 - 8) 8 = true ∧
    part.dpa (2 ^ 28 - 8) = some (2 ^ 30 - 8) ∧ (hosted on).mem.devBias ((2 ^ 30 - 8) / 4096) = false ∧
    setBits.getLsbD 0x100 = false ∧ on.mem.devBias ((2 ^ 30 - 8) / 4096) = true ∧
    part.inWindow (2 ^ 28) 8 = false ∧ (bits [(0, 3), (0x20, 1)]).getLsbD 0x100 = true :=
  ⟨starts_of _ _ rfl rfl, by decide +kernel, by decide +kernel, by decide +kernel, by decide +kernel, by decide +kernel,
    by decide +kernel, by decide +kernel, by decide +kernel⟩

/-- A FLAG_WAIT of chapter 02's example on host memory: MASK and VALUE 0b10. -/
def waitBits : Bits512 := bits [(0, 4), (0x10, 2), (0x18, 2), (0x24, 1)]

def waiting (dl : Option Nat) : Desc := { descOf waitBits with state := .flagWait 1 dl }

/-- A ring that holds one descriptor, which waits for something other than a FENCE's end. -/
theorem held_of (s : State) (d : Desc) (hp : s.parts = [(0, part)])
    (hv : s.vfs = [(0, { rings := [(0, ringWith [d])] })]) (ho : d.orphan = false) (hf : ∀ c k, d.state ≠ .fence c k) :
    Held s 0 0 d := by
  have hr : s.ring 0 0 = ringWith [d] := by
    simp only [State.ring, State.vf, hv]
    rfl
  refine ⟨?_, ho, ?_, ?_, ?_⟩
  · simp [hr, ringWith, Ring.find]
  · rw [hr]
    exact ⟨rfl, .inl rfl⟩
  · intro x hx e he c k
    simp [State.vf, hv, tabGet, tabFind, ringWith] at hx
    subst hx
    simp at he
    subst he
    exact hf c k
  · simp only [State.part, hp]
    rfl

def holds (d : Desc) : State :=
  { on with parts := [(0, part)], vfs := [(0, { rings := [(0, ringWith [d])] })] }

/-- The words 0b10 and 0b01 against the wait, with a time limit and without. -/
theorem test_wit_flagWait : Held (holds (waiting (some 250))) 0 0 (waiting (some 250)) ∧
    (holds (waiting (some 250))).activeWait 0 0 = some (waiting (some 250), 1, some 250) ∧
    (holds (waiting none)).activeWait 0 0 = some (waiting none, 1, none) ∧ waitBits.getLsbD 0x120 = true ∧
    waitBits.getLsbD 0x121 = false ∧ dfield waitBits 8 8 % 8 = 0 ∧ (2 : DWord) &&& 2 = 2 ∧ (1 : DWord) &&& 2 ≠ 2 :=
  ⟨held_of _ _ rfl rfl rfl (by simp [waiting, descOf]), by decide +kernel, by decide +kernel, by decide +kernel,
    by decide +kernel, by decide +kernel, by decide, by decide⟩

def launchBits : Bits512 := bits [(0, 1), (8, 4096), (0x10, 64), (0x18, 1)]

/-- A program in the window, and one that ends beyond it; one argument and the table of it; a program of two devices. -/
theorem test_wit_LaunchMakesJob :
    let s := ringOf launchBits
    Starts s 0 0 (descOf launchBits) ∧
    (4096 % 4096 = 0 ∧ 64 % 64 = 0 ∧ (s.part 0).inWindow 4096 1 = true ∧ (s.part 0).inWindow 64 16 = true ∧
      (s.part 0).inWindow 4096 prog.size = true ∧ (s.part 0).inWindow (2 ^ 28) 1 = false ∧
      classRefused (s.part 0) prog = false ∧ (s.winRead 0 64 16).1.fail = none ∧ (s.winRead 0 64 16).2.blocked = false ∧
      ({ s with rereads := [rereading] }.winRead 0 0 16).2.blocked = true ∧
      ((s.told [(3 * 2 ^ 28 / 4, .lost)]).winRead 0 0 16).1.fail.isSome = true ∧ 1 < ({ prog with devices := 2 } : ProgHeader).devices ∧
      (s.part 0).inWindow 4096 (2 ^ 28) = false ∧ s.tmb.lock ≠ .locked ∧ s.jobs = [] ∧
      (s.srv 0).state = .off ∧ descOpcode launchBits = 1) ∧
    ({ prog with config := s.config 0 } : ProgHeader).config = s.config 0 :=
  ⟨starts_of _ _ rfl rfl, by decide +kernel, rfl⟩

/-- One entry for the one tensor to bind is good, a missing one is not. -/
theorem test_wit_args :
    argsOk part { prog with args := [⟨5, 64⟩] } (bytesOfNat 4 5 ++ bytesOfNat 4 0 ++ bytesOfNat 8 4096) 1 = true ∧
    argsOk part prog (bytesOfNat 4 5 ++ bytesOfNat 4 0 ++ bytesOfNat 8 4096) 1 = false := by decide +kernel

/-! ### Witnesses: copies -/

/-- A record of a view of 32 BF16 elements at `base`. -/
def viewBytes (base : Nat) : List Byte :=
  bytesOfNat 8 base ++ bytesOfNat 8 0 ++ bytesOfNat 1 8 ++ bytesOfNat 1 1 ++ bytesOfNat 14 0 ++ bytesOfNat 4 32 ++
    bytesOfNat 28 0 ++ bytesOfNat 8 1 ++ bytesOfNat 56 0

def view (base : Nat) : View := { base := base, scaleBase := 0, fmt := 8, extents := [32], strides := [1] }

def copyBits : Bits512 := bits [(0, 0x10), (8, 0x1000), (0x10, 0x1080)]

/-- Partition 0 with the two view records of a COPY in its memory. -/
def copyState : State :=
  ((({ ringOf copyBits with mem := { on.mem with zeroed := [(3 * 2 ^ 28, 4 * 2 ^ 28)] } }).winWrite 0 0x1000
    (viewBytes 0x2000)).1.winWrite 0 0x1080 (viewBytes 0x3000)).1

theorem test_wit_copyState_wf : copyState.mem.wf = true ∧ copyState.running = true := by decide +kernel

theorem test_wit_CopyStarts : CopyStarts (copyState.told []) 0 0 (descOf copyBits) (.copy (view 0x2000)) (view 0x3000) :=
  ⟨starts_of _ _ (by decide +kernel) (by decide +kernel), by decide +kernel, by decide +kernel, by decide +kernel,
    by decide +kernel, by decide +kernel⟩

/-- A view record that is lost, one outside the window, and a reserved byte of the descriptor. -/
theorem test_wit_CopyRefusals :
    let ptrs := (copyPtrs 0x10).all
    let far := bits [(0, 0x10), (8, 0x1000), (0x10, 2 ^ 28)]
    ((copyState.told [((3 * 2 ^ 28 + 0x1000) / 4, .lost)]).viewReads 0 (descOf copyBits) ptrs).1.fail.isSome = true ∧
    (copyState.viewReads 0 (descOf copyBits) ptrs).2.blocked = false ∧
    (copyState.viewReads 0 (descOf far) ptrs).1.recs.length < ptrs.length ∧
    (copyState.viewReads 0 (descOf far) ptrs).1.fail = none ∧
    firstBad (descBytes (descOf far)) (headerChecks ++ copyChecks 0x10 far) = none ∧
    (firstBad (descBytes (descOf (bits [(0, 0x10), (62, 1)]))) (headerChecks ++ copyChecks 0x10 0)).isSome = true ∧
    ({ copyState with rereads := [{ rereading with dpa := 3 * 2 ^ 28 + 0x1000 }] }.viewReads 0 (descOf copyBits) ptrs).2.blocked
      = true := by decide +kernel

/-- With no other copy, a channel of the partition's one is free. -/
theorem test_wit_copy_channels : copyState.freeChannels 0 ≠ [] ∧
    ({ copyState with parts := [(0, { part with channels := 0 })] }).freeChannels 0 = [] ∧
    (∀ x ∈ copyState.copies 0, x.2.2.channels ≠ []) := by decide +kernel

/-- In the window and aligned; beyond it, misaligned, with a zero stride, and meeting its source. -/
theorem test_wit_CopiesBegin : copyStatus part (.copy (view 0)) (view 64) = none ∧
    copyStatus part (.copy (view 0)) (view (2 ^ 28)) = some statusBadAddress ∧
    copyStatus part (.copy (view 0)) (view 96) = some statusAlignment ∧
    copyStatus part (.copy (view 0)) { view 64 with extents := [2, 32], strides := [0, 1] } = some statusZeroStrideWrite ∧
    copyStatus part (.copy (view 0)) (view 0) = some statusOverlap ∧ 0 < (CopyOp.copy (view 0)).pieceCount (view 64) false ∧
    (view 64).nonAliasing = true := by decide +kernel

def moving : CopyJob :=
  { op := .copy (view 0x2000), dst := view 0x3000, strictOrder := false, index := [], left := [(0, 2)], channels := [0],
    keepers := [] }

/-- A piece that is due and one that is not; the last one and another. -/
theorem test_wit_CopiesMove :
    let d := { descOf copyBits with state := DescState.copy moving }
    let s := { holds d with mem := copyState.mem }
    Held s 0 0 d ∧ s.copies 0 = [(0, d, moving)] ∧ (s.readAll 0 (moving.pieceReads 0)).1 = none ∧ (s.readAll 0 (moving.pieceReads 0)).2.blocked = false ∧
    (moving.perform 0 0 s).2 = [] ∧ (moving.perform 0 0 s).1.blocked = false ∧ s.noCopyWaits 0 ∧ 0 ∈ moving.channels ∧ rangesMem 1 moving.left = true ∧
    rangesMem 2 moving.left = false ∧ rangesSub 1 2 moving.left ≠ [] ∧ rangesSub 1 2 [(1, 2)] = [] ∧ 1 ∉ moving.channels :=
  ⟨held_of _ _ rfl rfl rfl (by simp), by decide +kernel, by decide +kernel, by decide +kernel, by decide +kernel,
    by decide +kernel, by unfold State.noCopyWaits; decide +kernel, by decide +kernel, by decide +kernel, by decide +kernel,
    by decide +kernel, by decide +kernel, by decide +kernel⟩

theorem test_wit_copy_bytes : moving.dst.nonAliasing = true ∧ moving.dst.rank = 1 ∧ moving.dst.mx = false ∧
    fmtKnown moving.dst.fmt = true ∧ copyStatus (copyState.part 0) moving.op moving.dst = none ∧
    moving.dst.vecBytes * moving.dst.vecs ≤ 65536 ∧ (copyState.part 0).regionList.Nodup ∧ copyState.held ((copyState.part 0).segs 0x3000 64) = false := by decide +kernel

/-! ### Witnesses: rings -/

def fetching : Ring := { ringWith [] with sqTail := 2 }

theorem test_wit_RingsFetch :
    let s := { on with parts := [(0, part)], vfs := [(0, { rings := [(0, fetching)] })] }
    (s.ring 0 0).enable = true ∧ (s.part 0).discard = false ∧ (s.part 0).state = .active ∧ (s.ring 0 0).stopped = false ∧
    (s.ring 0 0).waitDb = false ∧ (s.ring 0 0).sqTail ≠ (s.ring 0 0).fetch ∧ (17 - (s.ring 0 0).fetch).toNat ≤ 2 ^ 4 ∧
    2 ^ 4 < (18 - (s.ring 0 0).fetch).toNat ∧ ({ fetching with dbTries := 2, descTries := 2 } : Ring).dbTries = 2 ∧
    ({ fetching with stopped := true } : Ring).stopped = true ∧ (s.vf 0).rrNext = 0 ∧
    (field (BitVec.ofNat 512 (5 + 3 * 2 ^ 32)) 0 32 : Word) = 5 ∧ (field (BitVec.ofNat 512 (5 + 3 * 2 ^ 32)) 32 32 : Word) = 3 ∧ (on.ring 0 0).enable = false := by decide +kernel

/-- A record owed with the last slot free, and none free; each interrupt mode. -/
theorem test_wit_ringRecords :
    let o : Owed := { body := .token [], irq := false }
    let g := { ringWith [] with owed := [o], compl := 15 }
    (g.compl - g.cqHead).toNat < 2 ^ 4 ∧ 2 ^ 4 ≤ (({ g with compl := 16 } : Ring).compl - g.cqHead).toNat ∧
    g.owed = [o] ∧ (on.srv 0).reqs = [] ∧ ({ irqMode := 2, irqCount := 2 } : RingCfg).irqCount.toNat > g.unsignalled + 1 ∧
    ({ irqMode := 2, irqCount := 1 } : RingCfg).irqCount.toNat ≤ g.unsignalled + 1 := by decide +kernel

/-- A ring's fields in their limits, and one outside. -/
theorem test_wit_ringEnable :
    let c : RingCfg := { sqBase := 4096, cqBase := 8192, dbAddr := 64, irqMode := 2, cqLog2 := 16, sqLog2 := 2,
                         irqTime := 1, irqCount := 256 }
    c.sqBase.toNat % 4096 = 0 ∧ 2 ≤ c.sqLog2.toNat ∧ c.sqLog2.toNat ≤ c.cqLog2.toNat ∧ c.cqLog2.toNat ≤ 16 ∧
    c.irqMode ≠ 3 ∧ 1 ≤ c.irqCount.toNat ∧ c.irqCount.toNat ≤ 256 ∧ c.irqTime ≠ 0 ∧
    ({ c with sqBase := 64 } : RingCfg).sqBase.toNat % 4096 ≠ 0 ∧ (on.part 0).state ≠ .active ∧ (on.ring 0 0).descs = [] :=
  by decide +kernel

theorem test_wit_ringDisable : (holds (waiting none)).noFence 0 := (held_of _ _ rfl rfl rfl (by simp [waiting, descOf])).2.2.2.1

/-! ### Witnesses: near-bank engines -/

def nbeOf (phase : NbePhase) (issuer : Option Nat) (fs : List (Nat × Nat)) : NbeJob :=
  { record := BitVec.ofNat 1024 (fs.foldl (fun n f => n + f.2 * 2 ^ (8 * f.1)) 0), off := 0, part := 0, issuer := issuer,
    flag := none, job := none, own := none, phase := phase }

/-- A MATVEC of one row of 4,096 INT8 weights on the first NBE of stack 0, into the window. -/
def matvec : List (Nat × Nat) :=
  [(0, 1), (1, 2), (2, 1), (4, 0), (0x0C, 4096), (0x10, 0x200000), (0x18, 64), (0x20, 0x10000), (0x28, 1), (0x2C, 1),
   (0x30, 4096), (0x34, 4), (0x35, 4), (0x36, 1)]

/-- Working regions 0 and 1 of stack 0, all zero. -/
def nbeState (k : NbeJob) : State :=
  { on with
    parts := [(0, { part with win := [(0, (true, 0)), (1, (true, 1))] })], nbeJobs := [(0, k)],
    nbes := if k.phase = .queued then [(0, { queue := [0] })] else [],
    regions := [(0, { guarded := false }), (1, { guarded := false })],
    mem := { on.mem with zeroed := [(0, 2 ^ 29)], bias := [(0, 2 ^ 17)] } }

theorem test_wit_nbeState : (nbeState (nbeOf .offered none matvec)).mem.wf = true := by decide +kernel

theorem test_wit_NbeJobsQueue :
    let k := nbeOf .offered none matvec
    (nbeState k).nbeArrives k = none ∧ (nbeState k).nbeRoom 0 k = true ∧
    ((nbeState k).nbeArrives (nbeOf .offered none [(0, 9)])).isSome = true ∧
    (nbeState (nbeOf .worked none matvec)).nbeWaits 0 = false ∧
    ({ nbeState k with nbes := [(0, { queue := List.replicate 16 1 })] }).nbeRoom 0 k = false := by decide +kernel

theorem test_wit_NbeJobsWork :
    let k := nbeOf .queued none matvec
    (nbeState k).nbeNext 0 1 = some k ∧
    (let r := nbeOn (k.matvecWork 0 ((nbeState k).nbeOperand k)) (nbeState k).drew
     r.1.toOption.any (fun outs => !k.overlaps (outs.map fun o => (o.1, o.2.2.length)) && outs.length == 1) = true ∧
     r.2.blocked = false) ∧
    (nbeState k).nbeRange k 0x200000 4 = none ∧ (nbeState k).nbeHostBias k 0x200000 4 = false ∧
    (let r := nbeOn (k.matvecWork 0 ((nbeState k).nbeOperand k)) { nbeState k with errs := [(0x10000 / 4, .lost)] }
     r.1.toOption.isNone = true) := by decide +kernel

/-! ### Witnesses: stack memory -/

/-- An address of decoder 0, one of no decoder, and one whose granule is under re-read. -/
theorem test_wit_HostAccesses :
    let s := decoders
    let held := { s with rereads := [{ dpa := 0x30048D1660, consumer := .host, tries := 1, failing := [0], recovered := false, counted := false }] }
    s.err.halted = false ∧ s.hdmDpa 0x2012345678 = some 0x30048D1678 ∧ s.hostHeld (0x30048D1678 / 64 * 64) = false ∧
    held.hostHeld (0x30048D1678 / 64 * 64) = true ∧ s.mem.markedIn 0x30048D1640 0x30048D1680 = false ∧ s.hdmDpa 0 = none ∧
    decoders.running = true ∧ decoders.mem = on.mem := by decide +kernel

/-- Decoder 0 committed, decoder 1 good below the top of the address space and bad beyond it. -/
theorem test_wit_hdmCommit : (tabGet ({} : Hdm) decoders.hdm 0).committed = true ∧
    (tabGet ({} : Hdm) decoders.hdm 1).committed = false ∧
    decoders.hdmOk 1 (2 ^ 64 - 2 ^ 28) (2 ^ 28) 0 8 0 0 = true ∧ decoders.hdmOk 1 (2 ^ 64 - 2 ^ 28) (2 ^ 29) 0 8 0 0 = false ∧
    (tabGet ({} : Hdm) decoders.hdm 0).claims 0x2012345678 = true := by decide +kernel

/-- The last granule of stack memory: good, bad, and bad again after one re-read. -/
theorem test_wit_StackUpkeep :
    let a := 2 ^ 39 - 32
    let bad := (badWords (on.guardedAt a) [(7, .bad)]).filter fun w => decide (w < 8) && !on.wordMarked a w
    (BitVec.ofNat 64 a).toNat < 2 ^ 39 ∧ bad ≠ [] ∧ badWords (on.guardedAt a) [] = [] ∧ on.rereads = [] ∧
    on.hostWaits = [] ∧
    ({ on with rereads := [{ dpa := a, consumer := .host, tries := 1, failing := bad, recovered := false, counted := false }] }).rereads ≠ [] ∧
    ({ on with regions := [(2047, { scrub := true })] }.region (regionOf a)).scrub = true ∧ on.gen.scrubEnable = true ∧
    on.rereading a = false ∧ on.wordMarked a 7 = false ∧ 2 ^ 39 ≤ (BitVec.ofNat 64 (2 ^ 39)).toNat ∧
    ({ coolSince := some 0 } : StackRegs).coolSince = some 0 ∧ (on.stk 0).coolSince = none := by decide +kernel

/-! ### Witnesses: the serving engine -/

def engine : Srv :=
  { state := .running, hdr := some { prog with serving := true }, stepBeats := 2000, tokensMax := 32, batchMax := 8, chunk := 32,
    pageLog2 := 4, pageCount := 1024, vocab := 64, pages := [] }

def srvOn (b : Bits512) (e : Srv) : State := { ringOf b with srvs := [(0, e)], parts := [(0, { part with qcount := 1 })] }

/-- The gate's conditions, with the engine, without it and at a member; the last row of the table and one beyond. -/
theorem test_wit_ServingDescriptors :
    Starts ({ ringOf (bits [(0, 0x21)]) with srvs := [(0, engine)] }) 0 0 (descOf (bits [(0, 0x21)])) ∧
    (CleanDesc (descOf (bits [(0, 0x21)])) reqCancelChecks ∧
      CleanDesc (descOf (bits [(0, 0x22), (0x10, 4)])) reqControlChecks ∧
      CleanDesc (descOf (bits [(0, 0x23), (8, 15), (0x0C, 1)])) reqReadChecks ∧
      CleanDesc (descOf (bits [(0, 0x30), (0x20, 1)])) pageUpdateChecks) ∧
    ((srvOn 0 engine).srv 0).state ≠ .off ∧ ((srvOn 0 engine).srv 0).lead = true ∧
    ((srvOn 0 { engine with lead := false }).srv 0).lead = false ∧ (on.srv 0).state = .off ∧
    15 + 1 ≤ part.entries.toNat ∧ part.entries.toNat < 16 + 1 ∧ part.inWindow 0 128 = true ∧ part.inWindow (2 ^ 28) 128 = false :=
  ⟨starts_of _ _ rfl rfl, by unfold CleanDesc; decide +kernel, by decide +kernel, by decide +kernel, by decide +kernel,
    by decide +kernel, by decide +kernel, by decide +kernel, by decide +kernel, by decide +kernel⟩

/-- A good request block: one token to generate from a prompt of one, TOP_P 1 and REP_PEN 1. -/
def reqBlock (prompt : Nat) : List Byte :=
  bytesOfNat 8 0 ++ bytesOfNat 8 77 ++ bytesOfNat 8 1 ++ bytesOfNat 8 prompt ++ bytesOfNat 4 1 ++ bytesOfNat 4 1 ++
    bytesOfNat 40 0 ++ bytesOfNat 4 0x3F800000 ++ bytesOfNat 4 0x3F800000 ++ bytesOfNat 8 0 ++
    (List.range 4).flatMap (fun _ => bytesOfNat 4 0xFFFFFFFF) ++ bytesOfNat 16 0

def submitBits : Bits512 := bits [(0, 0x20), (8, 0x1000)]

def withBlock (bs : List Byte) : State :=
  (({ srvOn submitBits engine with mem := { on.mem with zeroed := [(3 * 2 ^ 28, 4 * 2 ^ 28)] } }).winWrite 0 0x1000 bs).1

theorem test_wit_reqSubmit :
    let s := withBlock (reqBlock 0x2000)
    let x := reqOfBlock (s.winRead 0 0x1000 128).1.bytes
    s.mem.wf = true ∧ (s.winRead 0 0x1000 128).1.fail = none ∧ (s.winRead 0 0x1000 128).2.blocked = false ∧
    ((s.told [((3 * 2 ^ 28 + 0x1000) / 4, .lost)]).winRead 0 0x1000 128).1.fail.isSome = true ∧ (s.part 0).inWindow x.promptOff (4 * x.promptLen) = true ∧
    firstBad (s.winRead 0 0x1000 128).1.bytes (s.blockChecks 0 (s.winRead 0 0x1000 128).1.bytes) = none ∧
    (s.srv 0).variantOk x.variant = true ∧ findFrom (fun k => !((s.srv 0).req k).live) 1 (s.part 0).entries.toNat 0 = some 0 ∧
    (s.winRead 0 x.promptOff (4 * x.promptLen)).1.fail = none ∧ (s.winRead 0 x.promptOff (4 * x.promptLen)).2.blocked = false ∧ (s.srv 0).nodes = [] ∧ x.deadline = 0 ∧ x.params.penalized = false ∧
    CleanDesc (descOf submitBits) reqSubmitChecks ∧ (s.srv 0).variantOk 5 = false := by
  unfold CleanDesc
  decide +kernel

theorem test_wit_reqSubmit_refused :
    let s := withBlock (reqBlock 0x2001)
    (firstBad (s.winRead 0 0x1000 128).1.bytes (s.blockChecks 0 (s.winRead 0 0x1000 128).1.bytes)) = some 0x18 ∧
    (part.inWindow (reqOfBlock (reqBlock (2 ^ 28))).promptOff 4 = false) ∧
    findFrom (fun k => !((srvOn 0 { engine with reqs := [(0, { state := .waiting })] }).srv 0 |>.req k).live) 1 1 0 = none := by
  decide +kernel

/-- A variant with one delta record of a rennet tensor of one tile without entries. -/
def deltaBytes : List Byte :=
  bytesOfNat 4 0x544E4552 ++ bytesOfNat 4 9 ++ bytesOfNat 8 0 ++ bytesOfNat 8 1 ++ bytesOfNat 8 0 ++ bytesOfNat 8 64 ++
    bytesOfNat 8 128 ++ bytesOfNat 16 0

def rennetEngine : Srv :=
  { engine with hdr := some { prog with serving := true, shape := { prog.shape with rennet := [⟨9, 1⟩] } } }

def regBits : Bits512 := bits [(0, 0x24), (8, 1), (0x0C, 1), (0x10, 0x1000)]

theorem test_wit_variantReg :
    let s := ((({ ringOf regBits with
      srvs := [(0, rennetEngine)],
      mem := { on.mem with zeroed := [(3 * 2 ^ 28, 4 * 2 ^ 28)] } }).winWrite 0 0x1000
        (bytesOfNat 8 0x2000)).1.winWrite 0 0x2000 deltaBytes).1
    let list := (s.winRead 0 0x1000 8).1.bytes
    CleanDesc (descOf regBits) variantRegChecks ∧ (s.part 0).inWindow 0x1000 8 = true ∧ (s.winRead 0 0x1000 8).1.fail = none ∧ (s.winRead 0 0x1000 8).2.blocked = false ∧
    (checkDeltas 0 0 (descOf regBits) ((List.range 1).map fun k => numAt list (8 * k) 8) [] (s.winRead 0 0x1000 8).2).1 =
      some [(9, 0x2000)] ∧ tabFind (s.srv 0).variants 1 = none := by
  unfold CleanDesc
  decide +kernel

/-- A variant that a live request names, and one that none does; the other engine descriptors in their limits. -/
theorem test_wit_EngineDescriptors :
    let e := { engine with variants := [(4095, { deltas := [], leaving := false })], reqs := [(0, { state := .waiting, variant := 4095 })] }
    tabFind e.variants 4095 = some { deltas := [], leaving := false } ∧ (∃ z ∈ e.reqs, z.2.live = true ∧ z.2.variant = 4095) ∧
    (srvOn 0 engine).heldDescs 0 [0x25] = [] ∧ CleanDesc (descOf (bits [(0, 0x25), (8, 4095)])) variantUnregChecks ∧
    CleanDesc (descOf (bits [(0, 0x26)])) serveStartChecks ∧ CleanDesc (descOf (bits [(0, 0x27), (8, 1)])) serveStopChecks ∧
    CleanDesc (descOf (bits [(0, 0x31), (0x10, 1), (0x14, 21)])) cocoonSupplyChecks ∧
    CleanDesc (descOf (bits [(0, 0x32), (0x10, 1)])) cocoonReclaimChecks ∧ (engine.bufLog2 = none) ∧
    (2 ^ 21 : DWord).toNat % 2 ^ 21 = 0 ∧ (2 ^ 20 : DWord).toNat % 2 ^ 21 ≠ 0 ∧ on.sec.entropyFail = false := by
  unfold CleanDesc
  decide +kernel

/-- A configuration block of 1,024 pages of two planes at window offset 64 KiB. -/
def configBlock : List Byte :=
  bytesOfNat 8 0x8000000 ++ bytesOfNat 4 2000 ++ bytesOfNat 2 32 ++ bytesOfNat 2 8 ++ bytesOfNat 2 32 ++ bytesOfNat 1 4 ++
    bytesOfNat 1 0 ++ bytesOfNat 2 0 ++ bytesOfNat 2 0 ++ bytesOfNat 4 64 ++ bytesOfNat 4 0 ++ bytesOfNat 8 0x10000 ++
    bytesOfNat 4 1024 ++ bytesOfNat 84 0

theorem test_wit_serveStart :
    let h := { prog with serving := true }
    let s := { on with
      parts := [(0, part)], regions := [(3, { guarded := false })], mem := { on.mem with bias := [(0, 2 ^ 27)] } }
    s.mem.wf = true ∧
    firstBad configBlock (s.configChecks 0 configBlock h) = none ∧
    (s.reserveMasks 0 (srvOf configBlock h)).isSome = true ∧ h.latencyCritical = false := by decide +kernel

/-! ### Witnesses: step boundaries, plans, commits and cocoons -/

def reqPrefill : Req :=
  { state := .prefill, latency := true, promptLen := 40, list := [5, 6], blocks := [1, 2], prompt := List.replicate 40 1, maxNew := 2,
    tag := 77 }

def serving (e : Srv) : State :=
  { on with parts := [(0, part)], vfs := [(0, { rings := [(0, ringWith [])] })], srvs := [(0, e)] }

/-- An idle engine, a draining one, one with a prefilling request, and one whose step runs. -/
theorem test_wit_BoundariesBuild :
    let s := serving { engine with reqs := [(0, reqPrefill)] }
    let e := s.srv 0
    e.state ≠ .off ∧ e.lead = true ∧ e.inStep = false ∧ e.reqs = [(0, reqPrefill)] ∧ s.jobs = [] ∧
    (∀ r, r < 8 → ∀ d ∈ (s.ring 0 r).descs, d.state ≠ .serving) ∧ reqPrefill.cached < e.pageTokens ∧
    reqPrefill.cached < reqPrefill.promptLen ∧ 0 < e.chunk ∧ 0 < e.batchMax ∧ 0 < e.shape.sMax ∧
    (s.ring 0 reqPrefill.ring).enable = true ∧ (s.ring 0 reqPrefill.ring).room ≠ 0 ∧
    0 < min (min e.chunk (reqPrefill.promptLen - reqPrefill.cached)) e.tokensMax ∧
    (reqPrefill.cached + min (min e.chunk (reqPrefill.promptLen - reqPrefill.cached)) e.tokensMax - 1) / e.pageTokens + 1 ≤ reqPrefill.list.length ∧
    ({ engine with state := .draining } : Srv).state = .draining ∧ ({ engine with inStep := true } : Srv).inStep = true := by
  decide +kernel

/-- A REQ_CANCEL that waits, and is the only descriptor that does. -/
theorem test_wit_cancel :
    let d := { descOf (bits [(0, 0x21)]) with state := DescState.serving }
    let s := { holds d with srvs := [(0, engine)] }
    Held s 0 0 d ∧ s.heldDescs 0 [0x21, 0x22, 0x23, 0x25, 0x30, 0x32] = [(0, d)] ∧ descOpcode d.bits = 0x21 :=
  ⟨held_of _ _ rfl rfl rfl (by simp), by decide +kernel, by decide +kernel⟩

def placedDecode : Placed :=
  { entry := 0, position := 8, tokens := 1, samples := 1, variant := 0, isPrefill := false, lastChunk := false, tree := false }

def reqDecode : Req := { reqPrefill with state := .decode, maxNew := 4, cached := 8, promptLen := 8, topP := 0x3F800000, repPen := 0x3F800000 }

/-- A decoding request with greedy choice, a prefill chunk, and a fault of the step. -/
theorem test_wit_StepsCommit :
    let s := (serving { engine with inStep := true, reqs := [(0, reqDecode)], placed := [placedDecode] }).endStepJob 0
    let e := s.srv 0
    e.placed = [placedDecode] ∧ (e.req 0).going = true ∧ (e.req 0).ending = none ∧ (∀ z ∈ e.reqs, z.2.ending = none) ∧
    (e.req 0).countLog2 = 0 ∧ e.stepFault = false ∧
    ((e.req 0).params.choose (fun _ => 0) (logitsRow s.freshCount 64 (some [List.replicate 64 0]) 0) (e.req 0).nextPos).isSome =
      true ∧ (e.req 0).generated + 1 < (e.req 0).maxNew ∧ (s.part 0).discard = false ∧ (e.req 0).stop = [] ∧
    ({ engine with stepFault := true } : Srv).stepFault = true ∧ ({ engine with lead := false } : Srv).lead = false := by
  decide +kernel

/-- A plan of one entry, of a variant that is not registered, and one that stops the engine. -/
theorem test_wit_stepPlan :
    let p : PlanEntry := { entry := 0, row := BitVec.ofNat 1024 2, variant := 0, pages := [], draft := [], maskRow := none, moves := [], length := some 0, committed := [] }
    let plan : StepPlan := { entries := [p], taken := [], released := [], pageStates := [], tokens := [], pauses := [], resumes := [], stop := false }
    plan.entries = [p] ∧ numAt (bytesOf p.row 128) 0 1 ≠ 0 ∧ (serving engine).jobs = [] ∧ ({ p with variant := 7 } : PlanEntry).variant ≠ 0 ∧
    tabFind engine.variants 7 = none ∧ ({ plan with stop := true } : StepPlan).stop = true ∧
    (serving { engine with lead := false, inStep := false }).heldDescs 0 [0x25, 0x32] = [] ∧ engine.hdr.isSome = true := by decide +kernel

def cocoon : Cocoon :=
  { bufs := [0], saved := [(0, false)], shared := 0, generation := 0, written := false, parked := false, held := [0], size := 0, newPages := [],
    tries := 0, restored := false, failed := false }

/-- A paused request and a resuming one, a read with and without tries left. -/
theorem test_wit_CocoonsMove :
    let q := { reqDecode with state := .paused, saved := some cocoon }
    let e := { engine with reqs := [(0, q)], bufs := [(0, (0, true))], bufLog2 := some 21 }
    e.findSaved 77 .paused = some (0, q, cocoon) ∧ e.findSaved 77 .resuming = none ∧ (e.req 0).saved = some cocoon ∧
    ({ e with reqs := [(0, { q with state := .resuming })] } : Srv).findSaved 77 .resuming =
      some (0, { q with state := .resuming }, cocoon) ∧
    hostBudget ≤ ({ cocoon with tries := 2 } : Cocoon).tries + 1 ∧ ({ cocoon with tries := 1 } : Cocoon).tries + 1 < hostBudget ∧
    (let r := (serving e).readAll 0 (e.cocoonRanges q (cocoon.saved.map fun x => q.list.getD x.1 0))
     r.1 = none ∧ r.2.blocked = false) := by decide +kernel

/-- A descriptor of `op` that waits for the boundary of an engine with one prefilling request. -/
def boundary (b : Bits512) : State :=
  { holds { descOf b with state := .serving } with
    srvs := [(0, { engine with reqs := [(0, { reqPrefill with hostPaused := true })] })] }

/-- A REQ_CONTROL for the request's tag and for another, and a PAGE_UPDATE with the current GENERATION; one
beyond the end of the list. -/
theorem test_wit_heldDescs :
    let d := { descOf (bits [(0, 0x22), (8, 77), (0x10, 2)]) with state := DescState.serving }
    let s := boundary d.bits
    let e := s.srv 0
    let q : Req := { reqPrefill with hostPaused := true }
    Held s 0 0 d ∧
    (e.state = .running ∧ e.lead = true ∧ e.inStep = false ∧ s.engineMoves 0 = false ∧ s.inHold 0 = false ∧ s.rereads = [] ∧
      descQuiet d.bits = false ∧ s.heldDescs 0 [0x21, 0x22, 0x23, 0x25, 0x30, 0x32] = [(0, d)] ∧ e.reqs = [(0, q)] ∧
      q.going = true ∧ q.ending = none ∧ q.saved = none ∧ q.cancels = [] ∧ q.draft = [] ∧ q.cached < e.pageTokens ∧
      (s.ring 0 q.ring).enable = true ∧ (s.ring 0 q.ring).used.isSome = true ∧ q.tag = 77 ∧ (78 : DWord) ≠ q.tag ∧
      q.state ≠ .paused ∧ q.state ≠ .resuming ∧ e.cocoonFits q = false ∧ q.hostPaused = true ∧ q.generation.toNat = 0 ∧
      e.updateBad q 2 [7] = none ∧ (e.updateBad q 3 [7]) = some 0x14) :=
  ⟨held_of _ _ rfl rfl rfl (by simp), by decide +kernel⟩

/-- A prompt that reads well, and one with a lost word; the engine's program is of one device. -/
theorem test_wit_prompt :
    let s := { serving { engine with reqs := [(0, { reqPrefill with listDirty := false })] } with
               mem := { on.mem with zeroed := [(3 * 2 ^ 28, 4 * 2 ^ 28)] } }
    s.mem.wf = true ∧ s.engineMoves 0 = false ∧ (s.winRead 0 0 128).1.fail = none ∧
    ((s.told [(3 * 2 ^ 28 / 4, .lost)]).winRead 0 0 128).1.fail.isSome = true ∧ engine.hdr.any (·.devices ≤ 1) = true ∧
    reqPrefill.listDirty = false := by decide +kernel

/-! ### Witnesses: ports, transfers, routes -/

/-- A codeword whose words carry their even parity bits: `ws` are the 32 data bits of the words from W0 on. -/
def codeword (ws : List Word) : BitVec 5140 :=
  let even (w : Word) : Nat := if ((List.range 32).filter w.getLsbD).length % 2 = 0 then 0 else 1
  BitVec.ofNat 5140 ((List.range 155).foldl (fun n k => (n * 2 ^ 33) + (ws.getD k 0).toNat * 2 + even (ws.getD k 0)) 0)

def portUp : Port := { enable := true, state := .up }

def ports (g : Port) : State := { on with parts := [(0, { part with portSet := 1 })], ports := [(0, g)] }

/-- An idle frame with SEQ 1 is good before any other and after SEQ 0, and out of sequence after SEQ 1. -/
theorem test_wit_frames :
    let c := codeword [0x00100000]
    cwClean c = true ∧ (frameOf c).seq = 1 ∧ (frameOf c).nak = false ∧
    ({ portUp with accepted := some 0 } : Port).accepted = some ((frameOf c).seq - 1) ∧
    ({ portUp with accepted := some 1 } : Port).accepted ≠ some ((frameOf c).seq - 1) ∧ cwClean (c ^^^ 1) = false ∧
    portUp.unacked.length < 512 ∧ portUp.outMsgs = [] ∧ portUp.outCells = [] ∧ portUp.discarding = false := by decide +kernel

def sent : SentFrame := { seq := 0, ctrl := ctrlNone, cells := [] }

/-- Seven replays made and eight. -/
theorem test_wit_replay : ({ portUp with unacked := [sent], tries := 7 } : Port).tries < 8 ∧
    8 ≤ ({ portUp with unacked := [sent], tries := 8 } : Port).tries ∧ portUp.partnerPause = false ∧
    ({ portUp with unacked := [sent] } : Port).unacked ≠ [] := by decide

/-- Ports OFF, TRAINING with and without a TRAIN message, ready, of another swarm, and UP. -/
theorem test_wit_portStates :
    let g : Port := { enable := true, state := .training, inMsgs := [{ typ := 5, body := 0 }] }
    (on.port 0).enable = false ∧ (on.port 0).forceDown = false ∧ ({ forceDown := true } : Port).forceDown = true ∧
    g.inMsgs.find? (fun m => m.typ.toNat == 5) = some { typ := 5, body := 0 } ∧
    (ports { g with partnerSwarm := some 0 }).laserOk 0 = true ∧ (ports { g with partnerSwarm := some 0 }).portSwarm 0 = some 0 ∧
    (ports { g with partnerSwarm := some 3 }).portSwarm 0 ≠ some 3 ∧ g.partnerSwarm = none ∧ portUp.state = .up := by decide +kernel

def cell (fs : List (Nat × Nat)) : Bits512 := headCell fs

def arrivedAt (h : Bits512) (p1 : PortState) : State :=
  { vatIn job { run := .running, xfers := [(0, { send none with departed := some 1 })] } with
    parts := [(0, { part with portSet := 3 })], ports := [(0, { portUp with arrived := [⟨h, []⟩] }), (1, { portUp with state := p1 })] }

/-- One hop left by port 1, which is UP or DOWN; none left, as a transfer for vat 0 and as an acknowledgment. -/
theorem test_wit_TransfersArrive :
    let s := arrivedAt (cell [(0, 0x11)]) .up
    headField (cell [(0, 0x11)]) 0 0 4 = 1 ∧ headField (cell [(0, 0x11)]) 0 4 4 = 1 ∧ (s.port 1).state = .up ∧
    s.portSwarm 1 = some 0 ∧ ((arrivedAt (cell [(0, 0x11)]) .down).port 1).state ≠ .up ∧
    (arrivedAt (cell []) .up).destJob (cell []) = some job ∧ headField (cell []) 0x08 0 10 = on.gen.fabPos.toNat ∧
    headField (cell []) 0x24 0 32 = job.askedBeat % 2 ^ 32 ∧ (cell []).getLsbD (8 * 0x0D + 1) = false ∧
    (cell [(0x0D, 4)]).getLsbD (8 * 0x0D + 2) = true ∧ (tabFind (s.vat 0).xfers 0).isSome = true ∧
    (s.vat 0).run ≠ .ending ∧ s.inHold 0 = false ∧ (∀ r, r < 16 → (s.port r).tries = 0) := by decide +kernel

/-- Port 0 of partition 0, of no partition, and with a job in the partition. -/
theorem test_wit_RouteTables : (ports portUp).portOwner 0 = some 0 ∧ on.portOwner 0 ≠ some 0 ∧
    (ports portUp).partBusy 0 = false ∧ ({ ports portUp with jobs := [(0, job)] }).partBusy 0 = true := by decide +kernel

/-! ### Witnesses: timebase and holds -/

def msg (t : Nat) (body : Nat) : Ctrl := { typ := BitVec.ofNat 8 t, body := BitVec.ofNat 120 body }

def portMsg (c : Ctrl) : State := ports { portUp with inMsgs := [c] }

/-- A BEACON at the upstream port and at another; errors of 99 ps and 100 ps; each state of LOCK. -/
theorem test_wit_beacon :
    let s := portMsg (msg 1 0)
    (s.port 0).inMsgs.find? (fun m => m.typ.toNat == 1) = some (msg 1 0) ∧ s.tmb.ctl.root = false ∧ s.tmb.upstream = 0 ∧
    (s.port 0).state = .up ∧ s.tmb.lock = .free ∧ ({ lock := .locked, goodBeacons := 16 } : Tmb).lock = .locked ∧
    ({ ctl := { root := true } } : Tmb).ctl.root = true ∧
    ({ lock := .locked, ctl := { altEn := true, altPort := 0 } } : Tmb).ctl.altEn = true := by decide +kernel

def rootTmb : Tmb := { ctl := { root := true } }

/-- A HOLD_REQ and an ANNOUNCE of 8 quanta for swarm slot 0, in time and late, and an ABORT seen and new. -/
theorem test_wit_holds :
    let s := { portMsg (msg 2 (8 * 2 ^ 108)) with tmb := rootTmb }
    (s.port 0).inMsgs.find? (fun m => m.typ.toNat == 2) = some (msg 2 (8 * 2 ^ 108)) ∧ ctrlField (msg 2 (8 * 2 ^ 108)) 115 108 = 8 ∧
    ctrlField (msg 2 (8 * 2 ^ 108)) 107 105 = 0 ∧ (s.slot 0).announced = [] ∧ (s.slot 0).hold = none ∧
    (portMsg (msg 3 0)).tmb.beat ≤ nearBeat 0 (ctrlField (msg 3 0) 115 68) ∧
    nearBeat 64 (ctrlField (msg 3 0) 115 68) < ({ beat := 64 } : Tmb).beat ∧
    ({ slots := [(0, { announced := [⟨64, 1, 1⟩] })] } : Tmb).abortsSeen = [] ∧
    ({ on with tmb := { slots := [(0, { announced := [⟨64, 1, 1⟩] })] } }.slot 0).nextAnnounced = some ⟨64, 1, 1⟩ ∧
    ({ on with tmb := holding }.slot 0).hold = some ⟨0, 1, 1⟩ ∧ job.counts = true ∧
    ({ vatIn job {} with tmb := holding }).swarmJobs 0 = [job] := by decide +kernel

/-! ### Witnesses: partitions, halts, power and heat -/

/-- A partition that passes every check, one that fails the first, one ACTIVE, and one whose teardown is due. -/
theorem test_wit_PartitionsAndHalts :
    let p := { part with state := PartState.off, entries := 16 }
    let s := { on with parts := [(0, p)], gen := { ready := true, numVfs := 1 } }
    s.enableError 0 = 0 ∧ ({ s with gen := { ready := true } }).enableError 0 ≠ 0 ∧ (ringOf 0 |>.part 0).state = .active ∧
    ({ on with parts := [(0, { part with state := .teardown })] }.part 0).state = .teardown ∧
    (∀ r, r < 8 → (on.ring 0 r).descs = []) := by decide +kernel

/-- The last and the first beat of each time limit. -/
theorem test_wit_PowerAndHeat :
    ({ unmet := some (0, false) } : Pwr).unmet = some (0, false) ∧ ({ divAuto := false } : Pwr).divAuto = false ∧
    earlier (some 5) none = some 5 ∧ ({ divReq := 3 } : Pwr).divReq < 4 ∧ 4 ≤ ({ divReq := 4 } : Pwr).divReq ∧
    max 1 on.leastDivisor < 2 ∧ ({ on with parts := [(0, part)] }).islandPart 0 = some 0 ∧
    ({ on with parts := [(0, part)] }).islandBusy 0 = false ∧ part.lcEnable = false ∧ (on.vpoint 0).auto = true ∧
    on.islandPart 0 = none ∧ ({ limitActive := true, belowSince := some 0 } : Thm).belowSince = some 0 := by decide +kernel

def hot (k : Nat) (raw : Nat) : State :=
  { on with thm := { sensors := [(k, { converting := true }), (k + 1, { valid := true, last := some 0, raw := BitVec.ofNat 12 raw, effective := BitVec.ofNat 12 raw }),
      (k + 2, { valid := true, last := some 0, raw := BitVec.ofNat 12 raw, effective := BitVec.ofNat 12 raw }),
      (k + 3, { valid := true, last := some 0, raw := BitVec.ofNat 12 raw, effective := BitVec.ofNat 12 raw })] } }

/-- Three neighbours: a reading at the bounds of 8 °C about their median and beyond them, and 110 °C. -/
theorem test_wit_sensors : ((hot 0 300).sensor 0).converting = true ∧ 3 ≤ ((hot 0 300).neighbourReadings 0).length ∧
    median ((hot 0 300).neighbourReadings 0) = some 300 ∧ (300 + 32 : Nat) < 333 ∧ ((on.sensor 0).converting = false) := by
  decide +kernel

/-! ### Witnesses: registers, the log, keys and events -/

/-- Offsets of registers and of none: GEN_PART's islands of partition 0, a ring's control, ERR_VF_SEQ, TMB_CTL, STK_REFRESH. -/
theorem test_wit_registers : pfReg 0x11008 = some (.part 0 0x08) ∧ pfReg 0x1100C = some (.part 0 0x0C) ∧
    pfReg 0x1FFFFFC = none ∧ vfReg 0x1FFFFFC = none ∧ (on.part 0).state = .off ∧ (ringOf 0 |>.part 0).state ≠ .off ∧
    vfReg 0x20 = some (.ringCtl 0) ∧ vfReg 0x500 = some .errSeq ∧ pfReg 0x61000 = some .tmbCtl ∧
    pfReg 0x42000 = some (.refresh 0) := by decide +kernel

/-- Room for a record of severity 1, the last 4 slots that it may not take, and a full log. -/
theorem test_wit_LogCounts : ({ produce := 59 } : ErrLog).produce - 0 < 60 ∧ 60 ≤ ({ produce := 60 } : ErrLog).produce - 0 ∧
    ({ produce := 63 } : ErrLog).produce - 0 < 64 ∧ ({ nextSeq := 0xFFFFFFFE } : ErrLog).nextSeq ≠ 0 ∧
    (({ produce := 2 } : ErrLog).opened < (3 - 0 : Word).toNat) ∧ (2 - 0 : Word).toNat ≤ ({ produce := 2 } : ErrLog).opened := by
  decide +kernel

theorem test_wit_KeyedWrites : ({ armed := true } : Gen).armed = true ∧ on.gen.armed = false ∧ muxUnits 0 ≤ muxUnits 0 ∧
    (∃ g, g < 8 ∧ 0 < muxUnits g) := by decide

/-- Nothing pending, source 0x3B pending, and source 0x01 running. -/
theorem test_wit_EventsServed : on.evc.best 0 0 = none ∧ (on.raise 0x3B 0).evc.best 0 0 = some (0x3B, 5) ∧
    (events.evc.target 0).running.head? = some (12, 0x02) ∧ on.evc.pfQueueMode = false ∧ tabGet false on.evc.level 0 = false ∧
    tabGet false (on.extIn 0 true).evc.level 0 = true := by decide +kernel

/-! ### Witnesses: security, management, images and pins -/

theorem test_wit_reachable : on.reachable .doe = true ∧ on.reachable .i3c = true ∧ State.reset.reachable .doe = false ∧
    (on.spdm .doe).versionDone = false ∧
    ({ on with sec := { spdm := [(0, { versionDone := true, capabilitiesDone := true, algorithmsDone := true })] } }).reachable
      .doe = true := by decide

/-- Sensors with and without a value, the ends of the power range, claims with and without an event. -/
theorem test_wit_ManagementAnswers : (on.sensorValue 1).isSome = true ∧ on.sensorValue 200 = none ∧ (599 : Half).toNat < 600 ∧
    (600 : Half).toNat ≤ 1800 ∧ (1801 : Half).toNat > 1800 ∧ on.evc.best 2 (on.evc.target 2).level = none ∧
    ((({ on with evc := { src := [(0x2D, ⟨4, 6⟩)] } }).raise 0x2D 0).evc.best 2 0).isSome = true ∧ (on.log { code := 0x0701, severity := 0, part := 31, path := 13 }).err.slots.length = 1 ∧
    (415 : Half).toNat < 416 ∧ (-16 : Int) ≤ (0xF0 : Byte).toInt ∧ (0xEF : Byte).toInt < -16 ∧ on.mgt.update.busy = false := by
  decide +kernel

/-- An image of zeros is not valid; the slot without the magic number holds none. -/
theorem test_wit_ImagesWritten : imageCode on.otp [] ≠ 0 ∧ imgField [] 0 4 ≠ 0x57465648 ∧ on.mgt.update = .idle ∧
    ({ on.mgt with update := .verified [] } : Mgt).update.busy = true ∧ State.reset.sec.rcvState ≠ 1 := by decide +kernel

/-- The pins before and after the release, in the fallback and without power. -/
theorem test_wit_ImagesAndPins : State.reset.pins.mode = .inReset ∧ State.reset.pins.vinGood = true ∧
    State.reset.pins.vauxGood = true ∧ State.reset.pins.refclkStable = true ∧ on.pins.mode ≠ .inReset ∧
    State.reset.pins.perst = true ∧ ({ State.reset.pins with perst := false } : Pins).perst = false ∧
    (∀ img, State.reset.mgt.update ≠ .verified img) :=
  ⟨by decide, by decide, by decide, by decide, by decide, by decide, by decide, by simp [State.reset]⟩

theorem test_wit_SlotRoundTrip : (encodeSlot (.jmp 0 0x100)).isSome = true ∧ decodeSlot 0 false 0 0x0400000000000100 = some (.jmp 0 0x100) := by
  decide

/-- An ECDSA P-256 signature with SHA-256 over the text sample, from RFC 6979, and a changed one. -/
theorem test_ecdsa :
    let pub : Bits512 := 0x60FED4BA255A9D31C961EB74C6356D68C049B8923B61FA6CE669622E60F29FB67903FE1008B8BC99A41AE9E95628BC64F2F1B20C2D7E9F5177A3C294D4462299
    let sig : Bits512 := 0xEFD48B2AACB6A8FD1140DD9CD45E81D69D2C877B56AAF991C34D0EA84EAF3716F7CB1C942D657C41D436C7A1B6E29F65F3E900DBB9AFF4064DC4AB2F843ACDA8
    let h := sha256 [0x73, 0x61, 0x6D, 0x70, 0x6C, 0x65]
    ecdsaVerify pub h sig = true ∧ ecdsaVerify pub h (sig + 1) = false := by decide +kernel

/-- An 8 KiB image of zeros under a header with SVN 1 and key 0. -/
def image : List Byte :=
  bytesOfNat 4 0x57465648 ++ bytesOfNat 2 256 ++ bytesOfNat 6 0 ++ bytesOfNat 1 1 ++ bytesOfNat 3 0 ++ bytesOfNat 8 8192 ++
    bytesOfNat 232 0 ++ List.replicate 7936 0

/-- Its header is good. Which key hashes OTP holds is open, so that an image is valid is a premise of its key, signature
and digest. -/
theorem test_wit_image : headerOkImage image = true ∧ imgField image 0 4 = 0x57465648 ∧ imgSvn image = 1 := by
  decide +kernel

/-! ### Witnesses: messages, timers and sessions -/

/-- 512 frames wait for acknowledgment; a NAK in a clean frame; a discarding port and a frame that replays. -/
theorem test_wit_naks :
    let c := codeword [0x00100000 + 0x40]
    ({ portUp with unacked := List.replicate 512 sent } : Port).unacked.length = 512 ∧ portUp.unacked.length < 512 ∧
    portUp.nakDue = false ∧ cwClean c = true ∧ (frameOf c).nak = true ∧ portUp.accepted = none ∧ portUp.tries < 8 := by decide +kernel

/-- A SEND that left at clock 0, at the end of its time, and in a hold before it. -/
theorem test_wit_fabTimeout :
    let x : Xfer := { send none with departed := some 1 }
    let s := vatIn job { run := .running, xfers := [(0, x)] }
    let t := { s with tmb := { clocks := [(0, 250000)] } }
    tabFind (s.vat 0).xfers 0 = some x ∧ x.kind = .send ∧ x.departed ≠ none ∧ s.inHold 0 = false ∧
    (∀ r, r < 16 → (s.port r).tries = 0) ∧ 0 + 250 * State.reset.gen.fabTimeout.toNat - tabGet 0 t.tmb.clocks 0 = 0 ∧
    ({ s with tmb := holding }).inHold 0 = true ∧ 0 + 250 * 1000 - tabGet 0 s.tmb.clocks 0 ≠ 0 ∧ (s.vat 0).job = some 0 := by
  decide +kernel

/-- An ANNOUNCE at the upstream port of a member and of a device that is none; two requests that join. -/
theorem test_wit_announce :
    let s := portMsg (msg 3 (64 * 2 ^ 68))
    s.tmb.ctl.root = false ∧ s.tmb.upstream = 0 ∧ s.tmb.beat < nearBeat 0 (ctrlField (msg 3 (64 * 2 ^ 68)) 115 68) ∧
    s.isMember 0 = true ∧ on.isMember 0 = false ∧ 5 ≠ s.tmb.upstream ∧
    mergeReq (msg 2 (8 * 2 ^ 108)) [msg 2 (5 * 2 ^ 108)] = some [msg 2 (8 * 2 ^ 108)] := by decide +kernel

/-- A vector that is due, one that is masked, a function with its messages off; vector 8 is a VF's last. -/
theorem test_wit_messages :
    let m : Msix := { enable := true, vecs := [(0, { masked := false, addr := 64, data := 5 }), (1, { pending := true })] }
    let s := { on with msix := [(1, m)] }
    (s.msixOf 1).enable = true ∧ (s.msixOf 1).mask = false ∧ (tabGet ({} : MsixVec) (s.msixOf 1).vecs 0).masked = false ∧
    (tabGet ({} : MsixVec) (s.msixOf 1).vecs 1).masked = true ∧ (s.msixOf 0).enable = false ∧ Fn.queue (.vf 0) = 1 ∧
    (0x8C : BitVec 16).toNat / 16 < vectorsOfFn 1 ∧ vectorsOfFn 1 ≤ (0x90 : BitVec 16).toNat / 16 ∧ 1 ∉ s.gen.ats ∧
    1 ∈ ({ s.gen with ats := [1] } : Gen).ats := by decide +kernel

/-- The other states of an SPDM exchange. -/
theorem test_wit_sessions :
    let x : Spdm := { versionDone := true, capabilitiesDone := true, algorithmsDone := true, handshake := true }
    let s := { on with sec := { spdm := [(0, x)] } }
    (s.spdm .doe).algorithmsDone = true ∧ (s.spdm .doe).handshake = true ∧ (s.spdm .doe).session = false ∧
    ({ x with session := true } : Spdm).session = true ∧ s.sec.debug = false ∧ s.sec.entropyFail = false ∧
    (∃ y ∈ ({ keys := [(0, 1, 5)] } : IdeStream).keys, y.1 = 0 ∧ y.2.1 = 1) := by decide

/-- A partition in teardown whose last record is written, and one that still owes it. -/
theorem test_wit_teardown :
    let s := { on with parts := [(0, { part with state := .teardown })] }
    (s.part 0).state = .teardown ∧ (∀ r, r < 8 → (s.ring 0 r).descs = [] ∧ (s.ring 0 r).owed = []) ∧
    ({ ringWith [] with owed := [{ body := .token [], irq := false }] } : Ring).owed ≠ [] := by decide +kernel

/-! ### Programs -/

/-- An image with one COPY of a 32-element FP32 activation to another, two axes of 1 to 32 and 1 to 64 devices and 1 to
1,024 devices in all; its digest is SHA-256 of the other bytes. -/
def copyImage : List Byte :=
  bytesOfNat 384 0xffffffff00000001ffffffffffffffffffffffffffffffffffffffff00000000000101000000000b00000000000000000000000000000000000000000000000000000000000000000000000000000000000000000000000000000020000000000000010affffffff00000001000000000000000000000000000000000000000000000000000000000000000000000000000000000000000000000020000000000000010affffffff0000000000000000000000000000000000000040000000000000014000000000000100030000000000000000000000000000008000000000000000c00000000000010002000000000000000000000000000000000000000000000000000000000000000003787b407c6fb41fc28bffeef359a511615498c1960c9a54a967113f8a35459b00000000000000000000000004000001000000000040000100200001000000020000000200000080000000000000018000000000000000800000000144564853

def hostConfig (swarm : Nat) (axes : List Nat) : LoadConfig :=
  { device := device, swarm := swarm, axes := axes, position := [0, 0] }

/-- The first bytes of an image's header as R26 and its table lay them out. -/
theorem test_image_magic : copyImage.take 12 = [0x53, 0x48, 0x56, 0x44, 1, 0, 0, 0, 128, 0, 0, 0] := by decide +kernel

/-- Checks 1 to 3, and 5 to 12, of an image that passes. -/
theorem test_image_checks : magicBad copyImage = [] ∧ versionBad copyImage = [] ∧ sizeBad copyImage = [] ∧
    reservedBad copyImage = [] ∧ sectionBad copyImage = [] ∧ unknownBad copyImage = [] ∧ tensorBad copyImage = [] ∧
    stepBad copyImage = [] ∧ orderBad copyImage = [] ∧ exchangeBad copyImage = [] ∧ yieldBad copyImage = [] := by
  decide +kernel

theorem test_image_digest : digestBad copyImage = [] := by decide +kernel

/-- Images for each clause: one that passes, one of 3 bytes, one of 127 that passes checks 1 and 2. -/
theorem test_wit_LoaderChecks : firstFailure (imageChecks copyImage) = none ∧ (copyImage.take 3).length < 4 ∧
    magicBad (copyImage.take 127) = [] ∧ versionBad (copyImage.take 127) = [] ∧ (copyImage.take 127).length < 128 := by
  decide +kernel

/-- 32 devices as 32 by 1 are in the ranges, 64 as 64 by 1 are not. -/
theorem test_image_swarm : swarmBad copyImage (hostConfig 32 [32, 1]) = [] ∧
    swarmBad copyImage (hostConfig 64 [64, 1]) = [configFailure] := by decide +kernel

/-- One flipped bit of the header's version, and one of a reserved byte, at their own offsets. -/
theorem test_image_refused :
    loaderRefuses (copyImage.set 4 3) (hostConfig 1 [1, 1]) = some { code := .badVersion, offset := 4 } ∧
    reservedBad (copyImage.set 0x7F 1) = [0x7F] ∧ loaderRefuses [] (hostConfig 1 [1, 1]) = some { code := .badMagic, offset := 0 } := by
  decide +kernel

/-- R131: three slices with two that go to one index, the last one stays. -/
theorem test_scatter_last : scatterPlane [4] 0 [2, 1, 2] (fun old xs => xs.getLastD old) [7, 8, 9] [0, 0, 0, 0] = [0, 8, 9, 0] := by
  decide +kernel

end Sys2Proof.Tests
end

section
/-! Proofs of the statements of chapter 01: the queue's front command, and the loader's checks (R43). -/

namespace Sys2Proof.Machine

/-! ### The queue -/

/-- Settles O1: `step` is defined by this case of its queue. -/
theorem stepRunsFrontCommand : Obligations.StepRunsFrontCommand := by
  intro s c rest hpending
  simp only [step, hpending]

/-! ### The first failure of a list of checks (R43) -/

theorem firstFailure_cons_of_nil {x : LoadCode × (Unit → List Nat)} (hx : x.2 () = [])
    (cs : List (LoadCode × (Unit → List Nat))) : firstFailure (x :: cs) = firstFailure cs := by
  simp [firstFailure, hx]

theorem firstFailure_cons_of_cons {x : LoadCode × (Unit → List Nat)} {o : Nat} {os : List Nat} (hx : x.2 () = o :: os)
    (cs : List (LoadCode × (Unit → List Nat))) : firstFailure (x :: cs) = some { code := x.1, offset := o } := by
  simp [firstFailure, hx]

theorem firstFailure_eq_none {cs : List (LoadCode × (Unit → List Nat))} :
    firstFailure cs = none ↔ ∀ x ∈ cs, x.2 () = [] := by
  induction cs with
  | nil => simp [firstFailure]
  | cons x cs ih =>
    cases hx : x.2 () with
    | nil => simp [firstFailure_cons_of_nil hx, hx, ih]
    | cons o os => simp [firstFailure_cons_of_cons hx, hx]

/-- A reported failure stands behind checks that report nothing, and is the first offset of its own check. -/
theorem firstFailure_eq_some {cs : List (LoadCode × (Unit → List Nat))} {r : LoadRefusal} (h : firstFailure cs = some r) :
    ∃ before f after rest, cs = before ++ (r.code, f) :: after ∧ (∀ x ∈ before, x.2 () = []) ∧
      f () = r.offset :: rest := by
  induction cs with
  | nil => simp [firstFailure] at h
  | cons x cs ih =>
    cases hx : x.2 () with
    | nil =>
      rw [firstFailure_cons_of_nil hx] at h
      obtain ⟨before, f, after, rest, rfl, hbefore, hf⟩ := ih h
      exact ⟨x :: before, f, after, rest, rfl, by simpa [hx] using hbefore, hf⟩
    | cons o os =>
      rw [firstFailure_cons_of_cons hx, Option.some.injEq] at h
      subst h
      exact ⟨[], x.2, cs, os, rfl, by simp, hx⟩

/-! ### Images too short for a check -/

theorem fieldBad_false (off : Nat) : fieldBad off false = [off] := rfl

/-- MAGIC is missing from fewer than 4 bytes. -/
theorem magicBad_of_short {img : List Byte} (h : img.length < 4) : magicBad img = [0] := by
  have hlen : decide (4 ≤ img.length) = false := decide_eq_false (by omega)
  rw [magicBad, hlen, Bool.false_and, fieldBad_false]

/-- The header is missing from fewer than 128 bytes, and TOTAL_SIZE is the field at fault. -/
theorem sizeBad_of_short {img : List Byte} (h : img.length < 128) : sizeBad img = [0x10] := by
  have hlen : decide (128 ≤ img.length) = false := decide_eq_false (by omega)
  rw [sizeBad, hlen, Bool.false_and, fieldBad_false]

theorem loaderRefuses_of_no_magic {img : List Byte} (c : LoadConfig) (h : img.length < 4) :
    loaderRefuses img c = some { code := .badMagic, offset := 0 } :=
  firstFailure_cons_of_cons (magicBad_of_short h) _

theorem loaderRefuses_of_no_header {img : List Byte} (c : LoadConfig) (hmagic : magicBad img = [])
    (hversion : versionBad img = []) (h : img.length < 128) :
    loaderRefuses img c = some { code := .badSize, offset := 0x10 } :=
  calc loaderRefuses img c
    _ = firstFailure ((imageChecks img).drop 1 ++ configChecks img c) := firstFailure_cons_of_nil hmagic _
    _ = firstFailure ((imageChecks img).drop 2 ++ configChecks img c) := firstFailure_cons_of_nil hversion _
    _ = some { code := .badSize, offset := 0x10 } := firstFailure_cons_of_cons (sizeBad_of_short h) _

/-! ### Size, digest and reserved bits (checks 3 to 5) -/

theorem sizeBad_eq_nil {img : List Byte} : sizeBad img = [] ↔ 128 ≤ img.length ∧ numAt img 0x10 8 = img.length := by
  simp [sizeBad]

theorem digestBad_eq_nil {img : List Byte} :
    digestBad img = [] ↔ digestOf ((img.drop 0x40).take 32) = programDigest img := by
  simp [digestBad]

theorem reservedBad_eq_nil {img : List Byte} :
    reservedBad img = [] ↔ ∀ o m, (o, m) ∈ reservedBits img → numAt img o 1 &&& m = 0 := by
  simp [reservedBad, minOf_eq_none, List.filterMap_eq_nil_iff]

/-! ### Steps (check 9) -/

/-- Check 9 passes the steps of a table only with ids that are new and no two the same, each step being good by itself
(R34). -/
theorem stepsBad_eq_nil {img : List Byte} {ts : List TensorDecl} {seen : List Nat} {xs : List StepDecl}
    (h : stepsBad img ts seen xs = []) :
    (xs.map (·.id)).Nodup ∧ (∀ x ∈ xs, x.id ∉ seen) ∧ ∀ x ∈ xs, x.fieldsOk img ts = true ∧ x.ok img ts = true := by
  induction xs generalizing seen with
  | nil => simp
  | cons x xs ih =>
    simp only [stepsBad, List.append_eq_nil_iff, fieldBad_eq_nil, Bool.and_eq_true, Bool.not_eq_true',
      List.contains_eq_mem, decide_eq_false_iff_not] at h
    obtain ⟨⟨⟨⟨hnew, hfields⟩, -⟩, hok⟩, hrest⟩ := h
    obtain ⟨hnodup, hfresh, hall⟩ := ih hrest
    have hhead : x.id ∉ xs.map (·.id) := by
      simp only [List.mem_map, not_exists, not_and]
      exact fun y hy e => hfresh y hy (e ▸ List.mem_cons_self)
    refine ⟨List.nodup_cons.2 ⟨hhead, hnodup⟩, ?_, List.forall_mem_cons.2 ⟨⟨hfields, hok⟩, hall⟩⟩
    exact List.forall_mem_cons.2 ⟨hnew, fun y hy hseen => hfresh y hy (List.mem_cons_of_mem _ hseen)⟩

theorem StepDecl.sub_mem_of_fieldsOk {x : StepDecl} {img : List Byte} {ts : List TensorDecl}
    (h : x.fieldsOk img ts = true) : x.sub ∈ subcodesOf x.op := by
  simp only [StepDecl.fieldsOk, Bool.and_eq_true, List.contains_eq_mem, decide_eq_true_eq] at h
  obtain ⟨⟨⟨⟨⟨⟨⟨hsub, -⟩, -⟩, -⟩, -⟩, -⟩, -⟩, -⟩ := h
  exact hsub

theorem StepDecl.writesOk_of_ok {x : StepDecl} {img : List Byte} {ts : List TensorDecl} (h : x.ok img ts = true) :
    x.writesOk ts = true := by
  simp only [StepDecl.ok, Bool.and_eq_true] at h
  obtain ⟨⟨-, hwrites⟩, -⟩ := h
  exact hwrites

/-- What a step writes is a declared tensor without CURD, a parameter only for UPDATE, and an input of its own only for
ELEMENTWISE and UPDATE (R35, R47, R168). -/
theorem StepDecl.writes_spec {x : StepDecl} {ts : List TensorDecl} (h : x.writesOk ts = true) {i : Nat}
    (hi : i ∈ x.writes) :
    ∃ t, tensorNamed ts i = some t ∧ t.curd = false ∧ (t.kind = 1 → x.op = 0x12) ∧
      (i ∈ x.reads → x.op = 0x06 ∨ x.op = 0x12) := by
  have hone := List.all_eq_true.1 h i hi
  cases ht : tensorNamed ts i with
  | none => simp [ht] at hone
  | some t =>
    simp only [ht, Bool.and_eq_true, Bool.or_eq_true, Bool.not_eq_true', bne_iff_ne, beq_iff_eq,
      List.contains_eq_mem, decide_eq_false_iff_not] at hone
    obtain ⟨⟨hcurd, hparam⟩, hinput⟩ := hone
    refine ⟨t, rfl, hcurd, fun hk => hparam.resolve_left (not_not.2 hk), fun hr => ?_⟩
    rcases hinput with (hnot | h6) | h12
    · exact absurd hr hnot
    · exact .inl h6
    · exact .inr h12

/-! ### Order (check 10) -/

theorem ordersBad_append {img : List Byte} {ts : List TensorDecl} {seen : List Nat} {xs ys : List StepDecl}
    (h : ordersBad img ts seen (xs ++ ys) = []) : ∃ seen', ordersBad img ts seen' ys = [] := by
  induction xs generalizing seen with
  | nil => exact ⟨seen, h⟩
  | cons x xs ih =>
    rw [List.cons_append, ordersBad, List.append_eq_nil_iff] at h
    exact ih h.2

/-- Check 10 passes a table only where no step reads what one after it writes (R35). -/
theorem laterWriter_of_ordersBad {img : List Byte} {ts : List TensorDecl} {seen : List Nat} {before after : List StepDecl}
    {x : StepDecl} (h : ordersBad img ts seen (before ++ x :: after) = []) : laterWriter ts x after = false := by
  obtain ⟨seen', hx⟩ := ordersBad_append h
  simp only [ordersBad, List.append_eq_nil_iff, fieldBad_eq_nil, Bool.and_eq_true, Bool.not_eq_true'] at hx
  obtain ⟨⟨-, hlater⟩, -⟩ := hx
  exact hlater

/-- Where no later step counts as a writer of what a step reads, a later step that does write it writes another layer of
the KV cache (log 106). -/
theorem kv_layer_of_laterWriter {ts : List TensorDecl} {x y : StepDecl} {after : List StepDecl}
    (h : laterWriter ts x after = false) {i : Nat} (hi : i ∈ x.reads) (hy : y ∈ after) (hw : i ∈ y.writes) :
    ∃ t, tensorNamed ts i = some t ∧ t.kind = 4 ∧ y.intAttr 0x000E 0 ≠ x.intAttr 0x000E 0 := by
  have hone := List.any_eq_false.1 (Bool.eq_false_iff.2 (List.any_eq_false.1 h i hi)) y hy
  cases ht : tensorNamed ts i with
  | none => simp [ht, hw] at hone
  | some t => exact ⟨t, rfl, by simpa [ht, hw] using hone⟩

/-! ### Exchanges (check 11) -/

theorem exchangesBad_eq_nil {img : List Byte} {ts : List TensorDecl} {seen : List Nat} {xs : List ExchangeDecl}
    (h : exchangesBad img ts seen xs = []) : ∀ x ∈ xs, x.ok img ts = true := by
  induction xs generalizing seen with
  | nil => simp
  | cons x xs ih =>
    simp only [exchangesBad, List.append_eq_nil_iff, fieldBad_eq_nil, Bool.and_eq_true] at h
    obtain ⟨⟨-, hok⟩, hrest⟩ := h
    exact List.forall_mem_cons.2 ⟨hok, ih hrest⟩

/-- The destination of a good exchange is a declared tensor that is neither a parameter nor device-local (R14, R47). -/
theorem ExchangeDecl.dst_spec {x : ExchangeDecl} {img : List Byte} {ts : List TensorDecl} (h : x.ok img ts = true) :
    ∃ t, tensorNamed ts x.dst = some t ∧ t.kind ≠ 1 ∧ t.place ≠ 2 := by
  simp only [ExchangeDecl.ok, Bool.and_eq_true] at h
  obtain ⟨⟨⟨⟨⟨-, hmoved⟩, hwritten⟩, -⟩, -⟩, -⟩ := h
  cases ht : tensorNamed ts x.dst with
  | none => simp [ht] at hmoved
  | some t => exact ⟨t, rfl, by simpa [ht] using hwritten, by simpa [ht] using hmoved⟩

/-- In exact mode a good SUM exchange has EXACT set (R40). -/
theorem ExchangeDecl.exact_of_sum {x : ExchangeDecl} {img : List Byte} {ts : List TensorDecl} (h : x.ok img ts = true)
    (hmode : imageExact img = true) (hsum : x.op = 1) : x.exact = true := by
  simp only [ExchangeDecl.ok, Bool.and_eq_true] at h
  obtain ⟨-, hexact⟩ := h
  simpa [hmode, hsum] using hexact

/-! ### The loader's checks -/

/-- Checks 3, 4, 5, 9, 10 and 11 of an image that passes the checks of the image alone. -/
theorem checks_of_firstFailure_none {img : List Byte} (h : firstFailure (imageChecks img) = none) :
    sizeBad img = [] ∧ digestBad img = [] ∧ reservedBad img = [] ∧ stepBad img = [] ∧ orderBad img = [] ∧
      exchangeBad img = [] := by
  have hall := firstFailure_eq_none.1 h
  simp only [imageChecks, List.forall_mem_cons] at hall
  obtain ⟨-, -, hsize, hdigest, hreserved, -, -, -, hstep, horder, hexchange, -⟩ := hall
  exact ⟨hsize, hdigest, hreserved, hstep, horder, hexchange⟩

/-- Settles O60: the order of the checks is that of `firstFailure`, and each fact about a passing image is read off the
check that asks for it. -/
theorem loaderChecks : Obligations.LoaderChecks := by
  intro img c checks
  refine ⟨firstFailure_eq_none, fun r hr => firstFailure_eq_some hr, loaderRefuses_of_no_magic c,
    loaderRefuses_of_no_header c, fun hpass => ?_⟩
  obtain ⟨hsize, hdigest, hreserved, hstep, horder, hexchange⟩ := checks_of_firstFailure_none hpass
  obtain ⟨hnodup, -, hsteps⟩ := stepsBad_eq_nil hstep
  obtain ⟨-, horders⟩ := List.append_eq_nil_iff.1 horder
  have hexchanges := exchangesBad_eq_nil hexchange
  refine ⟨(sizeBad_eq_nil.1 hsize).2, digestBad_eq_nil.1 hdigest, reservedBad_eq_nil.1 hreserved, hnodup, ?_, ?_, ?_, ?_⟩
  · intro x hx
    obtain ⟨hfields, hok⟩ := hsteps x hx
    exact ⟨StepDecl.sub_mem_of_fieldsOk hfields, fun i hi => StepDecl.writes_spec (StepDecl.writesOk_of_ok hok) hi⟩
  · intro before x after htable i hi y hy hw
    rw [htable] at horders
    exact kv_layer_of_laterWriter (laterWriter_of_ordersBad horders) hi hy hw
  · exact fun x hx => ExchangeDecl.dst_spec (hexchanges x hx)
  · exact fun hmode x hx hsum => ExchangeDecl.exact_of_sum (hexchanges x hx) hmode hsum

end Sys2Proof.Machine
end

section
/-! Proofs of the statements of chapter 02: what its commands leave, and how they answer. -/

namespace Sys2Proof.Machine

/-! ### What a command leaves -/

/-- The queue, stack memory and what a command is told are as before. -/
def State.Leaves (s t : State) : Prop := t.pending = s.pending ∧ t.mem = s.mem ∧ t.errs = s.errs ∧ t.blocked = s.blocked

theorem State.Leaves.refl (s : State) : s.Leaves s := ⟨rfl, rfl, rfl, rfl⟩

/-- An effect that leaves them is what the command answers. -/
theorem State.Leaves.after {s t : State} (hm : s.memOk) (hq : s.quiet) (h : s.Leaves t) : s.after t = t := by
  obtain ⟨hpending, hmem, herrs, hblocked⟩ := h
  exact State.after_eq hpending (hmem ▸ hm) (herrs.trans hq.1) (hblocked.trans hq.2)

/-- In a running device an effect that leaves them is what the command answers. -/
theorem act_live {s : State} {f : State → State} (hl : s.live) (h : s.Leaves (f s)) :
    act (whenRunning f) s = .next (f s) := by
  obtain ⟨hrun, hm, hq⟩ := hl
  rw [act_next, whenRunning_on hrun, h.after hm hq]

end Sys2Proof.Machine
end

section
/-! Proofs of the statements of chapter 02: the security protocols (R64, R65, R545 to R551). -/

namespace Sys2Proof.Machine

/-! ### Requests over a transport -/

theorem State.spdm_modSpdm_same (s : State) (p : Transport) (f : Spdm → Spdm) : (s.modSpdm p f).spdm p = f (s.spdm p) :=
  tabGet_mod_same ..

/-- The transports have responders of their own. -/
theorem State.spdm_modSpdm_ne (s : State) {p q : Transport} (h : q ≠ p) (f : Spdm → Spdm) :
    (s.modSpdm p f).spdm q = s.spdm q := by
  refine tabGet_mod_ne ?_ ..
  cases p <;> cases q <;> simp at h ⊢

/-- A transport that does not reach Hevos answers nothing. -/
theorem onTransport_unreached {s : State} {p : Transport} (hm : s.memOk) (hq : s.quiet) (hp : s.reachable p = false)
    (f : State → State) : act (onTransport p f) s = .next s := by
  rw [act_next, onTransport, if_neg (by simp [hp]), (State.Leaves.refl s).after hm hq]

section Reached
variable {s : State} {p : Transport} (hm : s.memOk) (hq : s.quiet) (hp : s.reachable p = true)
include hm hq hp

theorem onTransport_reached {f : State → State} (h : s.Leaves (f s)) : act (onTransport p f) s = .next (f s) := by
  rw [act_next, onTransport, if_pos hp, h.after hm hq]

/-- A request that is only answered. -/
theorem onTransport_tell {f : State → State} {a : Answer} (h : f s = s.tell p a) :
    act (onTransport p f) s = .next { s with out := s.out ++ [.answer p a] } := by
  rw [onTransport_reached hm hq hp (h ▸ ⟨rfl, rfl, rfl, rfl⟩), h]
  rfl

/-- A request that is answered and moves the transport's responder on. -/
theorem onTransport_spdm {f : State → State} {g : Spdm → Spdm} {a : Answer} (h : f s = (s.modSpdm p g).tell p a) :
    ∃ t, act (onTransport p f) s = .next t ∧
      t = { s with sec := { s.sec with spdm := t.sec.spdm }, out := s.out ++ [.answer p a] } ∧ t.spdm p = g (s.spdm p) ∧
      ∀ q, q ≠ p → t.spdm q = s.spdm q := by
  refine ⟨f s, onTransport_reached hm hq hp (h ▸ ⟨rfl, rfl, rfl, rfl⟩), ?_⟩
  rw [h]
  exact ⟨rfl, s.spdm_modSpdm_same p g, fun _ hne => s.spdm_modSpdm_ne hne g⟩

end Reached

/-! ### The requests (R545 to R547, R550, R551) -/

section Requests
variable {s : State} {p : Transport}

/-- Before the algorithms are agreed, a request is unexpected. -/
theorem State.negotiated_early (h : (s.spdm p).algorithmsDone = false) (f : State → State) :
    s.negotiated p f = s.tell p (.spdmError .unexpectedRequest) := if_neg (by simp [h])

theorem State.negotiated_done (h : (s.spdm p).algorithmsDone = true) (f : State → State) : s.negotiated p f = f s := if_pos h

/-- Outside a session, a request of a session is unexpected. -/
theorem State.inSession_outside (h : (s.spdm p).session = false) (f : State → State) :
    s.inSession p f = s.tell p (.spdmError .unexpectedRequest) := if_neg (by simp [h])

theorem State.inSession_inside (h : (s.spdm p).session = true) (f : State → State) : s.inSession p f = f s := if_pos h

theorem State.spdmCertificate_portion (h : (s.spdm p).algorithmsDone = true) {c : List Byte} (hc : s.chainDer = some c)
    {o : Nat} (ho : o < c.length) (l : Nat) :
    s.spdmCertificate p o l = s.tell p (.certificate ((c.drop o).take l) (c.length - o - l)) := by
  rw [State.spdmCertificate, State.negotiated_done h]
  simp [hc, ho]

/-- Slot 0 is empty. -/
theorem State.spdmCertificate_empty (h : (s.spdm p).algorithmsDone = true) (hc : s.chainDer = none) (o l : Nat) :
    s.spdmCertificate p o l = s.tell p (.spdmError .invalidRequest) := by
  rw [State.spdmCertificate, State.negotiated_done h]
  simp [hc]

theorem State.spdmChallenge_debug (h : (s.spdm p).algorithmsDone = true) (hd : s.sec.debug = true) (n : Bits256) :
    s.spdmChallenge p n = s.tell p (.spdmError .invalidRequest) := by
  rw [State.spdmChallenge, State.negotiated_done h, if_pos hd]

theorem State.spdmChallenge_signed (h : (s.spdm p).algorithmsDone = true) (hd : s.sec.debug = false) (n : Bits256) :
    s.spdmChallenge p n = s.drew.tell p (.challengeAuth (s.signature (digestBytes n))) := by
  rw [State.spdmChallenge, State.negotiated_done h, if_neg (by simp [hd])]
  rfl

theorem State.spdmMeasurements_one (h : (s.spdm p).algorithmsDone = true) {i : Nat} (hi : i ≠ 0xFF) {b : List Byte}
    (hb : s.measurement i = some b) (n : Bits256) :
    s.spdmMeasurements p i false n = s.tell p (.measurements [(i, b)] none) := by
  rw [State.spdmMeasurements, State.negotiated_done h]
  simp [hi, hb]

theorem State.spdmMeasurements_debug (h : (s.spdm p).algorithmsDone = true) (hd : s.sec.debug = true) (i : Nat)
    (n : Bits256) : s.spdmMeasurements p i true n = s.tell p (.spdmError .invalidRequest) := by
  rw [State.spdmMeasurements, State.negotiated_done h]
  simp [hd]

theorem State.spdmKeyExchange_stopped (h : (s.spdm p).algorithmsDone = true) (he : s.sec.entropyFail = true) (x : Bits512) :
    s.spdmKeyExchange p x = s.tell p (.spdmError .unspecified) := by
  rw [State.spdmKeyExchange, State.negotiated_done h, if_pos he]

theorem State.spdmKeyExchange_debug (h : (s.spdm p).algorithmsDone = true) (he : s.sec.entropyFail = false)
    (hd : s.sec.debug = true) (x : Bits512) : s.spdmKeyExchange p x = s.tell p (.spdmError .invalidRequest) := by
  rw [State.spdmKeyExchange, State.negotiated_done h, if_neg (by simp [he]), if_pos hd]

/-- A KEY_EXCHANGE that is answered draws twice, and its session waits for FINISH. -/
theorem State.spdmKeyExchange_answered (h : (s.spdm p).algorithmsDone = true) (he : s.sec.entropyFail = false)
    (hd : s.sec.debug = false) (x : Bits512) : ∃ m g, s.spdmKeyExchange p x =
      (s.drew.drew.modSpdm p fun y => { y with handshake := true, session := false }).tell p (.keyExchange m g) := by
  rw [State.spdmKeyExchange, State.negotiated_done h, if_neg (by simp [he]), if_neg (by simp [hd])]
  exact ⟨_, _, rfl⟩

theorem State.spdmFinish_early (h : (s.spdm p).handshake = false) (b : Bool) :
    s.spdmFinish p b = s.tell p (.spdmError .unexpectedRequest) := by simp [State.spdmFinish, h]

theorem State.spdmFinish_verified (h : (s.spdm p).handshake = true) :
    s.spdmFinish p true = (s.modSpdm p fun x => { x with handshake := false, session := true }).tell p .finish := by
  simp [State.spdmFinish, h]

theorem State.spdmFinish_failed (h : (s.spdm p).handshake = true) :
    s.spdmFinish p false = (s.modSpdm p fun x => { x with handshake := false }).tell p (.spdmError .decryptError) := by
  simp [State.spdmFinish, h]

end Requests

/-! ### IDE keys (R549) -/

theorem State.ide_modIde (s : State) (k : Nat) (f : IdeStream → IdeStream) :
    tabGet ({} : IdeStream) (s.modIde k f).sec.ide k = f (tabGet {} s.sec.ide k) := tabGet_mod_same ..

section Keys
variable {s : State} (hm : s.memOk) (hq : s.quiet) (hp : s.reachable .doe = true)
include hm hq hp

theorem ideKmKeyProg_outside (h : (s.spdm .doe).session = false) (k : Fin 3) (d m : Fin 2) (key : Bits256) :
    Runs (.ideKmKeyProg k d m key) s { s with out := s.out ++ [.answer .doe (.keyProgAck false)] } :=
  onTransport_tell hm hq hp (f := fun s => s.keyProg k.val d.val m.val key) (if_neg (by simp [h]))

theorem keySetGo_outside (h : (s.spdm .doe).session = false) (k : Fin 3) (d m : Fin 2) :
    Runs (.keySetGo k d m) s { s with out := s.out ++ [.answer .doe (.keyGoAck false)] } :=
  onTransport_tell hm hq hp (f := fun s => s.keyGo k.val d.val m.val) (if_neg (by simp [h]))

/-- In a session a key set enters its stream. -/
theorem ideKmKeyProg_inside (h : (s.spdm .doe).session = true) (k : Fin 3) (d m : Fin 2) (key : Bits256) :
    ∃ t, Runs (.ideKmKeyProg k d m key) s t ∧ t.out = s.out ++ [.answer .doe (.keyProgAck true)] ∧
      (d.val, m.val, key) ∈ (tabGet ({} : IdeStream) t.sec.ide k).keys := by
  have hf : s.keyProg k d m key = _ := if_pos h
  refine ⟨_, onTransport_reached hm hq hp (f := fun s => s.keyProg k d m key) (by rw [hf]; exact ⟨rfl, rfl, rfl, rfl⟩), ?_⟩
  simp only [hf]
  refine ⟨rfl, ?_⟩
  change _ ∈ (tabGet ({} : IdeStream) (s.modIde _ _).sec.ide _).keys
  rw [State.ide_modIde]
  simp

/-- In a session a stream takes a key set that it holds into use. -/
theorem keySetGo_inside (h : (s.spdm .doe).session = true) (k : Fin 3) (d m : Fin 2)
    (hk : ∃ y ∈ (tabGet ({} : IdeStream) s.sec.ide k).keys, y.1 = d.val ∧ y.2.1 = m.val) :
    ∃ t, Runs (.keySetGo k d m) s t ∧ t.out = s.out ++ [.answer .doe (.keyGoAck true)] ∧
      (tabGet ({} : IdeStream) t.sec.ide k).enabled = true ∧
      (tabGet ({} : IdeStream) t.sec.ide k).active =
        (tabGet ({} : IdeStream) s.sec.ide k).active.filter (fun a => a.1 != d.val) ++ [(d.val, m.val)] := by
  have hf : s.keyGo k d m = _ := if_pos (by simpa [h] using hk)
  refine ⟨_, onTransport_reached hm hq hp (f := fun s => s.keyGo k d m) (by rw [hf]; exact ⟨rfl, rfl, rfl, rfl⟩), ?_⟩
  simp only [hf]
  refine ⟨rfl, ?_⟩
  change (tabGet ({} : IdeStream) (s.modIde _ _).sec.ide _).enabled = true ∧
    (tabGet ({} : IdeStream) (s.modIde _ _).sec.ide _).active = _
  rw [State.ide_modIde]
  exact ⟨rfl, rfl⟩

end Keys

/-! ### The statement -/

theorem cdatEntryAt_beyond {k : Nat} (h : 3 < k) : cdatEntryAt k = none := by
  match k, h with
  | k + 4, _ => rfl

/-- Settles O53: each request is carried out by its row, whose cases are those of the statement. -/
theorem securityAnswers : Obligations.SecurityAnswers := by
  refine ⟨⟨rfl, rfl, rfl, rfl, fun k => cdatEntryAt_beyond⟩, ?_⟩
  intro s p hm hq hp x tells acts early refused
  have tell : ∀ {c f a}, exec c s = act (onTransport p f) s → f s = s.tell p a → tells c a :=
    fun hc hf => hc.trans (onTransport_tell hm hq hp hf)
  have move : ∀ {c f a g y}, exec c s = act (onTransport p f) s → f s = (s.modSpdm p g).tell p a → g x = y → acts c y a := by
    rintro c f a g _ hc hf rfl
    obtain ⟨t, ht, h⟩ := onTransport_spdm hm hq hp hf
    exact ⟨t, hc.trans ht, h⟩
  refine ⟨fun s' hm' hq' hp' => ⟨onTransport_unreached hm' hq' hp' _, onTransport_unreached hm' hq' hp' _⟩,
    move rfl rfl rfl, fun h => move rfl (if_pos h) rfl, fun h => tell rfl (if_neg (by simp [x, h])),
    fun h => move rfl (if_pos h) rfl, fun h => tell rfl (if_neg (by simp [x, h])), ?early, ?negotiated,
    fun h b => tell rfl (State.spdmFinish_early h b),
    fun h => ⟨move rfl (State.spdmFinish_verified h) rfl, move rfl (State.spdmFinish_failed h) rfl⟩,
    fun h => ⟨tell rfl (State.inSession_outside h _), tell rfl (State.inSession_outside h _),
      tell rfl (State.inSession_outside h _)⟩,
    fun h => ⟨tell rfl (State.inSession_inside h _), tell rfl (State.inSession_inside h _),
      move rfl (State.inSession_inside h _) rfl⟩, ?doe, ?entropy⟩
  case early =>
    intro h
    exact ⟨tell rfl (State.negotiated_early h _), fun _ _ => tell rfl (State.negotiated_early h _),
      fun _ => tell rfl (State.negotiated_early h _), fun _ _ _ => tell rfl (State.negotiated_early h _),
      fun _ => tell rfl (State.negotiated_early h _)⟩
  case negotiated =>
    intro h
    refine ⟨tell rfl (State.negotiated_done h _), fun o l c hc ho => tell rfl (State.spdmCertificate_portion h hc ho _),
      fun hc o l => tell rfl (State.spdmCertificate_empty h hc _ _), fun n hd => tell rfl (State.spdmChallenge_debug h hd n),
      fun n hd => ?signed, fun i b n hi hb => ?one, fun i n hd => tell rfl (State.spdmMeasurements_debug h hd _ n),
      fun he e => tell rfl (State.spdmKeyExchange_stopped h he e),
      fun he hd e => tell rfl (State.spdmKeyExchange_debug h he hd e), fun he hd e => ?exchange⟩
    case signed =>
      have hf := State.spdmChallenge_signed h hd n
      have := onTransport_reached hm hq hp (f := fun s => s.spdmChallenge p n) (by rw [hf]; exact ⟨rfl, rfl, rfl, rfl⟩)
      rw [hf] at this
      exact this
    case one =>
      exact tell rfl (State.spdmMeasurements_one h (fun e => hi (BitVec.eq_of_toNat_eq e)) hb n)
    case exchange =>
      obtain ⟨m, g, hf⟩ := State.spdmKeyExchange_answered h he hd e
      have := onTransport_reached hm hq hp (f := fun s => s.spdmKeyExchange p e) (by rw [hf]; exact ⟨rfl, rfl, rfl, rfl⟩)
      rw [hf] at this
      exact ⟨_, m, g, this, State.spdm_modSpdm_same .., rfl⟩
  case doe =>
    rintro rfl
    refine ⟨fun _ => tell rfl rfl, fun _ => tell rfl rfl, fun k d m key => ⟨fun h => ⟨?_, ?_⟩, fun h => ?_, fun h hk => ?_⟩⟩
    · exact ideKmKeyProg_outside hm hq hp h k d m key
    · exact keySetGo_outside hm hq hp h k d m
    · exact ideKmKeyProg_inside hm hq hp h k d m key
    · exact keySetGo_inside hm hq hp h k d m hk
  case entropy =>
    intro hr
    exact act_live (f := State.entropyFails) ⟨hr, hm, hq⟩ ⟨rfl, rfl, rfl, rfl⟩

end Sys2Proof.Machine
end

section
/-! Proofs of the statements of chapter 02: what a command changes of the rings, and how a descriptor starts (R79, R83 to
R85). -/

namespace Sys2Proof.Machine

/-! ### What a command leaves -/

theorem State.Leaves.trans {s t u : State} (h : s.Leaves t) (g : t.Leaves u) : s.Leaves u := by
  obtain ⟨hp, hm, he, hb⟩ := h
  obtain ⟨gp, gm, ge, gb⟩ := g
  exact ⟨gp.trans hp, gm.trans hm, ge.trans he, gb.trans hb⟩

theorem RingOnly.leaves {s t : State} (h : RingOnly s t) : s.Leaves t := by
  obtain ⟨v, d, k, rfl⟩ := h
  exact ⟨rfl, rfl, rfl, rfl⟩

theorem LogOnly.leaves {s t : State} (h : LogOnly s t) : s.Leaves t := by
  obtain ⟨l, e, m, o, rfl⟩ := h
  exact ⟨rfl, rfl, rfl, rfl⟩

theorem EvcOnly.leaves {s t : State} (h : EvcOnly s t) : s.Leaves t := h.logOnly.leaves

/-! ### One ring alone -/

theorem OnlyRing.refl (n r : Nat) (s : State) : OnlyRing n r s s := ⟨rfl, fun _ _ => rfl, fun _ _ => rfl⟩

theorem OnlyRing.trans {n r : Nat} {s t u : State} (h : OnlyRing n r s t) (g : OnlyRing n r t u) : OnlyRing n r s u := by
  obtain ⟨ht, hvf, hring⟩ := h
  obtain ⟨gu, gvf, gring⟩ := g
  refine ⟨by rw [gu, ht], fun m hm => (gvf m hm).trans (hvf m hm), fun q hq => (gring q hq).trans (hring q hq)⟩

theorem State.modRing_onlyRing (s : State) (n r : Nat) (f : Ring → Ring) : OnlyRing n r s (s.modRing n r f) := by
  refine ⟨rfl, fun m hm => ?_, fun q hq => ?_⟩
  · rw [State.modRing, State.vf_modVf, if_neg hm]
  · rw [State.ring_modRing, if_neg fun h => hq h.2]

theorem OnlyRing.leaves {n r : Nat} {s t : State} (h : OnlyRing n r s t) : s.Leaves t := by
  rw [h.1]
  exact ⟨rfl, rfl, rfl, rfl⟩

/-! ### Rows -/

/-- A command carries out this effect in a running device, its reads finding these errors in the stacks. -/
def Row (c : Instr) (s : State) (errs : Errs) (f : State → State) : Prop :=
  exec c s = actOn errs (whenRunning f) s ∨ errs = [] ∧ exec c s = act (whenRunning f) s

theorem State.told_nil {s : State} (h : s.quiet) : s.told [] = s := by
  rw [State.told, ← h.1]

/-- An effect that changes one ring changes it alone when the command is over. -/
theorem OnlyRing.after {n r : Nat} {s u : State} {errs : Errs} (hm : s.memOk) (hq : s.quiet)
    (h : OnlyRing n r (s.told errs) u) : OnlyRing n r s (s.after u) := by
  obtain ⟨hu, hvf, hring⟩ := h
  refine ⟨?_, hvf, hring⟩
  calc s.after u
    _ = s.after { s with vfs := u.vfs, done := u.done, stamp := u.stamp } := by rw [hu]; rfl
    _ = { s with vfs := u.vfs, done := u.done, stamp := u.stamp } := State.after_eq rfl hm hq.1 hq.2

section Live
variable {s : State} {c : Instr} {errs : Errs} {f : State → State} (hl : s.live) (row : Row c s errs f)
include hl row

/-- A command that does not have to wait answers its effect. -/
theorem Row.runs (h : (f (s.told errs)).blocked = false) : Runs c s (s.after (f (s.told errs))) := by
  obtain ⟨hrun, -, hq⟩ := hl
  rcases row with hc | ⟨rfl, hc⟩
  · have hf : whenRunning f { s with errs := errs } = f (s.told errs) := whenRunning_on (s := s.told errs) hrun f
    rw [Runs, hc, actOn_next, hf, if_neg (by simp [h])]
  · rw [Runs, hc, act_next, whenRunning_on hrun, State.told_nil hq]

/-- A command whose effect changes one ring alone. -/
theorem Row.onlyRing {n r : Nat} (h : OnlyRing n r (s.told errs) (f (s.told errs))) :
    ∃ t, Runs c s t ∧ OnlyRing n r s t ∧ t.vfs = (f (s.told errs)).vfs := by
  have hb : (f (s.told errs)).blocked = false := h.leaves.2.2.2.trans hl.2.2.2
  exact ⟨_, row.runs hl hb, h.after hl.2.1 hl.2.2, rfl⟩

/-- A command without an effect. -/
theorem Row.idle (h : f (s.told errs) = s.told errs) : Runs c s s := by
  have hr := row.runs hl (by rw [h]; exact hl.2.2.2)
  rwa [h, show s.after (s.told errs) = s.after s from rfl, (State.Leaves.refl s).after hl.2.1 hl.2.2] at hr

/-- A command whose effect is the end of the descriptor that its ring starts. -/
theorem Row.completes {n r : Nat} {d : Desc} {e : Ending} (hs : Starts s n r d)
    (h : f (s.told errs) = (s.told errs).complete n r d.id e) : Completes c s n r d e := by
  obtain ⟨hend, honly⟩ := Starts.complete (s := s.told errs) hs e
  have hb : (f (s.told errs)).blocked = false := by rw [h]; exact honly.leaves.2.2.2.trans hl.2.2.2
  have hr := row.runs hl hb
  rw [h] at hr
  exact ⟨_, hr, hend, honly.after hl.2.1 hl.2.2⟩

end Live

/-! ### Starting a descriptor (R79, R84, R85) -/

section Starting
variable {s : State} {n r : Nat} {d : Desc} {op : Nat → Bool} {checks : Bits512 → List FieldCheck}
  {f : Desc → State → State}

/-- A ring that may start nothing starts nothing. -/
theorem State.startDesc_none (h : s.startable n r = none) : s.startDesc n r op checks f = s := by
  simp [State.startDesc, h]

/-- A row leaves a descriptor of another opcode. -/
theorem State.startDesc_other (h : s.startable n r = some d) (hop : op (descOpcode d.bits) = false) :
    s.startDesc n r op checks f = s := by simp [State.startDesc, h, hop]

theorem State.startDesc_bad (h : s.startable n r = some d) (hop : op (descOpcode d.bits) = true) {off : Nat}
    (hbad : firstBad (descBytes d) (headerChecks ++ checks d.bits) = some off) :
    s.startDesc n r op checks f = s.complete n r d.id { status := statusBadDescriptor, detail := off } := by
  simp [State.startDesc, h, hop, hbad]

theorem State.startDesc_clean (h : s.startable n r = some d) (hop : op (descOpcode d.bits) = true)
    (hclean : CleanDesc d checks) : s.startDesc n r op checks f = f d s := by
  have hgood : firstBad (descBytes d) (headerChecks ++ checks d.bits) = none := hclean
  simp [State.startDesc, h, hop, hgood]

end Starting

end Sys2Proof.Machine
end

section
/-! Proofs of the statements of chapter 02: what a bad descriptor ends with (R83, R84). -/

namespace Sys2Proof.Machine

/-! ### The checks of R84 -/

theorem zero_bad_eq_none {bs : List Byte} {lo len : Nat} :
    (FieldCheck.zero lo len).bad bs = none ↔ ∀ k, k < len → bs.getD (lo + k) 0 = 0 := by
  simp [FieldCheck.bad, byteAt]

/-- A reserved field names its lowest byte that is not zero. -/
theorem zero_bad_eq_some {bs : List Byte} {lo len off : Nat} :
    (FieldCheck.zero lo len).bad bs = some off ↔ lo ≤ off ∧ off < lo + len ∧ bs.getD off 0 ≠ 0 ∧
      ∀ k, lo ≤ k → k < off → bs.getD k 0 = 0 := by
  simp only [FieldCheck.bad, byteAt, Option.map_eq_some_iff, List.find?_range_eq_some, List.mem_range, bne_iff_ne,
    Bool.not_eq_true', bne_eq_false_iff_eq]
  constructor
  · rintro ⟨k, ⟨hne, hk, hlt⟩, rfl⟩
    refine ⟨by omega, by omega, hne, fun j hlo hj => ?_⟩
    obtain ⟨i, rfl⟩ := Nat.exists_eq_add_of_le hlo
    exact hlt i (by omega)
  · rintro ⟨hlo, hhi, hne, hlt⟩
    obtain ⟨k, rfl⟩ := Nat.exists_eq_add_of_le hlo
    exact ⟨k, ⟨hne, by omega, fun j hj => hlt (lo + j) (by omega) (by omega)⟩, rfl⟩

/-- Of several checks the least offset counts. -/
theorem firstBad_eq_min? (bs : List Byte) (cs : List FieldCheck) : firstBad bs cs = (cs.filterMap (·.bad bs)).min? := by
  suffices h : ∀ m : Option Nat, cs.foldl (fun m c => match c.bad bs, m with
      | some o, some p => some (min o p)
      | some o, none => some o
      | none, m => m) m = (m.toList ++ cs.filterMap (·.bad bs)).min? from h none
  induction cs with
  | nil => intro m; cases m <;> rfl
  | cons c cs ih =>
    intro m
    rw [List.foldl_cons, ih]
    cases hc : c.bad bs with
    | none => simp [hc]
    | some o =>
      cases m with
      | none => simp [hc]
      | some p =>
        rw [List.filterMap_cons_some hc]
        simp only [Option.toList, List.cons_append, List.nil_append, List.min?_cons', List.foldl_cons, min_comm]

theorem firstBad_eq_none {bs : List Byte} {cs : List FieldCheck} : firstBad bs cs = none ↔ ∀ c ∈ cs, c.bad bs = none := by
  rw [firstBad_eq_min?, List.min?_eq_none_iff, List.filterMap_eq_nil_iff]

theorem firstBad_eq_some {bs : List Byte} {cs : List FieldCheck} {off : Nat} :
    firstBad bs cs = some off ↔ (∃ c ∈ cs, c.bad bs = some off) ∧ ∀ c ∈ cs, ∀ o, c.bad bs = some o → off ≤ o := by
  rw [firstBad_eq_min?, List.min?_eq_some_iff, List.mem_filterMap]
  simp only [List.mem_filterMap, forall_exists_index, and_imp]
  exact and_congr_right fun _ => ⟨fun h c hc o ho => h o c hc ho, fun h o c hc ho => h c hc o ho⟩

/-! ### What a row does with a descriptor -/

section Rows
variable {s : State} {c : Instr} {errs : Errs} {n r op : Nat} {d : Desc} {checks : Bits512 → List FieldCheck}
  {f : Desc → State → State} (hl : s.live)
  (row : Row c s errs fun s => s.startDesc n r (· == op) checks f)
include hl row

theorem Row.idle_of_none (h : s.startable n r = none) : Runs c s s := row.idle hl (State.startDesc_none h)

theorem Row.idle_of_other (hs : Starts s n r d) (hop : descOpcode d.bits ≠ op) : Runs c s s :=
  row.idle hl (State.startDesc_other hs.1 (by simpa using hop))

/-- A bad field ends the descriptor, and the row performs nothing. -/
theorem Row.endsBadField (hs : Starts s n r d) (hop : descOpcode d.bits = op) : EndsBadField c s n r d checks :=
  fun _ hbad => row.completes hl hs (State.startDesc_bad (s := s.told errs) hs.1 (by simpa using hop) hbad)

end Rows

theorem Row.of_act {c : Instr} {s : State} {f : State → State} (h : exec c s = act (whenRunning f) s) : Row c s [] f :=
  .inr ⟨rfl, h⟩

theorem Row.of_actOn {c : Instr} {s : State} {errs : Errs} {f : State → State}
    (h : exec c s = actOn errs (whenRunning f) s) : Row c s errs f := .inl h

theorem State.undefinedOpcode_none {s : State} {n r : Nat} (h : s.startable n r = none) : s.undefinedOpcode n r = s := by
  simp [State.undefinedOpcode, h]

theorem State.undefinedOpcode_some {s : State} {n r : Nat} {d : Desc} (h : s.startable n r = some d) :
    s.undefinedOpcode n r = if opcodeDefined (descOpcode d.bits) then s
      else s.complete n r d.id { status := statusBadOpcode } := by simp [State.undefinedOpcode, h]

theorem State.copyRow_none {s : State} {n r op : Nat} (h : s.startable n r = none) : s.copyRow n r op = s := by
  simp [State.copyRow, h]

/-- Settles O26: every row of a descriptor is `startDesc` with its own checks, which looks at the opcode, then at the fields. -/
theorem descriptorRefusals : Obligations.DescriptorRefusals := by
  refine ⟨fun bs cs off => ⟨firstBad_eq_none, firstBad_eq_some, fun lo len =>
    ⟨zero_bad_eq_none, zero_bad_eq_some, rfl, rfl⟩⟩, ?_⟩
  intro s q d errs hl n r
  refine ⟨fun hnone => ?_, fun hs => ?_⟩
  · refine ⟨(Row.of_act rfl).idle_of_none hl hnone, (Row.of_act rfl).idle_of_none hl hnone,
      (Row.of_actOn rfl).idle_of_none hl hnone, (Row.of_act rfl).idle_of_none hl hnone,
      (Row.of_actOn rfl).idle hl (State.copyRow_none (s := s.told errs) hnone),
      (Row.of_act rfl).idle hl (State.undefinedOpcode_none (s := s.told []) hnone)⟩
  · have undefined := State.undefinedOpcode_some (s := s.told []) hs.1
    refine ⟨fun hop => (Row.of_act rfl).completes hl hs (undefined.trans (by simp [hop])),
      fun hop => (Row.of_act rfl).idle hl (undefined.trans (by simp [hop])), fun hop => (Row.of_act rfl).idle_of_other hl hs hop,
      fun hop => (Row.of_act rfl).endsBadField hl hs hop, fun hop h => (Row.of_actOn rfl).endsBadField hl hs hop,
      fun hop => (Row.of_act rfl).endsBadField hl hs hop, fun hop w b => (Row.of_actOn rfl).endsBadField hl hs hop,
      fun hop w => (Row.of_actOn rfl).endsBadField hl hs hop, fun hop => (Row.of_actOn rfl).endsBadField hl hs hop,
      fun hop => (Row.of_actOn rfl).endsBadField hl hs hop, fun hop => (Row.of_act rfl).endsBadField hl hs hop,
      fun hop => (Row.of_act rfl).endsBadField hl hs hop, fun hop => (Row.of_actOn rfl).endsBadField hl hs hop,
      fun hop => (Row.of_act rfl).endsBadField hl hs hop, fun hop h => (Row.of_actOn rfl).endsBadField hl hs hop,
      fun hop => (Row.of_act rfl).endsBadField hl hs hop, fun hop => (Row.of_act rfl).endsBadField hl hs hop,
      fun hop a => (Row.of_act rfl).endsBadField hl hs hop, fun hop => (Row.of_act rfl).endsBadField hl hs hop⟩

end Sys2Proof.Machine
end

section
/-! Refutation of the statement on NOP, FENCE and BIAS_SET (R91, R92). -/

namespace Sys2Proof.Machine

/-! ### A FENCE after a descriptor that ended well -/

/-- A FENCE with STOP_ON_ERROR (byte 9, bit 0). -/
def stopFence : Desc := { id := 7, slot := 1, bits := BitVec.ofNat 512 (2 + 2 ^ 72), state := .fetched, orphan := false }

/-- Ring 0 of VF 1 holds the FENCE alone; the one descriptor that has completed before it ended well. -/
def fenceAfterGood : State :=
  { pins := { mode := .running }
    parts := [(0, { state := .active })]
    vfs := [(0, { rings := [(0, { used := some { cqLog2 := 4, sqLog2 := 4 }, enable := true, descs := [stopFence] })] })]
    done := [{ vf := 0, ring := 0, id := 3, doneStamp := 1, failed := false, orphan := false }] }

theorem fenceAfterGood_starts : Starts fenceAfterGood 0 0 stopFence := by
  refine ⟨by decide +kernel, by decide +kernel, rfl, ?_, rfl⟩
  intro x hx e he c k
  obtain rfl := List.mem_singleton.1 hx
  obtain rfl := List.mem_singleton.1 he
  exact DescState.noConfusion

/-- Whether ring 0 of VF 1 has stopped in the state that a command answers. -/
def stopsRing (o : Host.Outcome State Fault Refusal) : Bool := match o with
  | .next t => (t.ring 0 0).stopped
  | _ => false

/-- The model stops the ring: what a FENCE examines counts against it whether it failed or not. -/
theorem fenceAfterGood_stops : stopsRing (exec (.fence { vf := 0, ring := 0 }) fenceAfterGood) = true := by decide +kernel

/-- Refutes O27: a FENCE with STOP_ON_ERROR completes with DEP_FAILED and stops its ring although no descriptor since the
ring's last FENCE failed (R92), since `settleFences` does not ask whether a completed descriptor that it examines failed. -/
theorem not_nopFenceBias : ¬ Obligations.NopFenceBias := by
  intro h
  have hlive : fenceAfterGood.live := ⟨rfl, by decide +kernel, rfl, rfl⟩
  obtain ⟨-, -, hstarts⟩ := h.1 fenceAfterGood { vf := 0, ring := 0 } stopFence hlive
  obtain ⟨-, hgood, -, -⟩ := hstarts fenceAfterGood_starts
  have hclean : CleanDesc stopFence fenceChecks := by unfold CleanDesc; decide +kernel
  have hcovers : fenceAfterGood.fenceCovers 0 0 stopFence = [] := by decide +kernel
  obtain ⟨t, hruns, -, hring⟩ := hgood (by decide +kernel) hclean hcovers (by simp [fenceAfterGood])
  have hstops := fenceAfterGood_stops
  rw [hruns] at hstops
  simp only [stopsRing] at hstops
  have hring' : t.ring 0 0 = _ := hring
  rw [hring'] at hstops
  exact absurd hstops (by decide +kernel)

end Sys2Proof.Machine
end

section
/-! Proofs of the statements of chapter 02: doorbell reads, descriptor fetches and RESTART (R70 to R76, R506, R609). -/

namespace Sys2Proof.Machine

/-! ### What a ring's own operations do -/

/-- A read of host memory asks for its translation, and nothing else. -/
theorem State.hostAsk_evcOnly (s : State) (fn : Nat) (addr : DWord) : EvcOnly s (s.hostAsk fn addr) := by
  unfold State.hostAsk
  split
  · exact s.emit_evcOnly _
  · exact .refl s

theorem EvcOnly.vfs {s t : State} (h : EvcOnly s t) : t.vfs = s.vfs := by
  obtain ⟨e, m, o, rfl⟩ := h
  rfl

theorem LogOnly.vfs {s t : State} (h : LogOnly s t) : t.vfs = s.vfs := by
  obtain ⟨l, e, m, o, rfl⟩ := h
  rfl

theorem LogOnly.parts {s t : State} (h : LogOnly s t) : t.parts = s.parts := by
  obtain ⟨l, e, m, o, rfl⟩ := h
  rfl

theorem State.ring_of_vfs {s t : State} (h : t.vfs = s.vfs) (n r : Nat) : t.ring n r = s.ring n r := by
  rw [State.ring, State.ring, State.vf, State.vf, h]

@[simp] theorem State.hostAsk_ring (s : State) (fn : Nat) (addr : DWord) (n r : Nat) :
    (s.hostAsk fn addr).ring n r = s.ring n r := State.ring_of_vfs (s.hostAsk_evcOnly fn addr).vfs n r

@[simp] theorem State.hostAsk_part (s : State) (fn : Nat) (addr : DWord) (n : Nat) :
    (s.hostAsk fn addr).part n = s.part n := by
  rw [State.part, (s.hostAsk_evcOnly fn addr).logOnly.parts, State.part]

/-- A running ring stops with its cause (R77). -/
theorem State.stopRing_running {s : State} {n r : Nat} (he : (s.ring n r).enable = true) (hs : (s.ring n r).stopped = false)
    (st : Nat) : (s.stopRing n r st).ring n r = { s.ring n r with stopped := true, stopCause := BitVec.ofNat 8 st } := by
  rw [State.stopRing, State.ring_modRing_same, if_neg (by simp [he, hs])]

/-- An enabled ring of a partition that keeps its records takes every record (R79, R102). -/
theorem State.owe_enabled {s : State} {n r : Nat} (hd : (s.part n).discard = false) (hu : (s.ring n r).used.isNone = false)
    (he : (s.ring n r).enable = true) (o : Owed) :
    s.owe n r o = s.modRing n r fun g => { g with owed := g.owed ++ [o] } := by
  simp [State.owe, Ring.over, hd, hu, he]

theorem State.stopRing_onlyRing (s : State) (n r st : Nat) : OnlyRing n r s (s.stopRing n r st) := s.modRing_onlyRing n r _

theorem OnlyRing.part {n r : Nat} {s t : State} (h : OnlyRing n r s t) (m : Nat) : t.part m = s.part m := by
  rw [h.1]
  rfl

theorem OnlyRing.err {n r : Nat} {s t : State} (h : OnlyRing n r s t) : t.err = s.err := by rw [h.1]

/-- A running ring stops and owes a record (R74, R76, R609). -/
theorem State.stopRing_owe {s : State} {n r : Nat} (hd : (s.part n).discard = false) (hu : (s.ring n r).used.isNone = false)
    (he : (s.ring n r).enable = true) (hs : (s.ring n r).stopped = false) (st : Nat) (o : Owed) :
    OnlyRing n r s ((s.stopRing n r st).owe n r o) ∧ ((s.stopRing n r st).owe n r o).ring n r =
      { s.ring n r with stopped := true, stopCause := BitVec.ofNat 8 st, owed := (s.ring n r).owed ++ [o] } := by
  have hring := State.stopRing_running he hs st
  have honly := s.stopRing_onlyRing n r st
  rw [State.owe_enabled (by rw [honly.part, hd]) (by rw [hring]; exact hu) (by rw [hring]; exact he)]
  exact ⟨honly.trans (State.modRing_onlyRing _ n r _), by rw [State.ring_modRing_same, hring]⟩

/-- A host read of a running ring that fails for good is recorded, stops the ring and owes a DESC_POISON record (R76, R609). -/
theorem State.ringReadFails_running {s : State} {n r : Nat} (hd : (s.part n).discard = false)
    (hu : (s.ring n r).used.isNone = false) (he : (s.ring n r).enable = true) (hs : (s.ring n r).stopped = false)
    (addr : DWord) (detail : Nat) :
    s.Leaves (s.ringReadFails n r addr detail) ∧
      (s.ringReadFails n r addr detail).err = s.recorded
        { code := 0x0201, severity := 1, part := n, path := 8, addrKind := 3, addr := addr.toNat, ring := r } ∧
      (s.ringReadFails n r addr detail).ring n r =
        { s.ring n r with
          stopped := true, stopCause := 0x19,
          owed := (s.ring n r).owed ++ [ringRecord statusDescPoison s.err.nextSeq 0 detail] } := by
  let i : ErrInfo := { code := 0x0201, severity := 1, part := n, path := 8, addrKind := 3, addr := addr.toNat, ring := r }
  have hlog := s.logError_logOnly i
  have hring := State.ring_of_vfs hlog.vfs n r
  have hpart : ((s.logError i).2.part n).discard = false := by rw [State.part, hlog.parts]; exact hd
  obtain ⟨honly, hr⟩ := State.stopRing_owe hpart (by rw [hring]; exact hu) (by rw [hring]; exact he)
    (by rw [hring]; exact hs) statusDescPoison (ringRecord statusDescPoison s.err.nextSeq 0 detail)
  refine ⟨hlog.leaves.trans honly.leaves, ?_, ?_⟩
  · exact honly.err.trans (s.logError_err i)
  · rw [hring] at hr
    exact hr

/-! ### The doorbell line (R70, R72, R74, R609) -/

section Doorbell
variable {s : State} {n r : Nat} {u : RingCfg}

/-- The ring after a good read of its doorbell line. -/
def Ring.doorbellRead (g : Ring) (line : Bits512) : Ring :=
  { g with sqTail := dbTail line, cqHead := dbHead line, dbTries := 0, waitDb := false }

/-- A good read of the line. -/
theorem State.doorbell_line (hu : (s.ring n r).used = some u) (line : Bits512) :
    s.doorbell n r (some line) =
      (let s1 := (s.hostAsk (n + 1) u.dbAddr).modRing n r fun g => g.doorbellRead line
       if !(s.ring n r).stopped ∧ 2 ^ u.sqLog2.toNat < (dbTail line - (s.ring n r).fetch).toNat then
         (s1.stopRing n r statusRingOverrun).owe n r (ringRecord statusRingOverrun 0 (dbTail line).toNat 0)
       else s1) := by
  simp only [State.doorbell, hu]
  rfl

/-- A failed read of the line. -/
theorem State.doorbell_none (hu : (s.ring n r).used = some u) :
    s.doorbell n r none =
      if hostBudget ≤ (s.ring n r).dbTries + 1 then
        ((s.hostAsk (n + 1) u.dbAddr).modRing n r fun g => { g with dbTries := 0, waitDb := false }).ringReadFails n r u.dbAddr 1
      else (s.hostAsk (n + 1) u.dbAddr).modRing n r fun g => { g with dbTries := g.dbTries + 1 } := by
  simp only [State.doorbell, hu]

/-- A tail that fits the ring, or a ring that has stopped. -/
theorem State.doorbell_fits (hu : (s.ring n r).used = some u) {line : Bits512}
    (h : (s.ring n r).stopped = true ∨ (dbTail line - (s.ring n r).fetch).toNat ≤ 2 ^ u.sqLog2.toNat) :
    OnlyRing n r (s.hostAsk (n + 1) u.dbAddr) (s.doorbell n r (some line)) ∧
      (s.doorbell n r (some line)).ring n r = (s.ring n r).doorbellRead line := by
  have hno : ¬ ((!(s.ring n r).stopped) = true ∧ 2 ^ u.sqLog2.toNat < (dbTail line - (s.ring n r).fetch).toNat) := by
    rcases h with h | h
    · simp [h]
    · exact fun hc => absurd h (by omega)
  rw [State.doorbell_line hu]
  dsimp only
  rw [if_neg hno, State.ring_modRing_same, State.hostAsk_ring]
  exact ⟨State.modRing_onlyRing _ n r _, rfl⟩

/-- A tail that overruns the ring stops it. -/
theorem State.doorbell_overrun (hd : (s.part n).discard = false) (hu : (s.ring n r).used = some u)
    (he : (s.ring n r).enable = true) (hs : (s.ring n r).stopped = false) {line : Bits512}
    (h : 2 ^ u.sqLog2.toNat < (dbTail line - (s.ring n r).fetch).toNat) :
    OnlyRing n r (s.hostAsk (n + 1) u.dbAddr) (s.doorbell n r (some line)) ∧
      (s.doorbell n r (some line)).ring n r =
        { (s.ring n r).doorbellRead line with
          stopped := true, stopCause := 0x1A,
          owed := (s.ring n r).owed ++ [ringRecord statusRingOverrun 0 (dbTail line).toNat 0] } := by
  rw [State.doorbell_line hu]
  dsimp only
  rw [if_pos ⟨by simp [hs], h⟩]
  have honly := (s.hostAsk (n + 1) u.dbAddr).modRing_onlyRing n r fun g => g.doorbellRead line
  have hring : ((s.hostAsk (n + 1) u.dbAddr).modRing n r fun g => g.doorbellRead line).ring n r =
      (s.ring n r).doorbellRead line := by rw [State.ring_modRing_same, State.hostAsk_ring]
  generalize (s.hostAsk (n + 1) u.dbAddr).modRing n r _ = s1 at honly hring ⊢
  have hpart : (s1.part n).discard = false := by rw [honly.part, State.hostAsk_part, hd]
  obtain ⟨honly', hring'⟩ := State.stopRing_owe hpart (by rw [hring]; exact hu ▸ rfl) (by rw [hring]; exact he)
    (by rw [hring]; exact hs) statusRingOverrun (ringRecord statusRingOverrun 0 (dbTail line).toNat 0)
  exact ⟨honly.trans honly', by rw [hring', hring]; rfl⟩

theorem State.ringEvent_enabled (he : (s.ring n r).enable = true) (x : Option Bits512) :
    s.ringEvent n r x = s.doorbell n r x := if_pos he

theorem State.ringEvent_disabled (he : (s.ring n r).enable = false) (x : Option Bits512) : s.ringEvent n r x = s :=
  if_neg (by simp [he])

/-- A read that fails is made again (R506). -/
theorem State.doorbell_again (hu : (s.ring n r).used = some u) (h : (s.ring n r).dbTries < 2) :
    OnlyRing n r (s.hostAsk (n + 1) u.dbAddr) (s.doorbell n r none) ∧
      (s.doorbell n r none).ring n r = { s.ring n r with dbTries := (s.ring n r).dbTries + 1 } := by
  rw [State.doorbell_none hu, if_neg (by unfold hostBudget; omega), State.ring_modRing_same, State.hostAsk_ring]
  exact ⟨State.modRing_onlyRing _ n r _, rfl⟩

end Doorbell

/-- What a record says of a fault depends on the log and on the beat alone. -/
theorem State.recorded_congr {s t : State} (he : t.err = s.err) (hb : t.tmb = s.tmb) (i : ErrInfo) :
    t.recorded i = s.recorded i := by
  simp [State.recorded, State.newRec, he, hb]

/-- After the third failed read of host memory a running ring, which has changed as `f` says, stops (R76, R609). -/
theorem State.askFails {s : State} {n r : Nat} (hd : (s.part n).discard = false) (hu : (s.ring n r).used.isNone = false)
    (he : (s.ring n r).enable = true) (hs : (s.ring n r).stopped = false) (f : Ring → Ring)
    (hf : ∀ g : Ring, (f g).used = g.used ∧ (f g).enable = g.enable ∧ (f g).stopped = g.stopped) (fn : Nat) (a addr : DWord)
    (detail : Nat) :
    s.Leaves (((s.hostAsk fn a).modRing n r f).ringReadFails n r addr detail) ∧
      (((s.hostAsk fn a).modRing n r f).ringReadFails n r addr detail).err = s.recorded
        { code := 0x0201, severity := 1, part := n, path := 8, addrKind := 3, addr := addr.toNat, ring := r } ∧
      (((s.hostAsk fn a).modRing n r f).ringReadFails n r addr detail).ring n r =
        { f (s.ring n r) with
          stopped := true, stopCause := 0x19,
          owed := (f (s.ring n r)).owed ++ [ringRecord statusDescPoison s.err.nextSeq 0 detail] } := by
  obtain ⟨fu, fe, fs⟩ := hf (s.ring n r)
  obtain ⟨e, m, o, hask⟩ := s.hostAsk_evcOnly fn a
  have honly := (s.hostAsk fn a).modRing_onlyRing n r f
  have hring : ((s.hostAsk fn a).modRing n r f).ring n r = f (s.ring n r) := by
    rw [State.ring_modRing_same, State.hostAsk_ring]
  have hpart : (((s.hostAsk fn a).modRing n r f).part n).discard = false := by
    rw [State.modRing_part, State.hostAsk_part, hd]
  have herr : ((s.hostAsk fn a).modRing n r f).err = s.err := by rw [hask]; rfl
  have htmb : ((s.hostAsk fn a).modRing n r f).tmb = s.tmb := by rw [hask]; rfl
  have hleaves : s.Leaves ((s.hostAsk fn a).modRing n r f) := (s.hostAsk_evcOnly fn a).leaves.trans honly.leaves
  generalize (s.hostAsk fn a).modRing n r f = s1 at *
  obtain ⟨hl, hr, hg⟩ := State.ringReadFails_running hpart (by rw [hring, fu]; exact hu) (by rw [hring, fe]; exact he)
    (by rw [hring, fs]; exact hs) addr detail
  exact ⟨hleaves.trans hl, by rw [hr, State.recorded_congr herr htmb], by rw [hg, hring, herr]⟩

/-- The third failed read of the doorbell line stops the ring (R609). -/
theorem State.doorbell_fails {s : State} {n r : Nat} {u : RingCfg} (hd : (s.part n).discard = false)
    (hu : (s.ring n r).used = some u) (he : (s.ring n r).enable = true) (hs : (s.ring n r).stopped = false)
    (h : 2 ≤ (s.ring n r).dbTries) :
    s.Leaves (s.doorbell n r none) ∧
      (s.doorbell n r none).err = s.recorded
        { code := 0x0201, severity := 1, part := n, path := 8, addrKind := 3, addr := u.dbAddr.toNat, ring := r } ∧
      (s.doorbell n r none).ring n r =
        { s.ring n r with
          dbTries := 0, waitDb := false, stopped := true, stopCause := 0x19,
          owed := (s.ring n r).owed ++ [ringRecord statusDescPoison s.err.nextSeq 0 1] } := by
  rw [State.doorbell_none hu, if_pos (by unfold hostBudget; omega)]
  exact State.askFails hd (hu ▸ rfl) he hs (fun g => { g with dbTries := 0, waitDb := false }) (fun _ => ⟨rfl, rfl, rfl⟩) _ _ _ _

/-! ### Turns (R75; log 115) -/

/-- The ring whose turn it is: the first from the round-robin's next on that may fetch. -/
theorem State.fetchTurn_eq_some {s : State} {n r : Nat} (hr : r < 8) :
    s.fetchTurn n = some r ↔ s.mayFetch n r = true ∧
      ∀ j, j < (r + 8 - (s.vf n).rrNext % 8) % 8 → s.mayFetch n (((s.vf n).rrNext + j) % 8) = false := by
  rw [State.fetchTurn, List.find?_map, Option.map_eq_some_iff]
  simp only [List.find?_range_eq_some, Function.comp_apply, List.mem_range, Bool.not_eq_true']
  constructor
  · rintro ⟨k, ⟨hk, hlt, hbefore⟩, rfl⟩
    refine ⟨hk, fun j hj => hbefore j ?_⟩
    omega
  · rintro ⟨hmay, hbefore⟩
    have hr' : ((s.vf n).rrNext + (r + 8 - (s.vf n).rrNext % 8) % 8) % 8 = r := by omega
    exact ⟨_, ⟨by rw [hr']; exact hmay, by omega, hbefore⟩, hr'⟩

theorem State.mayFetch_iff {s : State} {n r : Nat} :
    s.mayFetch n r = true ↔ (s.part n).state = .active ∧ (s.ring n r).enable = true ∧ (s.ring n r).stopped = false ∧
      (s.ring n r).waitDb = false ∧ (s.ring n r).sqTail ≠ (s.ring n r).fetch ∧
      ((s.ring n r).descs.filter fun d => !d.orphan).length < 64 := by
  simp [State.mayFetch, and_assoc]

/-! ### Fetches (R75, R76) -/

section Fetch
variable {s : State} {n r : Nat} {u : RingCfg}

theorem State.fetchDesc_other (h : s.fetchTurn n ≠ some r) (d : Option Bits512) : s.fetchDesc n r d = s := if_pos h

/-- The descriptor that was read takes its place, and the next ring has its turn. -/
theorem State.fetchDesc_read (h : s.fetchTurn n = some r) (hu : (s.ring n r).used = some u) (bits : Bits512) :
    s.fetchDesc n r (some bits) = (s.hostAsk (n + 1) (u.sqSlot (s.ring n r).fetch)).takeDesc n r bits := by
  simp [State.fetchDesc, h, hu]

theorem State.fetchDesc_none (h : s.fetchTurn n = some r) (hu : (s.ring n r).used = some u) :
    s.fetchDesc n r none =
      if hostBudget ≤ (s.ring n r).descTries + 1 then
        ((s.hostAsk (n + 1) (u.sqSlot (s.ring n r).fetch)).modRing n r fun g =>
          { g with descTries := 0, resumeAt := some (g.fetch + 1) }).ringReadFails n r
          (u.sqSlot (s.ring n r).fetch) 0
      else (s.hostAsk (n + 1) (u.sqSlot (s.ring n r).fetch)).modRing n r fun g => { g with descTries := g.descTries + 1 } := by
  simp [State.fetchDesc, h, hu]

/-- The order of acceptance is no part of a ring. -/
theorem OnlyRing.of_stamped {n r : Nat} {s t : State} (h : OnlyRing n r s.stamped t) : OnlyRing n r s t := h

theorem State.takeDesc_spec (s : State) (n r : Nat) (bits : Bits512) :
    OnlyRing n r s (s.takeDesc n r bits) ∧ (s.takeDesc n r bits).stamp = s.stamp + 1 ∧
      ((s.takeDesc n r bits).vf n).rrNext = (r + 1) % 8 ∧
      (s.takeDesc n r bits).ring n r =
        { s.ring n r with
          fetch := (s.ring n r).fetch + 1, descTries := 0,
          descs := (s.ring n r).descs ++
            [{ id := s.stamp + 1, slot := (s.ring n r).fetch, bits := bits, state := .fetched, orphan := false }] } := by
  unfold State.takeDesc
  dsimp only
  generalize hs1 : s.stamped.modRing n r _ = s1
  have honly : OnlyRing n r s s1 := hs1 ▸ State.modRing_onlyRing s.stamped n r _ |>.of_stamped
  have hvf : ∀ m, m ≠ n → (s1.modVf n fun v => { v with rrNext := (r + 1) % 8 }).vf m = s1.vf m := fun m hm => by
    rw [State.vf_modVf, if_neg hm]
  have hring : ∀ q, (s1.modVf n fun v => { v with rrNext := (r + 1) % 8 }).ring n q = s1.ring n q := fun q => by
    rw [State.ring, State.vf_modVf_same, State.ring]
  refine ⟨honly.trans ⟨rfl, hvf, fun q _ => hring q⟩, by rw [State.modVf_stamp, ← hs1]; rfl, by rw [State.vf_modVf_same], ?_⟩
  rw [hring, ← hs1, State.ring_modRing_same]
  rfl

end Fetch

/-! ### RESTART (R74, R76, R92) -/

theorem OnlyRing.hostAsk {n r : Nat} {s t : State} (h : OnlyRing n r s t) (fn : Nat) (a : DWord) :
    OnlyRing n r (s.hostAsk fn a) (t.hostAsk fn a) := by
  obtain ⟨ht, hvf, hring⟩ := h
  have hgen : t.gen = s.gen := by rw [ht]
  unfold State.hostAsk
  rw [hgen]
  split
  · exact ⟨by rw [ht]; rfl, hvf, hring⟩
  · exact ⟨ht, hvf, hring⟩

/-- The ring that resumes, before its doorbell line has been read again. -/
def Ring.restarted (g : Ring) : Ring :=
  { g with stopped := false, stopCause := 0, waitDb := true, dbTries := 0, resumeAt := none, fetch := g.resumeAt.getD g.fetch }

theorem State.restartRing_stopped {s : State} {n r : Nat} (he : (s.ring n r).enable = true)
    (hs : (s.ring n r).stopped = true) (line : Option Bits512) :
    s.restartRing n r line = (s.modRing n r Ring.restarted).doorbell n r line := by
  simp only [State.restartRing, State.restartBegins, he, hs]
  rfl

theorem State.restartRing_running {s : State} {n r : Nat}
    (h : (s.ring n r).enable = false ∨ (s.ring n r).stopped = false) (line : Option Bits512) :
    s.restartRing n r line = s := if_pos (by simpa using h)

/-- A restarted ring reads its line as any other. -/
theorem State.restart_restarted (s : State) (n r : Nat) (fn : Nat) (a : DWord) :
    OnlyRing n r (s.hostAsk fn a) ((s.modRing n r Ring.restarted).hostAsk fn a) ∧
      (s.modRing n r Ring.restarted).ring n r = (s.ring n r).restarted :=
  ⟨(s.modRing_onlyRing n r _).hostAsk fn a, s.ring_modRing_same n r _⟩

/-! ### The statement -/

/-- A row that reads host memory at `a` for one ring, and then changes that ring alone. -/
theorem runs_ask {s : State} {c : Instr} {f : State → State} {n r fn : Nat} {a : DWord} {h : Ring} (hl : s.live)
    (hc : exec c s = act (whenRunning f) s) (hf : OnlyRing n r (s.hostAsk fn a) (f s) ∧ (f s).ring n r = h) :
    ∃ t, Runs c s t ∧ OnlyRing n r (s.hostAsk fn a) t ∧ t.ring n r = h :=
  ⟨f s, hc.trans (act_live hl ((s.hostAsk_evcOnly fn a).leaves.trans hf.1.leaves)), hf⟩

/-- Settles O32: a ring event and a RESTART are reads of the doorbell line, and a fetch is a read of the next slot. -/
theorem ringsFetch : Obligations.RingsFetch := by
  refine ⟨?doorbell, ?fetch⟩
  case doorbell =>
    intro s q u line hl n r g tail head base read overrun becomes poison again
    have idle {c : Instr} {f : State → State} (hc : exec c s = act (whenRunning f) s) (hf : f s = s) : Runs c s s :=
      hc.trans ((act_live hl (by rw [hf]; exact .refl s)).trans (by rw [hf]))
    refine ⟨fun he x => ⟨idle rfl (State.ringEvent_disabled he x), idle rfl (State.restartRing_running (.inl he) x)⟩,
      fun hs x => idle rfl (State.restartRing_running (.inr hs) x), fun he hu hd => ?_, rfl⟩
    have event {x : Option Bits512} {h : Ring}
        (hf : OnlyRing n r (s.hostAsk (n + 1) u.dbAddr) (s.doorbell n r x) ∧ (s.doorbell n r x).ring n r = h) :
        becomes (.ringEvent q x) h := by
      rw [← State.ringEvent_enabled he] at hf
      exact runs_ask (f := fun s => s.ringEvent n r x) hl rfl hf
    refine ⟨fun h => event (State.doorbell_fits hu h), fun hs h => event (State.doorbell_overrun hd hu he hs h),
      fun h => event (State.doorbell_again hu h), fun h hs => ?fails, fun hs => ?restart⟩
    case fails =>
      obtain ⟨hleaves, herr, hring⟩ := State.doorbell_fails hd hu he hs h
      rw [← State.ringEvent_enabled he] at hleaves herr hring
      exact ⟨_, act_live (f := fun s => s.ringEvent n r none) hl hleaves, herr, hring⟩
    case restart =>
      obtain ⟨hask, hring⟩ := s.restart_restarted n r (n + 1) u.dbAddr
      have restart {x : Option Bits512} {h : Ring}
          (hf : OnlyRing n r ((s.modRing n r Ring.restarted).hostAsk (n + 1) u.dbAddr) ((s.modRing n r Ring.restarted).doorbell n r x) ∧
            ((s.modRing n r Ring.restarted).doorbell n r x).ring n r = h) : becomes (.restart q x) h := by
        rw [← State.restartRing_stopped he hs] at hf
        exact runs_ask (f := fun s => s.restartRing n r x) hl rfl ⟨hask.trans hf.1, hf.2⟩
      have hd' : ((s.modRing n r Ring.restarted).part n).discard = false := hd
      generalize s.modRing n r Ring.restarted = s1 at *
      have hu' : (s1.ring n r).used = some u := by rw [hring]; exact hu
      have fits := State.doorbell_fits hu' (line := line)
      have overruns := State.doorbell_overrun hd' hu' (by rw [hring]; exact he) (by rw [hring]; rfl) (line := line)
      have fails := State.doorbell_again hu' (by rw [hring]; exact Nat.zero_lt_two)
      rw [hring] at fits overruns fails
      exact ⟨fun h => restart (fits (.inr h)), fun h => restart (overruns h), restart fails⟩
  case fetch =>
    intro s q bits hl n r g may next turn
    have hmay (k : Nat) : may k ↔ s.mayFetch n k = true := State.mayFetch_iff.symm
    have hturn : turn ↔ s.fetchTurn n = some r := by
      rw [State.fetchTurn_eq_some q.ring.isLt]
      simp only [turn, hmay, Bool.not_eq_true]
      rfl
    refine ⟨fun h d => ?_, fun u h hu => ?_, rfl⟩
    · have hf := State.fetchDesc_other (fun hc => h (hturn.2 hc)) d
      exact (act_live (f := fun s => s.fetchDesc n r d) hl (by rw [hf]; exact .refl s)).trans (by rw [hf])
    · have hfetch := hturn.1 h
      obtain ⟨-, he, hs, -⟩ := State.mayFetch_iff.1 ((State.fetchTurn_eq_some q.ring.isLt).1 hfetch).1
      have hask := s.hostAsk_evcOnly (n + 1) (u.sqSlot g.fetch)
      refine ⟨?read, fun hlt => ?again, fun hge hd => ?fails⟩
      case read =>
        have hf := State.fetchDesc_read hfetch hu bits
        obtain ⟨honly, hstamp, hnext, hring⟩ := (s.hostAsk (n + 1) (u.sqSlot g.fetch)).takeDesc_spec n r bits
        have hstamp0 : (s.hostAsk (n + 1) (u.sqSlot g.fetch)).stamp = s.stamp := by
          obtain ⟨e, m, o, ho⟩ := hask
          rw [ho]
        rw [← hf] at honly hstamp hnext hring
        rw [hstamp0] at hstamp hring
        rw [State.hostAsk_ring] at hring
        exact ⟨_, act_live (f := fun s => s.fetchDesc n r (some bits)) hl (hask.leaves.trans honly.leaves), honly, hstamp,
          hnext, hring⟩
      case again =>
        have hf := State.fetchDesc_none hfetch hu
        rw [if_neg (by simp only [hostBudget, g] at *; omega)] at hf
        refine runs_ask (f := fun s => s.fetchDesc n r none) hl rfl ?_
        rw [hf, State.ring_modRing_same, State.hostAsk_ring]
        exact ⟨State.modRing_onlyRing _ n r _, rfl⟩
      case fails =>
        have hf := State.fetchDesc_none hfetch hu
        rw [if_pos (by simp only [hostBudget, g] at *; omega)] at hf
        obtain ⟨hleaves, herr, hring⟩ := State.askFails hd (hu ▸ rfl) he hs
          (fun g => { g with descTries := 0, resumeAt := some (g.fetch + 1) }) (fun _ => ⟨rfl, rfl, rfl⟩) (n + 1)
          (u.sqSlot g.fetch) (u.sqSlot g.fetch) 0
        rw [← hf] at hleaves herr hring
        exact ⟨_, act_live (f := fun s => s.fetchDesc n r none) hl hleaves, herr, hring⟩

end Sys2Proof.Machine
end

section
/-! Refutation of the statement on LAUNCH (R88, R461). -/

namespace Sys2Proof.Machine

/-! ### A LAUNCH where the job table names another job under its own key -/

/-- A LAUNCH of the program at the window's first byte, with one argument, at the first free quantum. -/
def launchOne : Desc := { id := 7, slot := 1, bits := BitVec.ofNat 512 (1 + 2 ^ 192), state := .fetched, orphan := false }

/-- Partition 0: region 0 is its window, and the program is in its measurement already. -/
def launchPart : Part := { state := .active, win := [(0, (true, 0))], progLog := [{ digest := 0, config := 0 }] }

/-- The program: one device, vat 0, one tensor to bind. -/
def oneVatProgram : ProgHeader :=
  { fingerprint := 0, imageDigest := 0
    config :=
      { islands := 0, stackSet := 0, regions := [(0, true)], firmwareMajor := State.reset.firmwareMajor, lcEnable := false,
        portSet := 0, routes := [], saveBase := 0, saveStride := 0 }
    latencyCritical := false, serving := false, devices := 1, position := 0, size := 1, codeOff := 0, codeSize := 0
    vats := 1, stackSet := 0, portSet := 0, args := [{ tensor := 0, size := 1 }], exclusive := [], yields := []
    shape :=
      { layers := 0, kvhLocal := 0, pageTokens := 0, headWidth := 0, kvFormat := 0, exact := false, budgetBeats := 0
        tokensMax := 0, sMax := 0, vocab := 0, rennet := [], attn := [] } }

/-- A preempted job with the number that the next job gets. -/
def preemptedZero : Job :=
  { id := 0, part := 0, ring := 0, desc := 3, tag := 0, program := 0, hdr := oneVatProgram, startBeat := 0, askedBeat := 0
    state := .preempted, readyStamp := 0, preemptStamp := 0, beat := 0, beatSub := 0, holdQuanta := 0, ended := []
    yieldStep := 0, serving := false }

/-- Ring 0 of VF 1 holds the LAUNCH alone; the job table holds the preempted job 0 under the key 5. -/
def launchBesideKey : State :=
  { pins := { mode := .running }
    mem := { cells := [], zeroed := [(0, 4096)], marked := [], bias := [(0, 65536)] }
    parts := [(0, launchPart)]
    vfs := [(0, { rings := [(0, { used := some { cqLog2 := 4, sqLog2 := 4 }, enable := true, descs := [launchOne] })] })]
    jobs := [(5, preemptedZero)] }

theorem launchBesideKey_starts : Starts launchBesideKey 0 0 launchOne := by
  refine ⟨by decide +kernel, by decide +kernel, rfl, ?_, rfl⟩
  intro x hx e he c k
  obtain rfl := List.mem_singleton.1 hx
  obtain rfl := List.mem_singleton.1 he
  exact DescState.noConfusion

/-- Whether job 0 waits or starts in the state that a command answers. -/
def begins (o : Host.Outcome State Fault Refusal) : Bool := match o with
  | .next t => (tabFind t.jobs 0).any fun j => j.state == .waiting || j.state == .starting
  | _ => false

/-- The preempted job is taken first, and what it changes is the entry of the new one, which is then restored. -/
theorem launchBesideKey_restores :
    begins (exec (.launch { vf := 0, ring := 0 } (some oneVatProgram) []) launchBesideKey) = false := by decide +kernel

/-- Refutes O29: a LAUNCH that passes every check leaves its job in state RESTORING where the job table holds, under another
key, a preempted job with the new job's number: `settleJobs` takes that job first, and `take` changes the entry under its
number. The statement asks of its states only that they are live, and `live` says nothing of the keys of the job table; no
run from reset is claimed to make such a table. -/
theorem not_launchMakesJob : ¬ Obligations.LaunchMakesJob := by
  intro h
  have hlive : launchBesideKey.live := ⟨rfl, by decide +kernel, rfl, rfl⟩
  have hclean : CleanDesc launchOne launchChecks := by unfold CleanDesc; decide +kernel
  obtain ⟨-, -, -, -, -, hready⟩ := h launchBesideKey { vf := 0, ring := 0 } launchOne oneVatProgram [] hlive
    launchBesideKey_starts (by decide +kernel) hclean
  have hconfig : oneVatProgram.config = launchBesideKey.config 0 := by decide +kernel
  obtain ⟨-, -, hread⟩ := hready (by decide +kernel) (by decide +kernel) ⟨hconfig, by decide +kernel⟩ (.inr (by decide +kernel))
  obtain ⟨-, -, -, hjob⟩ := hread (by decide +kernel) (by decide +kernel)
  obtain ⟨t, hruns, -, -, -, -, j, hfind, -, -, -, -, -, -, -, hstate, -⟩ :=
    hjob (by decide +kernel) (.inl (by decide +kernel)) (.inl (by decide +kernel))
  have hbegins := launchBesideKey_restores
  rw [hruns] at hbegins
  have hfind' : tabFind t.jobs 0 = some j := hfind
  rcases hstate with hstate | hstate <;> simp [begins, hfind', hstate] at hbegins

end Sys2Proof.Machine
end

section
/-! What a read of the window leaves: memory in its canonical form and every output; a flag word's line and its bytes. -/

namespace Sys2Proof.Machine

/-! ### Outputs stay, and memory keeps its form -/

/-- Nothing that has left the block is taken back, memory keeps its canonical form, and a command that has to wait still
has to. -/
def Grows (s t : State) : Prop := s.out ⊆ t.out ∧ (s.memOk → t.memOk) ∧ (s.blocked = true → t.blocked = true)

theorem Grows.refl (s : State) : Grows s s := ⟨List.Subset.refl _, id, id⟩

theorem Grows.trans {s t u : State} (h : Grows s t) (g : Grows t u) : Grows s u :=
  ⟨List.Subset.trans h.1 g.1, g.2.1 ∘ h.2.1, g.2.2 ∘ h.2.2⟩

theorem State.emit_grows (s : State) (o : Output) : Grows s (s.emit o) := ⟨List.subset_append_left _ _, id, id⟩

theorem State.hostPut_grows (s : State) (fn : Nat) (a : DWord) (bs : List Byte) : Grows s (s.hostPut fn a bs) := by
  unfold State.hostPut
  split
  · exact (s.emit_grows _).trans (State.emit_grows _ _)
  · exact s.emit_grows _

theorem State.interrupt_grows (s : State) (fn k : Nat) : Grows s (s.interrupt fn k) := by
  unfold State.interrupt
  dsimp only
  split
  · exact .refl s
  · split
    · exact .refl s
    · exact s.emit_grows _

theorem State.setEvc_grows (s : State) (e : Evc) : Grows s { s with evc := e } := .refl s

theorem State.modEvq_grows (s : State) (fn : Nat) (f : EvQueue → EvQueue) : Grows s (s.modEvq fn f) := .refl s

theorem State.evqWrite_grows (s : State) (fn : Nat) (bs : List Byte) : Grows s (s.evqWrite fn bs) := by
  unfold State.evqWrite
  dsimp only
  split
  · exact ((s.modEvq_grows _ _).trans (State.hostPut_grows _ _ _ _)).trans (State.interrupt_grows _ _ _)
  · exact (s.modEvq_grows _ _).trans (State.hostPut_grows _ _ _ _)

theorem State.vfPost_grows (s : State) (n k beat info : Nat) : Grows s (s.vfPost n k beat info) := by
  unfold State.vfPost
  dsimp only
  split
  · exact .refl s
  · split
    · exact (s.evqWrite_grows _ _).trans (State.modEvq_grows _ _ _)
    · exact s.modEvq_grows _ _

theorem hevosServe_grows (k : Nat) (s : State) : Grows s (hevosServe k s) := by
  induction k generalizing s with
  | zero => exact .refl s
  | succ k ih =>
    unfold hevosServe
    split
    · exact .refl s
    · split
      · exact .refl s
      · rename_i k _ _
        refine (s.setEvc_grows (s.evc.taken 1 k)).trans ?_
        dsimp only
        split
        · exact (State.emit_grows _ _).trans (ih _)
        · exact ih _

theorem pfQueueServe_grows (k : Nat) (s : State) : Grows s (pfQueueServe k s) := by
  induction k generalizing s with
  | zero => exact .refl s
  | succ k ih =>
    unfold pfQueueServe
    split
    · exact .refl s
    · dsimp only
      split
      · exact ((s.evqWrite_grows _ _).trans (State.setEvc_grows _ _)).trans (ih _)
      · exact .refl s

theorem State.evcDo_grows (s : State) (f : Evc → Evc) : Grows s (s.evcDo f) := by
  unfold State.evcDo State.evcServe
  refine (hevosServe_grows 256 { s with evc := f s.evc }).trans ?_
  dsimp only
  split
  · exact pfQueueServe_grows 256 _
  · split
    · exact State.interrupt_grows _ _ _
    · exact .refl _

theorem State.raise_grows (s : State) (k info : Nat) : Grows s (s.raise k info) := by
  unfold State.raise
  split
  · exact .refl s
  · dsimp only
    split
    · exact (s.evcDo_grows _).trans (State.vfPost_grows _ _ _ _ _)
    · exact s.evcDo_grows _

theorem State.log_grows (s : State) (i : ErrInfo) : Grows s (s.log i) := by
  unfold State.log State.logError
  dsimp only
  have h : Grows s { s with err := s.recorded i } := .refl s
  split_ifs
  · exact (h.trans (State.raise_grows _ _ _)).trans (State.vfPost_grows _ _ _ _ _)
  · exact h.trans (State.vfPost_grows _ _ _ _ _)
  · exact h.trans (State.raise_grows _ _ _)
  · exact h

theorem forAll_grows {α : Type} {f : α → State → State} (h : ∀ a s, Grows s (f a s)) (xs : List α) (s : State) :
    Grows s (forAll xs f s) := by
  induction xs generalizing s with
  | nil => exact .refl s
  | cons x xs ih => exact (h x s).trans (ih _)

theorem State.modStk_grows (s : State) (k : Nat) (f : StackRegs → StackRegs) : Grows s (s.modStk k f) := .refl s

theorem State.countCe_grows (s : State) (k : Nat) : Grows s (s.countCe k) := by
  unfold State.countCe
  dsimp only
  split
  · exact (((s.modStk_grows k _).trans (State.modStk_grows _ k _)).trans (State.log_grows _ _)).trans
      (State.raise_grows _ _ _)
  · exact (s.modStk_grows k _).trans (State.modStk_grows _ k _)

theorem State.takeLine_grows (l : Nat) (s : State) : Grows s (s.takeLine l) := by
  unfold State.takeLine
  dsimp only
  split
  · exact ⟨(s.emit_grows _).1, fun h => Mem.replace_wf h _ _, id⟩
  · exact s.emit_grows _

theorem State.markAt_grows (s : State) (a : Nat) : Grows s (s.markAt a) :=
  ⟨List.Subset.refl _, fun h => Mem.mark_wf h _ _, id⟩

theorem State.meetGranule_grows (g : Nat) (s : State) : Grows s (s.meetGranule g) := by
  unfold State.meetGranule
  dsimp only
  refine Grows.trans (t := if (s.guardedAt g && !(s.errsAt g .single).isEmpty) = true then s.countCe (stackOf g) else s) ?_ ?_
  · split
    · exact s.countCe_grows _
    · exact .refl s
  generalize (if (s.guardedAt g && !(s.errsAt g .single).isEmpty) = true then s.countCe (stackOf g) else s) = u
  generalize (s.errsAt g .lost ++ if s.guardedAt g = true then [] else s.errsAt g .single) = lost
  refine Grows.trans (t := if (s.errsAt g .recovered).isEmpty = true then u else u.countCe (stackOf g)) ?_ ?_
  · split
    · exact .refl u
    · exact u.countCe_grows _
  generalize (if (s.errsAt g .recovered).isEmpty = true then u else u.countCe (stackOf g)) = v
  split
  · exact .refl _
  · exact (forAll_grows (fun w s => s.markAt_grows (4 * w)) _ v).trans (State.modStk_grows _ _ _)

theorem State.meet_grows (s : State) (segs : List (Nat × Nat)) : Grows s (s.meet segs) :=
  forAll_grows State.meetGranule_grows _ s

theorem State.cohere_grows (s : State) (segs : List (Nat × Nat)) : Grows s (s.cohere segs) := by
  unfold State.cohere
  refine Grows.trans (t := if s.held segs then { s with blocked := true } else s) ?_ (forAll_grows State.takeLine_grows _ _)
  split
  · exact ⟨List.Subset.refl _, id, fun _ => rfl⟩
  · exact .refl s

theorem State.readSegs_grows (s : State) (segs : List (Nat × Nat)) : Grows s (s.readSegs segs).2 :=
  (s.cohere_grows segs).trans (State.meet_grows _ segs)

theorem State.winRead_grows (s : State) (n w len : Nat) : Grows s (s.winRead n w len).2 := s.readSegs_grows _

/-! ### The lines that a read takes (R60) -/

/-- Each line that is taken is asked for over CXL.cache. -/
theorem cacheOwn_mem_takeLines {l : Nat} {ls : List Nat} (hl : l ∈ ls) (s : State) :
    Output.cacheOwn l ∈ (forAll ls State.takeLine s).out := by
  induction ls generalizing s with
  | nil => exact absurd hl List.not_mem_nil
  | cons x ls ih =>
    rcases List.mem_cons.1 hl with rfl | hl
    · refine (forAll_grows State.takeLine_grows ls (s.takeLine l)).1 ?_
      unfold State.takeLine
      dsimp only
      split <;> simp [State.emit]
    · exact ih hl _

/-- The line of an aligned 64-bit word of a host-bias page. -/
theorem State.line_mem_hostLines {s : State} {a : Nat} (ha : a % 8 = 0) (hb : s.mem.devBias (a / 4096) = false) :
    a / 64 * 64 ∈ s.hostLines [(a, 8)] := by
  have hpage : a / 4096 < pageOf (a + 8 + 4095) := by unfold pageOf; omega
  simp only [State.hostLines, List.flatMap_cons, List.flatMap_nil, List.append_nil, List.mem_flatMap, OfNat.ofNat_ne_zero,
    if_false, List.mem_map, List.mem_range]
  refine ⟨a / 4096, ⟨0, ?_, rfl⟩, ?_⟩
  · have : pageOf a = a / 4096 := rfl
    omega
  · rw [hb, if_neg Bool.false_ne_true]
    simp only [List.mem_filter, List.mem_map, List.mem_range, Bool.and_eq_true, decide_eq_true_eq]
    exact ⟨⟨a / 64 % 64, by omega, by omega⟩, by omega, by omega⟩

theorem State.cacheOwn_mem_readSegs {s : State} {segs : List (Nat × Nat)} {l : Nat} (h : l ∈ s.hostLines segs) :
    Output.cacheOwn l ∈ (s.readSegs segs).2.out := by
  have htaken : Output.cacheOwn l ∈ (s.cohere segs).out := by
    unfold State.cohere
    exact cacheOwn_mem_takeLines h _
  exact (State.meet_grows _ _).1 htaken

/-! ### An aligned 64-bit word of the window -/

theorem Part.dpa_aligned {p : Part} {w a : Nat} (h : p.dpa w = some a) (hw : w % 8 = 0) : a % 8 = 0 := by
  unfold Part.dpa at h
  obtain ⟨x, -, rfl⟩ := Option.map_eq_some_iff.1 h
  omega

/-- An aligned word does not cross a region. -/
theorem winSegs_word {p : Part} {w a : Nat} (h : p.dpa w = some a) (hw : w % 8 = 0) (k : Nat) :
    winSegs p (k + 2) w 8 = [(a, 8)] := by
  have hmin : min 8 (2 ^ 28 - w % 2 ^ 28) = 8 := Nat.min_eq_left (by omega)
  simp only [winSegs, hmin, h, Nat.sub_self, if_true, OfNat.ofNat_ne_zero, if_false]

theorem Part.segs_word {p : Part} {w a : Nat} (h : p.dpa w = some a) (hw : w % 8 = 0) : p.segs w 8 = [(a, 8)] :=
  winSegs_word h hw 2047

/-- A store of eight bytes at a multiple of 8 covers whole check words in either kind of region (R259, R260). -/
theorem Mem.store_word (m : Mem) (g : Bool) {a : Nat} (ha : a % 8 = 0) {bs : List Byte} (hb : bs.length = 8) :
    (m.store g a bs).1 = m.replace a bs := by
  have hcw : a % checkWord g = 0 ∧ bs.length / checkWord g * checkWord g = 8 := by
    cases g
    · exact ⟨by simp only [checkWord, Bool.false_eq_true, if_false]; omega, by simp [checkWord, hb]⟩
    · exact ⟨by simp only [checkWord, if_true]; omega, by simp [checkWord, hb]⟩
  obtain ⟨hmod, hlen⟩ := hcw
  simp only [Mem.store, hmod, if_true, List.take_zero, List.drop_zero, hlen, Nat.add_zero]
  have hdrop : bs.drop 8 = [] := List.drop_eq_nil_of_le (by omega)
  have htake : bs.take 8 = bs := List.take_of_length_le (by omega)
  rw [hdrop, htake]
  simp [Mem.merge]

theorem Mem.byte_replace {m : Mem} (h : m.wf = true) (a : Nat) {bs : List Byte} (hb : bs ≠ []) (x : Nat) :
    (m.replace a bs).byte x = if a ≤ x ∧ x < a + bs.length then some (bs.getD (x - a) 0) else m.byte x := by
  rw [← Mem.byte_put h, Mem.replace, if_neg (by simpa using hb)]
  rfl

theorem length_bytesOfNat (k x : Nat) : (bytesOfNat k x).length = k := by
  induction k generalizing x with
  | zero => rfl
  | succ k ih => simp [bytesOfNat, ih]

theorem getD_bytesOfNat {k i : Nat} (hi : i < k) (x : Nat) : (bytesOfNat k x).getD i 0 = BitVec.ofNat 8 (x / 256 ^ i) := by
  induction k generalizing i x with
  | zero => omega
  | succ k ih =>
    cases i with
    | zero => simp [bytesOfNat]
    | succ i =>
      rw [bytesOfNat, List.getD_cons_succ, ih (by omega), Nat.div_div_eq_div_mul, Nat.pow_succ, Nat.mul_comm]

/-- Byte `k` of a 64-bit word as it is written. -/
theorem getD_bytesOfNat_word {k : Nat} (hk : k < 8) (x : DWord) : (bytesOfNat 8 x.toNat).getD k 0 = field x (8 * k) 8 := by
  rw [getD_bytesOfNat hk]
  apply BitVec.eq_of_toNat_eq
  rw [BitVec.toNat_ofNat, BitVec.extractLsb'_toNat, Nat.shiftRight_eq_div_pow, Nat.pow_mul]

end Sys2Proof.Machine
end

section
/-! FLAG_SET and FLAG_WAIT (R93 to R97): the statement on flag words. -/

namespace Sys2Proof.Machine

/-! ### Descriptors through changes that do not touch them -/

theorem State.vf_of_vfs {s t : State} (h : t.vfs = s.vfs) (n : Nat) : t.vf n = s.vf n := by rw [State.vf, State.vf, h]

theorem State.part_of_parts {s t : State} (h : t.parts = s.parts) (n : Nat) : t.part n = s.part n := by
  rw [State.part, State.part, h]

theorem StackOnly.vfs {s t : State} (h : StackOnly s t) : t.vfs = s.vfs := by
  obtain ⟨m, x, l, e, i, o, d, b, rfl⟩ := h
  rfl

theorem StackOnly.parts {s t : State} (h : StackOnly s t) : t.parts = s.parts := by
  obtain ⟨m, x, l, e, i, o, d, b, rfl⟩ := h
  rfl

theorem EvcOnly.parts {s t : State} (h : EvcOnly s t) : t.parts = s.parts := h.logOnly.parts

/-- The descriptor that a ring starts is one that it holds. -/
theorem Starts.held {s : State} {n r : Nat} {d : Desc} (h : Starts s n r d) : Held s n r d := by
  obtain ⟨hstart, hfind, horphan, hfence, hdiscard⟩ := h
  have hroom := State.room_of_startable hstart
  exact ⟨hfind, horphan, ⟨Ring.used_of_room hroom, .inr hroom⟩, hfence, hdiscard⟩

theorem State.noFence_congr {s t : State} {n : Nat} (hv : t.vf n = s.vf n) (h : s.noFence n) : t.noFence n := by
  unfold State.noFence
  rw [hv]
  exact h

theorem Held.congr {s t : State} {n r : Nat} {d : Desc} (hv : t.vfs = s.vfs) (hp : t.parts = s.parts) (h : Held s n r d) :
    Held t n r d := by
  obtain ⟨hfind, horphan, htakes, hfence, hdiscard⟩ := h
  refine ⟨?_, horphan, ?_, State.noFence_congr (State.vf_of_vfs hv n) hfence, ?_⟩
  · rwa [State.ring_of_vfs hv]
  · rwa [State.ring_of_vfs hv]
  · rwa [State.part_of_parts hp]

/-- A change of the ring that leaves its descriptors and its room. -/
theorem Held.modRing {s : State} {n r : Nat} {d : Desc} {f : Ring → Ring} (hd : ∀ g, (f g).descs = g.descs)
    (ht : ∀ g : Ring, g.takes → (f g).takes) (h : Held s n r d) : Held (s.modRing n r f) n r d := by
  obtain ⟨hfind, horphan, htakes, hfence, hdiscard⟩ := h
  refine ⟨?_, horphan, ?_, State.noFence_modRing hfence r f fun g x hx _ _ _ => hd g ▸ hx, hdiscard⟩
  · rw [State.ring_modRing_same, Ring.find, hd]
    exact hfind
  · rw [State.ring_modRing_same]
    exact ht _ htakes

/-- A descriptor fails: the record is written, and the ring owes its number with the status (R101, R511). -/
theorem Held.failDesc {s : State} {n r : Nat} {d : Desc} (h : Held s n r d) (i : ErrInfo) (e : Ending) :
    s.Leaves (s.failDesc n r d i e) ∧
      (s.failDesc n r d i e).err = s.recorded { i with part := n, tag := descTag d.bits, ring := r } ∧
      Ended s (s.failDesc n r d i e) n r d { e with errSeq := s.err.nextSeq } := by
  generalize hj : ({ i with part := n, tag := descTag d.bits, ring := r } : ErrInfo) = j
  have hlog := s.logError_logOnly j
  have hf : s.failDesc n r d i e = (s.logError j).2.complete n r d.id { e with errSeq := s.err.nextSeq } := by
    rw [State.failDesc, hj]
    rfl
  obtain ⟨hend, honly⟩ := (h.congr hlog.vfs hlog.parts).complete { e with errSeq := s.err.nextSeq }
  rw [hf]
  refine ⟨hlog.leaves.trans honly.leaves, honly.err.trans (s.logError_err j), ?_⟩
  rw [Ended, hend, State.ring_of_vfs hlog.vfs]

/-! ### Where a flag word lies (R57, R93) -/

section Place
variable {s : State} {n addr : Nat}

theorem State.flagPlace_misaligned (h : addr % 8 ≠ 0) (host : Bool) : s.flagPlace n addr host = .inr statusBadAddress :=
  if_pos h

theorem State.flagPlace_host (h : addr % 8 = 0) : s.flagPlace n addr true = .inl (.host (BitVec.ofNat 64 addr)) := by
  simp [State.flagPlace, h]

theorem State.flagPlace_outside (h : addr % 8 = 0) (hw : (s.part n).inWindow addr 8 = false) :
    s.flagPlace n addr false = .inr statusBadAddress := by simp [State.flagPlace, h, hw]

theorem State.flagPlace_deviceBias (h : addr % 8 = 0) (hw : (s.part n).inWindow addr 8 = true) {a : Nat}
    (ha : (s.part n).dpa addr = some a) (hb : s.mem.devBias (a / 4096) = true) :
    s.flagPlace n addr false = .inr statusBadBias := by simp [State.flagPlace, h, hw, ha, pageOf, hb]

theorem State.flagPlace_window (h : addr % 8 = 0) (hw : (s.part n).inWindow addr 8 = true) {a : Nat}
    (ha : (s.part n).dpa addr = some a) (hb : s.mem.devBias (a / 4096) = false) :
    s.flagPlace n addr false = .inl (.window addr) := by simp [State.flagPlace, h, hw, ha, pageOf, hb]

end Place

/-! ### FLAG_SET -/

/-- The word that FLAG_SET writes over an old one (R94). -/
def Desc.flagWord (d : Desc) (old : DWord) : DWord :=
  flagSetValue old (BitVec.ofNat 64 (dfield d.bits 0x10 8)) (BitVec.ofNat 64 (dfield d.bits 0x18 8))

section Effects
variable {s : State} {n r : Nat} {d : Desc}

theorem State.flagSet_refused {st : Nat} (h : s.flagPlace n (dfield d.bits 8 8) (d.bits.getLsbD 0x100) = .inr st)
    (old : Option DWord) (b : Bool) : s.flagSet n r d old b = s.complete n r d.id { status := st } := by
  simp only [State.flagSet, h]

/-- A word of the window that cannot be read fails the descriptor. -/
theorem State.flagSet_unread {w : Nat} {f : ReadFail}
    (h : s.flagPlace n (dfield d.bits 8 8) (d.bits.getLsbD 0x100) = .inl (.window w))
    (hf : (s.winRead n w 8).1.fail = some f) (old : Option DWord) (b : Bool) :
    s.flagSet n r d old b =
      (s.winRead n w 8).2.failDesc n r d (readInfo n 16 0 w f 0 r 1) { status := statusPoisonRead } := by
  simp only [State.flagSet, h, State.descRead, hf]

theorem State.flagSet_window {w : Nat} (h : s.flagPlace n (dfield d.bits 8 8) (d.bits.getLsbD 0x100) = .inl (.window w))
    (hf : (s.winRead n w 8).1.fail = none) (old : Option DWord) (b : Bool) :
    s.flagSet n r d old b =
      (let v := natOfBytes (s.winRead n w 8).1.bytes
       let x := d.flagWord (BitVec.ofNat 64 v)
       (((s.winRead n w 8).2.putFlag n w x).complete n r d.id { result := v }).wakeWaits n (.window w) x) := by
  simp only [State.flagSet, h, State.descRead, hf, Desc.flagWord]

variable {a : DWord} (h : s.flagPlace n (dfield d.bits 8 8) (d.bits.getLsbD 0x100) = .inl (.host a))
include h

theorem State.flagSet_host_none (b : Bool) : s.flagSet n r d none b = s.flagReadFails n r d a := by simp only [State.flagSet, h]

theorem State.flagSet_host_written (old : DWord) :
    s.flagSet n r d (some old) true =
      ((((s.modRing n r fun g => { g with flagTries := 0 }).hostPut (n + 1) a
        (bytesOfNat 8 (d.flagWord old).toNat)).complete n r d.id { result := old.toNat }).wakeWaits n (.host a)
          (d.flagWord old)) := by
  simp only [State.flagSet, h, Desc.flagWord, if_true]

theorem State.flagSet_host_lost (old : DWord) :
    s.flagSet n r d (some old) false =
      ((s.modRing n r fun g => { g with flagTries := 0 }).hostAsk (n + 1) a).failDesc n r d (hostFlagInfo 0x0202 a)
        { status := statusPoisonRead } := by
  simp only [State.flagSet, h, Bool.false_eq_true, if_false]

end Effects

/-! ### Waits that a FLAG_SET ends (R97) -/

theorem State.activeWait_eq_none {s : State} {n r : Nat} :
    s.activeWait n r = none ↔ ∀ d ∈ (s.ring n r).descs, ∀ last dl, d.state = .flagWait last dl → d.orphan = true := by
  rw [State.activeWait, List.findSome?_eq_none_iff]
  refine forall₂_congr fun d _ => ?_
  cases hd : d.state <;> simp

/-- With no wait in the device a new word wakes nothing. -/
theorem State.wakeWaits_none {s : State} (h : ∀ m k, m < 16 → k < 8 → s.activeWait m k = none) (n : Nat) (p : FlagPlace)
    (v : DWord) : s.wakeWaits n p v = s := by
  have stays {α : Type} (f : α → State → State) (xs : List α) (hf : ∀ x ∈ xs, f x s = s) : forAll xs f s = s := by
    induction xs with
    | nil => rfl
    | cons x xs ih =>
      rw [forAll, List.foldl_cons, hf x List.mem_cons_self]
      exact ih fun y hy => hf y (List.mem_cons_of_mem x hy)
  refine stays _ _ fun m hm => stays _ _ fun k hk => ?_
  rw [h m k (List.mem_range.1 (List.mem_of_mem_filter hm)) (List.mem_range.1 hk)]

/-! ### A completion and the other rings -/

theorem State.vf_modRing_ne (s : State) {m n : Nat} (h : m ≠ n) (r : Nat) (f : Ring → Ring) : (s.modRing n r f).vf m = s.vf m := by
  rw [State.modRing, State.vf_modVf, if_neg h]

theorem State.owe_eq (s : State) (n r : Nat) (o : Owed) :
    s.owe n r o = s ∨ s.owe n r o = s.modRing n r fun g => { g with owed := g.owed ++ [o] } := by
  unfold State.owe
  dsimp only
  split
  · exact .inl rfl
  · exact .inr rfl

/-- The record of a descriptor's end may be owed or not; the descriptors stay. -/
theorem State.owe_spec (s : State) (n r : Nat) (o : Owed) :
    (∀ m, m ≠ n → (s.owe n r o).vf m = s.vf m) ∧ (s.noFence n → (s.owe n r o).noFence n) ∧
      (∀ q, ((s.owe n r o).ring n q).descs = (s.ring n q).descs) ∧ ∀ q, q ≠ r → (s.owe n r o).ring n q = s.ring n q := by
  rcases s.owe_eq n r o with h | h <;> rw [h]
  · exact ⟨fun _ _ => rfl, id, fun _ => rfl, fun _ _ => rfl⟩
  · refine ⟨fun m hm => s.vf_modRing_ne hm r _, fun hn => State.noFence_modRing hn r _ fun _ _ hx _ _ _ => hx, fun q => ?_,
      fun q hq => (s.modRing_onlyRing n r _).2.2 q hq⟩
    rw [State.ring_modRing]
    split <;> simp_all

end Sys2Proof.Machine
end

section
/-! What a completion leaves of the other rings, and the waits that a new flag word ends (R97). -/

namespace Sys2Proof.Machine

/-! ### Completions -/

/-- A descriptor's end is a change of its ring, after which no FENCE covers it. -/
theorem State.endDesc_eq (s : State) {n r id : Nat} {d : Desc} (h : (s.ring n r).find id = some d) (e : Ending) :
    ∃ s0, (s0 = s ∨ s0 = s.owe n r (endRecord d e)) ∧ (s.endDesc n r id e).vfs =
      ((s0.modRing n r fun g => { g with descs := g.descs.filter fun x => x.id != id }).modVf n
        fun v => v.uncover (r, id)).vfs := by
  refine ⟨if d.orphan ∨ (descQuiet d.bits ∧ e.status = statusOk) then s else s.owe n r (endRecord d e), ?_, ?_⟩
  · split
    · exact .inl rfl
    · exact .inr rfl
  · simp only [State.endDesc, h]
    rfl

/-- A descriptor's end changes nothing of another VF. -/
theorem State.endDesc_vf_ne (s : State) {m n : Nat} (hm : m ≠ n) (r id : Nat) (e : Ending) :
    (s.endDesc n r id e).vf m = s.vf m := by
  cases h : (s.ring n r).find id with
  | none => simp only [State.endDesc, h]
  | some d =>
    obtain ⟨s0, hs0, hvfs⟩ := s.endDesc_eq h e
    rw [State.vf_of_vfs hvfs, State.vf_modVf, if_neg hm, State.vf_modRing_ne _ hm]
    rcases hs0 with rfl | rfl
    · rfl
    · exact (s.owe_spec n r _).1 m hm

theorem settleFences_vf_ne {m n : Nat} (hm : m ≠ n) (k : Nat) (s : State) : (settleFences n k s).vf m = s.vf m := by
  induction k generalizing s with
  | zero => rfl
  | succ k ih =>
    unfold settleFences
    dsimp only
    split
    · rfl
    · rw [ih]
      split
      · rw [State.vf_modRing_ne _ hm, State.vf_modRing_ne _ hm, State.endDesc_vf_ne _ hm]
      · rw [State.vf_modRing_ne _ hm, State.endDesc_vf_ne _ hm]

/-- A completion changes nothing of another VF. -/
theorem State.complete_vf_ne (s : State) {m n : Nat} (hm : m ≠ n) (r id : Nat) (e : Ending) :
    (s.complete n r id e).vf m = s.vf m := by
  rw [State.complete, settleFences_vf_ne hm, State.endDesc_vf_ne _ hm]

/-- Where no FENCE has started a completion changes no other ring, and its descriptor is gone. -/
theorem State.complete_noFence {s : State} {n : Nat} (hn : s.noFence n) (r id : Nat) (e : Ending) :
    (s.complete n r id e).noFence n ∧ (∀ q, q ≠ r → (s.complete n r id e).ring n q = s.ring n q) ∧
      ∀ x ∈ ((s.complete n r id e).ring n r).descs, x.id ≠ id := by
  suffices h : (s.endDesc n r id e).noFence n ∧ (∀ q, q ≠ r → (s.endDesc n r id e).ring n q = s.ring n q) ∧
      ∀ x ∈ ((s.endDesc n r id e).ring n r).descs, x.id ≠ id by
    have hc : s.complete n r id e = s.endDesc n r id e := settleFences_none n 16 _ (State.noFence_due h.1)
    rw [hc]
    exact h
  cases h : (s.ring n r).find id with
  | none =>
    have hs : s.endDesc n r id e = s := by simp only [State.endDesc, h]
    rw [hs]
    exact ⟨hn, fun _ _ => rfl, fun x hx => by simpa using List.find?_eq_none.1 h x hx⟩
  | some d =>
    obtain ⟨s0, hs0, hvfs⟩ := s.endDesc_eq h e
    have h0 : s0.noFence n ∧ ∀ q, q ≠ r → s0.ring n q = s.ring n q := by
      rcases hs0 with rfl | rfl
      · exact ⟨hn, fun _ _ => rfl⟩
      · obtain ⟨-, hfence, -, hrings⟩ := s.owe_spec n r (endRecord d e)
        exact ⟨hfence hn, hrings⟩
    generalize hs1 : (s0.modRing n r fun g => { g with descs := g.descs.filter fun x => x.id != id }) = s1 at hvfs
    have h1 : s1.noFence n := by
      rw [← hs1]
      exact State.noFence_modRing h0.1 r _ fun g x hx _ _ _ => List.mem_of_mem_filter hx
    have hvf : (s.endDesc n r id e).vf n = s1.vf n := by
      rw [State.vf_of_vfs hvfs, State.vf_modVf_same, Vf.uncover_id _ h1]
    refine ⟨State.noFence_congr hvf h1, fun q hq => ?_, fun x hx => ?_⟩
    · rw [State.ring_congr hvf, ← hs1, (s0.modRing_onlyRing n r _).2.2 q hq, h0.2 q hq]
    · rw [State.ring_congr hvf, ← hs1, State.ring_modRing_same] at hx
      simpa using (List.mem_filter.1 hx).2

/-! ### FLAG_WAIT observes its word -/

/-- The condition of a FLAG_WAIT (R96). -/
def Desc.flagHolds (d : Desc) (w : DWord) : Bool :=
  flagWaitHolds w (BitVec.ofNat 64 (dfield d.bits 0x10 8)) (BitVec.ofNat 64 (dfield d.bits 0x18 8)) (d.bits.getLsbD 0x121)

theorem Desc.flagHolds_iff (d : Desc) (w : DWord) : d.flagHolds w = true ↔
    if d.bits.getLsbD 0x121 then w &&& BitVec.ofNat 64 (dfield d.bits 0x10 8) ≠ BitVec.ofNat 64 (dfield d.bits 0x18 8)
    else w &&& BitVec.ofNat 64 (dfield d.bits 0x10 8) = BitVec.ofNat 64 (dfield d.bits 0x18 8) := by
  unfold Desc.flagHolds flagWaitHolds
  cases d.bits.getLsbD 0x121 <;> simp

/-- The ring once a FLAG_WAIT of it has seen its word. -/
def Ring.flagSeen (g : Ring) : Ring := { g with flagTries := 0, flagStart := none }

section Observed
variable (s : State) (n r : Nat) (d : Desc) (w : DWord) (dl : Option Nat)

theorem State.flagObserved_holds (h : d.flagHolds w = true) :
    s.flagObserved n r d w dl = (s.modRing n r Ring.flagSeen).complete n r d.id { result := w.toNat } := if_pos h

theorem State.flagObserved_waits (h : d.flagHolds w = false) :
    s.flagObserved n r d w dl = (s.modRing n r Ring.flagSeen).setDesc n r d.id (.flagWait w dl) :=
  if_neg (by rw [← Desc.flagHolds, h]; exact Bool.false_ne_true)

theorem Held.flagSeen {s : State} {n r : Nat} {d : Desc} (h : Held s n r d) : Held (s.modRing n r Ring.flagSeen) n r d :=
  h.modRing (fun _ => rfl) fun _ => id

/-- A wait whose condition holds ends with its word. -/
theorem Held.flagObserved_holds {s : State} {n r : Nat} {d : Desc} (h : Held s n r d) {w : DWord}
    (hw : d.flagHolds w = true) (dl : Option Nat) :
    OnlyRing n r s (s.flagObserved n r d w dl) ∧
      Ended (s.modRing n r Ring.flagSeen) (s.flagObserved n r d w dl) n r d { result := w.toNat } := by
  obtain ⟨hend, honly⟩ := h.flagSeen.complete { result := w.toNat }
  rw [State.flagObserved_holds s n r d w dl hw]
  exact ⟨(s.modRing_onlyRing n r _).trans honly, hend⟩

/-- Else the descriptor waits, and keeps the word. -/
theorem State.flagObserved_waits_spec {s : State} {n r : Nat} {d : Desc} {w : DWord} (hw : d.flagHolds w = false)
    (dl : Option Nat) :
    OnlyRing n r s (s.flagObserved n r d w dl) ∧
      (s.flagObserved n r d w dl).ring n r = ((s.modRing n r Ring.flagSeen).ring n r).waits d (.flagWait w dl) := by
  rw [State.flagObserved_waits s n r d w dl hw, State.setDesc]
  refine ⟨(s.modRing_onlyRing n r _).trans (State.modRing_onlyRing _ n r _), ?_⟩
  rw [State.ring_modRing_same, Ring.waits]
  simp

end Observed

/-! ### The waits that a new word ends (R97) -/

/-- Nothing changes but the rings, and where no FENCE of VF `n + 1` has started, none starts and its ring `k` stays. -/
def KeepsRing (n k : Nat) (s t : State) : Prop := RingOnly s t ∧ (s.noFence n → t.noFence n ∧ t.ring n k = s.ring n k)

theorem KeepsRing.refl (n k : Nat) (s : State) : KeepsRing n k s s := ⟨.refl s, fun h => ⟨h, rfl⟩⟩

theorem KeepsRing.trans {n k : Nat} {s t u : State} (h : KeepsRing n k s t) (g : KeepsRing n k t u) : KeepsRing n k s u := by
  refine ⟨h.1.trans g.1, fun hn => ?_⟩
  obtain ⟨ht, hring⟩ := h.2 hn
  obtain ⟨hu, hring'⟩ := g.2 ht
  exact ⟨hu, hring'.trans hring⟩

theorem forAll_keepsRing {α : Type} {n k : Nat} {f : α → State → State} {xs : List α}
    (h : ∀ x ∈ xs, ∀ s, KeepsRing n k s (f x s)) (s : State) : KeepsRing n k s (forAll xs f s) := by
  induction xs generalizing s with
  | nil => exact .refl n k s
  | cons x xs ih =>
    exact (h x List.mem_cons_self s).trans (ih (fun y hy => h y (List.mem_cons_of_mem x hy)) _)

theorem KeepsRing.of_vf {n : Nat} {s t : State} (hr : RingOnly s t) (h : t.vf n = s.vf n) (k : Nat) : KeepsRing n k s t :=
  ⟨hr, fun hn => ⟨State.noFence_congr h hn, State.ring_congr h k⟩⟩

theorem State.flagObserved_ringOnly (s : State) (n r : Nat) (d : Desc) (w : DWord) (dl : Option Nat) :
    RingOnly s (s.flagObserved n r d w dl) := by
  cases h : d.flagHolds w with
  | true =>
    rw [State.flagObserved_holds s n r d w dl h]
    exact (s.modRing_ringOnly n r _).trans (State.complete_ringOnly _ _ _ _ _)
  | false =>
    rw [State.flagObserved_waits s n r d w dl h]
    exact (s.modRing_ringOnly n r _).trans (State.setDesc_ringOnly _ _ _ _ _)

/-- A wait of one ring that evaluates its condition leaves every other ring. -/
theorem State.flagObserved_keepsRing {n k m r : Nat} (hne : m ≠ n ∨ r ≠ k) (s : State) (d : Desc) (w : DWord)
    (dl : Option Nat) : KeepsRing n k s (s.flagObserved m r d w dl) := by
  by_cases hm : n = m
  · subst hm
    have hk : k ≠ r := fun h => hne.elim (· rfl) (· h.symm)
    refine ⟨s.flagObserved_ringOnly n r d w dl, fun hn => ?_⟩
    have hn1 : (s.modRing n r Ring.flagSeen).noFence n := State.noFence_modRing hn r _ fun _ _ hx _ _ _ => hx
    have hring : (s.modRing n r Ring.flagSeen).ring n k = s.ring n k := (s.modRing_onlyRing n r _).2.2 k hk
    cases h : d.flagHolds w with
    | true =>
      rw [State.flagObserved_holds s n r d w dl h]
      obtain ⟨hfence, hrings, -⟩ := State.complete_noFence hn1 r d.id { result := w.toNat }
      exact ⟨hfence, (hrings k hk).trans hring⟩
    | false =>
      rw [State.flagObserved_waits s n r d w dl h]
      refine ⟨State.noFence_modRing hn1 r _ fun g x hx c z hxs => ?_, ((State.modRing_onlyRing _ n r _).2.2 k hk).trans hring⟩
      obtain ⟨y, hy, rfl⟩ := List.mem_map.1 hx
      by_cases hid : y.id == d.id
      · simp [hid] at hxs
      · simpa [hid] using hy
  · refine .of_vf (s.flagObserved_ringOnly m r d w dl) ?_ k
    have hvf : (s.modRing m r Ring.flagSeen).vf n = s.vf n := s.vf_modRing_ne hm r _
    cases h : d.flagHolds w with
    | true => rw [State.flagObserved_holds s m r d w dl h, State.complete_vf_ne _ hm, hvf]
    | false => rw [State.flagObserved_waits s m r d w dl h, State.setDesc, State.vf_modRing_ne _ hm, hvf]

/-- One ring's share of `wakeWaits`. -/
def State.wakeRing (place : FlagPlace) (v : DWord) (m r : Nat) (s : State) : State :=
  match s.activeWait m r with
  | some (d, _, dl) => if s.flagPlace m (dfield d.bits 8 8) (d.bits.getLsbD 0x120) = .inl place then s.flagObserved m r d v dl else s
  | none => s

theorem State.wakeWaits_eq (s : State) (n : Nat) (place : FlagPlace) (v : DWord) :
    s.wakeWaits n place v = forAll ((List.range 16).filter fun m => s.samePlace n m place)
      (fun m => forAll (List.range 8) (State.wakeRing place v m)) s := rfl

theorem State.wakeRing_keepsRing {n k m r : Nat} (hne : m ≠ n ∨ r ≠ k) (place : FlagPlace) (v : DWord) (s : State) :
    KeepsRing n k s (s.wakeRing place v m r) := by
  unfold State.wakeRing
  split
  · split
    · exact s.flagObserved_keepsRing hne _ _ _
    · exact .refl n k s
  · exact .refl n k s

/-- A list read in order is what stands before one of its members, the member, and what stands after. -/
theorem forAll_split {α : Type} {xs : List α} {x : α} (hx : x ∈ xs) (hd : xs.Nodup) (f : α → State → State) :
    ∃ ys zs, (∀ s, forAll xs f s = forAll zs f (f x (forAll ys f s))) ∧ (∀ y ∈ ys, y ≠ x) ∧ ∀ z ∈ zs, z ≠ x := by
  obtain ⟨ys, zs, rfl⟩ := List.append_of_mem hx
  obtain ⟨-, hzs, hdis⟩ := List.nodup_append.1 hd
  refine ⟨ys, zs, fun s => by simp [forAll], fun y hy h => ?_, fun z hz h => ?_⟩
  · exact hdis y hy x List.mem_cons_self h
  · exact (List.nodup_cons.1 hzs).1 (h ▸ hz)

/-- A new word ends a wait of another ring of its function whose condition it meets. -/
theorem State.wakeWaits_ends {s : State} {n k : Nat} {e : Desc} {last v : DWord} {dl : Option Nat} {place : FlagPlace}
    (hn : s.noFence n) (hnlt : n < 16) (hk : k < 8) (hwait : s.activeWait n k = some (e, last, dl))
    (hplace : s.flagPlace n (dfield e.bits 8 8) (e.bits.getLsbD 0x120) = .inl place) (hholds : e.flagHolds v = true) :
    ∀ x ∈ ((s.wakeWaits n place v).ring n k).descs, x.id ≠ e.id := by
  have hmem : n ∈ (List.range 16).filter fun m => s.samePlace n m place := by simp [hnlt, State.samePlace]
  obtain ⟨ms, ms', hms, hmsne, hmsne'⟩ := forAll_split hmem (List.nodup_range.filter _)
    (fun m => forAll (List.range 8) (State.wakeRing place v m))
  obtain ⟨ks, ks', hks, hksne, hksne'⟩ := forAll_split (List.mem_range.2 hk) List.nodup_range (State.wakeRing place v n)
  have others {xs : List Nat} (hxs : ∀ m ∈ xs, m ≠ n) (u : State) :
      KeepsRing n k u (forAll xs (fun m => forAll (List.range 8) (State.wakeRing place v m)) u) :=
    forAll_keepsRing (fun m hm u => forAll_keepsRing (fun r _ u => State.wakeRing_keepsRing (.inl (hxs m hm)) place v u) u) u
  have rings {xs : List Nat} (hxs : ∀ r ∈ xs, r ≠ k) (u : State) :
      KeepsRing n k u (forAll xs (State.wakeRing place v n) u) :=
    forAll_keepsRing (fun r hr u => State.wakeRing_keepsRing (.inr (hxs r hr)) place v u) u
  rw [State.wakeWaits_eq, hms, hks]
  generalize hu : forAll ks _ (forAll ms _ s) = u
  have hbefore : KeepsRing n k s u := hu ▸ (others hmsne s).trans (rings hksne _)
  have hafter := (rings hksne' (u.wakeRing place v n k)).trans (others hmsne' _)
  generalize forAll ms' _ _ = t at hafter
  obtain ⟨hrun, hkept⟩ := hbefore
  obtain ⟨hufence, huring⟩ := hkept hn
  have huwait : u.activeWait n k = some (e, last, dl) := by
    rw [State.activeWait, huring]
    exact hwait
  have huplace : u.flagPlace n (dfield e.bits 8 8) (e.bits.getLsbD 0x120) = .inl place := by
    obtain ⟨_, _, _, rfl⟩ := hrun
    exact hplace
  have hwake : u.wakeRing place v n k = (u.modRing n k Ring.flagSeen).complete n k e.id { result := v.toNat } := by
    simp only [State.wakeRing, huwait, huplace, if_true, State.flagObserved_holds u n k e v dl hholds]
  obtain ⟨hfence, -, hgone⟩ := State.complete_noFence (State.noFence_modRing hufence k Ring.flagSeen fun _ _ hx _ _ _ => hx) k
    e.id { result := v.toNat }
  rw [hwake] at hafter
  rw [(hafter.2 hfence).2]
  exact hgone

theorem State.wakeWaits_ringOnly (s : State) (n : Nat) (place : FlagPlace) (v : DWord) :
    RingOnly s (s.wakeWaits n place v) := by
  have all {α : Type} {f : α → State → State} (hf : ∀ x s, RingOnly s (f x s)) (xs : List α) (s : State) :
      RingOnly s (forAll xs f s) := by
    induction xs generalizing s with
    | nil => exact .refl s
    | cons x xs ih => exact (hf x s).trans (ih _)
  rw [State.wakeWaits_eq]
  refine all (fun m s => all (fun r s => ?_) _ s) _ s
  unfold State.wakeRing
  split
  · split
    · exact s.flagObserved_ringOnly _ _ _ _ _
    · exact .refl s
  · exact .refl s

end Sys2Proof.Machine
end

section
/-! The statement on flag words (R93 to R97). -/

namespace Sys2Proof.Machine

/-! ### Rows that read the stacks or ask the host -/

section Rows
variable {s : State} {c : Instr} {errs : Errs} (hl : s.live)
include hl

/-- A row starts the descriptor of its ring. -/
theorem Row.starts {n r op : Nat} {d : Desc} {checks : Bits512 → List FieldCheck} {f : Desc → State → State} {u : State}
    (row : Row c s errs fun s => s.startDesc n r (· == op) checks f) (hs : Starts s n r d) (hop : descOpcode d.bits = op)
    (hclean : CleanDesc d checks) (hu : f d (s.told errs) = u) (hb : u.blocked = false) : Runs c s (s.after u) := by
  have hstart : (s.told errs).startDesc n r (· == op) checks f = u :=
    (State.startDesc_clean (s := s.told errs) hs.1 (by simpa using hop) hclean).trans hu
  have hr := row.runs hl (by simpa only [hstart] using hb)
  simpa only [hstart] using hr

/-- A command that meets a granule under re-read waits (R526). -/
theorem runs_blocked {f : State → State} (hc : exec c s = actOn errs (whenRunning f) s)
    (hb : (f (s.told errs)).blocked = true) : Runs c s s := by
  have hf : whenRunning f { s with errs := errs } = f (s.told errs) := whenRunning_on (s := s.told errs) hl.1 f
  rw [Runs, hc, actOn_next, hf, if_pos hb, (State.Leaves.refl s).after hl.2.1 hl.2.2]

/-- What a command was told of the stacks is over with it. -/
theorem State.after_out (o : List Output) : s.after { s.told errs with out := o } = { s with out := o } :=
  State.after_eq (t := { s with out := o }) rfl hl.2.1 hl.2.2.1 hl.2.2.2

end Rows

/-- The translation that a function with ATS asks for (R53). -/
def State.asks (s : State) (fn : Nat) (a : DWord) : List Output := if s.gen.ats.contains fn then [.translate fn a] else []

theorem State.hostAsk_eq (s : State) (fn : Nat) (a : DWord) : s.hostAsk fn a = { s with out := s.out ++ s.asks fn a } := by
  unfold State.hostAsk State.asks
  split
  · rfl
  · rw [List.append_nil]

/-- A write of host memory leaves at its address, or where ATS is enabled at the translated one. -/
theorem State.hostPut_eq (s : State) (fn : Nat) (a : DWord) (bs : List Byte) :
    ∃ a', (s.asks fn a = [] → a' = a) ∧
      s.hostPut fn a bs = { s with out := s.out ++ s.asks fn a ++ [.hostWrite fn a' bs] } := by
  unfold State.hostPut State.asks
  split
  · exact ⟨_, fun h => absurd h (List.cons_ne_nil _ _), rfl⟩
  · exact ⟨a, fun _ => rfl, by rw [List.append_nil]; rfl⟩

theorem State.after_hostAsk {s : State} {errs : Errs} (hl : s.live) (fn : Nat) (a : DWord) :
    s.after ((s.told errs).hostAsk fn a) = s.hostAsk fn a := by
  rw [State.hostAsk_eq, State.hostAsk_eq]
  exact State.after_out hl _

/-- A change of one ring is one when the command is over. -/
theorem OnlyRing.after_of {n r : Nat} {b u : State} (h : OnlyRing n r b u) (s : State) :
    OnlyRing n r (s.after b) (s.after u) := by
  obtain ⟨hu, hvf, hring⟩ := h
  refine ⟨?_, hvf, hring⟩
  calc s.after u
    _ = s.after { b with vfs := u.vfs, done := u.done, stamp := u.stamp } := by rw [← hu]
    _ = _ := rfl

theorem Ended.congr {s s' t : State} {n r : Nat} {d : Desc} {e e' : Ending} (h : Ended s t n r d e)
    (hs : s'.ring n r = s.ring n r) (hst : e'.status = e.status := by rfl) (hrec : endRecord d e' = endRecord d e := by rfl) :
    Ended s' t n r d e' := by
  rw [Ended, hs, hst, hrec]
  exact h

/-- A 64-bit result is what is kept of it. -/
theorem endRecord_result (d : Desc) (v : Nat) :
    endRecord d { result := (BitVec.ofNat 64 v).toNat } = endRecord d { result := v } := by
  simp only [endRecord, BitVec.ofNat_toNat, BitVec.setWidth_eq]

/-! ### FLAG_SET -/

theorem OnlyRing.activeWait_none {s t : State} {n r : Nat} {d : Desc} {e : Ending} (honly : OnlyRing n r s t)
    (hend : Ended s t n r d e) {m k : Nat} (h : s.activeWait m k = none) : t.activeWait m k = none := by
  obtain ⟨-, hvf, hring⟩ := honly
  rw [State.activeWait_eq_none] at h ⊢
  by_cases hmk : m = n ∧ k = r
  · obtain ⟨rfl, rfl⟩ := hmk
    rw [hend]
    exact fun x hx => h x (List.mem_of_mem_filter hx)
  · have hsame : t.ring m k = s.ring m k := by
      by_cases hm : m = n
      · subst hm
        exact hring k fun hk => hmk ⟨rfl, hk⟩
      · exact State.ring_congr (hvf m hm) k
    rw [hsame]
    exact h

section FlagSet
variable {s : State} {n r : Nat} {d : Desc} (h : Held s n r d)
include h

/-- A word of the window becomes (old & ~CLEAR) | SET, and no other byte changes after the read (R94). -/
theorem Held.flagSet_window {w a : Nat} (hm : s.memOk) (hw : w % 8 = 0) (ha : (s.part n).dpa w = some a)
    (hplace : s.flagPlace n (dfield d.bits 8 8) (d.bits.getLsbD 0x100) = .inl (.window w))
    (hfail : (s.winRead n w 8).1.fail = none) (hwaits : ∀ m k, m < 16 → k < 8 → s.activeWait m k = none)
    (old : Option DWord) (b : Bool) :
    ∃ m : Mem, m.wf = true ∧ OnlyRing n r { (s.winRead n w 8).2 with mem := m } (s.flagSet n r d old b) ∧
      Ended s (s.flagSet n r d old b) n r d { result := (BitVec.ofNat 64 (natOfBytes (s.winRead n w 8).1.bytes)).toNat } ∧
      (∀ k, k < 8 → m.byte (a + k) =
        some (field (d.flagWord (BitVec.ofNat 64 (natOfBytes (s.winRead n w 8).1.bytes))) (8 * k) 8)) ∧
      ∀ x, (∀ k, k < 8 → x ≠ a + k) → m.byte x = (s.winRead n w 8).2.mem.byte x := by
  have hstack := s.winRead_stackOnly n w 8
  have hwf : (s.winRead n w 8).2.mem.wf = true := (s.winRead_grows n w 8).2.1 hm
  rw [s.flagSet_window hplace hfail]
  dsimp only
  generalize natOfBytes (s.winRead n w 8).1.bytes = v
  generalize (s.winRead n w 8).2 = u at hstack hwf ⊢
  generalize hx : bytesOfNat 8 (d.flagWord (BitVec.ofNat 64 v)).toNat = bs
  have hlen : bs.length = 8 := hx ▸ length_bytesOfNat 8 _
  have hput : u.putFlag n w (d.flagWord (BitVec.ofNat 64 v)) = { u with mem := u.mem.replace a bs } := by
    rw [State.putFlag, State.part_of_parts hstack.parts, ha]
    dsimp only
    rw [hx, Mem.store_word u.mem _ (Part.dpa_aligned ha hw) hlen]
  rw [hput]
  have hheld : Held { u with mem := u.mem.replace a bs } n r d := h.congr hstack.vfs hstack.parts
  obtain ⟨hend, honly⟩ := hheld.complete { result := v }
  have hnone : ∀ m k, m < 16 → k < 8 →
      (({ u with mem := u.mem.replace a bs } : State).complete n r d.id { result := v }).activeWait m k = none := by
    intro m k hm hk
    refine honly.activeWait_none hend ?_
    have hring : ({ u with mem := u.mem.replace a bs } : State).ring m k = s.ring m k := State.ring_of_vfs hstack.vfs m k
    rw [State.activeWait, hring]
    exact hwaits m k hm hk
  rw [State.wakeWaits_none hnone]
  have hbyte := Mem.byte_replace hwf a (bs := bs) (fun he => by simp [he] at hlen)
  refine ⟨u.mem.replace a bs, Mem.replace_wf hwf a bs, honly,
    hend.congr (State.ring_of_vfs hstack.vfs n r).symm rfl (endRecord_result d v), fun k hk => ?_, fun x hx => ?_⟩
  · rw [hbyte, if_pos (by omega), Nat.add_sub_cancel_left, ← hx, getD_bytesOfNat_word hk]
  · rw [hbyte, if_neg]
    rintro ⟨hlo, hhi⟩
    exact hx (x - a) (by omega) (by omega)

/-- A host word: the new one leaves (R53, R94). -/
theorem Held.flagSet_host {a : DWord} (hplace : s.flagPlace n (dfield d.bits 8 8) (d.bits.getLsbD 0x100) = .inl (.host a))
    (hwaits : ∀ m k, m < 16 → k < 8 → s.activeWait m k = none) (old : DWord) :
    OnlyRing n r (s.hostPut (n + 1) a (bytesOfNat 8 (d.flagWord old).toNat)) (s.flagSet n r d (some old) true) ∧
      Ended (s.modRing n r fun g => { g with flagTries := 0 }) (s.flagSet n r d (some old) true) n r d
        { result := old.toNat } := by
  rw [State.flagSet_host_written hplace]
  generalize bytesOfNat 8 (d.flagWord old).toNat = bs
  have htries : Held (s.modRing n r fun g => { g with flagTries := 0 }) n r d := h.modRing (fun _ => rfl) fun _ => id
  have honly0 : OnlyRing n r s (s.modRing n r fun g => { g with flagTries := 0 }) := s.modRing_onlyRing n r _
  have hdescs : ∀ m k, ((s.modRing n r fun g => { g with flagTries := 0 }).ring m k).descs = (s.ring m k).descs := by
    intro m k
    rw [State.ring_modRing]
    split
    · next hmk => rw [hmk.1, hmk.2]
    · rfl
  generalize (s.modRing n r fun g => { g with flagTries := 0 }) = u at htries honly0 hdescs ⊢
  have hput := u.hostPut_evcOnly (n + 1) a bs
  have honlyPut : OnlyRing n r (s.hostPut (n + 1) a bs) (u.hostPut (n + 1) a bs) := by
    obtain ⟨hu, hvf, hring⟩ := honly0
    unfold State.hostPut
    have hgen : u.gen = s.gen := by rw [hu]
    have hout : u.out = s.out := by rw [hu]
    rw [hgen, hout]
    split
    · exact ⟨by rw [hu]; rfl, hvf, hring⟩
    · exact ⟨by rw [hu]; rfl, hvf, hring⟩
  obtain ⟨hend, honly⟩ := (htries.congr hput.vfs hput.parts).complete { result := old.toNat }
  rw [State.wakeWaits_none]
  · exact ⟨honlyPut.trans honly, hend.congr (State.ring_of_vfs hput.vfs n r).symm⟩
  · intro m k hm hk
    refine honly.activeWait_none hend ?_
    rw [State.activeWait_eq_none, State.ring_of_vfs hput.vfs, hdescs, ← State.activeWait_eq_none]
    exact hwaits m k hm hk

end FlagSet

/-- A host word that is replaced ends the wait of another ring whose condition it meets (R97). -/
theorem Held.flagSet_wakes {s : State} {n r k : Nat} {d e : Desc} {a old last : DWord} {dl : Option Nat} (h : Held s n r d)
    (hplace : s.flagPlace n (dfield d.bits 8 8) (d.bits.getLsbD 0x100) = .inl (.host a)) (hn : n < 16) (hk : k < 8) (hkr : k ≠ r)
    (hwait : s.activeWait n k = some (e, last, dl)) (ha : dfield e.bits 8 8 % 8 = 0 ∧ BitVec.ofNat 64 (dfield e.bits 8 8) = a)
    (hhost : e.bits.getLsbD 0x120 = true) (hholds : e.flagHolds (d.flagWord old) = true) :
    (s.flagSet n r d (some old) true).blocked = s.blocked ∧
      ∀ x ∈ ((s.flagSet n r d (some old) true).ring n k).descs, x.id ≠ e.id := by
  rw [State.flagSet_host_written hplace]
  have honly := s.modRing_onlyRing n r fun g => { g with flagTries := 0 }
  have hfence : (s.modRing n r fun g => { g with flagTries := 0 }).noFence n :=
    State.noFence_modRing h.2.2.2.1 r _ fun _ _ hx _ _ _ => hx
  generalize (s.modRing n r fun g => { g with flagTries := 0 }) = u at honly hfence ⊢
  have hput := u.hostPut_evcOnly (n + 1) a (bytesOfNat 8 (d.flagWord old).toNat)
  generalize u.hostPut (n + 1) a (bytesOfNat 8 (d.flagWord old).toNat) = v at hput ⊢
  obtain ⟨hfence', hrings, -⟩ := State.complete_noFence (State.noFence_congr (State.vf_of_vfs hput.vfs n) hfence) r d.id
    { result := old.toNat }
  have hcomplete := v.complete_ringOnly n r d.id { result := old.toNat }
  generalize v.complete n r d.id { result := old.toNat } = t at hfence' hrings hcomplete ⊢
  have hring : t.ring n k = s.ring n k := (hrings k hkr).trans ((State.ring_of_vfs hput.vfs n k).trans (honly.2.2 k hkr))
  have hwait' : t.activeWait n k = some (e, last, dl) := by
    rw [State.activeWait, hring]
    exact hwait
  refine ⟨?_, State.wakeWaits_ends hfence' hn hk hwait' ?_ hholds⟩
  · exact (((honly.leaves.trans hput.leaves).trans hcomplete.leaves).trans (t.wakeWaits_ringOnly _ _ _).leaves).2.2.2
  · rw [hhost, State.flagPlace_host ha.1, ha.2]

/-- A read that has to wait keeps the descriptor waiting. -/
theorem State.flagSet_blocked {s : State} {n r w : Nat} {d : Desc}
    (hplace : s.flagPlace n (dfield d.bits 8 8) (d.bits.getLsbD 0x100) = .inl (.window w))
    (hb : (s.winRead n w 8).2.blocked = true) (old : Option DWord) (b : Bool) :
    (s.flagSet n r d old b).blocked = true := by
  cases hf : (s.winRead n w 8).1.fail with
  | some f =>
    rw [State.flagSet_unread hplace hf]
    exact ((State.logError_logOnly _ _).leaves.trans (State.complete_ringOnly _ _ _ _ _).leaves).2.2.2.trans hb
  | none =>
    rw [State.flagSet_window hplace hf]
    refine ((State.complete_ringOnly _ _ _ _ _).trans (State.wakeWaits_ringOnly _ _ _ _)).leaves.2.2.2.trans ?_
    unfold State.putFlag
    split
    · exact hb
    · exact hb

/-! ### A host word that cannot be read or written (R506, R511) -/

theorem EvcOnly.err {s t : State} (h : EvcOnly s t) : t.err = s.err := by
  obtain ⟨e, m, o, rfl⟩ := h
  rfl

theorem EvcOnly.tmb {s t : State} (h : EvcOnly s t) : t.tmb = s.tmb := by
  obtain ⟨e, m, o, rfl⟩ := h
  rfl

/-- The address is asked for, and the descriptor fails. -/
theorem Held.hostAsk_failDesc {s : State} {n r : Nat} {d : Desc} (h : Held s n r d) (fn : Nat) (a : DWord) (i : ErrInfo)
    (e : Ending) :
    s.Leaves ((s.hostAsk fn a).failDesc n r d i e) ∧
      ((s.hostAsk fn a).failDesc n r d i e).err = s.recorded { i with part := n, tag := descTag d.bits, ring := r } ∧
      Ended s ((s.hostAsk fn a).failDesc n r d i e) n r d { e with errSeq := s.err.nextSeq } := by
  have hask := s.hostAsk_evcOnly fn a
  obtain ⟨hleaves, herr, hend⟩ := (h.congr hask.vfs hask.parts).failDesc i e
  refine ⟨hask.leaves.trans hleaves, herr.trans (State.recorded_congr hask.err hask.tmb _), ?_⟩
  rw [hask.err] at hend
  exact hend.congr (s.hostAsk_ring fn a n r).symm

theorem State.hostAsk_modRing (s : State) (n r fn : Nat) (a : DWord) (f : Ring → Ring) :
    (s.hostAsk fn a).modRing n r f = (s.modRing n r f).hostAsk fn a := by
  unfold State.hostAsk
  have hgen : (s.modRing n r f).gen = s.gen := rfl
  rw [hgen]
  split <;> rfl

section HostWord
variable {s : State} {n r : Nat} {d : Desc}

/-- A host word that is not written fails the descriptor. -/
theorem Held.flagSet_lost (h : Held s n r d) {a : DWord}
    (hplace : s.flagPlace n (dfield d.bits 8 8) (d.bits.getLsbD 0x100) = .inl (.host a)) (old : DWord) :
    s.Leaves (s.flagSet n r d (some old) false) ∧
      (s.flagSet n r d (some old) false).err =
        s.recorded { hostFlagInfo 0x0202 a with part := n, tag := descTag d.bits, ring := r } ∧
      Ended (s.modRing n r fun g => { g with flagTries := 0 }) (s.flagSet n r d (some old) false) n r d
        { status := statusPoisonRead, errSeq := s.err.nextSeq } := by
  rw [State.flagSet_host_lost hplace]
  have htries : Held (s.modRing n r fun g => { g with flagTries := 0 }) n r d := h.modRing (fun _ => rfl) fun _ => id
  exact htries.hostAsk_failDesc (n + 1) a (hostFlagInfo 0x0202 a) { status := statusPoisonRead }

/-- A host read that fails is made again. -/
theorem State.flagReadFails_again (h : (s.ring n r).flagTries + 1 < 3) (a : DWord) :
    OnlyRing n r (s.hostAsk (n + 1) a) (s.flagReadFails n r d a) ∧
      ((s.flagReadFails n r d a).ring n r).flagTries = (s.ring n r).flagTries + 1 ∧
      ((s.flagReadFails n r d a).ring n r).descs = (s.ring n r).descs := by
  have hf : s.flagReadFails n r d a = (s.hostAsk (n + 1) a).modRing n r fun g =>
      { g with flagTries := g.flagTries + 1, flagStart := some (g.flagStart.getD (s.hostAsk (n + 1) a).tmb.beat) } := by
    rw [State.flagReadFails]
    exact if_neg (by rw [State.hostAsk_ring]; unfold hostBudget; omega)
  rw [hf]
  refine ⟨State.modRing_onlyRing _ n r _, ?_, ?_⟩
  · rw [State.ring_modRing_same, State.hostAsk_ring]
  · rw [State.ring_modRing_same, State.hostAsk_ring]

/-- The third failed read fails the descriptor. -/
theorem Held.flagReadFails_last (h : Held s n r d) (hn : 3 ≤ (s.ring n r).flagTries + 1) (a : DWord) :
    s.Leaves (s.flagReadFails n r d a) ∧
      (s.flagReadFails n r d a).err =
        s.recorded { hostFlagInfo 0x0201 a with part := n, tag := descTag d.bits, ring := r } ∧
      ∀ x ∈ ((s.flagReadFails n r d a).ring n r).descs, x.id ≠ d.id := by
  have hf : s.flagReadFails n r d a = ((s.modRing n r Ring.flagSeen).hostAsk (n + 1) a).failDesc n r d
      (hostFlagInfo 0x0201 a) { status := statusPoisonRead } := by
    rw [State.flagReadFails, ← State.hostAsk_modRing]
    exact if_pos (by rw [State.hostAsk_ring]; exact hn)
  obtain ⟨hleaves, herr, hend⟩ :=
    h.flagSeen.hostAsk_failDesc (n + 1) a (hostFlagInfo 0x0201 a) { status := statusPoisonRead }
  rw [hf]
  refine ⟨hleaves, herr, fun x hx => ?_⟩
  rw [hend] at hx
  simpa using (List.mem_filter.1 hx).2

/-! ### FLAG_WAIT -/

theorem State.flagWait_refused {st : Nat} (h : s.flagPlace n (dfield d.bits 8 8) (d.bits.getLsbD 0x120) = .inr st)
    (word : Option DWord) (dl : Option Nat) : s.flagWait n r d word dl = s.complete n r d.id { status := st } := by
  simp only [State.flagWait, h]

theorem State.flagWait_window {w : Nat} (h : s.flagPlace n (dfield d.bits 8 8) (d.bits.getLsbD 0x120) = .inl (.window w))
    (hf : (s.winRead n w 8).1.fail = none) (word : Option DWord) (dl : Option Nat) :
    s.flagWait n r d word dl =
      (s.winRead n w 8).2.flagObserved n r d (BitVec.ofNat 64 (natOfBytes (s.winRead n w 8).1.bytes)) dl := by
  simp only [State.flagWait, h, State.descRead, hf]

theorem State.flagWait_host {a : DWord} (h : s.flagPlace n (dfield d.bits 8 8) (d.bits.getLsbD 0x120) = .inl (.host a))
    (w : DWord) (dl : Option Nat) : s.flagWait n r d (some w) dl = (s.hostAsk (n + 1) a).flagObserved n r d w dl := by
  simp only [State.flagWait, h]

theorem State.flagWait_host_none {a : DWord}
    (h : s.flagPlace n (dfield d.bits 8 8) (d.bits.getLsbD 0x120) = .inl (.host a)) (dl : Option Nat) :
    s.flagWait n r d none dl = s.flagReadFails n r d a := by
  simp only [State.flagWait, h]

end HostWord

/-- A FLAG_WAIT that evaluates its condition sees the word `w`, and the rest of its effect is `base`. -/
def Observes (s : State) (errs : Errs) (n r : Nat) (d : Desc) (word : Option DWord) (base : State) (w : DWord) : Prop :=
  ∃ b : State, s.after b = base ∧ b.vfs = s.vfs ∧ b.parts = s.parts ∧ b.blocked = false ∧
    ∀ dl, (s.told errs).flagWait n r d word dl = b.flagObserved n r d w dl

theorem observes_window {s : State} {errs : Errs} {n r : Nat} {d : Desc} {w : Nat}
    (h : s.flagPlace n (dfield d.bits 8 8) (d.bits.getLsbD 0x120) = .inl (.window w))
    (hb : ((s.told errs).winRead n w 8).2.blocked = false) (hf : ((s.told errs).winRead n w 8).1.fail = none)
    (word : Option DWord) :
    Observes s errs n r d word (s.after ((s.told errs).winRead n w 8).2)
      (BitVec.ofNat 64 (natOfBytes ((s.told errs).winRead n w 8).1.bytes)) := by
  have hstack := (s.told errs).winRead_stackOnly n w 8
  exact ⟨_, rfl, hstack.vfs, hstack.parts, hb, State.flagWait_window (s := s.told errs) h hf word⟩

theorem observes_host {s : State} {errs : Errs} {n r : Nat} {d : Desc} {a : DWord} (hl : s.live)
    (h : s.flagPlace n (dfield d.bits 8 8) (d.bits.getLsbD 0x120) = .inl (.host a)) (w : DWord) :
    Observes s errs n r d (some w) (s.hostAsk (n + 1) a) w := by
  have hask := (s.told errs).hostAsk_evcOnly (n + 1) a
  exact ⟨_, State.after_hostAsk hl (n + 1) a, hask.vfs, hask.parts, hask.leaves.2.2.2.trans hl.2.2.2,
    State.flagWait_host (s := s.told errs) h w⟩

section Observes
variable {s base : State} {errs : Errs} {n r : Nat} {d : Desc} {word : Option DWord} {w : DWord}
  (h : Observes s errs n r d word base w)
include h

/-- Where the condition holds the wait ends with the word. -/
theorem Observes.ends (hd : Held s n r d) (hw : d.flagHolds w = true) (dl : Option Nat) :
    ((s.told errs).flagWait n r d word dl).blocked = false ∧
      Ended (s.modRing n r Ring.flagSeen) (s.after ((s.told errs).flagWait n r d word dl)) n r d { result := w.toNat } ∧
      OnlyRing n r base (s.after ((s.told errs).flagWait n r d word dl)) := by
  obtain ⟨b, rfl, hvfs, hparts, hblocked, hwait⟩ := h
  obtain ⟨honly, hend⟩ := (hd.congr hvfs hparts).flagObserved_holds hw dl
  rw [hwait]
  refine ⟨honly.leaves.2.2.2.trans hblocked, hend.congr ?_, honly.after_of s⟩
  rw [State.ring_modRing_same, State.ring_modRing_same, State.ring_of_vfs hvfs]

/-- Else it waits. -/
theorem Observes.waits (hw : d.flagHolds w = false) (dl : Option Nat) :
    ((s.told errs).flagWait n r d word dl).blocked = false ∧
      OnlyRing n r base (s.after ((s.told errs).flagWait n r d word dl)) ∧
      (s.after ((s.told errs).flagWait n r d word dl)).ring n r =
        ((s.modRing n r Ring.flagSeen).ring n r).waits d (.flagWait w dl) := by
  obtain ⟨b, rfl, hvfs, -, hblocked, hwait⟩ := h
  obtain ⟨honly, hring⟩ := State.flagObserved_waits_spec (s := b) (n := n) (r := r) hw dl
  rw [hwait]
  refine ⟨honly.leaves.2.2.2.trans hblocked, honly.after_of s, hring.trans ?_⟩
  rw [State.ring_modRing_same, State.ring_modRing_same, State.ring_of_vfs hvfs]

end Observes

theorem State.flagLineLoss_some {s : State} {n r : Nat} {d : Desc} {last : DWord} {dl : Option Nat}
    (h : s.activeWait n r = some (d, last, dl)) (word : Option DWord) :
    s.flagLineLoss n r word = s.flagWait n r d word dl := by simp only [State.flagLineLoss, h]

theorem State.flagLineLoss_none {s : State} {n r : Nat} (h : s.activeWait n r = none) (word : Option DWord) :
    s.flagLineLoss n r word = s := by simp only [State.flagLineLoss, h]

theorem State.flagTimeout_none {s : State} {n r : Nat} (h : s.activeWait n r = none) : s.flagTimeout n r = s := by
  simp only [State.flagTimeout, h]

theorem State.flagTimeout_unlimited {s : State} {n r : Nat} {d : Desc} {last : DWord}
    (h : s.activeWait n r = some (d, last, none)) : s.flagTimeout n r = s := by
  simp only [State.flagTimeout, h]

/-- A wait whose TIMEOUT has passed ends with the last word that it saw. -/
theorem Held.flagTimeout {s : State} {n r : Nat} {d : Desc} (hd : Held s n r d) {last : DWord} {b : Nat}
    (h : s.activeWait n r = some (d, last, some b)) :
    s.Leaves (s.flagTimeout n r) ∧ (s.flagTimeout n r).tmb.beat = max s.tmb.beat b % 2 ^ 64 ∧
      Ended s (s.flagTimeout n r) n r d { status := statusTimeout, result := last.toNat } := by
  have hf : s.flagTimeout n r = (s.advanceTo b).complete n r d.id { status := statusTimeout, result := last.toNat } := by
    simp only [State.flagTimeout, h]
  have hheld : Held (s.advanceTo b) n r d := hd
  obtain ⟨hend, honly⟩ := hheld.complete { status := statusTimeout, result := last.toNat }
  have hmax : max s.tmb.beat b = s.tmb.beat + (b - s.tmb.beat) := by omega
  rw [hf]
  refine ⟨.trans ⟨rfl, rfl, rfl, rfl⟩ honly.leaves, ?_, hend⟩
  rw [honly.1, hmax]
  rfl

/-- Settles O28: a flag word is refused, read, and replaced or waited for, by its place in the window or in host memory. -/
theorem flagDescriptors : Obligations.FlagDescriptors := by
  refine ⟨?set, ?wait⟩
  case set =>
    intro s q d errs hl n r addr host set clear new noWaits c read base tries asks hs hop hclean
    have held : Held (s.told errs) n r d := Starts.held (s := s.told errs) hs
    have row : ∀ w b, Row (c w b) s errs _ := fun w b => .of_actOn rfl
    have effect : ∀ w b, (s.told errs).startDesc n r (· == 0x03) flagSetChecks (fun d s => s.flagSet n r d w b) =
        (s.told errs).flagSet n r d w b := fun w b =>
      State.startDesc_clean (s := s.told errs) hs.1 (by simpa using hop) hclean
    have runs : ∀ w b, ((s.told errs).flagSet n r d w b).blocked = false →
        Runs (c w b) s (s.after ((s.told errs).flagSet n r d w b)) :=
      fun w b hb => (row w b).starts hl hs hop hclean rfl hb
    have refused : ∀ {st}, s.flagPlace n addr host = .inr st → ∀ w b, Completes (c w b) s n r d { status := st } :=
      fun hp w b => (row w b).completes hl hs ((effect w b).trans (State.flagSet_refused (s := s.told errs) hp w b))
    refine ⟨fun hbad w b => ?_, fun h8 hhost a w b hin ha => ?_, fun h8 hhost => ?_, ?_⟩
    · by_cases h8 : addr % 8 = 0
      · obtain ⟨hhost, hout⟩ := hbad.resolve_left (not_not_intro h8)
        exact refused (by rw [hhost]; exact State.flagPlace_outside h8 hout) w b
      · exact refused (State.flagPlace_misaligned h8 host) w b
    · refine ⟨fun hbias => refused (by rw [hhost]; exact State.flagPlace_deviceBias h8 hin ha hbias) w b, ?_⟩
      have place (hbias : s.mem.devBias (a / 4096) = false) : (s.told errs).flagPlace n addr host = .inl (.window addr) := by
        rw [hhost]
        exact State.flagPlace_window (s := s.told errs) h8 hin ha hbias
      have stack : StackOnly (s.told errs) read.2 := State.winRead_stackOnly _ n addr 8
      refine ⟨fun hbias hb => ?_, fun hbias hb f hf => ?_, fun hbias hb hf hwaits => ?_⟩
      · refine runs_blocked hl rfl ?_
        rw [effect]
        exact State.flagSet_blocked (place hbias) hb w b
      · have hread : Held read.2 n r d := held.congr stack.vfs stack.parts
        obtain ⟨hleaves, herr, hend⟩ := hread.failDesc (readInfo n 16 0 addr f 0 r 1) { status := statusPoisonRead }
        have hu := State.flagSet_unread (r := r) (place hbias) hf w b
        rw [← hu] at hleaves herr hend
        refine ⟨_, runs w b (hleaves.2.2.2.trans hb), hend.congr (State.ring_of_vfs stack.vfs n r).symm, herr.trans ?_⟩
        exact (State.recorded_congr (s := read.2) (t := base) rfl rfl _).symm
      · obtain ⟨m, hm, honly, hend, hnew, hkept⟩ := held.flagSet_window hl.2.1 h8 ha (place hbias) hf hwaits w b
        have hmem : (s.after ((s.told errs).flagSet n r d w b)).mem = m := by
          have hu : ((s.told errs).flagSet n r d w b).mem = m := by rw [honly.1]
          rw [State.after, hu, Mem.canon_of_wf hm]
        have hbase : base.mem = read.2.mem := Mem.canon_of_wf ((State.winRead_grows (s.told errs) n addr 8).2.1 hl.2.1)
        refine ⟨?_, _, runs w b (honly.leaves.2.2.2.trans hb), hend, ?_, ?_, ?_⟩
        · have hsegs : read = (s.told errs).readSegs [(a, 8)] :=
            congrArg (s.told errs).readSegs (Part.segs_word (p := s.part n) ha h8)
          have hline : a / 64 * 64 ∈ (s.told errs).hostLines [(a, 8)] :=
            State.line_mem_hostLines (Part.dpa_aligned ha h8) hbias
          have hout : Output.cacheOwn (a / 64 * 64) ∈ read.2.out := by
            rw [hsegs]
            exact State.cacheOwn_mem_readSegs hline
          exact hout
        · have hafter := honly.after_of s
          rw [hmem]
          have hset : s.after { read.2 with mem := m } = { base with mem := m } := by
            rw [State.after, Mem.canon_of_wf hm]
            rfl
          rwa [hset] at hafter
        · rw [hmem]
          exact hnew
        · rw [hmem, hbase]
          exact hkept
    · have place : (s.told errs).flagPlace n addr host = .inl (.host (BitVec.ofNat 64 addr)) := by
        rw [hhost]
        exact State.flagPlace_host h8
      refine ⟨fun hwaits old => ?_, fun old => ?_, fun b htries => ?_, fun b htries => ?_⟩
      · obtain ⟨honly, hend⟩ := held.flagSet_host place hwaits old
        obtain ⟨a, ha, hput⟩ := (s.told errs).hostPut_eq (n + 1) (BitVec.ofNat 64 addr) (bytesOfNat 8 (d.flagWord old).toNat)
        rw [hput] at honly
        have hb : ((s.told errs).flagSet n r d (some old) true).blocked = false := honly.leaves.2.2.2.trans hl.2.2.2
        have hafter := honly.after_of s
        rw [State.after_out hl] at hafter
        have hout : (s.after ((s.told errs).flagSet n r d (some old) true)).out =
            s.out ++ asks ++ [.hostWrite (n + 1) a (bytesOfNat 8 (new old).toNat)] := by
          rw [hafter.1]
          rfl
        refine ⟨_, runs (some old) true hb, hend, ?_, a, ha, hout⟩
        rw [hout]
        exact hafter
      · obtain ⟨hleaves, herr, hend⟩ := held.flagSet_lost place old
        exact ⟨_, runs (some old) false (hleaves.2.2.2.trans hl.2.2.2), herr, hend⟩
      · obtain ⟨honly, hcount, hdescs⟩ := State.flagReadFails_again (s := s.told errs) (d := d) htries (BitVec.ofNat 64 addr)
        rw [← State.flagSet_host_none (r := r) place b] at honly hcount hdescs
        have hb : ((s.told errs).flagSet n r d none b).blocked = false :=
          (((s.told errs).hostAsk_evcOnly _ _).leaves.trans honly.leaves).2.2.2.trans hl.2.2.2
        have hafter := honly.after_of s
        rw [State.after_hostAsk hl, State.hostAsk_eq] at hafter
        exact ⟨_, runs none b hb, hafter, hcount, hdescs⟩
      · obtain ⟨hleaves, herr, hgone⟩ := held.flagReadFails_last htries (BitVec.ofNat 64 addr)
        rw [← State.flagSet_host_none (r := r) place b] at hleaves herr hgone
        exact ⟨_, runs none b (hleaves.2.2.2.trans hl.2.2.2), herr, hgone⟩
    · intro k e last at_ old h8 hhost hk hkr hwait _ haddr hehost hholds
      have place : (s.told errs).flagPlace n addr host = .inl (.host (BitVec.ofNat 64 addr)) := by
        rw [hhost]
        exact State.flagPlace_host h8
      obtain ⟨hb, hgone⟩ := held.flagSet_wakes place q.vf.isLt hk hkr hwait
        ⟨haddr ▸ h8, congrArg (BitVec.ofNat 64) haddr⟩ hehost hholds
      exact ⟨_, runs (some old) true (hb.trans hl.2.2.2), hgone⟩
  case wait =>
    intro s q d errs hl n r addr host mask value holds s' read tries limit dl hostBase sees
    have observes : ∀ {word base w}, sees word base w → Observes s errs n r d word base w := by
      rintro word base w ⟨h8, ⟨hhost, rfl, rfl⟩ | ⟨hhost, hin, ⟨a, ha, hbias⟩, hb, hf, rfl, rfl⟩⟩
      · have place : s.flagPlace n addr host = .inl (.host (BitVec.ofNat 64 addr)) := hhost ▸ State.flagPlace_host h8
        exact observes_host hl place w
      · have place : s.flagPlace n addr host = .inl (.window addr) := hhost ▸ State.flagPlace_window h8 hin ha hbias
        exact observes_window place hb hf word
    have fails : ∀ {w}, ¬holds w → d.flagHolds w = false := fun hw =>
      Bool.eq_false_iff.2 fun h => hw ((d.flagHolds_iff _).1 h)
    refine ⟨fun hs hop hclean => ?_, fun last at_ hd hwait word base w hsees => ?_, fun hwait => ?_, fun last b hd hwait => ?_,
      fun last hwait => ?_⟩
    · have held : Held (s.told errs) n r d := Starts.held (s := s.told errs) hs
      have row : ∀ w, Row (.flagWait q w errs) s errs _ := fun w => .of_actOn rfl
      have runs : ∀ w, ((s.told errs).flagWait n r d w dl).blocked = false →
          Runs (.flagWait q w errs) s (s.after ((s.told errs).flagWait n r d w dl)) :=
        fun w hb => (row w).starts hl hs hop hclean rfl hb
      have refused : ∀ {st}, s.flagPlace n addr host = .inr st →
          ∀ w, Completes (.flagWait q w errs) s n r d { status := st } :=
        fun hp w => (row w).completes hl hs
          ((State.startDesc_clean (s := s.told errs) hs.1 (by simpa using hop) hclean).trans
            (State.flagWait_refused (s := s.told errs) hp w dl))
      have place (h8 : addr % 8 = 0) (hhost : host = true) :
          (s.told errs).flagPlace n addr host = .inl (.host (BitVec.ofNat 64 addr)) := hhost ▸ State.flagPlace_host h8
      refine ⟨fun word hbad => ?_, fun word a h8 hhost hin ha hbias => ?_, fun word base w hsees => ⟨fun hw => ?_, fun hw => ?_⟩,
        fun h8 hhost htries => ?_, fun h8 hhost htries => ?_⟩
      · by_cases h8 : addr % 8 = 0
        · obtain ⟨hhost, hout⟩ := hbad.resolve_left (not_not_intro h8)
          exact refused (hhost ▸ State.flagPlace_outside h8 hout) word
        · exact refused (State.flagPlace_misaligned h8 host) word
      · exact refused (hhost ▸ State.flagPlace_deviceBias h8 hin ha hbias) word
      · obtain ⟨hb, hends⟩ := (observes hsees).ends held ((d.flagHolds_iff w).2 hw) dl
        exact ⟨_, runs word hb, hends⟩
      · obtain ⟨hb, hwaits⟩ := (observes hsees).waits (fails hw) dl
        exact ⟨_, runs word hb, hwaits⟩
      · obtain ⟨honly, hcount, hdescs⟩ := State.flagReadFails_again (s := s.told errs) (d := d) htries (BitVec.ofNat 64 addr)
        rw [← State.flagWait_host_none (r := r) (place h8 hhost) dl] at honly hcount hdescs
        have hb : ((s.told errs).flagWait n r d none dl).blocked = false :=
          (((s.told errs).hostAsk_evcOnly _ _).leaves.trans honly.leaves).2.2.2.trans hl.2.2.2
        have hafter := honly.after_of s
        rw [State.after_hostAsk hl] at hafter
        exact ⟨_, runs none hb, hafter, hcount, hdescs⟩
      · obtain ⟨hleaves, herr, hgone⟩ := held.flagReadFails_last htries (BitVec.ofNat 64 addr)
        rw [← State.flagWait_host_none (r := r) (place h8 hhost) dl] at hleaves herr hgone
        exact ⟨_, runs none (hleaves.2.2.2.trans hl.2.2.2), herr, hgone⟩
    · have row : Row (.flagLineLoss q word errs) s errs fun s => s.flagLineLoss n r word := .of_actOn rfl
      have hloss : (s.told errs).flagLineLoss n r word = (s.told errs).flagWait n r d word at_ :=
        State.flagLineLoss_some (s := s.told errs) hwait word
      have runs (hb : ((s.told errs).flagWait n r d word at_).blocked = false) :
          Runs (.flagLineLoss q word errs) s (s.after ((s.told errs).flagWait n r d word at_)) := by
        rw [← hloss]
        exact row.runs hl (hloss ▸ hb)
      refine ⟨fun hw => ?_, fun hw => ?_⟩
      · obtain ⟨hb, hends⟩ := (observes hsees).ends hd ((d.flagHolds_iff w).2 hw) at_
        exact ⟨_, runs hb, hends⟩
      · obtain ⟨hb, hwaits⟩ := (observes hsees).waits (fails hw) at_
        exact ⟨_, runs hb, hwaits⟩
    · refine ⟨fun word => ?_, ?_⟩
      · have row : Row (.flagLineLoss q word errs) s errs fun s => s.flagLineLoss n r word := .of_actOn rfl
        exact row.idle hl (State.flagLineLoss_none (s := s.told errs) hwait word)
      · have row : Row (.flagWaitTimeout q) s [] fun s => s.flagTimeout n r := .of_act rfl
        exact row.idle hl (State.flagTimeout_none (s := s.told []) hwait)
    · obtain ⟨hleaves, hbeat, hend⟩ := hd.flagTimeout hwait
      exact ⟨_, act_live hl hleaves, hbeat, hend⟩
    · have row : Row (.flagWaitTimeout q) s [] fun s => s.flagTimeout n r := .of_act rfl
      exact row.idle hl (State.flagTimeout_unlimited (s := s.told []) hwait)

end Sys2Proof.Machine
end

section
/-! The descriptors of the serving engine that wait for a step boundary: what starts them, and what refuses them (R84, R330). -/

namespace Sys2Proof.Machine

/-- The ring of a descriptor that has come to wait. -/
theorem State.setDesc_ring (s : State) (n r : Nat) (d : Desc) (st : DescState) :
    (s.setDesc n r d.id st).ring n r = (s.ring n r).waits d st := by
  rw [State.setDesc, State.ring_modRing_same, Ring.waits]
  simp

section Gate
variable {s : State} {n r : Nat} {d : Desc} {lead : Bool} {f : State → State}

theorem State.srvGate_address : s.srvGate n r d false lead f = s.complete n r d.id { status := statusBadAddress } := rfl

theorem State.srvGate_closed (h : (s.srv n).state = .off ∨ (s.srv n).lead = false) :
    s.srvGate n r d true true f = s.complete n r d.id { status := statusBadDescriptor } := by
  simp only [State.srvGate]
  rw [if_neg (by simp), if_pos]
  simpa using h

theorem State.srvGate_open (hs : (s.srv n).state ≠ .off) (hl : (s.srv n).lead = true) :
    s.srvGate n r d true true f = f s := by
  simp [State.srvGate, hs, hl]

end Gate

theorem State.srvGate_congr {s : State} {n r : Nat} {d : Desc} {addrOk lead : Bool} {f g : State → State} (h : f s = g s) :
    s.srvGate n r d addrOk lead f = s.srvGate n r d addrOk lead g := by
  simp only [State.srvGate, h]

/-- A descriptor of the engine: its address first, then whether the engine runs here as the lead, and else it waits for the
step boundary. -/
def HeldBack (c : Instr) (s : State) (n r : Nat) (d : Desc) (addrOk : Bool) : Prop :=
  (addrOk = false → Completes c s n r d { status := statusBadAddress }) ∧
  (addrOk = true → (s.srv n).state = .off ∨ (s.srv n).lead = false →
    Completes c s n r d { status := statusBadDescriptor }) ∧
  (addrOk = true → (s.srv n).state ≠ .off → (s.srv n).lead = true →
    ∃ t, Runs c s t ∧ OnlyRing n r s t ∧ t.ring n r = (s.ring n r).waits d .serving)

theorem heldBack {s : State} {c : Instr} {n r : Nat} {d : Desc} {g : State → State} (hl : s.live) (hs : Starts s n r d)
    {addrOk : Bool} (hc : exec c s = act (whenRunning g) s)
    (hg : g s = s.srvGate n r d addrOk true fun s => s.hold n r d) : HeldBack c s n r d addrOk := by
  have row : Row c s [] g := .of_act hc
  have htold : s.told [] = s := State.told_nil hl.2.2
  refine ⟨fun ha => ?_, fun ha hclosed => ?_, fun ha hstate hlead => ?_⟩
  · exact row.completes hl hs (by rw [htold, hg, ha, State.srvGate_address])
  · exact row.completes hl hs (by rw [htold, hg, ha, State.srvGate_closed hclosed])
  · have hf : g s = s.setDesc n r d.id .serving := by
      rw [hg, ha, State.srvGate_open hstate hlead]
      rfl
    have honly : OnlyRing n r s (s.setDesc n r d.id .serving) := s.modRing_onlyRing n r _
    exact ⟨g s, hc.trans (act_live hl (hf ▸ honly.leaves)), hf ▸ honly, by rw [hf, State.setDesc_ring]⟩

/-! ### REQ_CONTROL (R346) -/

/-- A row of REQ_CONTROL starts the OP that it names, and one that no row names. -/
theorem State.control_starts {s : State} {n r op : Nat} {d : Desc} (h : s.startable n r = some d)
    (hk : dfield d.bits 0x10 1 = op ∨ dfield d.bits 0x10 1 = 0 ∨ 4 < dfield d.bits 0x10 1) :
    s.control n r op =
      s.startDesc n r (· == 0x22) reqControlChecks fun d s => s.srvGate n r d true true fun s => s.hold n r d := by
  simp only [State.control, h]
  exact if_pos hk

section Control
variable {s : State} {n r : Nat} {d : Desc} {op : Nat} {c : Instr} (hl : s.live) (hs : Starts s n r d)
  (hop : descOpcode d.bits = 0x22) (hc : exec c s = act (whenRunning fun s => s.control n r op) s)
include hl hs hop hc

theorem control_heldBack (hk : dfield d.bits 0x10 1 = op) (hclean : CleanDesc d reqControlChecks) :
    HeldBack c s n r d true :=
  heldBack hl hs hc ((State.control_starts hs.1 (.inl hk)).trans (State.startDesc_clean hs.1 (by simpa using hop) hclean))

theorem control_endsBadField (hk : dfield d.bits 0x10 1 = op ∨ dfield d.bits 0x10 1 = 0 ∨ 4 < dfield d.bits 0x10 1) :
    EndsBadField c s n r d reqControlChecks := by
  intro off hbad
  have row : Row c s [] fun s => s.control n r op := .of_act hc
  refine row.completes hl hs ?_
  rw [State.told_nil hl.2.2, State.control_starts hs.1 hk]
  exact State.startDesc_bad hs.1 (by simpa using hop) hbad

end Control

/-! ### REQ_READ (R347) -/

section Read
variable {s : State} {n r : Nat} {d : Desc}

/-- Entries of the table are read at the next step boundary. -/
theorem State.reqRead_inside (h : dfield d.bits 8 4 + dfield d.bits 0x0C 4 ≤ (s.part n).entries.toNat) :
    s.reqRead n r d = s.srvGate n r d (dfield d.bits 0x10 8 % 64 == 0 &&
      (s.part n).inWindow (dfield d.bits 0x10 8) (128 * dfield d.bits 0x0C 4)) true fun s => s.hold n r d := by
  unfold State.reqRead
  exact State.srvGate_congr (if_neg (by omega))

/-- Entries beyond the table are refused. -/
theorem State.reqRead_beyond (h : (s.part n).entries.toNat < dfield d.bits 8 4 + dfield d.bits 0x0C 4) :
    s.reqRead n r d = s.srvGate n r d (dfield d.bits 0x10 8 % 64 == 0 &&
      (s.part n).inWindow (dfield d.bits 0x10 8) (128 * dfield d.bits 0x0C 4)) true
        fun s => s.complete n r d.id { status := statusBadDescriptor, detail := 0x08 } := by
  unfold State.reqRead
  exact State.srvGate_congr (if_pos h)

end Read

end Sys2Proof.Machine
end

section
/-! REQ_SUBMIT (R338, R339): its checks in their order, and the entry of an accepted request. -/

namespace Sys2Proof.Machine

/-! ### A command that has to wait goes on waiting -/

theorem RingOnly.grows {s t : State} (h : RingOnly s t) : Grows s t := by
  obtain ⟨v, d, k, rfl⟩ := h
  exact .refl s

theorem State.modSrv_grows (s : State) (n : Nat) (f : Srv → Srv) : Grows s (s.modSrv n f) := .refl s

theorem State.modReq_grows (s : State) (n i : Nat) (f : Req → Req) : Grows s (s.modReq n i f) := .refl s

theorem State.storeAt_grows (s : State) (a : Nat) (bs : List Byte) : Grows s (s.storeAt a bs).1 := by
  obtain ⟨hout, hmem, hblocked⟩ :=
    (s.cohere_grows [(a, bs.length)]).trans (State.meet_grows _ (partWords (s.checkAt a) a bs.length))
  exact ⟨hout, fun h => Mem.store_wf (hmem h) _ _ _, hblocked⟩

theorem writeSegs_grows (segs : List (Nat × Nat)) (bs : List Byte) (s : State) : Grows s (writeSegs s segs bs).1 := by
  induction segs generalizing bs s with
  | nil => exact .refl s
  | cons x t ih => exact (s.storeAt_grows x.1 (bs.take x.2)).trans (ih _ _)

theorem State.winWrite_grows (s : State) (n w : Nat) (bs : List Byte) : Grows s (s.winWrite n w bs).1 := writeSegs_grows _ _ s

theorem State.modNode_grows (s : State) (n k : Nat) (f : PrefixNode → PrefixNode) : Grows s (s.modNode n k f) := by
  unfold State.modNode
  split
  · exact .refl s
  · exact (s.modSrv_grows n _).trans (State.winWrite_grows _ _ _ _)

theorem State.dropPage_grows (s : State) (n p : Nat) (node : Option Nat) : Grows s (s.dropPage n p node) := by
  have hnode : Grows s (match node with
      | some k => s.modNode n k fun x => { x with refs := x.refs - 1 }
      | none => s) := by
    split
    · exact s.modNode_grows n _ _
    · exact .refl s
  unfold State.dropPage
  dsimp only
  split
  · exact hnode.trans (State.modSrv_grows _ n _)
  · exact hnode

theorem State.dropList_grows (s : State) (n i : Nat) : Grows s (s.dropList n i) :=
  (forAll_grows (fun _ s => s.dropPage_grows n _ _) _ s).trans (State.modSrv_grows _ n _)

theorem State.freeEntry_grows (s : State) (n i : Nat) : Grows s (s.freeEntry n i) :=
  ((s.dropList_grows n i).trans (forAll_grows (fun p s => s.dropPage_grows n p none) _ _)).trans (State.modSrv_grows _ n _)

theorem State.lookupBlock_grows (s : State) (n : Nat) (h : BitVec 128) (v : Nat) (ts : List Nat) (tag : Word) (ring : Nat) :
    Grows s (s.lookupBlock n h v ts tag ring).2 := by
  unfold State.lookupBlock
  dsimp only
  split
  · exact .refl s
  · split
    · exact .refl s
    · split
      · exact (s.winRead_grows n _ _).trans (State.log_grows _ _)
      · split
        · exact s.winRead_grows n _ _
        · exact s.winRead_grows n _ _

theorem lookupPrefix_grows (n i v : Nat) (tag : Word) (ring fuel k : Nat) (h : BitVec 128) (ts : List Nat) (s : State) :
    Grows s (lookupPrefix n i v tag ring fuel k h ts s) := by
  induction fuel generalizing k h ts s with
  | zero => exact .refl s
  | succ fuel ih =>
    unfold lookupPrefix
    dsimp only
    have hblock := s.lookupBlock_grows n ((s.srv n).blockHash h v (ts.take (s.srv n).pageTokens)) v
      (ts.take (s.srv n).pageTokens) tag ring
    split
    · next s1 heq =>
      rw [heq] at hblock
      exact hblock
    · next nk x s1 heq =>
      rw [heq] at hblock
      exact (((hblock.trans (State.modNode_grows _ n _ _)).trans (State.modSrv_grows _ n _)).trans
        (State.modReq_grows _ n i _)).trans (ih _ _ _ _)

theorem State.failDesc_grows (s : State) (n r : Nat) (d : Desc) (i : ErrInfo) (e : Ending) :
    Grows s (s.failDesc n r d i e) :=
  (s.log_grows _).trans (State.complete_ringOnly _ _ _ _ _).grows

/-! ### The request table -/

theorem State.req_modReq (s : State) (n i k : Nat) (f : Req → Req) :
    ((s.modReq n i f).srv n).req k = if k = i then f ((s.srv n).req i) else (s.srv n).req k := by
  rw [State.modReq, State.srv_modSrv_same]
  exact tabGet_mod ..

theorem State.srv_congr {s t : State} (h : t.srvs = s.srvs) (n : Nat) : t.srv n = s.srv n := by
  rw [State.srv, State.srv, h]

theorem StackOnly.srvs {s t : State} (h : StackOnly s t) : t.srvs = s.srvs := by
  obtain ⟨m, x, l, e, i, o, d, b, rfl⟩ := h
  rfl

theorem StackOnly.tmb {s t : State} (h : StackOnly s t) : t.tmb = s.tmb := by
  obtain ⟨m, x, l, e, i, o, d, b, rfl⟩ := h
  rfl

/-! ### The entry of a submission -/

/-- The entry of a request whose block and prompt have been read (R339, R342). -/
def Srv.newEntry (e : Srv) (x : Req) (words : List Byte) : Req :=
  { x with
    state := .waiting, prompt := (List.range x.promptLen).map fun k => numAt words (4 * k) 4, order := e.nextOrder,
    cocoon := 0xFFFFFFFF, listDirty := true }

/-- The state with a new entry (R339). -/
def State.putEntry (s : State) (n i : Nat) (q : Req) : State :=
  s.modSrv n fun e => { e with reqs := tabPut i q e.reqs, nextOrder := e.nextOrder + 1 }

/-- Admission of an entry that holds `h` tokens of its prompt, and its completion (R339, R353, R354, R367). -/
def State.acceptEntry (s : State) (n r i : Nat) (d : Desc) (q : Req) (h : Nat) : State :=
  let refuse (why : Nat) : State :=
    (s.freeEntry n i).complete n r d.id { status := statusAdmissionRefused, detail := why }
  match s.admission n i ((s.srv n).reqAt i) h with
  | .inl why => refuse why
  | .inr need =>
    if !q.params.penalized then
      (s.modReq n i fun q => { q with reserved := need }).complete n r d.id { result := i, detail := h }
    else match s.countTable n q with
      | none => refuse 3
      | some (off, log2) =>
        let empty := (List.replicate (2 ^ log2) [0xFF, 0xFF, 0xFF, 0xFF, 0, 0, 0, 0]).flatten
        let s1 := (s.modSrv n fun e => { e with counts := (off, 8 * 2 ^ log2) :: e.counts }).modReq n i fun q =>
          { q with reserved := need, countOff := off, countLog2 := log2 }
        (s1.winWrite n off empty).1.complete n r d.id { result := i, detail := h }

theorem State.acceptEntry_grows (s : State) (n r i : Nat) (d : Desc) (q : Req) (h : Nat) : Grows s (s.acceptEntry n r i d q h) := by
  unfold State.acceptEntry
  dsimp only
  split
  · exact (s.freeEntry_grows n i).trans (State.complete_ringOnly _ _ _ _ _).grows
  · split
    · exact (s.modReq_grows n i _).trans (State.complete_ringOnly _ _ _ _ _).grows
    · split
      · exact (s.freeEntry_grows n i).trans (State.complete_ringOnly _ _ _ _ _).grows
      · exact (((s.modSrv_grows n _).trans (State.modReq_grows _ n i _)).trans (State.winWrite_grows _ n _ _)).trans
          (State.complete_ringOnly _ _ _ _ _).grows

/-! ### The checks before the entry -/

/-- Where the block of a submission lies (R57, R339). -/
def State.blockOk (s : State) (n w : Nat) : Bool := w % 64 == 0 && (s.part n).inWindow w 128

section Submit
variable {s : State} {n r : Nat} {d : Desc}

theorem State.submit_address (h : s.blockOk n (dfield d.bits 8 8) = false) :
    s.submit n r d = s.complete n r d.id { status := statusBadAddress } := by
  unfold State.blockOk at h
  simp only [State.submit, h]
  rfl

theorem State.submit_closed (hw : s.blockOk n (dfield d.bits 8 8) = true)
    (h : (s.srv n).state ≠ .running ∨ (s.srv n).lead = false) :
    s.submit n r d = s.complete n r d.id { status := statusBadDescriptor } := by
  unfold State.blockOk at hw
  simp only [State.submit, hw]
  by_cases hgate : (s.srv n).state = .off ∨ (s.srv n).lead = false
  · exact State.srvGate_closed hgate
  · obtain ⟨hstate, hlead⟩ := not_or.1 hgate
    rw [State.srvGate_open hstate (by simpa using hlead), if_pos (h.resolve_right hlead)]

theorem State.descRead_fails {path w len : Nat} {f : ReadFail} (h : (s.winRead n w len).1.fail = some f) :
    s.descRead n r d path w len =
      (none, (s.winRead n w len).2.failDesc n r d (readInfo n path 0 w f 0 r 1) { status := statusPoisonRead }) := by
  simp only [State.descRead, h]

theorem State.descRead_reads {path w len : Nat} (h : (s.winRead n w len).1.fail = none) :
    s.descRead n r d path w len = (some (s.winRead n w len).1.bytes, (s.winRead n w len).2) := by
  simp only [State.descRead, h]

/-- The checks of a block depend on the partition, its engine and its rings. -/
theorem State.blockChecks_congr {t : State} (hp : t.parts = s.parts) (hs : t.srvs = s.srvs) (hv : t.vfs = s.vfs) (bs : List Byte) :
    t.blockChecks n bs = s.blockChecks n bs := by
  simp only [State.blockChecks, State.part_of_parts hp, State.srv_congr hs, State.ring_of_vfs hv]

/-! ### The block (R339, R341) -/

section Block
variable (hw : s.blockOk n (dfield d.bits 8 8) = true) (hstate : (s.srv n).state = .running) (hlead : (s.srv n).lead = true)
include hw hstate hlead

theorem State.submit_unread {f : ReadFail} (h : (s.winRead n (dfield d.bits 8 8) 128).1.fail = some f) :
    s.submit n r d = (s.winRead n (dfield d.bits 8 8) 128).2.failDesc n r d (readInfo n 12 0 (dfield d.bits 8 8) f 0 r 1)
      { status := statusPoisonRead } := by
  unfold State.blockOk at hw
  simp only [State.submit, hw]
  rw [State.srvGate_open (by simp [hstate]) hlead, if_neg (by simp [hstate])]
  simp only [State.descRead_fails h]

variable {bs : List Byte} {b : State} (hread : s.descRead n r d 12 (dfield d.bits 8 8) 128 = (some bs, b))
include hread

theorem State.submit_outside
    (h : (s.part n).inWindow (reqOfBlock bs).promptOff (4 * (reqOfBlock bs).promptLen) = false) :
    s.submit n r d = b.complete n r d.id { status := statusBadAddress } := by
  unfold State.blockOk at hw
  simp only [State.submit, hw]
  rw [State.srvGate_open (by simp [hstate]) hlead, if_neg (by simp [hstate])]
  simp only [hread, h, Bool.not_false, if_true]

variable (hprompt : (s.part n).inWindow (reqOfBlock bs).promptOff (4 * (reqOfBlock bs).promptLen) = true)
include hprompt

theorem State.submit_badBlock {off : Nat} (h : firstBad bs (b.blockChecks n bs) = some off) :
    s.submit n r d = b.complete n r d.id { status := statusBadDescriptor, detail := blockDetail off } := by
  unfold State.blockOk at hw
  simp only [State.submit, hw]
  rw [State.srvGate_open (by simp [hstate]) hlead, if_neg (by simp [hstate])]
  simp only [hread, hprompt, h, Bool.not_true, Bool.false_eq_true, if_false]

variable (hgood : firstBad bs (b.blockChecks n bs) = none)
include hgood

theorem State.submit_badVariant (h : (b.srv n).variantOk (reqOfBlock bs).variant = false) :
    s.submit n r d = b.complete n r d.id { status := statusBadVariant } := by
  unfold State.blockOk at hw
  simp only [State.submit, hw]
  rw [State.srvGate_open (by simp [hstate]) hlead, if_neg (by simp [hstate])]
  simp only [hread, hprompt, hgood, h, Bool.not_true, Bool.not_false, Bool.false_eq_true, if_false, if_true]

theorem State.submit_takesIn (h : (b.srv n).variantOk (reqOfBlock bs).variant = true) :
    s.submit n r d = b.takeIn n r d (reqOfBlock bs) := by
  unfold State.blockOk at hw
  simp only [State.submit, hw]
  rw [State.srvGate_open (by simp [hstate]) hlead, if_neg (by simp [hstate])]
  simp only [hread, hprompt, hgood, h, Bool.not_true, Bool.false_eq_true, if_false]

end Block

/-! ### The entry -/

/-- The lowest free entry. -/
def State.freeSlotFor (s : State) (n : Nat) : Option Nat :=
  findFrom (fun k => !((s.srv n).req k).live) 1 (s.part n).entries.toNat 0

variable {x : Req}

theorem State.takeIn_full (h : s.freeSlotFor n = none) :
    s.takeIn n r d x = s.complete n r d.id { status := statusTableFull } := by
  have h' : findFrom (fun k => !(tabGet {} (s.srv n).reqs k).live) 1 (s.part n).entries.toNat 0 = none := h
  simp only [State.takeIn, h']

variable {i : Nat} (h : s.freeSlotFor n = some i)
include h

theorem State.takeIn_unread {f : ReadFail} (hf : (s.winRead n x.promptOff (4 * x.promptLen)).1.fail = some f) :
    s.takeIn n r d x = (s.winRead n x.promptOff (4 * x.promptLen)).2.failDesc n r d
      (readInfo n 12 0 x.promptOff f 0 r 1) { status := statusPoisonRead } := by
  have h' : findFrom (fun k => !(tabGet {} (s.srv n).reqs k).live) 1 (s.part n).entries.toNat 0 = some i := h
  simp only [State.takeIn, h', State.descRead_fails hf]

/-- The entry of a request whose prompt has been read. -/
theorem State.takeIn_read {words : List Byte} {b : State}
    (hread : s.descRead n r d 12 x.promptOff (4 * x.promptLen) = (some words, b)) :
    s.takeIn n r d x =
      (let q0 := (s.srv n).newEntry x words
       let u := lookupPrefix n i x.variant (descTag d.bits) r ((x.promptLen - 1) / (s.srv n).pageTokens) 0 0 q0.prompt
         (b.putEntry n i q0)
       let h := ((u.srv n).req i).list.length * (s.srv n).pageTokens
       (u.modReq n i fun q => { q with cached := h }).acceptEntry n r i d q0 h) := by
  have h' : findFrom (fun k => !(tabGet {} (s.srv n).reqs k).live) 1 (s.part n).entries.toNat 0 = some i := h
  simp only [State.takeIn, h', hread, State.putEntry, Srv.newEntry, Srv.req]
  generalize lookupPrefix _ _ _ _ _ _ _ _ _ _ = u
  generalize State.modReq u n i _ = v
  rfl

/-- Nothing that follows the read of the prompt takes a wait back. -/
theorem State.takeIn_grows : Grows (s.winRead n x.promptOff (4 * x.promptLen)).2 (s.takeIn n r d x) := by
  cases hf : (s.winRead n x.promptOff (4 * x.promptLen)).1.fail with
  | some f =>
    rw [State.takeIn_unread h hf]
    exact State.failDesc_grows _ n r d _ _
  | none =>
    rw [State.takeIn_read h (State.descRead_reads hf)]
    exact (((State.modSrv_grows _ n _).trans (lookupPrefix_grows ..)).trans (State.modReq_grows _ n i _)).trans
      (State.acceptEntry_grows _ n r i d _ _)

end Submit

/-- With an empty prefix tree nothing is looked up. -/
theorem lookupPrefix_empty {s : State} {n : Nat} (h : (s.srv n).nodes = []) (i v : Nat) (tag : Word) (ring fuel k : Nat)
    (g : BitVec 128) (ts : List Nat) : lookupPrefix n i v tag ring fuel k g ts s = s := by
  cases fuel with
  | zero => rfl
  | succ fuel => simp [lookupPrefix, State.lookupBlock, h]

/-- The state with a new entry that holds none of its prompt. -/
def State.enter (s : State) (n i : Nat) (q : Req) : State := (s.putEntry n i q).modReq n i fun q => { q with cached := 0 }

/-- With an empty prefix tree a new entry holds none of its prompt. -/
theorem State.takeIn_empty {s b : State} {n r i : Nat} {d : Desc} {x : Req} {words : List Byte}
    (hslot : s.freeSlotFor n = some i) (hread : s.descRead n r d 12 x.promptOff (4 * x.promptLen) = (some words, b))
    (hlist : x.list = []) (hnodes : (b.srv n).nodes = []) :
    s.takeIn n r d x = (b.enter n i ((s.srv n).newEntry x words)).acceptEntry n r i d ((s.srv n).newEntry x words) 0 := by
  generalize hq : (s.srv n).newEntry x words = q
  have hnodes' : ((b.putEntry n i q).srv n).nodes = [] := by
    rw [State.putEntry, State.srv_modSrv_same]
    exact hnodes
  have hreq : ((b.putEntry n i q).srv n).req i = q := by
    rw [State.putEntry, State.srv_modSrv_same]
    simp [Srv.req, tabGet]
  have hlen : (((b.putEntry n i q).srv n).req i).list.length * (s.srv n).pageTokens = 0 := by
    rw [hreq, ← hq]
    simp [Srv.newEntry, hlist]
  rw [State.takeIn_read hslot hread, hq]
  simp only [lookupPrefix_empty hnodes', hlen]
  rfl

section Enter
variable (s : State) (n i : Nat) (q : Req)

theorem State.enter_req (k : Nat) :
    ((s.enter n i q).srv n).req k = if k = i then { q with cached := 0 } else (s.srv n).req k := by
  rw [State.enter, State.req_modReq, State.putEntry, State.srv_modSrv_same]
  by_cases hk : k = i
  · subst hk
    simp [Srv.req, tabGet]
  · simp [Srv.req, tabGet, hk, tabFind_put_ne hk]

theorem State.enter_hdr : ((s.enter n i q).srv n).hdr = (s.srv n).hdr := by
  rw [State.enter, State.modReq, State.srv_modSrv_same, State.putEntry, State.srv_modSrv_same]

/-- Only the engine's tables differ. -/
theorem State.enter_only : s.enter n i q = { s with srvs := (s.enter n i q).srvs } := rfl

end Enter

/-- A request with a deadline in a program that is not latency-critical is refused (R353). -/
theorem State.admission_uncritical {s : State} {n i h : Nat} {q : Req} (hd : q.deadline ≠ 0)
    (hc : ∀ g, (s.srv n).hdr = some g → g.latencyCritical = false) : s.admission n i q h = .inl 2 := by
  unfold State.admission
  dsimp only
  rw [if_pos]
  refine ⟨hd, ?_⟩
  cases hg : (s.srv n).hdr with
  | none => rfl
  | some g => simp [hc g hg]

/-- One without a deadline reserves no page (R354). -/
theorem State.admission_timeless {s : State} {n i h : Nat} {q : Req} (hd : q.deadline = 0) : s.admission n i q h = .inr 0 := by
  simp [State.admission, hd]

theorem State.acceptEntry_refused {s : State} {n r i h why : Nat} {d : Desc} {q : Req}
    (ha : s.admission n i ((s.srv n).reqAt i) h = .inl why) :
    s.acceptEntry n r i d q h =
      (s.freeEntry n i).complete n r d.id { status := statusAdmissionRefused, detail := why } := by
  simp only [State.acceptEntry, ha]

theorem State.acceptEntry_accepted {s : State} {n r i h need : Nat} {d : Desc} {q : Req}
    (ha : s.admission n i ((s.srv n).reqAt i) h = .inr need) (hp : q.params.penalized = false) :
    s.acceptEntry n r i d q h =
      (s.modReq n i fun q => { q with reserved := need }).complete n r d.id { result := i, detail := h } := by
  simp only [State.acceptEntry, ha, hp, Bool.not_false, if_true]

/-- An entry that leaves the table is free. -/
theorem State.freeEntry_req (s : State) (n i : Nat) : ((s.freeEntry n i).srv n).req i = {} := by
  unfold State.freeEntry
  rw [State.srv_modSrv_same]
  simp [Srv.req, tabGet]

/-- An entry without pages and without a cocoon leaves the table alone. -/
theorem State.freeEntry_empty {s : State} {n i : Nat} (hlist : ((s.srv n).req i).list = [])
    (hsaved : ((s.srv n).req i).saved = none) : ∃ v, s.freeEntry n i = { s with srvs := v } := by
  have hlist' : (tabGet {} (s.srv n).reqs i : Req).list = [] := hlist
  have hsaved' : (tabGet {} (s.srv n).reqs i : Req).saved = none := hsaved
  simp only [State.freeEntry, State.dropList, hlist', hsaved', List.length_nil, List.range_zero, forAll, List.foldl_nil]
  exact ⟨_, rfl⟩

/-! ### A submission in the end -/

section Ends
variable {s b : State} {n r : Nat} {d : Desc} (h : Held b n r d) (hring : b.ring n r = s.ring n r)
include h hring

/-- A completion after an effect that leaves the rings. -/
theorem Held.ends (e : Ending) :
    OnlyRing n r (s.after b) (s.after (b.complete n r d.id e)) ∧ Ended s (s.after (b.complete n r d.id e)) n r d e ∧
      (b.complete n r d.id e).blocked = b.blocked := by
  obtain ⟨hend, honly⟩ := h.complete e
  exact ⟨honly.after_of s, hend.congr hring.symm, honly.leaves.2.2.2⟩

/-- A failure after an effect that leaves the rings. -/
theorem Held.fails (i : ErrInfo) (e : Ending) :
    Ended s (s.after (b.failDesc n r d i e)) n r d { e with errSeq := (s.after b).err.nextSeq } ∧
      (s.after (b.failDesc n r d i e)).err =
        (s.after b).recorded { i with part := n, tag := descTag d.bits, ring := r } ∧
      (b.failDesc n r d i e).blocked = b.blocked := by
  obtain ⟨hleaves, herr, hend⟩ := h.failDesc i e
  exact ⟨hend.congr hring.symm, herr.trans (State.recorded_congr (s := b) (t := s.after b) rfl rfl _).symm, hleaves.2.2.2⟩

end Ends

theorem State.takeIn_grows_all (s : State) (n r : Nat) (d : Desc) (x : Req) : Grows s (s.takeIn n r d x) := by
  cases h : s.freeSlotFor n with
  | none =>
    rw [State.takeIn_full h]
    exact (State.complete_ringOnly _ _ _ _ _).grows
  | some i => exact (s.winRead_grows n _ _).trans (State.takeIn_grows h)

/-- Nothing that follows the read of the block takes a wait back. -/
theorem State.submit_grows {s : State} {n r : Nat} {d : Desc} (hw : s.blockOk n (dfield d.bits 8 8) = true)
    (hstate : (s.srv n).state = .running) (hlead : (s.srv n).lead = true) :
    Grows (s.winRead n (dfield d.bits 8 8) 128).2 (s.submit n r d) := by
  cases hf : (s.winRead n (dfield d.bits 8 8) 128).1.fail with
  | some f =>
    rw [State.submit_unread hw hstate hlead hf]
    exact State.failDesc_grows _ n r d _ _
  | none =>
    have hread := State.descRead_reads (r := r) (d := d) (path := 12) hf
    generalize (s.winRead n (dfield d.bits 8 8) 128).1.bytes = bs at hread
    generalize (s.winRead n (dfield d.bits 8 8) 128).2 = b at hread
    cases hprompt : (s.part n).inWindow (reqOfBlock bs).promptOff (4 * (reqOfBlock bs).promptLen) with
    | false =>
      rw [State.submit_outside hw hstate hlead hread hprompt]
      exact (State.complete_ringOnly _ _ _ _ _).grows
    | true =>
      cases hgood : firstBad bs (b.blockChecks n bs) with
      | some off =>
        rw [State.submit_badBlock hw hstate hlead hread hprompt hgood]
        exact (State.complete_ringOnly _ _ _ _ _).grows
      | none =>
        cases hv : (b.srv n).variantOk (reqOfBlock bs).variant with
        | false =>
          rw [State.submit_badVariant hw hstate hlead hread hprompt hgood hv]
          exact (State.complete_ringOnly _ _ _ _ _).grows
        | true =>
          rw [State.submit_takesIn hw hstate hlead hread hprompt hgood hv]
          exact b.takeIn_grows_all n r d _

@[simp] theorem reqOfBlock_list (bs : List Byte) : (reqOfBlock bs).list = [] := by simp only [reqOfBlock]

@[simp] theorem reqOfBlock_saved (bs : List Byte) : (reqOfBlock bs).saved = none := by simp only [reqOfBlock]

@[simp] theorem reqOfBlock_cached (bs : List Byte) : (reqOfBlock bs).cached = 0 := by simp only [reqOfBlock]

@[simp] theorem reqOfBlock_reserved (bs : List Byte) : (reqOfBlock bs).reserved = 0 := by simp only [reqOfBlock]

section Taken
variable {s b : State} {n r i : Nat} {d : Desc} {x : Req} {words : List Byte} (held : Held b n r d)
  (hslot : s.freeSlotFor n = some i) (hread : s.descRead n r d 12 x.promptOff (4 * x.promptLen) = (some words, b))
  (hlist : x.list = []) (hnodes : (b.srv n).nodes = [])
include held hslot hread hlist hnodes

/-- A request with a deadline in a program that is not latency-critical leaves the table again (R353). -/
theorem State.takeIn_uncritical (hsaved : x.saved = none) (hd : x.deadline ≠ 0)
    (hc : ∀ g, (b.srv n).hdr = some g → g.latencyCritical = false) :
    Ended b (s.takeIn n r d x) n r d { status := statusAdmissionRefused, detail := 2 } ∧
      (s.takeIn n r d x).blocked = b.blocked ∧ ((s.takeIn n r d x).srv n).req i = {} := by
  rw [State.takeIn_empty hslot hread hlist hnodes]
  generalize hq : (s.srv n).newEntry x words = q
  have hreq : ((b.enter n i q).srv n).req i = { q with cached := 0 } := by rw [State.enter_req, if_pos rfl]
  have hadm : (b.enter n i q).admission n i (((b.enter n i q).srv n).reqAt i) 0 = .inl 2 := by
    refine State.admission_uncritical ?_ (by rw [State.enter_hdr]; exact hc)
    have hat : ((b.enter n i q).srv n).reqAt i = { q with cached := 0 } := hreq
    rw [hat, ← hq]
    exact hd
  have hfreed := (b.enter n i q).freeEntry_req n i
  have hempty := State.freeEntry_empty (s := b.enter n i q) (n := n) (i := i) (by rw [hreq, ← hq]; exact hlist)
    (by rw [hreq, ← hq]; exact hsaved)
  have hheld : Held (b.enter n i q) n r d := held.congr rfl rfl
  have hring : (b.enter n i q).ring n r = b.ring n r := rfl
  have hblocked : (b.enter n i q).blocked = b.blocked := rfl
  rw [State.acceptEntry_refused hadm]
  generalize b.enter n i q = u at hfreed hempty hheld hring hblocked ⊢
  obtain ⟨v, hv⟩ := hempty
  rw [hv] at hfreed ⊢
  have hheld' : Held { u with srvs := v } n r d := hheld.congr rfl rfl
  obtain ⟨hend, honly⟩ := hheld'.complete { status := statusAdmissionRefused, detail := 2 }
  refine ⟨hend.congr hring.symm, honly.leaves.2.2.2.trans hblocked, ?_⟩
  rw [honly.1]
  exact hfreed

/-- A request without a deadline and without penalties is accepted (R339, R354). -/
theorem State.takeIn_timeless (hreserved : x.reserved = 0) (hcached : x.cached = 0) (hd : x.deadline = 0)
    (hp : x.params.penalized = false) :
    Ended b (s.takeIn n r d x) n r d { result := i } ∧
      OnlyRing n r { b with srvs := (s.takeIn n r d x).srvs } (s.takeIn n r d x) ∧
      ∀ k, ((s.takeIn n r d x).srv n).req k = if k = i then (s.srv n).newEntry x words else (b.srv n).req k := by
  rw [State.takeIn_empty hslot hread hlist hnodes]
  generalize hq : (s.srv n).newEntry x words = q
  have hreq : ((b.enter n i q).srv n).req i = { q with cached := 0 } := by rw [State.enter_req, if_pos rfl]
  have hat : ((b.enter n i q).srv n).reqAt i = { q with cached := 0 } := hreq
  have hadm : (b.enter n i q).admission n i (((b.enter n i q).srv n).reqAt i) 0 = .inr 0 := by
    refine State.admission_timeless ?_
    rw [hat, ← hq]
    exact hd
  have hpen : q.params.penalized = false := by
    rw [← hq]
    exact hp
  rw [State.acceptEntry_accepted hadm hpen]
  generalize hv : (b.enter n i q).modReq n i (fun q => { q with reserved := 0 }) = v
  have hreqs : ∀ k, (v.srv n).req k = if k = i then q else (b.srv n).req k := by
    intro k
    rw [← hv, State.req_modReq, hreq, State.enter_req]
    by_cases hk : k = i
    · rw [if_pos hk, if_pos hk, ← hq]
      simp only [Srv.newEntry, hreserved, hcached]
    · rw [if_neg hk, if_neg hk, if_neg hk]
  have hvb : v = { b with srvs := v.srvs } := by
    rw [← hv]
    rfl
  have hheld : Held v n r d := by
    rw [hvb]
    exact held
  obtain ⟨hend, honly⟩ := hheld.complete { result := i }
  have hsrvs : (v.complete n r d.id { result := i }).srvs = v.srvs := by rw [honly.1]
  refine ⟨hend.congr (by rw [hvb]; rfl), ?_, fun k => ?_⟩
  · rw [hsrvs, ← hvb]
    exact honly
  · rw [State.srv_congr hsrvs]
    exact hreqs k

end Taken

end Sys2Proof.Machine
end

section
/-! What a read or a write of the window does to memory does not depend on the beat, the jobs, the engines or the contents
of what has left the block. -/

namespace Sys2Proof.Machine

/-- The states agree but for the beat, the jobs, the engines, the tenant queues, the contents of the outputs, the stored
error records and what the event sources said last. -/
def Alike (s t : State) : Prop :=
  ∃ tmb jobs srvs queues out slots latest, out.length = s.out.length ∧
    t = { s with tmb := tmb, jobs := jobs, srvs := srvs, queuesNow := queues, out := out,
                 err := { s.err with slots := slots }, evc := { s.evc with latest := latest } }

theorem Alike.refl (s : State) : Alike s s := ⟨_, _, _, _, _, _, _, rfl, rfl⟩

theorem Alike.ite {s t u v : State} (h : Alike s t) (c : Bool) (g : Alike u v) :
    Alike (if c then s else u) (if c then t else v) := by
  split
  · exact h
  · exact g

section Steps
variable {s t : State} (h : Alike s t)
include h

theorem Alike.mem : t.mem = s.mem := by
  obtain ⟨_, _, _, _, _, _, _, -, rfl⟩ := h
  rfl

theorem Alike.emit (o o' : Output) : Alike (s.emit o) (t.emit o') := by
  obtain ⟨_, _, _, _, _, _, _, hlen, rfl⟩ := h
  exact ⟨_, _, _, _, _, _, _, by simp [hlen, State.emit], rfl⟩

theorem Alike.hostPut (fn : Nat) (a : DWord) (bs bs' : List Byte) : Alike (s.hostPut fn a bs) (t.hostPut fn a bs') := by
  have hats : t.gen = s.gen := by
    obtain ⟨_, _, _, _, _, _, _, -, rfl⟩ := h
    rfl
  unfold State.hostPut
  rw [hats]
  split
  · exact (h.emit _ _).emit _ _
  · exact h.emit _ _

theorem Alike.interrupt (fn k : Nat) : Alike (s.interrupt fn k) (t.interrupt fn k) := by
  have hmsix : t.msixOf fn = s.msixOf fn := by
    obtain ⟨_, _, _, _, _, _, _, -, rfl⟩ := h
    rfl
  unfold State.interrupt
  rw [hmsix]
  dsimp only
  split
  · exact h
  · split
    · obtain ⟨_, _, _, _, _, _, _, hlen, rfl⟩ := h
      exact ⟨_, _, _, _, _, _, _, hlen, rfl⟩
    · exact h.emit _ _

theorem Alike.modEvq (fn : Nat) (f : EvQueue → EvQueue) : Alike (s.modEvq fn f) (t.modEvq fn f) := by
  obtain ⟨_, _, _, _, _, _, _, hlen, rfl⟩ := h
  exact ⟨_, _, _, _, _, _, _, hlen, rfl⟩

theorem Alike.evq (fn : Nat) : t.evq fn = s.evq fn := by
  obtain ⟨_, _, _, _, _, _, _, -, rfl⟩ := h
  rfl

theorem Alike.source (k : Nat) : t.evc.source k = s.evc.source k := by
  obtain ⟨_, _, _, _, _, _, _, -, rfl⟩ := h
  rfl

theorem Alike.evqWrite (fn : Nat) (bs bs' : List Byte) : Alike (s.evqWrite fn bs) (t.evqWrite fn bs') := by
  unfold State.evqWrite
  rw [h.evq]
  dsimp only
  split
  · exact ((h.modEvq fn _).hostPut fn _ _ _).interrupt fn _
  · exact (h.modEvq fn _).hostPut fn _ _ _

theorem Alike.vfPost (n k beat beat' info : Nat) : Alike (s.vfPost n k beat info) (t.vfPost n k beat' info) := by
  unfold State.vfPost
  dsimp only
  rw [h.evq, h.source]
  split
  · exact h
  · split
    · exact (h.evqWrite _ _ _).modEvq _ _
    · exact h.modEvq _ _

theorem Alike.best (k level : Nat) : t.evc.best k level = s.evc.best k level := by
  obtain ⟨_, _, _, _, _, _, _, -, rfl⟩ := h
  rfl

theorem Alike.target (k : Nat) : t.evc.target k = s.evc.target k := by
  obtain ⟨_, _, _, _, _, _, _, -, rfl⟩ := h
  rfl

theorem Alike.taken (j k : Nat) : Alike { s with evc := s.evc.taken j k } { t with evc := t.evc.taken j k } := by
  obtain ⟨_, _, _, _, _, _, _, hlen, rfl⟩ := h
  exact ⟨_, _, _, _, _, _, _, hlen, rfl⟩

theorem Alike.mgt : t.mgt = s.mgt := by
  obtain ⟨_, _, _, _, _, _, _, -, rfl⟩ := h
  rfl

end Steps

theorem Alike.hevosServe {s t : State} (h : Alike s t) (k : Nat) : Alike (hevosServe k s) (hevosServe k t) := by
  induction k generalizing s t with
  | zero => exact h
  | succ k ih =>
    have hrun : t.mgt.running = s.mgt.running := by rw [h.mgt]
    have hrec : t.mgt.receiver = s.mgt.receiver := by rw [h.mgt]
    unfold Machine.hevosServe
    rw [hrun, h.target, h.best]
    split
    · exact h
    · split
      · exact h
      · next c _ _ =>
        have hc := h.taken 1 c
        cases hr : s.mgt.receiver with
        | none =>
          simp only [hrec, hr]
          exact ih hc
        | some x =>
          simp only [hrec, hr]
          exact ih (hc.emit _ _)

theorem Alike.pfQueueServe {s t : State} (h : Alike s t) (k : Nat) : Alike (pfQueueServe k s) (pfQueueServe k t) := by
  induction k generalizing s t with
  | zero => exact h
  | succ k ih =>
    unfold Machine.pfQueueServe
    rw [h.evq, h.target, h.best]
    split
    · exact h
    · dsimp only
      split
      · exact ih ((h.evqWrite _ _ _).taken 0 _)
      · exact h

theorem Alike.evcServe {s t : State} (h : Alike s t) (was : Bool) : Alike (s.evcServe was) (t.evcServe was) := by
  have hserved := h.hevosServe 256
  have hmode : (Machine.hevosServe 256 t).evc.pfQueueMode = (Machine.hevosServe 256 s).evc.pfQueueMode := by
    obtain ⟨_, _, _, _, _, _, _, -, heq⟩ := hserved
    rw [heq]
  have hline : (Machine.hevosServe 256 t).evc.line 0 = (Machine.hevosServe 256 s).evc.line 0 := by
    rw [Evc.line, Evc.line, hserved.best, hserved.target]
  unfold State.evcServe
  dsimp only
  rw [hmode, hline]
  split
  · exact hserved.pfQueueServe 256
  · split
    · exact hserved.interrupt 0 0
    · exact hserved

theorem foldl_latest {g : Evc → Nat → Evc} (hg : ∀ e l k, g { e with latest := l } k = { g e k with latest := l })
    (ks : List Nat) (e : Evc) (l : Tab (Nat × Nat)) :
    ks.foldl g { e with latest := l } = { ks.foldl g e with latest := l } := by
  induction ks generalizing e with
  | nil => rfl
  | cons k ks ih => rw [List.foldl_cons, List.foldl_cons, hg, ih]

/-- A raise counts the same whatever the sources said last. -/
theorem Evc.raised_latest (e : Evc) (l : Tab (Nat × Nat)) (beat beat' k info : Nat) :
    ∃ l', ({ e with latest := l } : Evc).raised beat k info = { e.raised beat' k info with latest := l' } := by
  refine ⟨tabPut k (beat, info) l, ?_⟩
  unfold Evc.raised
  rw [← foldl_latest]
  intro e l t
  by_cases h : (e.source k).route.getLsbD t = true
  · have h' : (({ e with latest := l } : Evc).source k).route.getLsbD t = true := h
    rw [if_pos h, if_pos h']
    rfl
  · have h' : ¬ (({ e with latest := l } : Evc).source k).route.getLsbD t = true := h
    rw [if_neg h, if_neg h']

theorem Alike.raise {s t : State} (h : Alike s t) (k info : Nat) : Alike (s.raise k info) (t.raise k info) := by
  have hraised : Alike { s with evc := s.evc.raised s.tmb.beat k info } { t with evc := t.evc.raised t.tmb.beat k info } := by
    obtain ⟨tmb, _, _, _, _, _, latest, hlen, rfl⟩ := h
    obtain ⟨l, hl⟩ := s.evc.raised_latest latest tmb.beat s.tmb.beat k info
    exact ⟨_, _, _, _, _, _, l, hlen, by dsimp only; rw [hl]⟩
  have hline : t.evc.line 0 = s.evc.line 0 := by rw [Evc.line, Evc.line, h.best, h.target]
  have hserved := hraised.evcServe (s.evc.line 0)
  unfold State.raise State.evcDo
  rw [hline]
  dsimp only
  split
  · exact h
  · split
    · exact hserved.vfPost _ _ _ _ _
    · exact hserved

theorem Alike.log {s t : State} (h : Alike s t) (i : ErrInfo) : Alike (s.log i) (t.log i) := by
  have hseq : t.err.nextSeq = s.err.nextSeq := by
    obtain ⟨_, _, _, _, _, _, _, -, rfl⟩ := h
    rfl
  have hraises : t.err.raises i = s.err.raises i := by
    obtain ⟨_, _, _, _, _, _, _, -, rfl⟩ := h
    rfl
  have hrecorded : Alike { s with err := s.recorded i } { t with err := t.recorded i } := by
    obtain ⟨_, _, _, _, _, slots, _, hlen, rfl⟩ := h
    unfold State.recorded
    dsimp only
    by_cases hroom : s.err.roomFor i.severity = true
    · have hroom' : ({ s.err with slots := slots } : ErrLog).roomFor i.severity = true := hroom
      rw [if_pos hroom, if_pos hroom']
      exact ⟨_, _, _, _, _, _, _, hlen, rfl⟩
    · have hroom' : ¬ ({ s.err with slots := slots } : ErrLog).roomFor i.severity = true := hroom
      rw [if_neg hroom, if_neg hroom']
      exact ⟨_, _, _, _, _, _, _, hlen, rfl⟩
  unfold State.log State.logError
  rw [hseq, hraises]
  dsimp only
  split_ifs
  · exact (hrecorded.raise _ _).vfPost _ _ _ _ _
  · exact hrecorded.vfPost _ _ _ _ _
  · exact hrecorded.raise _ _
  · exact hrecorded

/-! ### The stacks -/

theorem alike_forAll {α : Type} {f : α → State → State} (hf : ∀ a {s t}, Alike s t → Alike (f a s) (f a t)) (xs : List α)
    {s t : State} (h : Alike s t) : Alike (forAll xs f s) (forAll xs f t) := by
  induction xs generalizing s t with
  | nil => exact h
  | cons x xs ih => exact ih (hf x h)

theorem Alike.modStk {s t : State} (h : Alike s t) (k : Nat) (f : StackRegs → StackRegs) :
    Alike (s.modStk k f) (t.modStk k f) := by
  obtain ⟨_, _, _, _, _, _, _, hlen, rfl⟩ := h
  exact ⟨_, _, _, _, _, _, _, hlen, rfl⟩

theorem Alike.setMem {s t : State} (h : Alike s t) (m : Mem) : Alike { s with mem := m } { t with mem := m } := by
  obtain ⟨_, _, _, _, _, _, _, hlen, rfl⟩ := h
  exact ⟨_, _, _, _, _, _, _, hlen, rfl⟩

theorem Alike.stk {s t : State} (h : Alike s t) (k : Nat) : t.stk k = s.stk k := by
  obtain ⟨_, _, _, _, _, _, _, -, rfl⟩ := h
  rfl

theorem Alike.countCe {s t : State} (h : Alike s t) (k : Nat) : Alike (s.countCe k) (t.countCe k) := by
  unfold State.countCe
  rw [h.stk]
  dsimp only
  split
  · exact (((h.modStk k _).modStk k _).log _).raise _ _
  · exact (h.modStk k _).modStk k _

theorem Alike.takeLine (l : Nat) {s t : State} (h : Alike s t) : Alike (s.takeLine l) (t.takeLine l) := by
  have hemit := h.emit (.cacheOwn l) (.cacheOwn l)
  have hlen : t.out.length = s.out.length := by
    obtain ⟨_, _, _, _, _, _, _, hlen, rfl⟩ := h
    exact hlen
  unfold State.takeLine
  rw [hlen]
  dsimp only
  rw [hemit.mem]
  split
  · exact hemit.setMem _
  · exact hemit

theorem Alike.guardedAt {s t : State} (h : Alike s t) (a : Nat) : t.guardedAt a = s.guardedAt a := by
  obtain ⟨_, _, _, _, _, _, _, -, rfl⟩ := h
  rfl

theorem Alike.markAt (a : Nat) {s t : State} (h : Alike s t) : Alike (s.markAt a) (t.markAt a) := by
  unfold State.markAt State.checkAt
  rw [h.guardedAt, h.mem]
  exact h.setMem _

theorem Alike.errsAt {s t : State} (h : Alike s t) (g : Nat) (k : WordErr) : t.errsAt g k = s.errsAt g k := by
  obtain ⟨_, _, _, _, _, _, _, -, rfl⟩ := h
  rfl

theorem Alike.meetGranule (g : Nat) {s t : State} (h : Alike s t) : Alike (s.meetGranule g) (t.meetGranule g) := by
  unfold State.meetGranule
  simp only [h.guardedAt, h.errsAt]
  generalize (s.errsAt g .lost ++ if s.guardedAt g = true then [] else s.errsAt g .single) = lost
  have hcounted := (h.countCe (stackOf g)).ite (s.guardedAt g && !(s.errsAt g .single).isEmpty) h
  have hboth := hcounted.ite (s.errsAt g .recovered).isEmpty (hcounted.countCe (stackOf g))
  exact hboth.ite lost.isEmpty ((alike_forAll (fun w _ _ h => h.markAt (4 * w)) lost hboth).modStk _ _)

theorem Alike.meet {s t : State} (h : Alike s t) (segs : List (Nat × Nat)) : Alike (s.meet segs) (t.meet segs) := by
  have hbad : t.badGranules segs = s.badGranules segs := by
    obtain ⟨_, _, _, _, _, _, _, -, rfl⟩ := h
    rfl
  unfold State.meet
  rw [hbad]
  exact alike_forAll Alike.meetGranule _ h

theorem Alike.cohere {s t : State} (h : Alike s t) (segs : List (Nat × Nat)) : Alike (s.cohere segs) (t.cohere segs) := by
  have hlines : t.hostLines segs = s.hostLines segs := by rw [State.hostLines, State.hostLines, h.mem]
  have hheld : t.held segs = s.held segs := by
    obtain ⟨_, _, _, _, _, _, _, -, rfl⟩ := h
    rfl
  unfold State.cohere
  rw [hlines, hheld]
  refine alike_forAll Alike.takeLine _ ?_
  split
  · obtain ⟨_, _, _, _, _, _, _, hlen, rfl⟩ := h
    exact ⟨_, _, _, _, _, _, _, hlen, rfl⟩
  · exact h

/-! ### Reads and writes of the window -/

theorem State.firstFail_congr {s t : State} (hm : t.mem = s.mem) (hg : ∀ a, t.guardedAt a = s.guardedAt a) (w : Nat)
    (segs : List (Nat × Nat)) : t.firstFail w segs = s.firstFail w segs := by
  induction segs generalizing w with
  | nil => rfl
  | cons x segs ih => simp only [State.firstFail, hm, State.checkAt, hg, ih]

theorem Alike.winRead {s t : State} (h : Alike s t) (n w len : Nat) : (t.winRead n w len).1 = (s.winRead n w len).1 := by
  have hpart : t.part n = s.part n := by
    obtain ⟨_, _, _, _, _, _, _, -, rfl⟩ := h
    rfl
  have hfresh : t.freshCount = s.freshCount := by
    obtain ⟨_, _, _, _, _, _, _, -, rfl⟩ := h
    rfl
  unfold State.winRead State.readSegs
  rw [hpart]
  have hcohere := h.cohere ((s.part n).segs w len)
  have hmeet := hcohere.meet ((s.part n).segs w len)
  simp only [hfresh, hmeet.mem, State.firstFail_congr hmeet.mem hmeet.guardedAt, State.isMarked, hcohere.mem]

theorem Alike.storeAt {s t : State} (h : Alike s t) (a : Nat) (bs : List Byte) :
    Alike (s.storeAt a bs).1 (t.storeAt a bs).1 := by
  have hmeet := (h.cohere [(a, bs.length)]).meet (partWords (s.checkAt a) a bs.length)
  have hcheck : t.checkAt a = s.checkAt a := by rw [State.checkAt, State.checkAt, h.guardedAt]
  unfold State.storeAt
  simp only [hcheck, hmeet.mem, h.guardedAt]
  exact hmeet.setMem _

theorem Alike.writeSegs (segs : List (Nat × Nat)) (bs : List Byte) {s t : State} (h : Alike s t) :
    Alike (writeSegs s segs bs).1 (writeSegs t segs bs).1 := by
  induction segs generalizing bs s t with
  | nil => exact h
  | cons x segs ih => exact ih _ (h.storeAt x.1 (bs.take x.2))

theorem Alike.winWrite {s t : State} (h : Alike s t) (n w : Nat) (bs : List Byte) :
    Alike (s.winWrite n w bs).1 (t.winWrite n w bs).1 := by
  have hpart : t.part n = s.part n := by
    obtain ⟨_, _, _, _, _, _, _, -, rfl⟩ := h
    rfl
  unfold State.winWrite
  rw [hpart]
  exact h.writeSegs _ _

end Sys2Proof.Machine
end

section
/-! What a step boundary leaves of a ring and of a request while it builds the step: the descriptors, the records that are
owed, and what only the host sets (R346, R357). -/

namespace Sys2Proof.Machine

/-! ### No access waits where nothing is read again (R526) -/

theorem LogOnly.blocked {s t : State} (h : LogOnly s t) : t.blocked = s.blocked := h.leaves.2.2.2

theorem EvcOnly.blocked {s t : State} (h : EvcOnly s t) : t.blocked = s.blocked := h.leaves.2.2.2

theorem forAll_blocked {α : Type} {f : α → State → State} (h : ∀ a s, (f a s).blocked = s.blocked) (xs : List α) (s : State) :
    (forAll xs f s).blocked = s.blocked := by
  induction xs generalizing s with
  | nil => rfl
  | cons x xs ih => exact (ih _).trans (h x s)

theorem State.takeLine_blocked (l : Nat) (s : State) : (s.takeLine l).blocked = s.blocked := by
  unfold State.takeLine
  dsimp only
  split <;> rfl

theorem State.cohere_blocked {s : State} (h : s.rereads = []) (segs : List (Nat × Nat)) : (s.cohere segs).blocked = s.blocked := by
  have hheld : s.held segs = false := by simp [State.held, h]
  unfold State.cohere
  rw [hheld, forAll_blocked State.takeLine_blocked]
  rfl

theorem State.countCe_blocked (s : State) (k : Nat) : (s.countCe k).blocked = s.blocked := by
  unfold State.countCe
  dsimp only
  split
  · exact (State.raise_evcOnly _ _ _).blocked.trans (State.log_logOnly _ _).blocked
  · rfl

theorem State.meetGranule_blocked (g : Nat) (s : State) : (s.meetGranule g).blocked = s.blocked := by
  unfold State.meetGranule
  dsimp only
  generalize (s.errsAt g .lost ++ if s.guardedAt g = true then [] else s.errsAt g .single) = lost
  have hsingle : (if (s.guardedAt g && !(s.errsAt g .single).isEmpty) = true then s.countCe (stackOf g) else s).blocked =
      s.blocked := by
    split
    · exact s.countCe_blocked _
    · rfl
  generalize (if (s.guardedAt g && !(s.errsAt g .single).isEmpty) = true then s.countCe (stackOf g) else s) = u at hsingle ⊢
  have hboth : (if (s.errsAt g .recovered).isEmpty = true then u else u.countCe (stackOf g)).blocked = s.blocked := by
    split
    · exact hsingle
    · exact (u.countCe_blocked _).trans hsingle
  split
  · exact hboth
  · exact (forAll_blocked (f := fun w s => s.markAt (4 * w)) (fun _ _ => rfl) lost _).trans hboth

theorem State.meet_blocked (s : State) (segs : List (Nat × Nat)) : (s.meet segs).blocked = s.blocked :=
  forAll_blocked State.meetGranule_blocked _ s

theorem StackOnly.rereads {s t : State} (h : StackOnly s t) : t.rereads = s.rereads := by
  obtain ⟨_, _, _, _, _, _, _, _, rfl⟩ := h
  rfl

theorem State.winRead_blocked {s : State} (h : s.rereads = []) (n w len : Nat) : (s.winRead n w len).2.blocked = s.blocked :=
  (State.meet_blocked _ _).trans (State.cohere_blocked h _)

theorem writeSegs_blocked {s : State} (h : s.rereads = []) (segs : List (Nat × Nat)) (bs : List Byte) :
    (writeSegs s segs bs).1.blocked = s.blocked := by
  induction segs generalizing bs s with
  | nil => rfl
  | cons x segs ih =>
    have hstored := s.storeAt_stackOnly x.1 (bs.take x.2)
    exact (ih (hstored.rereads.trans h) _).trans ((State.meet_blocked _ _).trans (State.cohere_blocked h _))

theorem State.winWrite_blocked {s : State} (h : s.rereads = []) (n w : Nat) (bs : List Byte) :
    (s.winWrite n w bs).1.blocked = s.blocked := writeSegs_blocked h _ _

/-! ### What stays -/

/-- No request has a cancel that waits. -/
def Srv.uncancelled (e : Srv) : Prop := ∀ x ∈ e.reqs, x.2.cancels = []

/-- Of ring `r` the descriptors stay and the records that it owes only grow; of request `i` what `π` sees stays; no cancel
comes to wait, and no access. -/
structure Steady {α : Type} (n r i : Nat) (π : Req → α) (s t : State) : Prop where
  rereads : t.rereads = s.rereads
  blocked : s.rereads = [] → t.blocked = s.blocked
  descs : (t.ring n r).descs = (s.ring n r).descs
  owed : (s.ring n r).owed ⊆ (t.ring n r).owed
  req : π ((t.srv n).req i) = π ((s.srv n).req i)
  uncancelled : (s.srv n).uncancelled → (t.srv n).uncancelled

section
variable {α : Type} {n r i : Nat} {π : Req → α}

theorem Steady.refl (s : State) : Steady n r i π s s := ⟨rfl, fun _ => rfl, rfl, List.Subset.refl _, rfl, id⟩

theorem Steady.congr {s t u : State} (h : Steady n r i π s t) (e : t = u) : Steady n r i π s u := e ▸ h

theorem Steady.trans {s t u : State} (h : Steady n r i π s t) (g : Steady n r i π t u) : Steady n r i π s u where
  rereads := g.rereads.trans h.rereads
  blocked hs := (g.blocked (h.rereads.trans hs)).trans (h.blocked hs)
  descs := g.descs.trans h.descs
  owed := List.Subset.trans h.owed g.owed
  req := g.req.trans h.req
  uncancelled := g.uncancelled ∘ h.uncancelled

/-- What a coarser view sees stays too. -/
theorem Steady.mono {β : Type} {ρ : Req → β} (f : α → β) (hf : ∀ q, ρ q = f (π q)) {s t : State} (h : Steady n r i π s t) :
    Steady n r i ρ s t :=
  ⟨h.rereads, h.blocked, h.descs, h.owed, by rw [hf, hf, h.req], h.uncancelled⟩

theorem steady_forAll {β : Type} {f : β → State → State} (h : ∀ a s, Steady n r i π s (f a s)) (xs : List β) (s : State) :
    Steady n r i π s (forAll xs f s) := by
  induction xs generalizing s with
  | nil => exact .refl s
  | cons x xs ih => exact (h x s).trans (ih _)

/-- A change outside the rings and the engines. -/
theorem Steady.of_eq {s t : State} (hr : t.rereads = s.rereads) (hb : s.rereads = [] → t.blocked = s.blocked)
    (hv : t.vfs = s.vfs) (hs : t.srvs = s.srvs) : Steady n r i π s t := by
  have hring : t.ring n r = s.ring n r := State.ring_of_vfs hv n r
  have hsrv : t.srv n = s.srv n := State.srv_congr hs n
  exact ⟨hr, hb, by rw [hring], by rw [hring]; exact List.Subset.refl _, by rw [hsrv], by rw [hsrv]; exact id⟩

theorem StackOnly.steady {s t : State} (h : StackOnly s t) (hb : s.rereads = [] → t.blocked = s.blocked) :
    Steady n r i π s t := .of_eq h.rereads hb h.vfs h.srvs

theorem LogOnly.steady {s t : State} (h : LogOnly s t) : Steady n r i π s t := h.stackOnly.steady fun _ => h.blocked

theorem State.winRead_steady (s : State) (w len : Nat) : Steady n r i π s (s.winRead n w len).2 :=
  (s.winRead_stackOnly n w len).steady fun h => State.winRead_blocked h n w len

theorem State.winWrite_steady (s : State) (w : Nat) (bs : List Byte) : Steady n r i π s (s.winWrite n w bs).1 :=
  (s.winWrite_stackOnly n w bs).steady fun h => State.winWrite_blocked h n w bs

/-- A change of the engine that keeps what is seen of its requests. -/
theorem State.modSrv_steady (s : State) {f : Srv → Srv} (hreq : π ((f (s.srv n)).req i) = π ((s.srv n).req i))
    (hcancels : (s.srv n).uncancelled → (f (s.srv n)).uncancelled) : Steady n r i π s (s.modSrv n f) := by
  refine ⟨rfl, fun _ => rfl, rfl, List.Subset.refl _, ?_, ?_⟩
  · rw [State.srv_modSrv_same, hreq]
  · rw [State.srv_modSrv_same]
    exact hcancels

/-- A change of the engine that keeps its request table. -/
theorem State.modSrv_steady_of_reqs (s : State) {f : Srv → Srv} (h : (f (s.srv n)).reqs = (s.srv n).reqs) :
    Steady n r i π s (s.modSrv n f) := by
  refine s.modSrv_steady ?_ ?_
  · rw [Srv.req, Srv.req, h]
  · rw [Srv.uncancelled, Srv.uncancelled, h]
    exact id

/-- A change of one request that keeps what is seen of it. -/
theorem State.modReq_steady (s : State) (k : Nat) {f : Req → Req} (hreq : ∀ q, π (f q) = π q)
    (hcancels : ∀ q : Req, q.cancels = [] → (f q).cancels = []) : Steady n r i π s (s.modReq n k f) := by
  refine s.modSrv_steady ?_ ?_
  · rw [Srv.req, tabGet_mod]
    split
    · next h => rw [h]; exact hreq _
    · rfl
  · intro h x hx
    rcases mem_tabMod hx with rfl | hx
    · refine hcancels _ ?_
      rcases tabGet_mem ({} : Req) (s.srv n).reqs k with hk | hk
      · exact h _ hk
      · rw [hk]
    · exact h x hx

theorem tabGet_map {β : Type} {d : β} {g : Nat → β → β} (t : Tab β) (k : Nat) :
    tabGet d (t.map fun (j, x) => (j, g j x)) k = ((tabFind t k).map (g k)).getD d := by
  induction t with
  | nil => rfl
  | cons y t ih =>
    obtain ⟨j, x⟩ := y
    simp only [tabGet, List.map_cons, tabFind_cons] at ih ⊢
    split
    · next h => subst h; rfl
    · exact ih

/-- A change of every request that keeps what is seen of each. -/
theorem State.mapReqs_steady (s : State) {f : Srv → Srv} {g : Nat → Req → Req}
    (hreqs : (f (s.srv n)).reqs = (s.srv n).reqs.map fun (j, q) => (j, g j q)) (hreq : ∀ q, π (g i q) = π q)
    (hcancels : ∀ j q, q.cancels = [] → (g j q).cancels = []) : Steady n r i π s (s.modSrv n f) := by
  refine s.modSrv_steady ?_ ?_
  · rw [Srv.req, Srv.req, hreqs, tabGet_map, tabGet]
    cases tabFind (s.srv n).reqs i with
    | none => rfl
    | some q => exact hreq q
  · intro h x hx
    rw [hreqs] at hx
    obtain ⟨y, hy, rfl⟩ := List.mem_map.1 hx
    exact hcancels _ _ (h y hy)

/-- A record that comes to be owed. -/
theorem State.owe_steady (s : State) (k : Nat) (o : Owed) : Steady n r i π s (s.owe n k o) := by
  rcases s.owe_eq n k o with h | h <;> rw [h]
  · exact .refl s
  · refine ⟨rfl, fun _ => rfl, ?_, ?_, rfl, id⟩
    · rw [State.ring_modRing]
      split
      · next h => rw [h.2]
      · rfl
    · rw [State.ring_modRing]
      split
      · next h =>
        rw [h.2]
        exact List.subset_append_left _ _
      · exact List.Subset.refl _

end

end Sys2Proof.Machine
end

section
/-! Placement leaves what the host sets of a request (R346, R351 to R358): the pages, the draft trees, and the batch. -/

namespace Sys2Proof.Machine

/-- What only the host sets of a request (R346). -/
def Req.named (q : Req) : DWord × Bool × Nat × Nat := (q.tag, q.hostPaused, q.priority, q.deadline)

section
variable {α : Type} {n r i : Nat} {π : Req → α}

/-! ### Pages and nodes -/

theorem State.modNode_steady (s : State) (k : Nat) (f : PrefixNode → PrefixNode) : Steady n r i π s (s.modNode n k f) := by
  unfold State.modNode
  split
  · exact .refl s
  · refine (s.modSrv_steady_of_reqs ?_).trans (State.winWrite_steady _ _ _)
    rfl

theorem State.evict_steady (s : State) (k : Nat) : Steady n r i π s (s.evict n k) := by
  unfold State.evict
  split
  · exact .refl s
  · next x _ =>
    have hwritten := (s.modNode_steady (n := n) (r := r) (i := i) (π := π) x.parent fun y => { y with children := y.children - 1 }).trans
      (State.winWrite_steady _ k (x.bytes false))
    dsimp only
    generalize ((s.modNode n x.parent fun y => { y with children := y.children - 1 }).winWrite n k (x.bytes false)).1 = u
      at hwritten ⊢
    exact hwritten.trans (u.modSrv_steady_of_reqs rfl)

theorem State.takePage_steady {s t : State} {p : Nat} (h : s.takePage n = some (p, t)) : Steady n r i π s t := by
  have hgo (u : State) (p : Nat) : Steady n r i π u
      ((u.modSrv n fun e => { (e.modPage p fun _ => { refs := 1 }) with taken := e.taken ++ [p] }).winWrite n
        ((s.srv n).structAt p) (List.replicate 1024 0xFF)).1 := by
    refine (u.modSrv_steady_of_reqs ?_).trans (State.winWrite_steady _ _ _)
    rfl
  unfold State.takePage at h
  dsimp only at h
  split at h
  · next q _ =>
    obtain ⟨-, rfl⟩ := Prod.mk.inj (Option.some.inj h)
    exact hgo s q
  · split at h
    · next k _ =>
      obtain ⟨x, -, hx⟩ := Option.map_eq_some_iff.1 h
      obtain ⟨-, rfl⟩ := Prod.mk.inj hx
      exact (s.evict_steady k).trans (hgo _ _)
    · exact absurd h nofun

theorem takePages_steady (k : Nat) (s : State) : Steady n r i π s (takePages n k s).2 := by
  induction k generalizing s with
  | zero => exact .refl s
  | succ k ih =>
    unfold takePages
    split
    · next h => exact (State.takePage_steady h).trans (ih _)
    · exact .refl s

/-! ### Changes of a request that the host does not see -/

theorem State.listAdd_steady (s : State) (k p : Nat) (node : Option Nat) :
    Steady n r i Req.named s (s.listAdd n k p node) := s.modReq_steady k (fun _ => rfl) fun _ h => h

theorem givePages_steady (i' : Nat) (k : Nat) (s : State) : Steady n r i Req.named s (givePages n i' k s) := by
  induction k generalizing s with
  | zero => exact .refl s
  | succ k ih =>
    unfold givePages
    split
    · next h =>
      refine (((State.takePage_steady h).trans (State.listAdd_steady _ _ _ _)).trans
        (State.modReq_steady _ i' ?_ ?_)).trans (ih _)
      exacts [fun _ => rfl, fun _ h => h]
    · exact .refl s

theorem State.beginCocoon_steady (s : State) (k : Nat) (bufs idx : List Nat) :
    Steady n r i Req.named s (s.beginCocoon n k bufs idx) := by
  unfold State.beginCocoon
  dsimp only
  refine (s.modSrv_steady_of_reqs ?_).trans (State.modReq_steady _ k ?_ ?_)
  exacts [rfl, fun _ => rfl, fun _ h => h]

theorem State.pause_steady (s : State) (k : Nat) : Steady n r i Req.named s (s.pause n k) := by
  unfold State.pause
  dsimp only
  split
  · exact .refl s
  · refine (s.beginCocoon_steady k _ _).trans (State.modReq_steady _ k ?_ ?_)
    exacts [fun _ => rfl, fun _ h => h]

theorem pauseFor_steady (need : Nat) (vs : List (Nat × Req)) (s : State) : Steady n r i Req.named s (pauseFor n need vs s) := by
  induction vs generalizing s with
  | nil => exact .refl s
  | cons v vs ih =>
    unfold pauseFor
    dsimp only
    split_ifs
    · exact .refl s
    · exact ih s
    · exact (s.pause_steady v.1).trans (ih _)

theorem State.endRequest_steady (s : State) (k reason : Nat) : Steady n r i Req.named s (s.endRequest n k reason) := by
  unfold State.endRequest
  dsimp only
  split
  · exact .refl s
  · refine (s.owe_steady _ _).trans (State.modReq_steady _ k ?_ ?_)
    exacts [fun _ => rfl, fun _ h => h]

theorem State.engineReadFails_steady (s : State) (k w : Nat) (f : ReadFail) :
    Steady n r i Req.named s (s.engineReadFails n k w f) :=
  (s.log_logOnly _).steady.trans (State.endRequest_steady _ _ _)

theorem resumeAll_steady (xs : List (Nat × Req)) (s : State) : Steady n r i Req.named s (resumeAll n xs s) := by
  induction xs generalizing s with
  | nil => exact .refl s
  | cons x xs ih =>
    unfold resumeAll
    dsimp only
    split
    · exact ih s
    · next c _ =>
      generalize c.saved.length + Srv.pagesFor _ _ _ = need
      split
      · exact .refl s
      · refine ((takePages_steady _ s).trans (State.modReq_steady _ x.1 ?_ ?_)).trans (ih _)
        exacts [fun _ => rfl, fun _ h => h]

/-! ### Token records and draft trees -/

theorem State.pageTokensAt_steady (s : State) (q : Req) (lo hi k : Nat) :
    Steady n r i π s (s.pageTokensAt n q lo hi k).2.2 := by
  unfold State.pageTokensAt
  dsimp only
  split
  · exact .refl s
  · exact s.winRead_steady _ _

theorem State.tokensAt_steady (s : State) (q : Req) (lo hi : Nat) : Steady n r i π s (s.tokensAt n q lo hi).2.2 := by
  have h (ks : List Nat) (x : Option (Nat × ReadFail) × List (Option Nat) × State) :
      Steady n r i π x.2.2 (ks.foldl (fun (f, ts, s) k =>
        let (g, us, s1) := s.pageTokensAt n q lo hi k
        (f.or g, ts ++ us, s1)) x).2.2 := by
    induction ks generalizing x with
    | nil => exact .refl _
    | cons k ks ih =>
      obtain ⟨f, ts, s⟩ := x
      rw [List.foldl_cons]
      generalize hy : s.pageTokensAt n q lo hi k = y
      have hstep : Steady n r i π s y.2.2 := hy ▸ s.pageTokensAt_steady q lo hi k
      obtain ⟨g, us, s1⟩ := y
      simp only [hy]
      exact hstep.trans (ih (f.or g, ts ++ us, s1))
  exact h _ (none, [], s)

theorem State.draftTree_steady (s : State) (k : Nat) : Steady n r i Req.named s (s.draftTree n k).2 := by
  unfold State.draftTree
  dsimp only
  split
  · exact .refl s
  · split
    · next w f _ s1 heq =>
      have hread : Steady n r i Req.named s s1 := (s.tokensAt_steady _ _ _).congr (congrArg (fun x => x.2.2) heq)
      exact hread.trans (s1.engineReadFails_steady k w f)
    · next s1 heq => exact (s.tokensAt_steady _ _ _).congr (congrArg (fun x => x.2.2) heq)

theorem State.cands_steady (s : State) : Steady n r i Req.named s (s.cands n).2 := by
  have h (qs : List (Nat × Req)) (x : List (Cand × Req) × State) :
      Steady n r i Req.named x.2 (qs.foldl (fun (cs, s) (i, q) =>
        let (c, s1) := s.cand n i
        (cs ++ [(c, q)], s1)) x).2 := by
    induction qs generalizing x with
    | nil => exact .refl _
    | cons q qs ih =>
      obtain ⟨cs, s⟩ := x
      exact (s.draftTree_steady q.1).trans (ih (cs ++ [((s.cand n q.1).1, q.2)], (s.cand n q.1).2))
  exact h _ ([], s)

theorem State.writeTokens_steady (s : State) (k lo hi : Nat) : Steady n r i π s (s.writeTokens n k lo hi) := by
  unfold State.writeTokens
  refine steady_forAll (fun x s => ?_) _ s
  split
  · split
    · exact s.winWrite_steady _ _
    · exact .refl s
  · exact .refl s

theorem State.readPrompt_steady (s : State) (k lo len : Nat) : Steady n r i Req.named s (s.readPrompt n k lo len).2 := by
  unfold State.readPrompt
  refine (s.winRead_steady _ _).trans (State.modReq_steady _ k ?_ ?_)
  exacts [fun _ => rfl, fun _ h => h]

end

/-! ### The batch -/

/-- Where no cancel waits, what the host sets of request `i` and the records of ring `r` stay. -/
def Undisturbed (n r i : Nat) (s t : State) : Prop := (s.srv n).uncancelled → Steady n r i Req.named s t

section
variable {n r i : Nat}

theorem Steady.undisturbed {s t : State} (h : Steady n r i Req.named s t) : Undisturbed n r i s t := fun _ => h

theorem Undisturbed.refl (s : State) : Undisturbed n r i s s := (Steady.refl s).undisturbed

theorem Undisturbed.trans {s t u : State} (h : Undisturbed n r i s t) (g : Undisturbed n r i t u) : Undisturbed n r i s u :=
  fun hs => (h hs).trans (g ((h hs).uncancelled hs))

/-- No cancel completes where none waits. -/
theorem State.settleCancels_undisturbed (s : State) : Undisturbed n r i s (s.settleCancels n) := by
  intro hs
  have h (xs : List (Nat × Req)) (hxs : ∀ x ∈ xs, x.2.cancels = []) (t : State) :
      Steady n r i Req.named t (forAll xs (fun (i, q) s =>
        if s.finalGone n q then
          (forAll q.cancels (fun (r, d, st) s => s.complete n r d { status := st }) s).modReq n i
            fun q => { q with cancels := [] }
        else s) t) := by
    induction xs generalizing t with
    | nil => exact .refl t
    | cons x xs ih =>
      refine Steady.trans ?_ (ih (fun y hy => hxs y (List.mem_cons_of_mem _ hy)) _)
      dsimp only
      rw [hxs x List.mem_cons_self]
      split
      · refine State.modReq_steady t x.1 ?_ ?_
        exacts [fun _ => rfl, fun _ _ => rfl]
      · exact .refl t
  exact h _ hs s

theorem State.lacksPages_steady (s : State) (k need : Nat) : Steady n r i Req.named s (s.lacksPages n k need) := by
  unfold State.lacksPages
  dsimp only
  split
  · exact s.endRequest_steady _ _
  · exact pauseFor_steady _ _ s

theorem Batch.withoutPaused_steady (b : Batch) : Steady n r i Req.named b.st (b.withoutPaused n).st := by
  unfold Batch.withoutPaused
  dsimp only
  refine steady_forAll (fun (p : Placed) s => s.modReq_steady p.entry ?_ ?_) _ b.st
  exacts [fun _ => rfl, fun _ h => h]

theorem Batch.place_undisturbed (b : Batch) (c : Cand) (w : Nat) : Undisturbed n r i b.st (b.place n c w).1.st := by
  unfold Batch.place
  dsimp only
  generalize placing ((b.st.srv n).req c.entry) c w b.rows = p
  generalize (if p.1.tokens = 0 then 0 else _) = need
  split
  · exact .refl _
  · split
    · have hpaused := (b.st.lacksPages_steady (n := n) (r := r) (i := i) c.entry need).undisturbed.trans
        (State.settleCancels_undisturbed _)
      exact hpaused.trans (Batch.withoutPaused_steady { b with st := _ }).undisturbed
    · split
      · next a f s0 heq =>
        have hread : Steady n r i Req.named b.st s0 := by
          split at heq
          · exact (b.st.readPrompt_steady _ _ _).congr (congrArg Prod.snd heq)
          · exact absurd (congrArg Prod.fst heq) nofun
        exact (hread.trans (s0.engineReadFails_steady c.entry a f)).undisturbed.trans (State.settleCancels_undisturbed _)
      · next s0 heq =>
        have hread : Steady n r i Req.named b.st s0 := by
          split at heq
          · exact (b.st.readPrompt_steady _ _ _).congr (congrArg Prod.snd heq)
          · exact (Steady.refl b.st).congr (congrArg Prod.snd heq)
        have hplaced := (hread.trans (givePages_steady c.entry need s0)).trans
          (State.modReq_steady _ c.entry (f := fun q => { q with
            state := if q.state = .waiting then .prefill else q.state, draft := p.2 }) (fun _ => rfl) fun _ h => h)
        dsimp only
        split
        · exact (hplaced.trans (State.writeTokens_steady _ _ _ _)).undisturbed
        · exact hplaced.undisturbed

theorem serveQueue_undisturbed (cs : List Cand) (d : Nat) (b : Batch) :
    Undisturbed n r i b.st (serveQueue n cs d b).2.2.st := by
  induction cs generalizing d b with
  | nil => exact .refl _
  | cons c cs ih =>
    unfold serveQueue
    dsimp only
    split
    · exact ih d b
    · split
      · exact .refl _
      · exact (b.place_undisturbed c _).trans (ih _ _)

theorem roundRobin_undisturbed (fuel : Nat) (cs : List (Nat × Cand)) (b : Batch) :
    Undisturbed n r i b.st (roundRobin n fuel cs b).st := by
  induction fuel generalizing cs b with
  | zero => exact .refl _
  | succ fuel ih =>
    unfold roundRobin
    split
    · exact .refl _
    · split
      · exact .refl _
      · dsimp only
        refine Undisturbed.trans ?_ (ih _ _)
        exact (serveQueue_undisturbed _ _ b).trans (Steady.undisturbed (State.modSrv_steady_of_reqs _ rfl))

theorem State.placeAll_undisturbed (s : State) : Undisturbed n r i s (s.placeAll n).st := by
  have hlc (cs : List Cand) (b : Batch) : Undisturbed n r i b.st
      (cs.foldl (fun b c => if b.tok = 0 then b else (b.place n c (min c.want b.tok)).1) b).st := by
    induction cs generalizing b with
    | nil => exact .refl _
    | cons c cs ih =>
      rw [List.foldl_cons]
      refine Undisturbed.trans ?_ (ih _)
      split
      · exact .refl _
      · exact b.place_undisturbed c _
  have hcands := s.cands_steady (n := n) (r := r) (i := i)
  unfold State.placeAll
  generalize s.cands n = x at hcands ⊢
  obtain ⟨all, s1⟩ := x
  refine (hcands.undisturbed.trans ?_).trans (roundRobin_undisturbed _ _ _)
  exact hlc _ { st := s1, tok := _, reqs := _, rows := _, due := _, variants := _, placed := _ }

end

end Sys2Proof.Machine
end

section
/-! The rest of a step boundary leaves a request's page list and state: mask rows, page-list blocks, the plan and the step's
jobs (R357 orders 2 to 4, R378, R395, R396). -/

namespace Sys2Proof.Machine

/-- A request but for what its step plan, its mask row and its page-list blocks need. -/
def Req.kept (q : Req) : Req :=
  { q with maskRow := none, blocks := [], listDirty := false, planned := 0, moves := [], cached := 0 }

/-- What a request keeps through a step. -/
theorem Req.of_kept {x y : Req} (h : x.kept = y.kept) :
    x.state = y.state ∧ x.ending = y.ending ∧ x.hostPaused = y.hostPaused ∧ x.pausedFrom = y.pausedFrom ∧
      x.generation = y.generation ∧ x.list = y.list :=
  ⟨congrArg (·.state) h, congrArg (·.ending) h, congrArg (·.hostPaused) h, congrArg (·.pausedFrom) h,
    congrArg (·.generation) h, congrArg (·.list) h⟩

/-- Stack memory, the timebase, the rings, the engines, and whether an access waits are as before. -/
structure Apart (s t : State) : Prop where
  mem : t.mem = s.mem
  tmb : t.tmb = s.tmb
  vfs : t.vfs = s.vfs
  srvs : t.srvs = s.srvs
  rereads : t.rereads = s.rereads
  blocked : t.blocked = s.blocked

theorem Apart.refl (s : State) : Apart s s := ⟨rfl, rfl, rfl, rfl, rfl, rfl⟩

theorem Apart.trans {s t u : State} (h : Apart s t) (g : Apart t u) : Apart s u :=
  ⟨g.mem.trans h.mem, g.tmb.trans h.tmb, g.vfs.trans h.vfs, g.srvs.trans h.srvs, g.rereads.trans h.rereads, g.blocked.trans h.blocked⟩

theorem Apart.steady {α : Type} {n r i : Nat} {π : Req → α} {s t : State} (h : Apart s t) : Steady n r i π s t :=
  .of_eq h.rereads (fun _ => h.blocked) h.vfs h.srvs

theorem apart_forAll {β : Type} {f : β → State → State} (h : ∀ a s, Apart s (f a s)) (xs : List β) (s : State) :
    Apart s (forAll xs f s) := by
  induction xs generalizing s with
  | nil => exact .refl s
  | cons x xs ih => exact (h x s).trans (ih _)

/-! ### Jobs -/

theorem State.modJob_apart (s : State) (k : Nat) (f : Job → Job) : Apart s (s.modJob k f) := by
  obtain ⟨js, h⟩ := s.modJob_only k f
  rw [h]
  exact ⟨rfl, rfl, rfl, rfl, rfl, rfl⟩

theorem State.modJobVats_apart (s : State) (j : Job) (f : Vat → Vat) : Apart s (s.modJobVats j f) :=
  apart_forAll (f := fun v s => s.modVat v f) (fun _ _ => ⟨rfl, rfl, rfl, rfl, rfl, rfl⟩) _ s

theorem State.modVpoint_apart (s : State) (k : Nat) (f : VPoint → VPoint) : Apart s (s.modVpoint k f) := ⟨rfl, rfl, rfl, rfl, rfl, rfl⟩

theorem State.wakeIslands_apart (s : State) (j : Job) : Apart s (s.wakeIslands j) := by
  unfold State.wakeIslands
  refine apart_forAll (fun k s => (s.modVpoint_apart k fun v => { v with idleSince := none }).trans ?_) _ s
  dsimp only
  split
  · exact State.modVpoint_apart _ _ _
  · exact .refl _

theorem State.take_apart (s : State) (j : Job) : Apart s (s.take j) :=
  ((s.modJob_apart _ _).trans (State.modJobVats_apart _ _ _)).trans (State.wakeIslands_apart _ _)

theorem startWaiting_apart (n k : Nat) (s : State) : Apart s (startWaiting n k s) := by
  induction k generalizing s with
  | zero => exact .refl s
  | succ k ih =>
    unfold startWaiting
    split
    · exact .refl s
    · exact (s.take_apart _).trans (ih _)

theorem State.giveWay_apart (s : State) (j : Job) : Apart s (s.giveWay j) := by
  unfold State.giveWay
  dsimp only
  split
  · exact (s.modJob_apart _ _).trans (State.modJobVats_apart _ _ _)
  · exact (s.modJob_apart _ _).trans (State.modJobVats_apart _ _ _)
  · exact (s.modJob_apart _ _).trans (State.modJobVats_apart _ _ _)
  · exact (s.modJob_apart _ _).trans (State.modJobVats_apart _ _ _)
  · exact .refl s

theorem State.settleJobs_apart (s : State) (n : Nat) : Apart s (s.settleJobs n) :=
  (apart_forAll (fun _ s => apart_forAll (fun j s => s.giveWay_apart j) _ s) _ s).trans (startWaiting_apart _ _ _)

/-! ### Jobs of the near-bank engines -/

theorem State.offerMoves_apart (s : State) (n : Nat) (job : Option Nat) (list : List Nat) (moves : List (Nat × Nat)) :
    Apart s (s.offerMoves n job list moves) := by
  unfold State.offerMoves
  dsimp only
  split
  · exact .refl s
  · refine apart_forAll (fun x s => ?_) _ s
    exact ⟨rfl, rfl, rfl, rfl, rfl, rfl⟩

theorem State.offerAllMoves_apart (s : State) (n : Nat) (job : Option Nat) (moves : List (List Nat × List (Nat × Nat))) :
    Apart s (forAll moves (fun (list, m) s => s.offerMoves n job list m) s) :=
  apart_forAll (fun (x : List Nat × List (Nat × Nat)) s => s.offerMoves_apart n job x.1 x.2) moves s

theorem State.offerAttention_apart (s : State) (n : Nat) (job : Option Nat) : Apart s (s.offerAttention n job) := by
  unfold State.offerAttention
  refine apart_forAll (fun x s => apart_forAll (fun y s => ?_) _ s) _ s
  exact ⟨rfl, rfl, rfl, rfl, rfl, rfl⟩

section
variable {n r i : Nat}

theorem State.startStep_steady (s : State) : Steady n r i Req.kept s (s.startStep n) := by
  unfold State.startStep
  split
  · exact .refl s
  · refine Steady.trans ?_ (State.settleJobs_apart _ n).steady
    refine Steady.trans (Apart.steady ?_) (State.modSrv_steady_of_reqs _ ?_)
    exacts [⟨rfl, rfl, rfl, rfl, rfl, rfl⟩, rfl]

theorem State.runStep_steady (s : State) (moves : List (List Nat × List (Nat × Nat))) :
    Steady n r i Req.kept s (s.runStep n moves) := by
  unfold State.runStep
  dsimp only
  split
  · exact ((s.offerAllMoves_apart n _ moves).steady.trans (State.startStep_steady _)).trans (State.offerAttention_apart _ _ _).steady
  · exact (s.offerAllMoves_apart n _ moves).steady

/-! ### Mask rows, page-list blocks and the plan -/

theorem State.assignRows_steady (s : State) (placed : List Placed) : Steady n r i Req.kept s (s.assignRows n placed) := by
  unfold State.assignRows
  refine Steady.trans ?rows (steady_forAll (fun (p : Placed) s => ?row) _ _)
  case rows =>
    refine s.mapReqs_steady (g := fun k q =>
      if placed.any fun p => p.entry == k && p.tree then q else { q with maskRow := none }) ?_ ?_ ?_
    · rfl
    · intro q
      split <;> rfl
    · intro k q h
      split
      · exact h
      · exact h
  case row =>
    exact s.modReq_steady p.entry (f := fun q => { q with
      maskRow := q.maskRow.or
        (findFrom (fun r => !((s.srv n).reqs.any fun (_, q) => q.maskRow == some r)) 1 (s.srv n).batchMax 0) })
      (fun _ => rfl) fun _ h => h

theorem State.writeMask_steady {α : Type} {π : Req → α} (s : State) (p : Placed) : Steady n r i π s (s.writeMask n p) := by
  unfold State.writeMask
  dsimp only
  split
  · split
    · exact .refl s
    · refine steady_forAll (fun x s => ?_) _ s
      split
      · exact s.winWrite_steady _ _
      · exact .refl s
  · exact .refl s

theorem growBlocks_steady (k fuel : Nat) (s : State) : Steady n r i Req.kept s (growBlocks n k fuel s) := by
  induction fuel generalizing s with
  | zero => exact .refl s
  | succ fuel ih =>
    unfold growBlocks
    dsimp only
    split
    · exact .refl s
    · split
      · exact .refl s
      · next idx _ =>
        have hslots : Steady n r i Req.kept s (s.modSrv n fun e =>
          { e with slots := [idx, idx + 1, idx + 2, idx + 3] ++ e.slots }) := s.modSrv_steady_of_reqs rfl
        have hblock := hslots.trans (State.modReq_steady _ k (f := fun q => { q with blocks := q.blocks ++ [idx] })
          (fun _ => rfl) fun _ h => h)
        exact hblock.trans (ih _)

theorem State.writeList_steady (s : State) (k : Nat) : Steady n r i Req.kept s (s.writeList n k) := by
  unfold State.writeList
  dsimp only
  split
  · exact .refl s
  · refine Steady.trans ?_ (steady_forAll (fun b s => s.winWrite_steady _ _) _ _)
    refine ((growBlocks_steady k _ s).trans (State.modSrv_steady_of_reqs _ ?_)).trans (State.modReq_steady _ k ?_ ?_)
    exacts [rfl, fun _ => rfl, fun _ h => h]

theorem State.bindStep_steady {α : Type} {π : Req → α} (s : State) (tokens : List Nat) :
    Steady n r i π s (s.bindStep n tokens) := s.modSrv_steady_of_reqs rfl

theorem State.sendPlan_steady (s : State) (old : Srv) (stop : Bool) : Steady n r i Req.kept s (s.sendPlan n old stop) := by
  have hplanned (u : State) : Steady n r i Req.kept u (u.modSrv n fun e =>
      { e with reqs := e.reqs.map fun (i, q) => (i, { q with planned := q.known }) }) :=
    u.mapReqs_steady (g := fun _ q => { q with planned := q.known }) rfl (fun _ => rfl) fun _ _ h => h
  have hplan (c : Bool) (o : Output) : Apart s (if c then s.emit o else s) := by
    split
    · exact ⟨rfl, rfl, rfl, rfl, rfl, rfl⟩
    · exact .refl s
  exact (hplan _ _).steady.trans (hplanned _)

theorem State.movesIssued_steady (s : State) (k : Nat) : Steady n r i Req.kept s (s.movesIssued n k) := by
  refine s.modReq_steady k ?_ ?_
  · intro q
    split <;> rfl
  · intro q h
    split
    · exact h
    · exact h

/-! ### The boundary -/

/-- What follows the placement of a step: mask rows, page lists, the plan and the step's jobs (R357). -/
def Batch.finish (b : Batch) (n : Nat) (old : Srv) : State :=
  let s1 := (b.st.modSrv n fun e => { e with placed := b.placed }).assignRows n b.placed
  let s2 := forAll b.placed (fun p s => s.writeMask n p) (s1.eachReq n fun i s => s.writeList n i)
  let s3 := (s2.bindStep n (b.placed.flatMap (s2.srv n).slotTokens)).sendPlan n old false
  let moves := ((s3.srv n).reqs.filter fun (_, q) => q.going).map fun (_, q) => (q.list, q.moves)
  let s4 := (s3.eachReq n fun i s => s.movesIssued n i).modSrv n fun e => { e with taken := [], released := [] }
  s4.runStep n moves

theorem State.buildStep_eq (s : State) (n : Nat) (old : Srv) :
    s.buildStep n old = ((resumeAll n (s.srv n).resumable s).placeAll n).finish n old := rfl

theorem Batch.finish_steady (b : Batch) (old : Srv) : Steady n r i Req.kept b.st (b.finish n old) := by
  have hplaced : Steady n r i Req.kept b.st (b.st.modSrv n fun e => { e with placed := b.placed }) :=
    b.st.modSrv_steady_of_reqs rfl
  have hreset (s : State) : Steady n r i Req.kept s (s.modSrv n fun e => { e with taken := [], released := [] }) :=
    s.modSrv_steady_of_reqs rfl
  unfold Batch.finish
  refine Steady.trans ?_ (State.runStep_steady _ _)
  refine Steady.trans ?_ (hreset _)
  refine Steady.trans ?_ (steady_forAll (fun k s => s.movesIssued_steady k) _ _)
  refine Steady.trans ?_ (State.sendPlan_steady _ _ _)
  refine Steady.trans ?_ (State.bindStep_steady _ _)
  refine Steady.trans ?_ (steady_forAll (fun p s => s.writeMask_steady p) _ _)
  refine Steady.trans ?_ (steady_forAll (fun k s => s.writeList_steady k) _ _)
  exact hplaced.trans (State.assignRows_steady _ _)

/-- Building a step leaves what the host sets of a request, the descriptors, and the records that are owed. -/
theorem State.buildStep_undisturbed (s : State) (old : Srv) : Undisturbed n r i s (s.buildStep n old) := by
  rw [State.buildStep_eq]
  exact ((resumeAll_steady _ s).undisturbed.trans (State.placeAll_undisturbed _)).trans
    ((Batch.finish_steady _ old).mono Req.named fun _ => rfl).undisturbed

end

end Sys2Proof.Machine
end

section
/-! A step boundary whose only request does not run: it builds a step without a placed request (R346, R351, R357). -/

namespace Sys2Proof.Machine

/-! ### The one request of an engine -/

theorem tabMod_one {i : Nat} {q : Req} {f : Req → Req} (h : (f q).state ≠ .free) : tabMod {} [(i, q)] i f = [(i, f q)] := by
  have hget : tabGet {} [(i, q)] i = q := by simp [tabGet, tabFind]
  have hne : f q ≠ {} := fun heq => h (by rw [heq])
  rw [tabMod, hget, tabSet, if_neg hne]
  simp [tabPut]

theorem Srv.req_one {e : Srv} {i : Nat} {q : Req} (h : e.reqs = [(i, q)]) : e.req i = q := by
  simp [Srv.req, h, tabGet, tabFind]

/-! ### Placement without a request that may run -/

/-- A request that the host holds, or that has ended, does not run (R346, R351). -/
def Req.resting (q : Req) : Prop := q.hostPaused = true ∨ q.state = .done

theorem State.runnable_resting {q : Req} (h : q.resting) (s : State) (n : Nat) : s.runnable n q = false := by
  unfold State.runnable
  rcases h with h | h
  · simp [h]
  · simp [h]

theorem Srv.resumable_resting {e : Srv} {i : Nat} {q : Req} (h : e.reqs = [(i, q)]) (hq : q.resting) : e.resumable = [] := by
  have hnone : (q.state == .paused && !q.hostPaused) = false := by
    rcases hq with hq | hq
    · simp [hq]
    · simp [hq]
  simp [Srv.resumable, h, hnone, sortBy]

theorem roundRobin_nil (n fuel : Nat) (b : Batch) : roundRobin n fuel [] b = b := by
  cases fuel with
  | zero => rfl
  | succ fuel => simp [roundRobin, nextQueue, sortBy]

section
variable {s : State} {n i : Nat} {q : Req} (hreqs : (s.srv n).reqs = [(i, q)]) (hq : q.resting)
include hreqs hq

theorem State.placeAll_resting : (s.placeAll n).st = s ∧ (s.placeAll n).placed = [] := by
  have hcands : s.cands n = ([], s) := by simp [State.cands, hreqs, State.runnable_resting hq]
  simp [State.placeAll, hcands, sortBy, lcOrder, roundRobin_nil]

theorem State.buildStep_resting (old : Srv) : ∃ b : Batch, b.st = s ∧ b.placed = [] ∧ s.buildStep n old = b.finish n old := by
  have hresume : resumeAll n (s.srv n).resumable s = s := by
    rw [Srv.resumable_resting hreqs hq]
    rfl
  obtain ⟨hst, hplaced⟩ := State.placeAll_resting hreqs hq
  exact ⟨s.placeAll n, hst, hplaced, by rw [State.buildStep_eq, hresume]⟩

end

/-! ### A step without a placed request leaves memory and the beat -/

/-- Stack memory and the timebase are as before. -/
def SameMem (s t : State) : Prop := t.mem = s.mem ∧ t.tmb = s.tmb

theorem SameMem.refl (s : State) : SameMem s s := ⟨rfl, rfl⟩

theorem SameMem.trans {s t u : State} (h : SameMem s t) (g : SameMem t u) : SameMem s u :=
  ⟨g.1.trans h.1, g.2.trans h.2⟩

theorem Apart.sameMem {s t : State} (h : Apart s t) : SameMem s t := ⟨h.mem, h.tmb⟩

theorem State.modSrv_sameMem (s : State) (n : Nat) (f : Srv → Srv) : SameMem s (s.modSrv n f) := ⟨rfl, rfl⟩

theorem forAll_sameMem {β : Type} {f : β → State → State} (h : ∀ a s, SameMem s (f a s)) (xs : List β) (s : State) :
    SameMem s (forAll xs f s) := by
  induction xs generalizing s with
  | nil => exact .refl s
  | cons x xs ih => exact (h x s).trans (ih _)

theorem State.runStep_sameMem (s : State) (n : Nat) (moves : List (List Nat × List (Nat × Nat))) :
    SameMem s (s.runStep n moves) := by
  have hstart (s : State) : SameMem s (s.startStep n) := by
    unfold State.startStep
    split
    · exact .refl s
    · refine SameMem.trans ?_ (State.settleJobs_apart _ n).sameMem
      exact ⟨rfl, rfl⟩
  unfold State.runStep
  dsimp only
  split
  · exact ((s.offerAllMoves_apart n _ moves).sameMem.trans (hstart _)).trans (State.offerAttention_apart _ _ _).sameMem
  · exact (s.offerAllMoves_apart n _ moves).sameMem

theorem State.sendPlan_sameMem (s : State) (n : Nat) (old : Srv) (stop : Bool) : SameMem s (s.sendPlan n old stop) := by
  have hplan (c : Bool) (o : Output) : SameMem s (if c then s.emit o else s) := by
    split
    · exact ⟨rfl, rfl⟩
    · exact .refl s
  exact (hplan _ _).trans (State.modSrv_sameMem _ n _)

/-- A page list that is up to date is not written. -/
theorem State.writeList_clean {s : State} {n : Nat} (k : Nat) (h : ((s.srv n).req k).listDirty = false) :
    s.writeList n k = s := by
  have hclean : (tabGet {} (s.srv n).reqs k : Req).state = .free ∨
      (!(tabGet {} (s.srv n).reqs k : Req).listDirty) = true := .inr (congrArg (!·) h)
  unfold State.writeList
  exact if_pos hclean

theorem Batch.finish_sameMem {b : Batch} {n : Nat} {i : Nat} {q : Req} (hplaced : b.placed = [])
    (hreqs : (b.st.srv n).reqs = [(i, q)]) (hclean : q.listDirty = false) (old : Srv) : SameMem b.st (b.finish n old) := by
  generalize hs1 : (b.st.modSrv n fun e => { e with placed := b.placed }).assignRows n b.placed = s1
  have hassigned : SameMem b.st s1 := by
    rw [← hs1, hplaced]
    exact ⟨rfl, rfl⟩
  have hentry : (s1.srv n).reqs = [(i, { q with maskRow := none })] := by
    rw [← hs1, hplaced]
    simp [State.assignRows, forAll, hreqs]
  have hwritten : s1.eachReq n (fun i s => s.writeList n i) = s1 := by
    have hlist : s1.writeList n i = s1 := State.writeList_clean i (by rw [Srv.req_one hentry]; exact hclean)
    simp [State.eachReq, hentry, forAll, hlist]
  unfold Batch.finish
  dsimp only
  rw [hs1, hwritten, hplaced]
  refine hassigned.trans (SameMem.trans ?_ (State.runStep_sameMem _ _ _))
  refine SameMem.trans ?_ (State.modSrv_sameMem _ n _)
  refine SameMem.trans ?_ (forAll_sameMem (fun k s => s.modSrv_sameMem n _) _ _)
  refine SameMem.trans ?_ (State.sendPlan_sameMem _ _ _ _)
  exact State.modSrv_sameMem _ n _

section
variable {s : State} {n r i : Nat} {q : Req} (hreqs : (s.srv n).reqs = [(i, q)]) (hq : q.resting)
include hreqs hq

/-- Building a step leaves the list and the state of a request that does not run. -/
theorem State.buildStep_kept (old : Srv) : Steady n r i Req.kept s (s.buildStep n old) := by
  obtain ⟨b, hst, -, hbuild⟩ := State.buildStep_resting hreqs hq old
  rw [hbuild, ← hst]
  exact b.finish_steady old

/-- Where the list of such a request is up to date, building a step writes nothing. -/
theorem State.buildStep_sameMem (hclean : q.listDirty = false) (old : Srv) : SameMem s (s.buildStep n old) := by
  obtain ⟨b, hst, hplaced, hbuild⟩ := State.buildStep_resting hreqs hq old
  rw [hbuild, ← hst]
  exact b.finish_sameMem hplaced (hst ▸ hreqs) hclean old

end

end Sys2Proof.Machine
end

section
/-! How a step boundary begins, and what it does once the descriptors that waited for it have taken effect (R343, R357). -/

namespace Sys2Proof.Machine

/-! ### Descriptors that the engine holds -/

theorem perm_insertBy {α : Type} (key : α → Nat) (x : α) (xs : List α) : (insertBy key x xs).Perm (x :: xs) := by
  induction xs with
  | nil => exact .refl _
  | cons y ys ih =>
    unfold insertBy
    split
    · exact .refl _
    · exact (ih.cons y).trans (.swap x y ys)

theorem perm_sortBy {α : Type} (key : α → Nat) (xs : List α) : (sortBy key xs).Perm xs := by
  have h (t : List α) : (xs.foldl (fun t x => insertBy key x t) t).Perm (xs ++ t) := by
    induction xs generalizing t with
    | nil => exact .refl _
    | cons x xs ih => exact (ih _).trans ((List.Perm.append_left xs (perm_insertBy key x t)).trans List.perm_middle)
  exact (h []).trans (.of_eq xs.append_nil)

/-- The descriptors with one of these opcodes that wait for the engine, ring by ring. -/
def State.waiting (s : State) (n : Nat) (ops : List Nat) : List (Nat × Desc) :=
  (List.range 8).flatMap fun r =>
    ((s.ring n r).descs.filter fun d => d.state == .serving && ops.contains (descOpcode d.bits)).map fun d => (r, d)

theorem State.heldDescs_eq (s : State) (n : Nat) (ops : List Nat) :
    s.heldDescs n ops = sortBy (fun x : Nat × Desc => x.2.id) (s.waiting n ops) := rfl

theorem State.mem_heldDescs {s : State} {n : Nat} {ops : List Nat} {x : Nat × Desc} : x ∈ s.heldDescs n ops ↔
    x.1 < 8 ∧ x.2 ∈ (s.ring n x.1).descs ∧ x.2.state = .serving ∧ descOpcode x.2.bits ∈ ops := by
  rw [State.heldDescs_eq, (perm_sortBy _ _).mem_iff, State.waiting]
  obtain ⟨r, d⟩ := x
  simp only [List.mem_flatMap, List.mem_range, List.mem_map, List.mem_filter, Bool.and_eq_true, beq_iff_eq,
    List.contains_iff_mem, Prod.mk.injEq]
  constructor
  · rintro ⟨k, hk, y, ⟨hy, hs, ho⟩, rfl, rfl⟩
    exact ⟨hk, hy, hs, ho⟩
  · rintro ⟨hk, hy, hs, ho⟩
    exact ⟨r, hk, d, ⟨hy, hs, ho⟩, rfl, rfl⟩

/-- Of fewer opcodes the engine holds those descriptors of more that have one of them. -/
theorem State.waiting_filter (s : State) (n : Nat) {ops more : List Nat} (h : ∀ o ∈ ops, o ∈ more) :
    s.waiting n ops = (s.waiting n more).filter fun x => ops.contains (descOpcode x.2.bits) := by
  unfold State.waiting
  rw [List.filter_flatMap]
  refine List.flatMap_congr fun r _ => ?_
  rw [List.filter_map, List.filter_filter]
  refine congrArg _ (List.filter_congr fun d _ => ?_)
  by_cases ho : descOpcode d.bits ∈ ops
  · simp [ho, h _ ho]
  · simp [ho]

/-- Where the engine holds one descriptor, it holds that of each opcode set that has its opcode. -/
theorem State.heldDescs_one {s : State} {n : Nat} {ops more : List Nat} {x : Nat × Desc} (h : ∀ o ∈ ops, o ∈ more)
    (hone : s.heldDescs n more = [x]) (hx : descOpcode x.2.bits ∈ ops) : s.heldDescs n ops = [x] := by
  have hwaits : s.waiting n more = [x] := by
    rw [State.heldDescs_eq] at hone
    exact List.perm_singleton.1 (hone ▸ (perm_sortBy _ _).symm)
  have hone' : s.waiting n ops = [x] := by simp [s.waiting_filter n h, hwaits, hx]
  rw [State.heldDescs_eq, hone']
  rfl

theorem State.heldDescs_nil {s : State} {n : Nat} {ops more : List Nat} {x : Nat × Desc} (h : ∀ o ∈ ops, o ∈ more)
    (hone : s.heldDescs n more = [x]) (hx : descOpcode x.2.bits ∉ ops) : s.heldDescs n ops = [] := by
  refine List.eq_nil_iff_forall_not_mem.2 fun y hy => ?_
  obtain ⟨hr, hd, hs, ho⟩ := State.mem_heldDescs.1 hy
  have hmore : y ∈ s.heldDescs n more := State.mem_heldDescs.2 ⟨hr, hd, hs, h _ ho⟩
  rw [hone, List.mem_singleton] at hmore
  exact hx (hmore ▸ ho)

theorem State.heldDescs_nil_of_subset {s t : State} {n : Nat} {ops : List Nat} (hnone : s.heldDescs n ops = [])
    (h : ∀ k, (t.ring n k).descs ⊆ (s.ring n k).descs) : t.heldDescs n ops = [] := by
  refine List.eq_nil_iff_forall_not_mem.2 fun y hy => ?_
  obtain ⟨hr, hd, hs, ho⟩ := State.mem_heldDescs.1 hy
  have hmem : y ∈ s.heldDescs n ops := State.mem_heldDescs.2 ⟨hr, h _ hd, hs, ho⟩
  rw [hnone] at hmem
  exact List.not_mem_nil hmem

theorem State.heldDescs_congr {s t : State} (h : t.vfs = s.vfs) (n : Nat) (ops : List Nat) :
    t.heldDescs n ops = s.heldDescs n ops := by
  have hring (r : Nat) : t.ring n r = s.ring n r := State.ring_of_vfs h n r
  simp only [State.heldDescs, hring]

/-! ### The beginning of a boundary -/

/-- A step boundary as it begins: its beat has come, and the tenant queues take effect (R357, R591). -/
def State.opened (s : State) (n : Nat) : State :=
  ((s.advanceTo (s.boundaryBeat n)).modSrv n fun e =>
    { e with nextBoundary := s.boundaryBeat n + s.stepPeriod n }).latchQueues n

theorem alike_opened (s : State) (n : Nat) : Alike s (s.opened n) := ⟨_, _, _, _, _, _, _, rfl, rfl⟩

theorem State.opened_srv (s : State) (n : Nat) :
    (s.opened n).srv n = { s.srv n with nextBoundary := s.boundaryBeat n + s.stepPeriod n } := by
  change ((s.advanceTo (s.boundaryBeat n)).modSrv n fun e =>
    { e with nextBoundary := s.boundaryBeat n + s.stepPeriod n }).srv n = _
  rw [State.srv_modSrv_same]
  rfl

/-- An engine that may meet its boundary now: it runs here as the lead, between two steps and outside a hold (R357). -/
def State.meetsBoundary (s : State) (n : Nat) : Prop :=
  (s.srv n).state = .running ∧ (s.srv n).lead = true ∧ (s.srv n).inStep = false ∧ s.engineMoves n = false ∧
    s.inHold (s.part n).swarm.toNat = false

theorem forAll_one {α : Type} (x : α) (f : α → State → State) (s : State) : forAll [x] f s = f x s := rfl

/-- A request without a full page has no page to seal. -/
theorem State.sealPages_none {s : State} {n i : Nat} {q : Req} (hreqs : (s.srv n).reqs = [(i, q)])
    (hcached : q.cached < (s.srv n).pageTokens) : s.sealPages n i = s := by
  have hreq : (tabGet {} (s.srv n).reqs i : Req) = q := Srv.req_one hreqs
  unfold State.sealPages
  dsimp only
  rw [hreq, Nat.div_eq_of_lt hcached, Nat.min_zero]
  rfl

/-- With one request, which fills no page and has neither a draft tree nor a cocoon, the descriptors that waited take
effect first. -/
theorem State.stepBoundary_opened {s : State} {n i : Nat} {q : Req} (hmeets : s.meetsBoundary n)
    (hreqs : (s.srv n).reqs = [(i, q)]) (hcached : q.cached < (s.srv n).pageTokens) (hdraft : q.draft = [])
    (hsaved : q.saved = none) {u : State} (hu : ((((s.opened n).applyHeld n).releaseDone n).endAborted n) = u)
    (hrun : (u.srv n).state = .running) : s.stepBoundary n = u.buildStep n (s.srv n) := by
  obtain ⟨hstate, hlead, hstep, hmoves, hhold⟩ := hmeets
  have hopen : ((s.opened n).srv n).reqs = [(i, q)] := by rw [State.opened_srv]; exact hreqs
  have hseal : (s.opened n).sealPages n i = s.opened n := by
    refine State.sealPages_none hopen ?_
    rw [State.opened_srv]
    exact hcached
  have hdrafts : (s.opened n).endDraft n i = s.opened n := by
    simp [State.endDraft, Srv.req_one hopen, hdraft]
  have hcocoon : (s.opened n).cocoonStep n i = s.opened n := by
    simp only [State.cocoonStep, Srv.req_one hopen, hsaved]
  have heach1 : (s.opened n).eachReq n (fun i s => s.sealPages n i) = s.opened n := by
    simp only [State.eachReq, hopen, List.map_cons, List.map_nil, forAll_one, hseal]
  have heach2 : (s.opened n).eachReq n (fun i s => (s.endDraft n i).cocoonStep n i) = s.opened n := by
    simp only [State.eachReq, hopen, List.map_cons, List.map_nil, forAll_one, hdrafts, hcocoon]
  unfold State.opened at heach1 heach2 hu
  unfold State.stepBoundary
  dsimp only
  rw [heach1, heach2, hu, if_neg, if_neg]
  · simp [hrun]
  · simp [hstate, hlead, hstep, hmoves, hhold]

/-! ### After the descriptors -/

/-- The engine has one request, whose final record has not gone and whose ring is enabled, and no variant is leaving. -/
structure State.settled (u : State) (n i : Nat) (q : Req) : Prop where
  reqs : (u.srv n).reqs = [(i, q)]
  running : (u.srv n).state = .running
  final : u.finalGone n q = false
  enabled : (u.ring n q.ring).enable = true
  variants : u.heldDescs n [0x25] = []

section
variable {u : State} {n i : Nat} {q : Req} (h : u.settled n i q)
include h

theorem State.settled.settleCancels : u.settleCancels n = u := by
  simp [State.settleCancels, h.reqs, forAll_one, h.final]

/-- Nothing is released, and no request ends. -/
theorem State.settled.releases : (u.releaseDone n).endAborted n = u := by
  have hvariants : u.settleVariants n = u := by
    unfold State.settleVariants
    rw [h.variants]
    rfl
  have hrelease : u.releaseDone n = u := by
    unfold State.releaseDone
    dsimp only
    rw [h.settleCancels, h.reqs, forAll_one]
    simp [h.final, hvariants]
  rw [hrelease]
  unfold State.endAborted
  rw [h.reqs, forAll_one]
  simp [h.running, h.enabled, h.settleCancels]

end

end Sys2Proof.Machine
end

section
/-! A descriptor that waited for the step boundary completes there, and the boundary goes on (R357, R383). -/

namespace Sys2Proof.Machine

/-- A boundary may be met now, at which one descriptor of the engine waits, and the engine has one request: it is live, fills
no page, has neither a draft tree nor a cocoon, and no cancel waits for it. -/
structure AtBoundary (s : State) (n r i : Nat) (d : Desc) (q : Req) : Prop where
  meets : s.meetsBoundary n
  held : Held s n r d
  loud : descQuiet d.bits = false
  one : s.heldDescs n [0x21, 0x22, 0x23, 0x25, 0x30, 0x32] = [(r, d)]
  reqs : (s.srv n).reqs = [(i, q)]
  going : q.going = true
  ending : q.ending = none
  saved : q.saved = none
  cancels : q.cancels = []
  draft : q.draft = []
  cached : q.cached < (s.srv n).pageTokens
  enabled : (s.ring n q.ring).enable = true
  rereads : s.rereads = []
  blocked : s.blocked = false

/-- An effect before a completion at the boundary: the rings, the partitions and the re-reads are as before, no access waits,
and the running engine has request `q` alone. -/
structure Prepared (s v : State) (n i : Nat) (q : Req) : Prop where
  vfs : v.vfs = s.vfs
  parts : v.parts = s.parts
  rereads : v.rereads = s.rereads
  blocked : v.blocked = s.blocked
  running : (v.srv n).state = .running
  reqs : (v.srv n).reqs = [(i, q)]

/-- A descriptor's record is owed, and the descriptor is gone. -/
def Answered (t : State) (n r : Nat) (d : Desc) (x : Ending) : Prop :=
  endRecord d x ∈ (t.ring n r).owed ∧ ∀ y ∈ (t.ring n r).descs, y.id ≠ d.id

theorem Steady.answered {α : Type} {n r i : Nat} {π : Req → α} {s t : State} (h : Steady n r i π s t) {d : Desc} {x : Ending}
    (ha : Answered s n r d x) : Answered t n r d x :=
  ⟨h.owed ha.1, fun y hy => ha.2 y (h.descs ▸ hy)⟩

section Prepared
variable {s v : State} {n i : Nat} {q : Req} (h : Prepared s v n i q)
include h

theorem Prepared.modReq {f : Req → Req} (hlive : (f q).state ≠ .free) : Prepared s (v.modReq n i f) n i (f q) := by
  refine ⟨h.vfs, h.parts, h.rereads, h.blocked, ?_, ?_⟩
  · rw [State.modReq, State.srv_modSrv_same]
    exact h.running
  · rw [State.modReq, State.srv_modSrv_same]
    dsimp only
    rw [h.reqs, tabMod_one hlive]

theorem Prepared.modSrv {f : Srv → Srv} (hstate : (f (v.srv n)).state = (v.srv n).state)
    (hreqs : (f (v.srv n)).reqs = (v.srv n).reqs) : Prepared s (v.modSrv n f) n i q := by
  refine ⟨h.vfs, h.parts, h.rereads, h.blocked, ?_, ?_⟩
  · rw [State.srv_modSrv_same, hstate]
    exact h.running
  · rw [State.srv_modSrv_same, hreqs]
    exact h.reqs

theorem Prepared.stackOnly {w : State} (hw : StackOnly v w) (hb : w.blocked = v.blocked) : Prepared s w n i q := by
  have hsrv : w.srv n = v.srv n := State.srv_congr hw.srvs n
  exact ⟨hw.vfs.trans h.vfs, hw.parts.trans h.parts, hw.rereads.trans h.rereads, hb.trans h.blocked, by rw [hsrv, h.running],
    by rw [hsrv, h.reqs]⟩

theorem Prepared.held {r : Nat} {d : Desc} (hd : Held s n r d) : Held v n r d := hd.congr h.vfs h.parts

end Prepared

section Boundary
variable {s : State} {n r i : Nat} {d : Desc} {q : Req} (b : AtBoundary s n r i d q)
include b

theorem AtBoundary.opened : Prepared s (s.opened n) n i q := by
  refine ⟨rfl, rfl, rfl, rfl, ?_, ?_⟩
  · rw [State.opened_srv]
    exact b.meets.1
  · rw [State.opened_srv]
    exact b.reqs

theorem AtBoundary.live : q.state ≠ .free := by
  intro h
  have hgoing := b.going
  rw [Req.going, Req.live, h] at hgoing
  simp at hgoing

/-- No VARIANT_UNREG waits where another descriptor is the one that does. -/
theorem AtBoundary.noVariant (hop : descOpcode d.bits ≠ 0x25) : s.heldDescs n [0x25] = [] :=
  State.heldDescs_nil (by decide) b.one (by simpa using hop)

/-- The descriptors that take effect at the boundary. -/
theorem AtBoundary.heldDescs (hop : descOpcode d.bits ∈ [0x21, 0x22, 0x23, 0x30, 0x32]) :
    (s.opened n).heldDescs n [0x21, 0x22, 0x23, 0x30, 0x32] = [(r, d)] :=
  (State.heldDescs_congr rfl n _).trans (State.heldDescs_one (by decide) b.one hop)

/-- The boundary goes on from a completion as it went on before it. -/
theorem AtBoundary.settled {v : State} {q' : Req} (hv : Prepared s v n i q') (hend : q'.ending = none)
    (hring : q'.ring = q.ring) (hop : descOpcode d.bits ≠ 0x25) (x : Ending) :
    (v.complete n r d.id x).settled n i q' := by
  have hheld := hv.held b.held
  obtain ⟨hended, honly⟩ := hheld.complete x
  have hsrv : (v.complete n r d.id x).srv n = v.srv n := by
    rw [honly.1]
    rfl
  have hother (k : Nat) : ((v.complete n r d.id x).ring n k).enable = (s.ring n k).enable ∧
      ((v.complete n r d.id x).ring n k).descs ⊆ (s.ring n k).descs := by
    rw [← State.ring_of_vfs hv.vfs n k]
    by_cases hk : k = r
    · rw [hk, hended]
      exact ⟨rfl, fun y hy => List.mem_of_mem_filter hy⟩
    · rw [honly.2.2 k hk]
      exact ⟨rfl, List.Subset.refl _⟩
  refine ⟨by rw [hsrv, hv.reqs], by rw [hsrv, hv.running], by simp [State.finalGone, hend], ?_, ?_⟩
  · rw [(hother q'.ring).1, hring]
    exact b.enabled
  · exact State.heldDescs_nil_of_subset (b.noVariant hop) fun k => (hother k).2

/-- A boundary whose descriptor completes after an effect `v`. -/
theorem AtBoundary.stepBoundary {v : State} {q' : Req} (hv : Prepared s v n i q') (hend : q'.ending = none)
    (hring : q'.ring = q.ring) (hop : descOpcode d.bits ≠ 0x25) {x : Ending}
    (happly : (s.opened n).applyHeld n = v.complete n r d.id x) :
    s.stepBoundary n = (v.complete n r d.id x).buildStep n (s.srv n) := by
  have hset := b.settled hv hend hring hop x
  refine State.stepBoundary_opened b.meets b.reqs b.cached b.draft b.saved ?_ hset.running
  rw [happly]
  exact hset.releases

/-- What the completion of the descriptor leaves. -/
theorem AtBoundary.completed {v : State} {q' : Req} (hv : Prepared s v n i q') (x : Ending) :
    Answered (v.complete n r d.id x) n r d x ∧ (v.complete n r d.id x).rereads = [] ∧
      (v.complete n r d.id x).blocked = false ∧ ((v.complete n r d.id x).srv n).reqs = [(i, q')] ∧
      SameMem v (v.complete n r d.id x) := by
  obtain ⟨hended, honly⟩ := (hv.held b.held).complete x
  refine ⟨?_, ?_, ?_, ?_, ?_⟩
  · rw [Answered, hended]
    refine ⟨?_, fun y hy => by simpa using (List.mem_filter.1 hy).2⟩
    simp [b.loud]
  · rw [honly.1]
    exact hv.rereads.trans b.rereads
  · rw [honly.1]
    exact hv.blocked.trans b.blocked
  · rw [honly.1]
    exact hv.reqs
  · rw [honly.1]
    exact ⟨rfl, rfl⟩

/-- The descriptor is answered, and what the host set of the request stays through the step that the boundary builds. -/
theorem AtBoundary.named {v : State} {q' : Req} (hv : Prepared s v n i q') (hend : q'.ending = none)
    (hring : q'.ring = q.ring) (hcancels : q'.cancels = []) (hop : descOpcode d.bits ≠ 0x25) {x : Ending}
    (happly : (s.opened n).applyHeld n = v.complete n r d.id x) :
    (s.stepBoundary n).blocked = false ∧ Answered (s.stepBoundary n) n r d x ∧
      (((s.stepBoundary n).srv n).req i).named = q'.named := by
  obtain ⟨hanswer, hreread, hblock, hreqs, -⟩ := b.completed hv x
  rw [b.stepBoundary hv hend hring hop happly]
  have hquiet : ((v.complete n r d.id x).srv n).uncancelled := by
    rw [Srv.uncancelled, hreqs]
    simp [hcancels]
  have hsteady := State.buildStep_undisturbed (r := r) (i := i) (v.complete n r d.id x) (s.srv n) hquiet
  refine ⟨(hsteady.blocked hreread).trans hblock, hsteady.answered hanswer, ?_⟩
  rw [hsteady.req, Srv.req_one hreqs]

/-- The descriptor is answered, and a request that does not run keeps its list and its state. -/
theorem AtBoundary.kept {v : State} {q' : Req} (hv : Prepared s v n i q') (hend : q'.ending = none)
    (hring : q'.ring = q.ring) (hrest : q'.resting) (hop : descOpcode d.bits ≠ 0x25) {x : Ending}
    (happly : (s.opened n).applyHeld n = v.complete n r d.id x) :
    (s.stepBoundary n).blocked = false ∧ Answered (s.stepBoundary n) n r d x ∧
      (((s.stepBoundary n).srv n).req i).kept = q'.kept := by
  obtain ⟨hanswer, hreread, hblock, hreqs, -⟩ := b.completed hv x
  rw [b.stepBoundary hv hend hring hop happly]
  have hsteady := State.buildStep_kept (r := r) hreqs hrest (s.srv n)
  refine ⟨(hsteady.blocked hreread).trans hblock, hsteady.answered hanswer, ?_⟩
  rw [hsteady.req, Srv.req_one hreqs]

/-- Where the list of such a request is up to date, the boundary writes nothing after the descriptor. -/
theorem AtBoundary.sameMem {v : State} {q' : Req} (hv : Prepared s v n i q') (hend : q'.ending = none)
    (hring : q'.ring = q.ring) (hrest : q'.resting) (hclean : q'.listDirty = false) (hop : descOpcode d.bits ≠ 0x25)
    {x : Ending} (happly : (s.opened n).applyHeld n = v.complete n r d.id x) : SameMem v (s.stepBoundary n) := by
  obtain ⟨-, -, -, hreqs, hmem⟩ := b.completed hv x
  rw [b.stepBoundary hv hend hring hop happly]
  exact hmem.trans (State.buildStep_sameMem hreqs hrest hclean (s.srv n))

end Boundary

end Sys2Proof.Machine
end

section
/-! REQ_CANCEL, REQ_CONTROL, REQ_READ and COCOON_RECLAIM at a step boundary (R344 to R347, R400). -/

namespace Sys2Proof.Machine

section Finding
variable {e : Srv} {i : Nat} {q : Req} (hreqs : e.reqs = [(i, q)]) (hgoing : q.going = true) (tag : DWord)
include hreqs hgoing

theorem Srv.findGoing_one : e.findGoing tag = if q.tag = tag then some (i, q) else none := by
  simp only [Srv.findGoing, hreqs, List.find?_cons, hgoing, Bool.true_and, List.find?_nil]
  by_cases h : q.tag = tag
  · simp [h]
  · have hne : (q.tag == tag) = false := by simpa using h
    simp [h, hne]

theorem Srv.find_one : e.find tag = if q.tag = tag then some (i, q) else none := by
  have hlive : q.live = true := (Bool.and_eq_true_iff.1 hgoing).1
  simp only [Srv.find, hreqs, List.find?_cons, hlive, Bool.true_and, List.find?_nil]
  by_cases h : q.tag = tag
  · simp [h]
  · have hne : (q.tag == tag) = false := by simpa using h
    simp [h, hne]

end Finding

section Boundary
variable {s : State} {n r i : Nat} {d : Desc} {q : Req} (b : AtBoundary s n r i d q)
include b

/-! ### Which effect the descriptor has -/

theorem AtBoundary.applies_cancel (hop : descOpcode d.bits = 0x21) :
    (s.opened n).applyHeld n = (s.opened n).applyCancel n r d := by
  unfold State.applyHeld
  rw [b.heldDescs (by simp [hop]), forAll_one]
  simp only [hop]

theorem AtBoundary.applies_control (hop : descOpcode d.bits = 0x22) :
    (s.opened n).applyHeld n = (s.opened n).applyControl n r d := by
  unfold State.applyHeld
  rw [b.heldDescs (by simp [hop]), forAll_one]
  simp only [hop]

theorem AtBoundary.applies_read (hop : descOpcode d.bits = 0x23) :
    (s.opened n).applyHeld n = (s.opened n).applyRead n r d := by
  unfold State.applyHeld
  rw [b.heldDescs (by simp [hop]), forAll_one]
  simp only [hop]

theorem AtBoundary.applies_update (hop : descOpcode d.bits = 0x30) :
    (s.opened n).applyHeld n = (s.opened n).applyUpdate n r d := by
  unfold State.applyHeld
  rw [b.heldDescs (by simp [hop]), forAll_one]
  simp only [hop]

theorem AtBoundary.applies_reclaim (hop : descOpcode d.bits = 0x32) :
    (s.opened n).applyHeld n = (s.opened n).reclaim n r d := by
  unfold State.applyHeld
  rw [b.heldDescs (by simp [hop]), forAll_one]
  simp only [hop]

theorem AtBoundary.findGoing (tag : DWord) :
    ((s.opened n).srv n).findGoing tag = if q.tag = tag then some (i, q) else none :=
  Srv.findGoing_one b.opened.reqs b.going tag

theorem AtBoundary.find (tag : DWord) : ((s.opened n).srv n).find tag = if q.tag = tag then some (i, q) else none :=
  Srv.find_one b.opened.reqs b.going tag

/-! ### A request that the engine does not have -/

theorem AtBoundary.unknown (hop : descOpcode d.bits = 0x21 ∨ descOpcode d.bits = 0x22 ∨ descOpcode d.bits = 0x30)
    (htag : q.tag ≠ BitVec.ofNat 64 (dfield d.bits 8 8)) :
    (s.opened n).applyHeld n = (s.opened n).complete n r d.id { status := statusUnknownRequest } := by
  rcases hop with hop | hop | hop
  · rw [b.applies_cancel hop]
    simp only [State.applyCancel, b.find, if_neg htag]
  · rw [b.applies_control hop]
    simp only [State.applyControl, b.findGoing, if_neg htag]
  · rw [b.applies_update hop]
    simp only [State.applyUpdate, b.findGoing, if_neg htag]

/-! ### REQ_CONTROL (R346) -/

section Control
variable (hop : descOpcode d.bits = 0x22) (htag : q.tag = BitVec.ofNat 64 (dfield d.bits 8 8))
include hop htag

theorem AtBoundary.control_pauses (hk : dfield d.bits 0x10 1 = 1) (hp : q.state ≠ .paused) (hr : q.state ≠ .resuming)
    (hfits : (s.srv n).cocoonFits q = true) :
    (s.opened n).applyHeld n =
      (((s.opened n).pause n i).modReq n i fun q => { q with hostPaused := true }).complete n r d.id {} := by
  have hfits' : ((s.opened n).srv n).cocoonFits q = true := by rw [State.opened_srv]; exact hfits
  rw [b.applies_control hop]
  simp only [State.applyControl, b.findGoing, if_pos htag, hk, hp, hr, or_self, if_false, hfits', if_true]

theorem AtBoundary.control_cocoonFull (hk : dfield d.bits 0x10 1 = 1) (hp : q.state ≠ .paused) (hr : q.state ≠ .resuming)
    (hfits : (s.srv n).cocoonFits q = false) :
    (s.opened n).applyHeld n = (s.opened n).complete n r d.id { status := statusCocoonFull } := by
  have hfits' : ((s.opened n).srv n).cocoonFits q = false := by rw [State.opened_srv]; exact hfits
  rw [b.applies_control hop]
  simp only [State.applyControl, b.findGoing, if_pos htag, hk, hp, hr, or_self, if_false, hfits', Bool.false_eq_true]

theorem AtBoundary.control_resumes (hk : dfield d.bits 0x10 1 = 2) : (s.opened n).applyHeld n =
    ((s.opened n).modReq n i fun q => { q with hostPaused := false }).complete n r d.id {} := by
  rw [b.applies_control hop]
  simp only [State.applyControl, b.findGoing, if_pos htag, hk]

theorem AtBoundary.control_priority (hk : dfield d.bits 0x10 1 = 3) : (s.opened n).applyHeld n =
    ((s.opened n).modReq n i fun q => { q with priority := dfield d.bits 0x18 8 }).complete n r d.id {} := by
  rw [b.applies_control hop]
  simp only [State.applyControl, b.findGoing, if_pos htag, hk]

theorem AtBoundary.control_deadline (hk : dfield d.bits 0x10 1 = 4) : (s.opened n).applyHeld n =
    ((s.opened n).modReq n i fun q => { q with deadline := dfield d.bits 0x18 8 }).complete n r d.id {} := by
  rw [b.applies_control hop]
  simp only [State.applyControl, b.findGoing, if_pos htag, hk]

end Control

/-- A request that is paused has its cocoon's buffers (R402). -/
theorem AtBoundary.paused (hfits : (s.srv n).cocoonFits q = true) : ∃ c,
    Prepared s (((s.opened n).pause n i).modReq n i fun q => { q with hostPaused := true }) n i
      { q with saved := some c, state := .paused, pausedFrom := q.state, hostPaused := true } := by
  have hprep := b.opened
  have hq : ((s.opened n).srv n).req i = q := Srv.req_one hprep.reqs
  have hfits' : ((s.opened n).srv n).cocoonFits q = true := by rw [State.opened_srv]; exact hfits
  generalize s.opened n = u at hprep hq hfits' ⊢
  have hbufs : ∃ m, (u.srv n).cocoonBufs q ((u.srv n).privateIdx q).length = some m := by
    cases hm : (u.srv n).cocoonBufs q ((u.srv n).privateIdx q).length with
    | none => simp [Srv.cocoonFits, hm] at hfits'
    | some m => exact ⟨m, rfl⟩
  obtain ⟨m, hm⟩ := hbufs
  unfold State.pause
  dsimp only
  rw [hq, hm]
  dsimp only
  unfold State.beginCocoon
  dsimp only
  refine ⟨_, Prepared.modReq (f := fun q => { q with hostPaused := true })
    (Prepared.modReq (f := fun q => { q with state := .paused, pausedFrom := q.state })
      (Prepared.modReq (f := fun q => { q with saved := some _ }) (hprep.modSrv ?_ ?_) ?_) ?_) ?_⟩
  exacts [rfl, rfl, b.live, nofun, nofun]

/-! ### REQ_READ and COCOON_RECLAIM (R347, R400) -/

/-- The bytes that REQ_READ writes (R347). -/
def Srv.readBytes (e : Srv) (d : Desc) : List Byte :=
  (List.range (dfield d.bits 0x0C 4)).flatMap fun k => reqBytes e (e.req (dfield d.bits 8 4 + k))

theorem AtBoundary.reads (hop : descOpcode d.bits = 0x23) : (s.opened n).applyHeld n =
    ((s.opened n).winWrite n (dfield d.bits 0x10 8) ((s.srv n).readBytes d)).1.complete n r d.id
      { result := (s.opened n).tmb.beat } := by
  have hbytes : ((s.opened n).srv n).readBytes d = (s.srv n).readBytes d := by rw [State.opened_srv]; rfl
  rw [b.applies_read hop, ← hbytes]
  rfl

theorem AtBoundary.read_prepared (w : Nat) (bs : List Byte) : Prepared s ((s.opened n).winWrite n w bs).1 n i q :=
  b.opened.stackOnly (State.winWrite_stackOnly _ n w bs) (State.winWrite_blocked (s := s.opened n) b.rereads n w bs)

/-- The buffers that COCOON_RECLAIM takes (R400). -/
theorem AtBoundary.reclaims (hop : descOpcode d.bits = 0x32) : ∃ v, Prepared s v n i q ∧ (s.opened n).applyHeld n =
    v.complete n r d.id { result := ((s.srv n).freeBufs.take (dfield d.bits 0x10 4)).length } := by
  have hfree : ((s.opened n).srv n).freeBufs = (s.srv n).freeBufs := by rw [State.opened_srv]; rfl
  have htaken (f : Srv → Srv) (hstate : ∀ e, (f e).state = e.state) (hreqs : ∀ e, (f e).reqs = e.reqs) :
      Prepared s ((s.opened n).modSrv n f) n i q := b.opened.modSrv (hstate _) (hreqs _)
  rw [b.applies_reclaim hop]
  unfold State.reclaim
  dsimp only
  rw [hfree]
  refine ⟨_, ?_, rfl⟩
  split
  · exact htaken _ (fun _ => rfl) fun _ => rfl
  · refine (htaken _ ?_ ?_).stackOnly (State.hostPut_evcOnly _ _ _ _).logOnly.stackOnly
      (State.hostPut_evcOnly _ _ _ _).blocked
    exacts [fun _ => rfl, fun _ => rfl]

end Boundary

end Sys2Proof.Machine
end

section
/-! REQ_CANCEL and PAGE_UPDATE at a step boundary (R344, R345, R383, R384). -/

namespace Sys2Proof.Machine

/-! ### The final record of a request (R340) -/

theorem natOfBytes_bytesOfNat (k x : Nat) : natOfBytes (bytesOfNat k x) = x % 256 ^ k := by
  induction k generalizing x with
  | zero => simp [natOfBytes, bytesOfNat, Nat.mod_one]
  | succ k ih =>
    have hbyte : (BitVec.ofNat 8 x).toNat = x % 256 := BitVec.toNat_ofNat ..
    rw [bytesOfNat, natOfBytes, ih, hbyte, Nat.pow_succ', Nat.mod_mul]

/-- The record that ends a request which a cancel ends. -/
def Req.cancelRecord (q : Req) : Owed :=
  { body := .token (tokenRecord q.tag [] q.nextPos 3 (if q.firstSent then 0 else 1)), irq := false }

/-- A token record with a REASON ends its request. -/
theorem Req.cancelRecord_final (q : Req) : q.cancelRecord.body.isFinalOf q.tag = true := by
  generalize hbs : tokenRecord q.tag [] q.nextPos 3 (if q.firstSent then 0 else 1) = bs
  have htag : bs.take 8 = bytesOfNat 8 q.tag.toNat := by rw [← hbs]; rfl
  have hreason : bs.getD 0x1D 0 = 3 := by rw [← hbs]; rfl
  have hlt : q.tag.toNat % 256 ^ 8 = q.tag.toNat := Nat.mod_eq_of_lt q.tag.isLt
  simp only [Req.cancelRecord, hbs, RecBody.isFinalOf, htag, hreason, natOfBytes_bytesOfNat, hlt]
  simp

/-- The end of a request owes its final record to its ring (R340, R342). -/
theorem State.endRequest_cancels {s : State} {n i : Nat} {q : Req} (hreqs : (s.srv n).reqs = [(i, q)])
    (hlive : q.state ≠ .free) (hend : q.ending = none) (hd : (s.part n).discard = false)
    (hu : (s.ring n q.ring).used.isNone = false) (he : (s.ring n q.ring).enable = true) :
    s.endRequest n i 3 = (s.modRing n q.ring fun g => { g with owed := g.owed ++ [q.cancelRecord] }).modReq n i
      fun q => { q with state := .done, ending := some 3, firstSent := true, reserved := 0 } := by
  have hreq : (tabGet {} (s.srv n).reqs i : Req) = q := Srv.req_one hreqs
  unfold State.endRequest
  dsimp only
  rw [hreq, if_neg (by simp [hlive, hend]), ← State.owe_enabled hd hu he]
  rfl

section Boundary
variable {s : State} {n r i : Nat} {d : Desc} {q : Req} (b : AtBoundary s n r i d q)
include b

/-! ### REQ_CANCEL (R344, R345) -/

/-- A request that a cancel has ended. -/
def Req.cancelled (q : Req) (r id : Nat) : Req :=
  { q with state := .done, ending := some 3, firstSent := true, reserved := 0, cancels := q.cancels ++ [(r, id, statusCancelled)] }

/-- The boundary's state once its ring owes the final record of the request. -/
def State.owesCancel (s : State) (n : Nat) (q : Req) : State :=
  (s.opened n).modRing n q.ring fun g => { g with owed := g.owed ++ [q.cancelRecord] }

omit b in
theorem State.owesCancel_ring (s : State) (n k : Nat) (q : Req) :
    ((s.owesCancel n q).ring n k).descs = (s.ring n k).descs ∧ ((s.owesCancel n q).ring n k).enable = (s.ring n k).enable := by
  have hring (k : Nat) : (s.opened n).ring n k = s.ring n k := State.ring_of_vfs rfl n k
  rw [State.owesCancel, State.ring_modRing]
  split
  · next h =>
    rw [h.2, hring]
    exact ⟨rfl, rfl⟩
  · rw [hring]
    exact ⟨rfl, rfl⟩

omit b in
theorem State.cancelRecord_mem (s : State) (n : Nat) (q : Req) : q.cancelRecord ∈ ((s.owesCancel n q).ring n q.ring).owed := by
  rw [State.owesCancel, State.ring_modRing_same]
  simp

/-- A cancel ends the request, and waits for its final record. -/
theorem AtBoundary.applies_ended (hused : (s.ring n q.ring).used.isNone = false) (hop : descOpcode d.bits = 0x21)
    (htag : q.tag = BitVec.ofNat 64 (dfield d.bits 8 8)) :
    (s.opened n).applyHeld n = (((s.owesCancel n q).modReq n i fun q =>
      { q with state := .done, ending := some 3, firstSent := true, reserved := 0 }).modReq n i
        fun q => { q with cancels := q.cancels ++ [(r, d.id, statusCancelled)] }).settleCancels n := by
  have hdone : q.state ≠ .done := by
    intro h
    have hgoing := b.going
    simp [Req.going, h] at hgoing
  have hring : (s.opened n).ring n q.ring = s.ring n q.ring := State.ring_of_vfs rfl n _
  have hended := State.endRequest_cancels b.opened.reqs b.live b.ending b.held.2.2.2.2 (hring ▸ hused) (hring ▸ b.enabled)
  rw [b.applies_cancel hop]
  simp only [State.applyCancel, b.find, if_pos htag, hdone, if_false, hended]
  rfl

theorem AtBoundary.owesCancel : Prepared (s.owesCancel n q) (s.owesCancel n q) n i q :=
  ⟨rfl, rfl, rfl, rfl, b.opened.running, b.opened.reqs⟩

theorem AtBoundary.cancels_request (hused : (s.ring n q.ring).used.isNone = false) (hop : descOpcode d.bits = 0x21)
    (htag : q.tag = BitVec.ofNat 64 (dfield d.bits 8 8)) :
    ∃ u, (s.opened n).applyHeld n = u ∧ u.settled n i (q.cancelled r d.id) ∧ u.rereads = [] ∧ u.blocked = false := by
  have hrereads : (s.owesCancel n q).rereads = [] := b.rereads
  have hblocked : (s.owesCancel n q).blocked = false := b.blocked
  have hprep := (b.owesCancel.modReq
    (f := fun q => { q with state := .done, ending := some 3, firstSent := true, reserved := 0 }) (by simp)).modReq
    (f := fun q => { q with cancels := q.cancels ++ [(r, d.id, statusCancelled)] }) (by simp)
  have hrings := s.owesCancel_ring n (q := q)
  have hmem := s.cancelRecord_mem n q
  have happly := b.applies_ended hused hop htag
  generalize s.owesCancel n q = w at hrereads hblocked hprep hrings hmem happly
  generalize (w.modReq n i _).modReq n i _ = u at hprep happly
  have hring (k : Nat) : u.ring n k = w.ring n k := State.ring_of_vfs hprep.vfs n k
  have hset : u.settled n i (q.cancelled r d.id) := by
    refine ⟨hprep.reqs, hprep.running, ?_, ?_, ?_⟩
    · have hany : (w.ring n q.ring).owed.any (fun o => o.body.isFinalOf q.tag) = true :=
        List.any_eq_true.2 ⟨_, hmem, q.cancelRecord_final⟩
      have hany' : (u.ring n (q.cancelled r d.id).ring).owed.any
          (fun o => o.body.isFinalOf (q.cancelled r d.id).tag) = true := by rw [hring]; exact hany
      rw [State.finalGone, hany']
      exact Bool.and_false _
    · rw [hring, (hrings _).2]
      exact b.enabled
    · refine State.heldDescs_nil_of_subset (b.noVariant (by simp [hop])) fun k => ?_
      rw [hring, (hrings k).1]
      exact List.Subset.refl _
  exact ⟨u, happly.trans hset.settleCancels, hset, hprep.rereads.trans hrereads, hprep.blocked.trans hblocked⟩

theorem AtBoundary.cancelled (hused : (s.ring n q.ring).used.isNone = false) (hop : descOpcode d.bits = 0x21)
    (htag : q.tag = BitVec.ofNat 64 (dfield d.bits 8 8)) :
    (s.stepBoundary n).blocked = false ∧ (((s.stepBoundary n).srv n).req i).kept = (q.cancelled r d.id).kept := by
  obtain ⟨u, happly, hset, hrereads, hblocked⟩ := b.cancels_request hused hop htag
  have hstep : s.stepBoundary n = u.buildStep n (s.srv n) := by
    refine State.stepBoundary_opened b.meets b.reqs b.cached b.draft b.saved ?_ hset.running
    rw [happly]
    exact hset.releases
  have hsteady := State.buildStep_kept (r := r) hset.reqs (.inr rfl) (s.srv n)
  rw [hstep]
  refine ⟨(hsteady.blocked hrereads).trans hblocked, ?_⟩
  rw [hsteady.req, Srv.req_one hset.reqs]

/-! ### PAGE_UPDATE (R383, R384) -/

section Update
variable (hop : descOpcode d.bits = 0x30) (htag : q.tag = BitVec.ofNat 64 (dfield d.bits 8 8))
include hop htag

theorem AtBoundary.update_stale (hg : dfield d.bits 0x10 4 ≠ q.generation.toNat) :
    (s.opened n).applyHeld n = (s.opened n).complete n r d.id { status := statusStaleGeneration } := by
  rw [b.applies_update hop]
  simp only [State.applyUpdate, b.findGoing, if_pos htag, if_pos hg]

end Update

end Boundary

end Sys2Proof.Machine
end

section
/-! PAGE_UPDATE at a step boundary (R383, R384). -/

namespace Sys2Proof.Machine

/-! ### Entries of a page list -/

/-- A page list with one entry replaced or appended. -/
def putPage (l : List Nat) (k p : Nat) : List Nat := if k < l.length then l.set k p else l ++ [p]

theorem length_putPage {l : List Nat} {k : Nat} (hk : k ≤ l.length) (p : Nat) : k + 1 ≤ (putPage l k p).length := by
  unfold putPage
  split
  · rw [List.length_set]; omega
  · rw [List.length_append, List.length_singleton]; omega

theorem getD_putPage {l : List Nat} {k : Nat} (hk : k ≤ l.length) (p : Nat) : (putPage l k p).getD k 0 = p := by
  unfold putPage
  split
  · next h => simp [h]
  · next h =>
    have hk' : k = l.length := by omega
    simp [hk']

theorem getD_putPage_lt {l : List Nat} {k j : Nat} (hj : j < k) (hk : k ≤ l.length) (p : Nat) :
    (putPage l k p).getD j 0 = l.getD j 0 := by
  unfold putPage
  split
  · next h =>
    have hne : k ≠ j := by omega
    simp [hne]
  · have hlt : j < l.length := by omega
    simp [List.getElem?_append_left hlt]

section Entry
variable {s v : State} {n i : Nat} {q : Req} (h : Prepared s v n i q) (hs : s.rereads = [])
include h hs

theorem Prepared.modNode (k : Nat) (f : PrefixNode → PrefixNode) : Prepared s (v.modNode n k f) n i q := by
  unfold State.modNode
  split
  · exact h
  · next x _ =>
    have hnode : Prepared s (v.modSrv n fun e => { e with nodes := tabPut k (f x) e.nodes }) n i q := h.modSrv rfl rfl
    exact hnode.stackOnly (State.winWrite_stackOnly _ _ _ _) (State.winWrite_blocked (hnode.rereads.trans hs) _ _ _)

theorem Prepared.dropPage (p : Nat) (node : Option Nat) : Prepared s (v.dropPage n p node) n i q := by
  have hpage {u : State} (hu : Prepared s u n i q) : Prepared s (u.dropPage n p none) n i q := by
    unfold State.dropPage
    dsimp only
    split
    · refine hu.modSrv ?_ ?_
      · split <;> rfl
      · split <;> rfl
    · exact hu
  cases node with
  | none => exact hpage h
  | some k => exact hpage (h.modNode hs k fun x => { x with refs := x.refs - 1 })

/-- One entry of the page list is replaced or appended (R383). -/
theorem Prepared.setEntry (hlive : q.state ≠ .free) (k p : Nat) :
    ∃ nodes, Prepared s (v.setEntry n i k p) n i { q with list := putPage q.list k p, nodes := nodes } := by
  have hreq : (v.srv n).req i = q := Srv.req_one h.reqs
  have hpage (f : PageState → PageState) : Prepared s (v.modSrv n fun e => e.modPage p f) n i q := h.modSrv rfl rfl
  unfold State.setEntry
  dsimp only
  rw [hreq]
  unfold putPage
  split
  · exact ⟨_, Prepared.modReq (f := fun q => { q with list := q.list.set k p, nodes := tabErase k q.nodes })
      ((hpage _).dropPage hs _ _) hlive⟩
  · exact ⟨_, Prepared.modReq (f := fun q => { q with list := q.list ++ [p] }) (hpage _) hlive⟩

/-- A row of entries of the page list is replaced or appended. -/
theorem Prepared.setEntries (hlive : q.state ≠ .free) {index : Nat} (hindex : index ≤ q.list.length) (ps : List Nat)
    (count : Nat) :
    ∃ l nodes, Prepared s (forAll (List.range count) (fun k s => s.setEntry n i (index + k) (ps.getD k 0)) v) n i
        { q with list := l, nodes := nodes } ∧
      index + count ≤ l.length ∧ ∀ j, j < count → l.getD (index + j) 0 = ps.getD j 0 := by
  induction count with
  | zero => exact ⟨q.list, q.nodes, h, hindex, fun j hj => absurd hj (Nat.not_lt_zero j)⟩
  | succ count ih =>
    obtain ⟨l, nodes, hprep, hlen, hget⟩ := ih
    obtain ⟨nodes', hnext⟩ := hprep.setEntry hs hlive (index + count) (ps.getD count 0)
    refine ⟨putPage l (index + count) (ps.getD count 0), nodes', ?_, length_putPage hlen _, fun j hj => ?_⟩
    · rw [List.range_succ, forAll, List.foldl_append]
      exact hnext
    · by_cases hj' : j = count
      · rw [hj', getD_putPage hlen]
      · rw [getD_putPage_lt (by omega) hlen, hget j (by omega)]

end Entry

theorem Srv.updateBad_none {e : Srv} {q : Req} {index : Nat} {ps : List Nat} (h : e.updateBad q index ps = none) :
    index ≤ q.list.length := by
  unfold Srv.updateBad at h
  dsimp only at h
  split at h
  · exact absurd h nofun
  · split at h
    · exact absurd h nofun
    · omega

/-- The list that PAGE_UPDATE reads (R383). -/
def State.updatePages (s : State) (n : Nat) (d : Desc) : List Nat :=
  (List.range (dfield d.bits 0x20 4)).map fun k =>
    numAt (s.winRead n (dfield d.bits 0x18 8) (4 * dfield d.bits 0x20 4)).1.bytes (4 * k) 4

section Boundary
variable {s : State} {n r i : Nat} {d : Desc} {q : Req} (b : AtBoundary s n r i d q)
  (hread : (s.winRead n (dfield d.bits 0x18 8) (4 * dfield d.bits 0x20 4)).1.fail = none)
include b hread

/-- The list of an update is read, and no access waits. -/
theorem AtBoundary.update_reads : ∃ v, Prepared s v n i q ∧ v.srv n = (s.opened n).srv n ∧
    (s.opened n).descRead n r d 12 (dfield d.bits 0x18 8) (4 * dfield d.bits 0x20 4) =
      (some (s.winRead n (dfield d.bits 0x18 8) (4 * dfield d.bits 0x20 4)).1.bytes, v) := by
  have hsame := (alike_opened s n).winRead n (dfield d.bits 0x18 8) (4 * dfield d.bits 0x20 4)
  have hstack := State.winRead_stackOnly (s.opened n) n (dfield d.bits 0x18 8) (4 * dfield d.bits 0x20 4)
  refine ⟨_, b.opened.stackOnly hstack (State.winRead_blocked (s := s.opened n) b.rereads _ _ _),
    State.srv_congr hstack.srvs n, ?_⟩
  rw [← hsame]
  exact State.descRead_reads (by rw [hsame]; exact hread)

variable (hop : descOpcode d.bits = 0x30) (htag : q.tag = BitVec.ofNat 64 (dfield d.bits 8 8))
  (hg : dfield d.bits 0x10 4 = q.generation.toNat)
include hop htag hg

/-- An update that breaks a rule names the field (R384). -/
theorem AtBoundary.update_bad {off : Nat} (hbad : (s.srv n).updateBad q (dfield d.bits 0x14 4) (s.updatePages n d) = some off) :
    ∃ v, Prepared s v n i q ∧
      (s.opened n).applyHeld n = v.complete n r d.id { status := statusBadDescriptor, detail := off } := by
  obtain ⟨v, hv, hsrv, hdesc⟩ := b.update_reads hread
  have hbad' : (v.srv n).updateBad q (dfield d.bits 0x14 4) (s.updatePages n d) = some off := by
    rw [hsrv, State.opened_srv]
    exact hbad
  refine ⟨v, hv, ?_⟩
  rw [b.applies_update hop]
  simp only [State.applyUpdate, b.findGoing, if_pos htag, hg, ne_eq, not_true_eq_false, if_false, hdesc]
  rw [State.updatePages] at hbad'
  simp only [hbad']

/-- An update that keeps the rules sets its entries, and counts one edit (R383). -/
theorem AtBoundary.update_good (hgood : (s.srv n).updateBad q (dfield d.bits 0x14 4) (s.updatePages n d) = none) :
    ∃ v l nodes, Prepared s v n i { q with list := l, nodes := nodes, generation := q.generation + 1, listDirty := true } ∧
      (∀ j, j < dfield d.bits 0x20 4 → l.getD (dfield d.bits 0x14 4 + j) 0 = (s.updatePages n d).getD j 0) ∧
      (s.opened n).applyHeld n = v.complete n r d.id { result := (q.generation + 1).toNat } := by
  obtain ⟨v, hv, hsrv, hdesc⟩ := b.update_reads hread
  have hgood' : (v.srv n).updateBad q (dfield d.bits 0x14 4) (s.updatePages n d) = none := by
    rw [hsrv, State.opened_srv]
    exact hgood
  obtain ⟨l, nodes, hset, -, hget⟩ := hv.setEntries b.rereads b.live (Srv.updateBad_none hgood) (s.updatePages n d)
    (dfield d.bits 0x20 4)
  refine ⟨_, l, nodes, hset.modReq (f := fun q => { q with generation := q.generation + 1, listDirty := true }) b.live, hget, ?_⟩
  rw [b.applies_update hop]
  simp only [State.applyUpdate, b.findGoing, if_pos htag, hg, ne_eq, not_true_eq_false, if_false, hdesc]
  rw [State.updatePages] at hgood' ⊢
  simp only [hgood']

end Boundary

end Sys2Proof.Machine
end

section
/-! The serving descriptors: what starts them, what a step boundary does with them, and REQ_SUBMIT. -/

namespace Sys2Proof.Machine

/-- Settles O38. A descriptor that waits goes through the common gate (`heldBack`). At the boundary the engine's one request
neither seals a page nor drafts, so the state before the descriptor's effect is `State.opened`; the effect completes the
descriptor, and the step that the boundary then builds keeps what is owed and what the host set (`AtBoundary.named`), and
keeps the list and the state of a request that does not run (`AtBoundary.kept`). A submission goes through its checks in
order, each after the reads that it follows. -/
theorem servingDescriptors : Obligations.ServingDescriptors := by
  refine ⟨?gates, ?boundary, ?submit⟩
  case gates =>
    intro s q d hl n r op e waits row dst count dstOk list hs
    refine ⟨fun hop hclean => heldBack hl hs rfl (State.startDesc_clean hs.1 (by simpa using hop) hclean),
      fun hop hk => control_heldBack hl hs hop rfl hk, fun hop hk => control_heldBack hl hs hop rfl hk,
      fun hop hk => control_heldBack hl hs hop rfl hk, fun hop hk => control_heldBack hl hs hop rfl hk,
      fun hop c hc hk => ?_,
      fun hop hk => control_endsBadField hl hs hop rfl (.inl hk), fun hop hk => control_endsBadField hl hs hop rfl (.inl hk),
      fun hop hk => control_endsBadField hl hs hop rfl (.inl hk), fun hop hk => control_endsBadField hl hs hop rfl (.inl hk),
      fun hop hin hclean => ?_, fun hop hout hclean hdst hstate hlead => ?_,
      fun hop hclean => heldBack hl hs rfl (State.startDesc_clean hs.1 (by simpa using hop) hclean)⟩
    · simp only [List.mem_cons, List.not_mem_nil, or_false] at hc
      rcases hc with rfl | rfl | rfl | rfl <;> exact control_endsBadField hl hs hop rfl (.inr hk)
    · exact heldBack hl hs rfl
        ((State.startDesc_clean hs.1 (by simpa using hop) hclean).trans (State.reqRead_inside hin))
    · have row : Row (.reqRead q) s [] _ := .of_act rfl
      refine row.completes hl hs ?_
      rw [State.told_nil hl.2.2]
      refine (State.startDesc_clean hs.1 (by simpa using hop) hclean).trans ((State.reqRead_beyond hout).trans ?_)
      have hdst' : (dfield d.bits 0x10 8 % 64 == 0 &&
        (s.part q.vf.val).inWindow (dfield d.bits 0x10 8) (128 * dfield d.bits 0x0C 4)) = true := hdst
      rw [hdst', State.srvGate_open hstate hlead]
  case boundary =>
    intro s n r d i q errs hl e op k tag value first dst index count read pages bytes wrote c ended gives hstate hlead hstep
      hmoves hhold hrereads hheld hloud hone hreqs hgoing hending hsaved hcancels hdraft hcached henabled htakes
    have b : AtBoundary (s.told errs) n r i d q :=
      ⟨⟨hstate, hlead, hstep, hmoves, hhold⟩, hheld.congr rfl rfl, hloud, hone, hreqs, hgoing, hending, hsaved, hcancels,
        hdraft, hcached, henabled, hrereads, hl.2.2.2⟩
    have row : Row c s errs fun s => s.stepBoundary n := .of_actOn rfl
    have notUnreg : ∀ {o : Nat}, descOpcode d.bits = o → o ≠ 0x25 → descOpcode d.bits ≠ 0x25 := fun h ho => h ▸ ho
    refine ⟨fun hop htag => ?cancel, fun hop htag => ?unknown, fun hop hk htag hp hr => ⟨fun hfits => ?pause, fun hfull => ?full⟩,
      fun hop hk htag => ?resume, fun hop hk htag => ?priority, fun hop hk htag => ?deadline, fun hop hpaused hclean => ?read,
      fun hop htag => ⟨fun hg => ?stale, fun hg hread => ⟨fun off hbad => ?bad, fun hgood hpaused => ?update⟩⟩,
      fun hop => ?reclaim⟩
    case cancel =>
      obtain ⟨hb, hq⟩ := b.cancelled htakes.1 hop htag
      obtain ⟨hstate', hending', -⟩ := Req.of_kept hq
      exact ⟨_, row.runs hl hb, hstate', hending'⟩
    case unknown =>
      have hne : descOpcode d.bits ≠ 0x25 := by
        rcases hop with h | h | h
        · exact notUnreg h (by decide)
        · exact notUnreg h (by decide)
        · exact notUnreg h (by decide)
      obtain ⟨hb, ha, hq⟩ := b.named b.opened hending rfl hcancels hne (b.unknown hop htag)
      exact ⟨_, row.runs hl hb, ha, congrArg (·.1) hq⟩
    case pause =>
      obtain ⟨c, hprep⟩ := b.paused hfits
      obtain ⟨hb, ha, hq⟩ := b.kept hprep hending rfl (.inl rfl) (notUnreg hop (by decide)) (b.control_pauses hop htag hk hp hr hfits)
      obtain ⟨hstate', -, hpaused, hfrom, -⟩ := Req.of_kept hq
      exact ⟨_, row.runs hl hb, ha, hstate', hpaused, hfrom⟩
    case full =>
      obtain ⟨hb, ha, hq⟩ := b.named b.opened hending rfl hcancels (notUnreg hop (by decide))
        (b.control_cocoonFull hop htag hk hp hr hfull)
      exact ⟨_, row.runs hl hb, ha, congrArg (·.2.1) hq⟩
    case resume =>
      obtain ⟨hb, ha, hq⟩ := b.named (b.opened.modReq (f := fun q => { q with hostPaused := false }) b.live) hending rfl
        hcancels (notUnreg hop (by decide)) (b.control_resumes hop htag hk)
      exact ⟨_, row.runs hl hb, ha, congrArg (·.2.1) hq⟩
    case priority =>
      obtain ⟨hb, ha, hq⟩ := b.named (b.opened.modReq (f := fun q => { q with priority := value }) b.live) hending rfl
        hcancels (notUnreg hop (by decide)) (b.control_priority hop htag hk)
      exact ⟨_, row.runs hl hb, ha, congrArg (·.2.2.1) hq⟩
    case deadline =>
      obtain ⟨hb, ha, hq⟩ := b.named (b.opened.modReq (f := fun q => { q with deadline := value }) b.live) hending rfl
        hcancels (notUnreg hop (by decide)) (b.control_deadline hop htag hk)
      exact ⟨_, row.runs hl hb, ha, congrArg (·.2.2.2) hq⟩
    case stale =>
      obtain ⟨hb, ha, hq⟩ := b.named b.opened hending rfl hcancels (notUnreg hop (by decide)) (b.update_stale hop htag hg)
      exact ⟨_, row.runs hl hb, ha, congrArg (·.1) hq⟩
    case bad =>
      obtain ⟨v, hprep, happly⟩ := b.update_bad hread hop htag hg hbad
      obtain ⟨hb, ha, hq⟩ := b.named hprep hending rfl hcancels (notUnreg hop (by decide)) happly
      exact ⟨_, row.runs hl hb, ha, congrArg (·.1) hq⟩
    case update =>
      obtain ⟨v, l, nodes, hprep, hlist, happly⟩ := b.update_good hread hop htag hg hgood
      obtain ⟨hb, ha, hq⟩ := b.kept hprep hending rfl (.inl hpaused) (notUnreg hop (by decide)) happly
      obtain ⟨-, -, -, -, hgeneration, hpages⟩ := Req.of_kept hq
      refine ⟨_, row.runs hl hb, ha, hgeneration, fun j hj => ?_⟩
      exact (congrArg (fun l : List Nat => l.getD (index + j) 0) hpages).trans (hlist j hj)
    case reclaim =>
      obtain ⟨v, hprep, happly⟩ := b.reclaims hop
      obtain ⟨hb, ha, hq⟩ := b.named hprep hending rfl hcancels (notUnreg hop (by decide)) happly
      exact ⟨_, row.runs hl hb, ha, congrArg (·.1) hq⟩
    case read =>
      have hprep := b.read_prepared dst ((s.srv n).readBytes d)
      have hwrote : SameMem _ ((s.told errs).stepBoundary n) :=
        b.sameMem hprep hending rfl (.inl hpaused) hclean (notUnreg hop (by decide)) (b.reads hop)
      obtain ⟨hb, ha, -⟩ := b.kept hprep hending rfl (.inl hpaused) (notUnreg hop (by decide)) (b.reads hop)
      have hmem : ((s.told errs).stepBoundary n).mem = wrote.1.mem :=
        hwrote.1.trans ((alike_opened (s.told errs) n).winWrite n dst bytes).mem
      have htmb : ((s.told errs).stepBoundary n).tmb = ((s.told errs).opened n).tmb :=
        hwrote.2.trans (State.winWrite_stackOnly _ _ _ _).tmb
      refine ⟨_, row.runs hl hb, ?_, congrArg Mem.canon hmem⟩
      have hresult : ended (s.after ((s.told errs).stepBoundary n)) { result := ((s.told errs).opened n).tmb.beat } := ha
      rw [← htmb] at hresult
      exact hresult
  case submit =>
    intro s q d errs hl n r e c w block base bs x prompt base2 words slot ends unread hs hop hclean
    have row : Row c s errs _ := .of_actOn rfl
    have effect : (s.told errs).startDesc n r (· == 0x20) reqSubmitChecks (fun d s => s.submit n r d) =
        (s.told errs).submit n r d := State.startDesc_clean (s := s.told errs) hs.1 (by simpa using hop) hclean
    have runs : ∀ {u}, (s.told errs).submit n r d = u → u.blocked = false → Runs c s (s.after u) :=
      fun hu hb => row.starts hl hs hop hclean hu hb
    have completes : ∀ {y}, (s.told errs).submit n r d = (s.told errs).complete n r d.id y → Completes c s n r d y :=
      fun hu => row.completes hl hs (effect.trans hu)
    have held : Held (s.told errs) n r d := Starts.held (s := s.told errs) hs
    refine ⟨fun hbad => completes (State.submit_address ?_), fun h64 hin => ?_⟩
    · have : (w % 64 == 0 && (s.part n).inWindow w 128) = false := by
        rcases hbad with h | h
        · simp [h]
        · simp [h]
      exact this
    have hw : (s.told errs).blockOk n (dfield d.bits 8 8) = true := by
      have : (w % 64 == 0 && (s.part n).inWindow w 128) = true := by simp [h64, hin]
      exact this
    refine ⟨fun hclosed => completes (State.submit_closed hw hclosed), fun hstate hlead => ?_⟩
    have stack : StackOnly (s.told errs) block.2 := State.winRead_stackOnly _ n w 128
    have hgrows : Grows block.2 ((s.told errs).submit n r d) := State.submit_grows hw hstate hlead
    have hfails : ∀ f, block.1.fail = some f → (s.told errs).submit n r d = block.2.failDesc n r d (readInfo n 12 0 w f 0 r 1)
        { status := statusPoisonRead } := fun f => State.submit_unread hw hstate hlead
    have hreads : block.1.fail = none → (s.told errs).descRead n r d 12 w 128 = (some bs, block.2) := State.descRead_reads
    have held1 : Held block.2 n r d := held.congr stack.vfs stack.parts
    have ring1 : block.2.ring n r = s.ring n r := State.ring_of_vfs stack.vfs n r
    have checks : block.2.blockChecks n bs = s.blockChecks n bs :=
      State.blockChecks_congr (s := s.told errs) stack.parts stack.srvs stack.vfs bs
    have srv1 : block.2.srv n = e := State.srv_congr stack.srvs n
    have hslot : block.2.freeSlotFor n = slot := by
      rw [State.freeSlotFor, srv1, State.part_of_parts stack.parts]
      rfl
    have stack2 : StackOnly block.2 prompt.2 := State.winRead_stackOnly _ n _ _
    have hfails2 : ∀ i, slot = some i → ∀ f, prompt.1.fail = some f → block.2.takeIn n r d x = prompt.2.failDesc n r d
        (readInfo n 12 0 x.promptOff f 0 r 1) { status := statusPoisonRead } :=
      fun i hi f => State.takeIn_unread (hslot.trans hi)
    have hgrows2 : ∀ i, slot = some i → Grows prompt.2 (block.2.takeIn n r d x) := fun i hi => State.takeIn_grows (hslot.trans hi)
    have hreads2 : prompt.1.fail = none →
        block.2.descRead n r d 12 x.promptOff (4 * x.promptLen) = (some words, prompt.2) := State.descRead_reads
    clear_value prompt block
    have ends1 : block.2.blocked = false →
        ∀ {y}, (s.told errs).submit n r d = block.2.complete n r d.id y → ends base y := fun hb {y} hu => by
      obtain ⟨honly, hend, hblocked⟩ := held1.ends ring1 y
      exact ⟨_, runs hu (hblocked.trans hb), honly, hend⟩
    refine ⟨fun hb => ?_, fun f hb hf => ?_, fun hb hf => ?_⟩
    · refine runs_blocked hl rfl ?_
      rw [effect]
      exact hgrows.2.2 hb
    · obtain ⟨hend, herr, hblocked⟩ := held1.fails ring1 (readInfo n 12 0 w f 0 r 1) { status := statusPoisonRead }
      exact ⟨_, runs (hfails f hf) (hblocked.trans hb), hend, herr⟩
    have hread := hreads hf
    refine ⟨fun hout => ends1 hb (State.submit_outside hw hstate hlead hread hout), fun hprompt => ?_⟩
    refine ⟨fun off hbad => ends1 hb (State.submit_badBlock hw hstate hlead hread hprompt (checks.symm ▸ hbad)),
      fun hgood => ?_⟩
    have hgood1 : firstBad bs (block.2.blockChecks n bs) = none := checks.symm ▸ hgood
    refine ⟨fun hv => ends1 hb (State.submit_badVariant hw hstate hlead hread hprompt hgood1 (srv1.symm ▸ hv)), fun hv => ?_⟩
    have takes : (s.told errs).submit n r d = block.2.takeIn n r d x :=
      State.submit_takesIn hw hstate hlead hread hprompt hgood1 (srv1.symm ▸ hv)
    refine ⟨fun hfull => ends1 hb (takes.trans (State.takeIn_full (hslot.trans hfull))), fun i hi => ?_⟩
    have held2 : Held prompt.2 n r d := held1.congr stack2.vfs stack2.parts
    have ring2 : prompt.2.ring n r = s.ring n r := (State.ring_of_vfs stack2.vfs n r).trans ring1
    have srv2 : prompt.2.srv n = e := (State.srv_congr stack2.srvs n).trans srv1
    refine ⟨fun hb2 => ?_, fun f hb2 hf2 => ?_, fun hb2 hf2 hnodes => ?_⟩
    · refine runs_blocked hl rfl ?_
      rw [effect, takes]
      exact (hgrows2 i hi).2.2 hb2
    · obtain ⟨hend, herr, hblocked⟩ := held2.fails ring2 (readInfo n 12 0 x.promptOff f 0 r 1) { status := statusPoisonRead }
      exact ⟨_, runs (takes.trans (hfails2 i hi f hf2)) (hblocked.trans hb2), hend, herr⟩
    have hread2 := hreads2 hf2
    have hnodes2 : (prompt.2.srv n).nodes = [] := srv2.symm ▸ hnodes
    refine ⟨fun hdeadline hcritical => ?_, fun hdeadline hpen => ?_⟩
    · obtain ⟨hend, hblocked, hfreed⟩ := State.takeIn_uncritical held2 (hslot.trans hi) hread2 (reqOfBlock_list bs) hnodes2
        (reqOfBlock_saved bs) hdeadline (srv2.symm ▸ hcritical)
      refine ⟨_, runs takes (hblocked.trans hb2), hend.congr ring2.symm, ?_⟩
      have hreq : ((s.after (block.2.takeIn n r d x)).srv n).req i = {} := hfreed
      rw [hreq]
      rfl
    · obtain ⟨hend, honly, hreqs⟩ := State.takeIn_timeless held2 (hslot.trans hi) hread2 (reqOfBlock_list bs) hnodes2
        (reqOfBlock_reserved bs) (reqOfBlock_cached bs) hdeadline hpen
      have hblocked : (block.2.takeIn n r d x).blocked = false := honly.leaves.2.2.2.trans hb2
      refine ⟨_, runs takes hblocked, hend.congr ring2.symm, honly.after_of s, ?_, fun k hk => ?_⟩
      · refine (hreqs i).trans ?_
        rw [if_pos rfl, srv1]
        rfl
      · refine (hreqs k).trans ?_
        rw [if_neg hk, srv2]

end Sys2Proof.Machine
end

section
/-! Vector rows over groups (R122, R144, R151, R157, R242, R619): what a vector register holds after bytes or lanes of it are
replaced. -/

namespace Sys2Proof.Machine

/-! ### Packed elements (R105) -/

theorem packElems_at (w : Nat) (xs : List Nat) (k : Nat) :
    packElems w xs >>> (w * k) % 2 ^ w = xs.getD k 0 % 2 ^ w := by
  induction xs generalizing k with
  | nil => simp [packElems]
  | cons x xs ih =>
    cases k with
    | zero => simp [packElems]
    | succ k =>
      have hhead : packElems w (x :: xs) >>> w = packElems w xs := by
        rw [packElems, Nat.shiftRight_eq_div_pow, Nat.add_mul_div_left _ _ (Nat.two_pow_pos w),
          Nat.div_eq_of_lt (Nat.mod_lt _ (Nat.two_pow_pos w)), Nat.zero_add]
      rw [List.getD_cons_succ, ← ih k, Nat.mul_succ, Nat.add_comm, Nat.shiftRight_add, hhead]

theorem testBit_elemAt {n : Nat} (x : BitVec n) (w k j : Nat) :
    (elemAt x w k).testBit j = (decide (j < w) && x.getLsbD (w * k + j)) := by
  rw [elemAt, Nat.testBit_mod_two_pow, Nat.testBit_shiftRight]
  rfl

/-- An element of packed numbers. -/
theorem elemAt_packElems {n w k : Nat} (h : w * (k + 1) ≤ n) (xs : List Nat) :
    elemAt (BitVec.ofNat n (packElems w xs)) w k = xs.getD k 0 % 2 ^ w := by
  rw [← packElems_at]
  refine Nat.eq_of_testBit_eq fun j => ?_
  rw [testBit_elemAt, BitVec.getLsbD_ofNat, Nat.testBit_mod_two_pow, Nat.testBit_shiftRight]
  by_cases hj : j < w
  · rw [Nat.mul_succ] at h
    simp [hj, show w * k + j < n by omega]
  · simp [hj]

/-! ### Fields of a vector register as elements -/

theorem lane_toNat (v : BitVec 8192) (l : Nat) : (lane v l).toNat = elemAt v 32 l := BitVec.extractLsb'_toNat ..

theorem exactAt_toNat (v : BitVec 8192) (i : Nat) : (exactAt v i).toNat = elemAt v 80 i := BitVec.extractLsb'_toNat ..

theorem byte_toNat (v : BitVec 8192) (b : Nat) : (field v (8 * b) 8).toNat = elemAt v 8 b := BitVec.extractLsb'_toNat ..

/-! ### Lanes -/

theorem ofLanes_eq (f : Nat → Word) :
    ofLanes f = BitVec.ofNat 8192 (packElems 32 ((List.range 256).map fun l => (f l).toNat)) := by
  have hpack (ls : List Nat) :
      ls.foldr (fun l a => (f l).toNat + 2 ^ 32 * a) 0 = packElems 32 (ls.map fun l => (f l).toNat) := by
    induction ls with
    | nil => rfl
    | cons l ls ih => rw [List.foldr_cons, ih, List.map_cons, packElems, Nat.mod_eq_of_lt (f l).isLt]
  rw [ofLanes, hpack]

theorem lane_ofLanes (f : Nat → Word) {l : Nat} (hl : l < 256) : lane (ofLanes f) l = f l := by
  apply BitVec.eq_of_toNat_eq
  rw [lane_toNat, ofLanes_eq, elemAt_packElems (by omega)]
  simp [hl, Nat.mod_eq_of_lt (f l).isLt]

theorem lane_setLanes (old : BitVec 8192) (on : Nat → Bool) (f : Nat → Word) {l : Nat} (hl : l < 256) :
    lane (setLanes old on f) l = if on l then f l else lane old l := lane_ofLanes _ hl

/-! ### Groups of bytes -/

theorem getLsbD_setBytes (old : BitVec 8192) (off len n : Nat) {i : Nat} (hi : i < 8192) :
    (setBytes old off len n).getLsbD i =
      if 8 * off ≤ i ∧ i < 8 * (off + len) then n.testBit (i - 8 * off) else old.getLsbD i := by
  simp only [setBytes, BitVec.getLsbD_or, BitVec.getLsbD_and, BitVec.getLsbD_not, BitVec.getLsbD_ofNat, hi, decide_true,
    Bool.true_and, Nat.testBit_mul_two_pow, Nat.testBit_two_pow_sub_one, Nat.testBit_mod_two_pow]
  by_cases hlo : 8 * off ≤ i
  · by_cases hup : i < 8 * (off + len)
    · simp [hlo, hup, show i - 8 * off < 8 * len by omega]
    · simp [hlo, hup, show ¬ i - 8 * off < 8 * len by omega]
  · simp [hlo]

/-- A register with the groups `gs` of `c` bytes replaced, group `g` by the low bytes of `n g`. -/
def setGroups (c : Nat) (n : Nat → Nat) (old : BitVec 8192) (gs : List Nat) : BitVec 8192 :=
  gs.foldl (fun v g => setBytes v (c * g) c (n g)) old

theorem getLsbD_setGroups {c : Nat} (hc : 0 < c) (n : Nat → Nat) (old : BitVec 8192) (gs : List Nat) {i : Nat}
    (hi : i < 8192) : (setGroups c n old gs).getLsbD i =
      if i / (8 * c) ∈ gs then (n (i / (8 * c))).testBit (i % (8 * c)) else old.getLsbD i := by
  induction gs generalizing old with
  | nil => rfl
  | cons g gs ih =>
    rw [setGroups, List.foldl_cons, ← setGroups, ih, getLsbD_setBytes _ _ _ _ hi]
    have hgroup : (8 * (c * g) ≤ i ∧ i < 8 * (c * g + c)) ↔ i / (8 * c) = g := by
      rw [Nat.div_eq_iff (by omega)]
      have h1 : g * (8 * c) = 8 * (c * g) := by ring
      have h2 : 8 * (c * g + c) = 8 * (c * g) + 8 * c := by ring
      omega
    by_cases hm : i / (8 * c) ∈ gs
    · simp [hm]
    · by_cases hg : i / (8 * c) = g
      · have hrest : i - 8 * (c * g) = i % (8 * c) := by
          rw [← hg, Nat.mod_eq_sub_mul_div, Nat.mul_assoc]
        simp [hgroup, hg, ← hrest]
      · simp [hm, hgroup, hg]

/-- An element that a group holds whole, one of `m` of its width, is the group's where it is replaced. -/
theorem elemAt_setGroups {c w m : Nat} (hc : 0 < c) (hw : 8 * c = w * m) (n : Nat → Nat) (old : BitVec 8192) (gs : List Nat)
    {e : Nat} (he : w * (e + 1) ≤ 8192) : elemAt (setGroups c n old gs) w e =
      if e / m ∈ gs then n (e / m) >>> (w * (e % m)) % 2 ^ w else elemAt old w e := by
  refine Nat.eq_of_testBit_eq fun j => ?_
  rw [testBit_elemAt]
  by_cases hj : j < w
  · have hpos : 0 < m := Nat.pos_of_mul_pos_left (hw ▸ (by omega : 0 < 8 * c))
    have hbit : w * e + j = w * m * (e / m) + (w * (e % m) + j) := by
      conv_lhs => rw [← Nat.div_add_mod e m]
      ring
    have hlt : w * (e % m) + j < w * m := by
      have := Nat.mul_le_mul_left w (Nat.succ_le_of_lt (Nat.mod_lt e hpos))
      rw [Nat.mul_succ] at this
      omega
    rw [Nat.mul_succ] at he
    rw [getLsbD_setGroups hc _ _ _ (by omega), hw]
    have hdiv : (w * e + j) / (w * m) = e / m := by
      rw [hbit, Nat.mul_add_div (by omega), Nat.div_eq_of_lt hlt, Nat.add_zero]
    have hmod : (w * e + j) % (w * m) = w * (e % m) + j := by
      rw [hbit, Nat.mul_add_mod, Nat.mod_eq_of_lt hlt]
    rw [hdiv, hmod]
    split
    · simp [hj, Nat.testBit_mod_two_pow, Nat.testBit_shiftRight]
    · simp [hj, testBit_elemAt]
  · split
    · simp [hj, Nat.testBit_mod_two_pow]
    · simp [hj, testBit_elemAt]

/-- Bytes beyond the groups stay. -/
theorem byte_setGroups {c : Nat} (hc : 0 < c) (n : Nat → Nat) (old : BitVec 8192) (gs : List Nat) {b : Nat} (hb : b < 1024)
    (hout : b / c ∉ gs) : field (setGroups c n old gs) (8 * b) 8 = field old (8 * b) 8 := by
  apply BitVec.eq_of_toNat_eq
  rw [byte_toNat, byte_toNat, elemAt_setGroups (m := c) hc rfl _ _ _ (by omega), if_neg hout]

/-- Element `32 * g + k` of groups of 32 packed elements. -/
theorem elemAt_setGroups_packed {w : Nat} (hw : 0 < w) (x : Nat → List Nat) (old : BitVec 8192) (gs : List Nat) {e : Nat}
    (he : w * (e + 1) ≤ 8192) : elemAt (setGroups (4 * w) (fun g => packElems w (x g)) old gs) w e =
      if e / 32 ∈ gs then (x (e / 32)).getD (e % 32) 0 % 2 ^ w else elemAt old w e := by
  rw [elemAt_setGroups (m := 32) (by omega) (by ring) _ _ _ he]
  simp only [packElems_at]

theorem mem_bitsSet {n : Nat} {m : BitVec n} {i : Nat} : i ∈ bitsSet m ↔ m.getLsbD i = true := by
  rw [bitsSet, List.mem_filter, List.mem_range, and_iff_right_iff_imp]
  exact BitVec.lt_of_getLsbD

end Sys2Proof.Machine
end
section
/-! The statement on vector rows over groups (R122, R144, R151, R157, R242, R619): each row's register, then the statement. -/

namespace Sys2Proof.Machine

/-! ### Vector registers -/

@[simp] theorem Vat.vreg_setVreg_same (x : Vat) (r : Nat) (w : BitVec 8192) : (x.setVreg r w).vreg r = w := by
  simp [Vat.vreg, Vat.setVreg]

theorem Vat.vreg_setVreg_ne (x : Vat) {r q : Nat} (h : q ≠ r) (w : BitVec 8192) : (x.setVreg r w).vreg q = x.vreg q := by
  simp [Vat.vreg, Vat.setVreg, tabFind_put_ne h]

/-! ### Formats (R33, R106) -/

/-- Every format of R33 but EXACT80 has 1 to 32 bits. -/
theorem fmtAt_width (c : BitVec 6) : 0 < (fmtAt c).width ∧ (fmtAt c).width ≤ 32 := by
  revert c
  decide

theorem fmtWidth_eq {c : BitVec 6} (hk : fmtKnown c.toNat = true) (hx : c.toNat ≠ codeExact80) :
    fmtWidth c.toNat = (fmtAt c).width := by
  have hsome : (fmtOf c.toNat).isSome = true := by simpa [fmtKnown, hx] using hk
  obtain ⟨f, hf⟩ := Option.isSome_iff_exists.1 hsome
  simp [fmtWidth, hx, fmtAt, hf]

/-! ### The register that each row writes -/

section Rows
variable {a : VecArgs} {x : Vat} (draw : Nat)

/-- CVTI of a format other than EXACT80 (R157). -/
theorem vecCvti_lane (hf : a.fmt.toNat ≠ codeExact80) {l : Nat} (hl : l < 256) :
    lane ((vecCvti draw a x x).vreg a.vd.val) l =
      if vecOn a l then fRn (elemVal (fmtAt a.fmt) (elemAt (x.vreg a.va.val) (fmtAt a.fmt).width l))
      else lane (x.vreg a.vd.val) l := by
  rw [vecCvti, Vat.vreg_setVreg_same, lane_setLanes _ _ _ hl, if_neg hf]

/-- CVTI of EXACT80: the values that a register holds (R619; log 34). -/
theorem vecCvti_exact (hf : a.fmt.toNat = codeExact80) {l : Nat} (hl : l < 256) :
    (vecOn a l = true → l < 96 → lane ((vecCvti draw a x x).vreg a.vd.val) l =
      fRn (accVal windowAnchor (accView (exactAt (x.vreg a.va.val) l)))) ∧
    (¬ vecOn a l = true → lane ((vecCvti draw a x x).vreg a.vd.val) l = lane (x.vreg a.vd.val) l) := by
  rw [vecCvti, Vat.vreg_setVreg_same, lane_setLanes _ _ _ hl, if_pos hf]
  exact ⟨fun hon h96 => by rw [if_pos hon, if_pos h96], fun hoff => if_neg hoff⟩

/-- The code that CVTF writes for a lane (R242, R619). -/
def cvtfCode (a : VecArgs) (x : Vat) (l : Nat) : Nat :=
  let r := (rndOf a.rnd.toNat).getD .rne
  if a.fmt.toNat = codeExact80 then (accSat (accTermIn r windowAnchor (fVal (lane (x.vreg a.va.val) l)))).toNat
  else encodeVal (fmtAt a.fmt) r (fVal (lane (x.vreg a.va.val) l))

/-- The groups that CVTF writes: those of GMASK whose elements a register holds. -/
def cvtfGroups (a : VecArgs) : List Nat :=
  (bitsSet a.gmask).filter fun g => decide (4 * fmtWidth a.fmt.toNat * (g + 1) ≤ 1024)

theorem mem_cvtfGroups {g : Nat} :
    g ∈ cvtfGroups a ↔ a.gmask.getLsbD g = true ∧ 4 * fmtWidth a.fmt.toNat * (g + 1) ≤ 1024 := by
  rw [cvtfGroups, List.mem_filter, mem_bitsSet, decide_eq_true_iff]

theorem vecCvtf_vreg : (vecCvtf a x x).vreg a.vd.val =
    setGroups (4 * fmtWidth a.fmt.toNat)
      (fun g => packElems (fmtWidth a.fmt.toNat) ((List.range 32).map fun k => cvtfCode a x (32 * g + k)))
      (x.vreg a.vd.val) (cvtfGroups a) := by
  rw [vecCvtf, Vat.vreg_setVreg_same]
  rfl

theorem vecCvtf_elem (hw : 0 < fmtWidth a.fmt.toNat) {l : Nat} (hfits : 4 * fmtWidth a.fmt.toNat * (l / 32 + 1) ≤ 1024) :
    elemAt ((vecCvtf a x x).vreg a.vd.val) (fmtWidth a.fmt.toNat) l =
      if vecOn a l then cvtfCode a x l % 2 ^ fmtWidth a.fmt.toNat
      else elemAt (x.vreg a.vd.val) (fmtWidth a.fmt.toNat) l := by
  have hend : fmtWidth a.fmt.toNat * (l + 1) ≤ 8192 := by
    have := Nat.mul_le_mul_left (fmtWidth a.fmt.toNat) (show l + 1 ≤ 32 * (l / 32 + 1) by omega)
    rw [show fmtWidth a.fmt.toNat * (32 * (l / 32 + 1)) = 8 * (4 * fmtWidth a.fmt.toNat * (l / 32 + 1)) by ring] at this
    omega
  have hmem : l / 32 ∈ cvtfGroups a ↔ vecOn a l = true := by rw [mem_cvtfGroups, vecOn, and_iff_left hfits]
  rw [vecCvtf_vreg, elemAt_setGroups_packed hw _ _ _ hend]
  simp [hmem, Nat.mod_lt, Nat.div_add_mod]

/-- CVTF of a format other than EXACT80 keeps the bytes beyond its 256 elements. -/
theorem vecCvtf_kept (hw : 0 < fmtWidth a.fmt.toNat) {b : Nat} (hb : b < 1024)
    (hout : 32 * fmtWidth a.fmt.toNat ≤ b ∨ 1024 < 4 * fmtWidth a.fmt.toNat * (b / (4 * fmtWidth a.fmt.toNat) + 1)) :
    field ((vecCvtf a x x).vreg a.vd.val) (8 * b) 8 = field (x.vreg a.vd.val) (8 * b) 8 := by
  rw [vecCvtf_vreg, byte_setGroups (by omega) _ _ _ hb]
  rw [mem_cvtfGroups]
  rintro ⟨hbit, hfits⟩
  rcases hout with hout | hout
  · have : 8 ≤ b / (4 * fmtWidth a.fmt.toNat) := (Nat.le_div_iff_mul_le (by omega)).2 (by omega)
    exact absurd (BitVec.lt_of_getLsbD hbit) (by omega)
  · omega

/-- XADD: the values of the groups in GMASK, where the sum is in range (R151; log 19). -/
theorem vecXadd_exact {i : Nat} (hi : i < 96) :
    (vecOn a i = true → ∀ w, accOf (accCombine (accView (exactAt (x.vreg a.va.val) i)) (accView (exactAt (vecB x a) i))) =
      some w → exactAt ((vecXadd draw a x x).vreg a.vd.val) i = w) ∧
    (¬ vecOn a i = true → exactAt ((vecXadd draw a x x).vreg a.vd.val) i = exactAt (x.vreg a.vd.val) i) := by
  have hmem : i / 1 ∈ (List.range 96).filter (fun i => a.gmask.getLsbD (i / 32)) ↔ vecOn a i = true := by
    rw [List.mem_filter, List.mem_range, Nat.div_one, and_iff_right hi, vecOn]
  have hat := elemAt_setGroups (c := 10) (w := 80) (m := 1) (by omega) (by omega)
    (fun i => ((accOf (accCombine (accView (exactAt (x.vreg a.va.val) i)) (accView (exactAt (vecB x a) i)))).getD
      (Config.freeAt draw (66000 + i) 80)).toNat) (x.vreg a.vd.val)
    ((List.range 96).filter fun i => a.gmask.getLsbD (i / 32)) (e := i) (by omega)
  rw [vecXadd, Vat.vreg_setVreg_same]
  refine ⟨fun hon w hw => BitVec.eq_of_toNat_eq ?_, fun hoff => BitVec.eq_of_toNat_eq ?_⟩
  · rw [if_pos (hmem.2 hon), Nat.div_one, hw] at hat
    refine (exactAt_toNat _ _).trans (hat.trans ?_)
    simp [Nat.mod_one, Nat.mod_eq_of_lt w.isLt]
  · rw [if_neg fun h => hoff (hmem.1 h)] at hat
    exact (exactAt_toNat _ _).trans (hat.trans (exactAt_toNat _ _).symm)

theorem vecXadd_kept {b : Nat} (hlo : 960 ≤ b) (hb : b < 1024) :
    field ((vecXadd draw a x x).vreg a.vd.val) (8 * b) 8 = field (x.vreg a.vd.val) (8 * b) 8 := by
  rw [vecXadd, Vat.vreg_setVreg_same]
  refine byte_setGroups (c := 10) (by omega) _ _ _ hb fun h => ?_
  have := List.mem_range.1 (List.mem_filter.1 h).1
  omega

/-- XCVT: the values of the groups in GMASK under the anchor (R151). -/
theorem vecXcvt_lane (hanchor : anchorOk (x.sreg a.vb) = true) {l : Nat} (hl : l < 256) :
    lane ((vecXcvt draw a x x).vreg a.vd.val) l = if l < 96 ∧ vecOn a l = true then
      fRn (accVal (x.sreg a.vb).toInt (accView (exactAt (x.vreg a.va.val) l))) else lane (x.vreg a.vd.val) l := by
  rw [vecXcvt, Vat.vreg_setVreg_same, lane_setLanes _ _ _ hl, if_pos hanchor]
  simp only [Bool.and_eq_true, decide_eq_true_iff]

/-- RSUM: the sum in value 0, where it is in range (R149, R150). -/
theorem vecRsum_exact (hanchor : anchorOk (x.sreg a.vb) = true) {w : Acc}
    (hw : accOf (accSum (x.sreg a.vb).toInt
      (((List.range 256).filter (vecOn a)).map fun l => fVal (lane (x.vreg a.va.val) l))) = some w) :
    exactAt ((vecRsum draw a x x).vreg a.vd.val) 0 = w := by
  have hat := elemAt_setGroups (c := 10) (w := 80) (m := 1) (by omega) (by omega) (fun _ => w.toNat) (x.vreg a.vd.val) [0]
    (e := 0) (by omega)
  rw [vecRsum, Vat.vreg_setVreg_same, if_pos hanchor, hw]
  apply BitVec.eq_of_toNat_eq
  refine (exactAt_toNat _ _).trans (hat.trans ?_)
  simp [Nat.mod_eq_of_lt w.isLt]

theorem vecRsum_kept {b : Nat} (hlo : 10 ≤ b) (hb : b < 1024) :
    field ((vecRsum draw a x x).vreg a.vd.val) (8 * b) 8 = field (x.vreg a.vd.val) (8 * b) 8 := by
  rw [vecRsum, Vat.vreg_setVreg_same]
  refine byte_setGroups (c := 10) (by omega) (fun _ => _) _ [0] hb fun h => ?_
  have := List.mem_singleton.1 h
  omega

theorem vecRmax_lane {l : Nat} (hl : l < 256) :
    lane ((vecRmax a x x).vreg a.vd.val) l = if l = 0 then
      fRn (fVal (((List.range 256).filter (vecOn a)).foldl (fun m k => fMax m (lane (x.vreg a.va.val) k))
        (lane (x.vreg a.va.val) (((List.range 256).filter (vecOn a)).headD 0))))
      else lane (x.vreg a.vd.val) l := by
  rw [vecRmax, Vat.vreg_setVreg_same, lane_setLanes _ _ _ hl]
  simp only [beq_iff_eq]

/-! ### MXQ (R144) -/

/-- The Microscaling block of a group. -/
def mxqBlock (a : VecArgs) (x : Vat) (g : Nat) : Nat × List Nat :=
  mxBlock (fmtAt a.fmt) .rne ((List.range 32).map fun k => fVal (lane (x.vreg a.va.val) (32 * g + k)))

theorem vecMxq_elems (hne : a.vc ≠ a.vd) : (vecMxq a x x).vreg a.vd.val =
    setGroups (4 * (fmtAt a.fmt).width) (fun g => packElems (fmtAt a.fmt).width (mxqBlock a x g).2) (x.vreg a.vd.val)
      (bitsSet a.gmask) := by
  rw [vecMxq, Vat.vreg_setVreg_ne _ (fun h => hne (Fin.ext h.symm)), Vat.vreg_setVreg_same]
  rfl

theorem vecMxq_scales (hne : a.vc ≠ a.vd) : (vecMxq a x x).vreg a.vc.val =
    setGroups 1 (fun g => (mxqBlock a x g).1) (x.vreg a.vc.val) (bitsSet a.gmask) := by
  rw [vecMxq, Vat.vreg_setVreg_same, Vat.vreg_setVreg_ne _ fun h => hne (Fin.ext h)]
  simp only [setGroups, Nat.one_mul]
  rfl

theorem vecMxq_other {r : Nat} (hd : r ≠ a.vd.val) (hc : r ≠ a.vc.val) : (vecMxq a x x).vreg r = x.vreg r := by
  rw [vecMxq, Vat.vreg_setVreg_ne _ hc, Vat.vreg_setVreg_ne _ hd]

theorem vecMxq_elem (hne : a.vc ≠ a.vd) {g k : Nat} (hg : g < 8) (hk : k < 32) :
    elemAt ((vecMxq a x x).vreg a.vd.val) (fmtAt a.fmt).width (32 * g + k) =
      if a.gmask.getLsbD g = true then (mxqBlock a x g).2.getD k 0 % 2 ^ (fmtAt a.fmt).width
      else elemAt (x.vreg a.vd.val) (fmtAt a.fmt).width (32 * g + k) := by
  obtain ⟨hpos, hmax⟩ := fmtAt_width a.fmt
  have hend := Nat.mul_le_mul hmax (show 32 * g + k + 1 ≤ 256 by omega)
  rw [vecMxq_elems hne, elemAt_setGroups_packed hpos _ _ _ hend]
  simp only [show (32 * g + k) / 32 = g by omega, show (32 * g + k) % 32 = k by omega, mem_bitsSet]

theorem vecMxq_scale (hne : a.vc ≠ a.vd) {g : Nat} (hg : g < 8) :
    field ((vecMxq a x x).vreg a.vc.val) (8 * g) 8 =
      if a.gmask.getLsbD g = true then BitVec.ofNat 8 (mxqBlock a x g).1 else field (x.vreg a.vc.val) (8 * g) 8 := by
  apply BitVec.eq_of_toNat_eq
  rw [byte_toNat, vecMxq_scales hne, elemAt_setGroups (m := 1) (by omega) (by omega) _ _ _ (by omega), Nat.div_one,
    apply_ite BitVec.toNat, byte_toNat]
  simp [mem_bitsSet, Nat.mod_one]

/-- MXQ writes 32 bytes an element bit of VD, and a byte a group of VC. -/
theorem vecMxq_kept (hne : a.vc ≠ a.vd) {b : Nat} (hb : b < 1024) :
    (32 * (fmtAt a.fmt).width ≤ b →
      field ((vecMxq a x x).vreg a.vd.val) (8 * b) 8 = field (x.vreg a.vd.val) (8 * b) 8) ∧
    (8 ≤ b → field ((vecMxq a x x).vreg a.vc.val) (8 * b) 8 = field (x.vreg a.vc.val) (8 * b) 8) := by
  obtain ⟨hpos, -⟩ := fmtAt_width a.fmt
  have outside {g : Nat} (h : 8 ≤ g) : g ∉ bitsSet a.gmask := fun hm => by
    have := BitVec.lt_of_getLsbD (mem_bitsSet.1 hm)
    omega
  refine ⟨fun hlo => ?_, fun hlo => ?_⟩
  · rw [vecMxq_elems hne]
    exact byte_setGroups (by omega) _ _ _ hb (outside ((Nat.le_div_iff_mul_le (by omega)).2 (by omega)))
  · rw [vecMxq_scales hne]
    exact byte_setGroups (by omega) _ _ _ hb (outside (by omega))

end Rows

/-! ### Rows of the VEC slot -/

/-- A row of a unit whose check passes performs its operation on the vat, and nothing else. -/
theorem unitRow_passes {s : State} {c : Instr} {v : Fin 128} {slot : Nat} {check : Vat → Option TrapCause}
    {f : Nat → Vat → Vat} (hl : s.live) (hc : exec c s = act (unitRow v slot check f) s) (hcheck : check (s.vat v) = none) :
    ∃ t, Runs c s t ∧ OnlyVat v s t ∧ t.vat v = f s.freshCount (s.vat v) := by
  refine ⟨s.drew.modVat v fun x => f s.freshCount x, ?_, ⟨rfl, fun w hw => ?_⟩, State.vat_modVat_same ..⟩
  · have hrow : act (unitRow v slot check f) s = .next (s.drew.modVat v fun x => f s.freshCount x) := by
      rw [unitRow, act_live hl] <;> simp only [hcheck]
      exact ⟨rfl, rfl, rfl, rfl⟩
    exact hc.trans hrow
  · rw [State.vat_modVat, if_neg hw]
    rfl

section Checks
variable {a : VecArgs} (hr : a.rnd ≠ 3) (hg : a.gmask ≠ 0)
include hr hg

theorem checkVec_passes : checkVec a = none := by
  rw [checkVec, need, if_pos (by simpa using ⟨hr, hg⟩)]

theorem checkFmt_passes {mx : Bool} (hk : fmtKnown a.fmt.toNat = true) (hm : fmtIsMx a.fmt.toNat = mx) :
    checkFmt a mx = none := by simp [checkFmt, checkVec_passes hr hg, need, hk, hm]

theorem checkSb_passes (hs : a.sb = true) : checkSb a = none := by simp [checkSb, checkVec_passes hr hg, need, hs]

end Checks

/-- Settles O18: each row replaces lanes or groups of bytes of VD (and of VC, for MXQ) by what its operation gives. -/
theorem vectorGroups : Obligations.VectorGroups := by
  intro s v a hl hr hg x src old on anchor f elem changes kept
  have one (c : Instr) {check : Option TrapCause} (op : Nat → Vat → Vat) {w : BitVec 8192} {post : Vat → Prop}
      (hc : exec c s = act (unitRow v 6 (fun _ => check) op) s) (hcheck : check = none)
      (hop : op s.freshCount x = x.setVreg a.vd.val w) (hpost : post (op s.freshCount x)) : changes c post := by
    obtain ⟨t, hruns, honly, hvat⟩ := unitRow_passes hl hc hcheck
    rw [← hvat] at hpost
    have hreg : t.vat v = x.setVreg a.vd.val w := hvat.trans hop
    exact ⟨t, hruns, honly, by rw [hreg]; rfl, fun r hrd _ => by rw [hreg, Vat.vreg_setVreg_ne _ hrd], hpost⟩
  have hvec := checkVec_passes hr hg
  refine ⟨?toLanes, ?exact80, ?mxq, ?sum, ?anchored, ?max⟩
  case mxq =>
    intro hk hm hne
    obtain ⟨t, hruns, honly, hvat⟩ := unitRow_passes hl (c := .mxq v a) rfl (checkFmt_passes hr hg hk hm)
    refine ⟨t, hruns, honly, hvat ▸ rfl, fun r hd hc => ?_, ?_⟩
    · rw [hvat]
      exact vecMxq_other hd (hc.resolve_left fun h => h rfl)
    · rw [hvat]
      refine ⟨fun b hlo hb => (vecMxq_kept hne hb).1 hlo, fun b hlo hb => (vecMxq_kept hne hb).2 hlo, fun g hg8 => ?_⟩
      have hscale := vecMxq_scale (x := x) hne hg8
      have helem {k : Nat} (hk32 : k < 32) := vecMxq_elem (x := x) hne hg8 hk32
      exact ⟨fun hon => ⟨hscale.trans (if_pos hon), fun k hk32 => (helem hk32).trans (if_pos hon)⟩,
        fun hoff => ⟨hscale.trans (if_neg (by simp [hoff])), fun k hk32 => (helem hk32).trans (if_neg (by simp [hoff]))⟩⟩
  all_goals clear_value changes
  case toLanes =>
    intro hk hm hx
    refine ⟨?_, ?_⟩
    · refine one (.cvti v a) (fun d y => vecCvti d a y y) rfl (checkFmt_passes hr hg hk hm) rfl ?_
      exact fun l hl' => vecCvti_lane _ hx hl'
    · have hw := fmtWidth_eq hk hx
      obtain ⟨hpos, hmax⟩ := fmtAt_width a.fmt
      refine one (.cvtf v a) (fun _ y => vecCvtf a y y) rfl (checkFmt_passes hr hg hk hm) rfl
        (And.intro (fun b hlo hb => ?_) fun l hl' => ?_)
      · exact vecCvtf_kept (by omega) hb (.inl (by rw [hw]; exact hlo))
      · have hfits := Nat.mul_le_mul (Nat.mul_le_mul_left 4 hmax) (show l / 32 + 1 ≤ 8 by omega)
        have hat := vecCvtf_elem (a := a) (x := x) (by omega) (l := l) (by rw [hw]; exact hfits)
        rw [hw, cvtfCode, if_neg hx] at hat
        exact hat
  case exact80 =>
    intro hx
    refine ⟨?_, ?_⟩
    · refine one (.cvti v a) (fun d y => vecCvti d a y y) rfl (checkFmt_passes hr hg (by rw [hx]; rfl) (by rw [hx]; rfl)) rfl ?_
      exact fun l hl' => vecCvti_exact _ hx hl'
    · have hw : fmtWidth a.fmt.toNat = 80 := by rw [hx]; rfl
      refine one (.cvtf v a) (fun _ y => vecCvtf a y y) rfl (checkFmt_passes hr hg (by rw [hx]; rfl) (by rw [hx]; rfl)) rfl
        (And.intro (fun b hlo hb => ?_) fun l hl' => ?_)
      · exact vecCvtf_kept (by omega) hb (.inr (by rw [hw]; omega))
      · have hat := vecCvtf_elem (a := a) (x := x) (by omega) (l := l) (by rw [hw]; omega)
        rw [hw, cvtfCode, if_pos hx, ← exactAt_toNat, ← exactAt_toNat, Nat.mod_eq_of_lt (BitVec.isLt _)] at hat
        exact BitVec.eq_of_toNat_eq (hat.trans (apply_ite BitVec.toNat ..).symm)
  case sum =>
    refine one (.xadd v a) (fun d y => vecXadd d a y y) rfl hvec rfl ?_
    exact ⟨fun b hlo hb => vecXadd_kept _ hlo hb, fun i hi => vecXadd_exact _ hi⟩
  case anchored =>
    intro hsb hlo hhi
    have hanchor : anchorOk (x.sreg a.vb) = true := by
      rw [anchorOk, Bool.and_eq_true, decide_eq_true_iff, decide_eq_true_iff]
      exact ⟨hlo, hhi⟩
    have hcheck := checkSb_passes hr hg hsb
    refine ⟨one (.xcvt v a) (fun d y => vecXcvt d a y y) rfl hcheck rfl ?_,
      one (.rsum v a) (fun d y => vecRsum d a y y) rfl hcheck rfl ?_⟩
    · exact fun l hl' => vecXcvt_lane _ hanchor hl'
    · exact ⟨fun w hw => vecRsum_exact _ hanchor hw, fun b hlo' hb => vecRsum_kept _ hlo' hb⟩
  case max =>
    refine one (.rmax v a) (fun _ y => vecRmax a y y) rfl hvec rfl ?_
    exact fun l hl' => ⟨fun hne => (vecRmax_lane hl').trans (if_neg hne), fun _ => (vecRmax_lane (by omega)).trans (if_pos rfl)⟩

end Sys2Proof.Machine
end
section
/-! Copy descriptors (R116 to R139): what their reads and writes leave of the state, and what a halted one leaves. -/

namespace Sys2Proof.Machine

/-! ### Reads and writes of a copy -/

section Frames
variable (s : State) (n : Nat)

theorem foldl_stackOnly {α β : Type} {f : β × State → α → β × State} (h : ∀ b s a, StackOnly s (f (b, s) a).2)
    (xs : List α) (b : β) (s : State) : StackOnly s (xs.foldl f (b, s)).2 := by
  induction xs generalizing b s with
  | nil => exact .refl s
  | cons x xs ih => exact (h b s x).trans (ih _ _)

theorem State.readAll_stackOnly (ranges : List (Nat × Nat)) : StackOnly s (s.readAll n ranges).2 :=
  foldl_stackOnly (fun _ s x => s.winRead_stackOnly n x.1 x.2) ranges none s

theorem writeAll_stackOnly (ws : List (Nat × List Byte)) (s : State) : StackOnly s (writeAll n ws s).1 := by
  induction ws generalizing s with
  | nil => exact .refl s
  | cons x t ih => exact (s.winWrite_stackOnly n x.1 x.2).trans (ih _)

theorem writeAll_grows (ws : List (Nat × List Byte)) (s : State) : Grows s (writeAll n ws s).1 := by
  induction ws generalizing s with
  | nil => exact .refl s
  | cons x t ih => exact (s.winWrite_grows n x.1 x.2).trans (ih _)

theorem State.drew_stackOnly : StackOnly s s.drew := ⟨s.mem, s.stks, s.err, s.evc, s.msix, s.out, _, s.blocked, rfl⟩

theorem State.drew_grows : Grows s s.drew := .refl s

theorem CopyJob.perform_stackOnly (c : CopyJob) (k : Nat) : StackOnly s (c.perform n k s).1 :=
  (writeAll_stackOnly n _ s).trans (State.drew_stackOnly _)

theorem CopyJob.perform_grows (c : CopyJob) (k : Nat) : Grows s (c.perform n k s).1 :=
  (writeAll_grows n _ s).trans (State.drew_grows _)

/-! ### What a descriptor would have written (R138) -/

theorem foldl_forget_wf (segs : List (Nat × Nat)) {m : Mem} (h : m.wf = true) :
    (segs.foldl (fun m (x : Nat × Nat) => m.forget x.1 (x.1 + x.2)) m).wf = true := by
  induction segs generalizing m with
  | nil => exact h
  | cons x t ih => exact ih (Mem.forget_wf h _ _)

theorem State.winForget_grows (w len : Nat) : Grows s (s.winForget n w len) :=
  ⟨List.Subset.refl _, fun h => foldl_forget_wf _ h, id⟩

/-- Memory alone loses values. -/
theorem State.copyForget_only (c : CopyJob) : ∃ m, s.copyForget n c = { s with mem := m } := by
  unfold State.copyForget
  dsimp only
  generalize ((List.range c.dst.rows).map c.dst.row).filter c.wouldWrite = rows
  induction rows generalizing s with
  | nil => exact ⟨s.mem, rfl⟩
  | cons idx rows ih =>
    obtain ⟨m, hm⟩ := ih (if c.dst.mx then (s.winForget n (c.dst.vecAddr idx 0) (c.dst.vecBytes * c.dst.vecs)).winForget n
      (c.dst.scaleAddr idx 0) c.dst.vecs else s.winForget n (c.dst.vecAddr idx 0) (c.dst.vecBytes * c.dst.vecs))
    refine ⟨m, hm.trans ?_⟩
    split <;> rfl

theorem State.copyForget_grows (c : CopyJob) : Grows s (s.copyForget n c) := by
  refine forAll_grows (fun idx s => ?_) _ s
  dsimp only
  split
  · exact (s.winForget_grows n _ _).trans (State.winForget_grows _ n _ _)
  · exact s.winForget_grows n _ _

theorem State.copyHalts_grows (r : Nat) (d : Desc) (c : CopyJob) (ch : Nat) (i : ErrInfo) (spent : Bool) :
    Grows s (s.copyHalts n r d c ch i spent) :=
  (s.copyForget_grows n c).trans (State.failDesc_grows _ n r d _ _)

end Frames

/-! ### Which copies wait (R134) -/

theorem State.mem_copies {s : State} {n : Nat} {x : Nat × Desc × CopyJob} :
    x ∈ s.copies n ↔ x.1 < 8 ∧ x.2.1 ∈ (s.ring n x.1).descs ∧ x.2.1.state = .copy x.2.2 := by
  obtain ⟨r, d, c⟩ := x
  simp only [State.copies, List.mem_flatMap, List.mem_range, List.mem_filterMap]
  constructor
  · rintro ⟨q, hq, e, he, hx⟩
    split at hx
    · rename_i c' hc
      simp only [Option.some.injEq, Prod.mk.injEq] at hx
      obtain ⟨rfl, rfl, rfl⟩ := hx
      exact ⟨hq, he, hc⟩
    · exact absurd hx (by simp)
  · rintro ⟨hr, hd, hc⟩
    exact ⟨r, hr, d, hd, by simp only [hc]⟩

theorem State.copies_of_vfs {s t : State} (h : t.vfs = s.vfs) (n : Nat) : t.copies n = s.copies n := by
  simp only [State.copies, State.ring_of_vfs h]

/-- Every copy descriptor that waits for a channel is this one. -/
def State.copyWaitsOnly (s : State) (n r id : Nat) : Prop :=
  ∀ x ∈ s.copies n, x.2.2.channels = [] → x.1 = r ∧ x.2.1.id = id

theorem State.noCopyWaits.only {s : State} {n : Nat} (h : s.noCopyWaits n) (r id : Nat) : s.copyWaitsOnly n r id :=
  fun x hx hc => absurd hc (h x hx)

theorem State.copyWaitsOnly_of_vfs {s t : State} {n r id : Nat} (h : t.vfs = s.vfs) (hw : s.copyWaitsOnly n r id) :
    t.copyWaitsOnly n r id := by
  unfold State.copyWaitsOnly
  rw [State.copies_of_vfs h]
  exact hw

/-- Where each copy descriptor of the ring is another one from before, or one that holds a channel, none waits. -/
theorem State.noCopyWaits_of {s t : State} {n r id : Nat} (hw : s.copyWaitsOnly n r id)
    (hother : ∀ q, q ≠ r → t.ring n q = s.ring n q)
    (hring : ∀ d ∈ (t.ring n r).descs, d ∈ (s.ring n r).descs ∧ d.id ≠ id ∨ ∀ c, d.state = .copy c → c.channels ≠ []) :
    t.noCopyWaits n := by
  rintro ⟨q, d, c⟩ hx hc
  obtain ⟨hq, hd, hst⟩ := State.mem_copies.1 hx
  by_cases hqr : q = r
  · subst hqr
    rcases hring d hd with ⟨hold, hne⟩ | h
    · exact hne (hw (q, d, c) (State.mem_copies.2 ⟨hq, hold, hst⟩) hc).2
    · exact h c hst hc
  · exact hqr (hw (q, d, c) (State.mem_copies.2 ⟨hq, hother q hqr ▸ hd, hst⟩) hc).1

theorem State.setDesc_noCopyWaits {s : State} {n r id : Nat} (hw : s.copyWaitsOnly n r id) {c : CopyJob}
    (hc : c.channels ≠ []) : (s.setDesc n r id (.copy c)).noCopyWaits n := by
  refine State.noCopyWaits_of hw (s.modRing_onlyRing n r _).2.2 fun x hx => ?_
  rw [State.setDesc, State.ring_modRing_same] at hx
  obtain ⟨y, hy, rfl⟩ := List.mem_map.1 hx
  split
  · exact .inr fun c' h => by cases h; exact hc
  · rename_i hne
    exact .inl ⟨hy, by simpa using hne⟩

section Ends
variable {s : State} {n r : Nat} {d : Desc} (h : Held s n r d) (hw : s.copyWaitsOnly n r d.id)
include h hw

theorem Held.complete_noCopyWaits (e : Ending) : (s.complete n r d.id e).noCopyWaits n := by
  obtain ⟨hend, -, -, hother⟩ := h.complete e
  refine State.noCopyWaits_of hw hother fun x hx => .inl ?_
  rw [hend] at hx
  obtain ⟨hold, hne⟩ := List.mem_filter.1 hx
  exact ⟨hold, by simpa using hne⟩

theorem Held.failDesc_noCopyWaits (i : ErrInfo) (e : Ending) : (s.failDesc n r d i e).noCopyWaits n := by
  have hlog := s.logError_logOnly { i with part := n, tag := descTag d.bits, ring := r }
  exact (h.congr hlog.vfs hlog.parts).complete_noCopyWaits (State.copyWaitsOnly_of_vfs hlog.vfs hw) _

theorem Held.copyHalts_noCopyWaits (c : CopyJob) (ch : Nat) (i : ErrInfo) (spent : Bool) :
    (s.copyHalts n r d c ch i spent).noCopyWaits n := by
  obtain ⟨x, hx⟩ := s.copyForget_only n c
  have hvfs : (s.copyForget n c).vfs = s.vfs := by rw [hx]
  exact Held.failDesc_noCopyWaits (h.congr hvfs (by rw [hx])) (State.copyWaitsOnly_of_vfs hvfs hw) _ _

end Ends

/-- Where no copy waits, no channel is given out. -/
theorem settleCopies_idle {s : State} {n : Nat} (hn : s.noCopyWaits n) (k : Nat) : settleCopies n k s = s := by
  cases k with
  | zero => rfl
  | succ k =>
    have hwaiting : ((s.copies n).filter fun (_, _, c) => c.channels.isEmpty) = [] :=
      List.filter_eq_nil_iff.2 fun x hx => by simpa using hn x hx
    simp only [settleCopies, hwaiting, sortBy, List.foldl_nil]

theorem State.settleChannels_idle {s : State} {n : Nat} (hn : s.noCopyWaits n) : s.settleChannels n = s :=
  settleCopies_idle hn _

/-! ### A halted copy (R138, R139) -/

/-- The ending of a copy descriptor whose channel halts. -/
def haltEnding (ch : Nat) (spent : Bool) (seq : Word) : Ending :=
  { status := if spent then statusChannelHalt else statusPoisonRead, detail := ch, chan := some ch, errSeq := seq }

/-- A copy descriptor of a ring halts: one record, and its end; what it would have written loses its value. -/
theorem Held.copyHalts {s m : State} {n r : Nat} {d : Desc} (h : Held m n r d) (hring : m.ring n r = s.ring n r)
    (c : CopyJob) (ch : Nat) {i : ErrInfo} (hpart : i.part = n) (hr : i.ring = r) (spent : Bool) :
    (s.after (m.copyHalts n r d c ch i spent)).mem = (m.copyForget n c).mem.canon ∧
      (s.after (m.copyHalts n r d c ch i spent)).err =
        (s.after m).recorded { i with unit := ch, tag := descTag d.bits } ∧
      Ended s (s.after (m.copyHalts n r d c ch i spent)) n r d (haltEnding ch spent (s.after m).err.nextSeq) ∧
      (m.copyHalts n r d c ch i spent).blocked = m.blocked := by
  obtain ⟨x, hx⟩ := m.copyForget_only n c
  have hvfs : (m.copyForget n c).vfs = m.vfs := by rw [hx]
  have hheld : Held (m.copyForget n c) n r d := h.congr hvfs (by rw [hx])
  obtain ⟨hleaves, herr, hend⟩ := hheld.failDesc { i with unit := ch } (haltEnding ch spent 0)
  refine ⟨congrArg Mem.canon hleaves.2.1, herr.trans ?_, hend.congr ?_ rfl ?_, hleaves.2.2.2.trans (by rw [hx])⟩
  · subst hpart hr
    exact State.recorded_congr (by rw [hx]; rfl) (by rw [hx]; rfl) _
  · rw [State.ring_of_vfs hvfs, hring]
  · rw [hx]
    rfl

end Sys2Proof.Machine
end
section
/-! A piece of a copy descriptor (R132, R134, R138): whether it is due, what its reads and writes lead to. -/

namespace Sys2Proof.Machine

/-! ### Whether a piece is due (R134) -/

theorem CopyJob.mayRun_iff {c : CopyJob} {k ch : Nat} : c.mayRun k ch = true ↔
    ch ∈ c.channels ∧ rangesMem k c.left = true ∧ ∀ x, (c.indexValue k).bind (tabFind c.keepers) = some x → x = ch := by
  rw [CopyJob.mayRun, Bool.and_eq_true, Bool.and_eq_true, List.contains_iff_mem, and_assoc]
  refine and_congr_right fun _ => and_congr_right fun _ => ?_
  cases (c.indexValue k).bind (tabFind c.keepers) <;> simp

section Pieces
variable {s : State} {n r k ch : Nat} {d : Desc} {c : CopyJob}

theorem State.pieceEnds_notDue (hf : (s.ring n r).find d.id = some d) (hst : d.state = .copy c) (h : ¬c.mayRun k ch = true) :
    s.pieceEnds n r d.id k ch = s := by simp only [State.pieceEnds, hf, hst, if_neg h]

theorem State.pieceEnds_due (hf : (s.ring n r).find d.id = some d) (hst : d.state = .copy c) (h : c.mayRun k ch = true) :
    s.pieceEnds n r d.id k ch = (s.runPiece n r d c k ch).settleChannels n := by
  simp only [State.pieceEnds, hf, hst, if_pos h]

/-! ### What a due piece does (R132, R138) -/

section Outcome
variable {read : Option (Nat × ReadFail) × State} (hread : s.readAll n (c.pieceReads k) = read)
include hread

theorem State.runPiece_unread {w : Nat} {f : ReadFail} (h : read.1 = some (w, f)) :
    s.runPiece n r d c k ch = read.2.copyFails n r d c ch w f := by
  obtain ⟨_, s1⟩ := read
  subst h
  simp only [State.runPiece, hread]

variable (h : read.1 = none)
include h

theorem State.runPiece_dropped {a : Nat} {more : List Nat} (hp : (c.perform n k read.2).2 = a :: more) :
    s.runPiece n r d c k ch = (c.perform n k read.2).1.copyMerge n r d c ch a (!read.2.isMarked a) := by
  obtain ⟨_, s1⟩ := read
  subst h
  simp only [State.runPiece, hread, hp]

theorem State.runPiece_last (hp : (c.perform n k read.2).2 = []) (hleft : (c.ended k ch).left = []) :
    s.runPiece n r d c k ch = (c.perform n k read.2).1.complete n r d.id { result := c.result } := by
  obtain ⟨_, s1⟩ := read
  subst h
  simp [State.runPiece, hread, hp, hleft]

theorem State.runPiece_goesOn (hp : (c.perform n k read.2).2 = []) (hleft : (c.ended k ch).left ≠ []) :
    s.runPiece n r d c k ch = (c.perform n k read.2).1.setDesc n r d.id (.copy (c.ended k ch)) := by
  obtain ⟨_, s1⟩ := read
  subst h
  simp [State.runPiece, hread, hp, hleft]

/-- A piece whose reads are good keeps what its writes meet. -/
theorem State.perform_runPiece_grows : Grows (c.perform n k read.2).1 (s.runPiece n r d c k ch) := by
  cases hp : (c.perform n k read.2).2 with
  | cons a more =>
    rw [State.runPiece_dropped hread h hp]
    exact State.copyHalts_grows _ n r d c ch _ _
  | nil =>
    by_cases hleft : (c.ended k ch).left = []
    · rw [State.runPiece_last hread h hp hleft]
      exact (State.complete_ringOnly _ _ _ _ _).grows
    · rw [State.runPiece_goesOn hread h hp hleft]
      exact (State.setDesc_ringOnly _ _ _ _ _).grows

end Outcome

/-- A piece keeps what its reads meet. -/
theorem State.readAll_runPiece_grows : Grows (s.readAll n (c.pieceReads k)).2 (s.runPiece n r d c k ch) := by
  cases h : (s.readAll n (c.pieceReads k)).1 with
  | some x =>
    rw [State.runPiece_unread rfl h]
    exact State.copyHalts_grows _ n r d c ch _ _
  | none => exact (CopyJob.perform_grows _ n c k).trans (State.perform_runPiece_grows rfl h)

end Pieces

/-! ### COPY_PIECE_COMPLETE -/

/-- What a copy descriptor whose channel halts leaves: the record, its end, and its destination without values. -/
def CopyHalted (s m base : State) (n r : Nat) (d : Desc) (c : CopyJob) (ch : Nat) (i : ErrInfo) (spent : Bool) (t : State) :
    Prop :=
  t.mem = (m.copyForget n c).mem.canon ∧ t.err = base.recorded { i with unit := ch, tag := descTag d.bits } ∧
    Ended s t n r d (haltEnding ch spent base.err.nextSeq)

/-- No copy waits after a due piece. -/
theorem Held.runPiece_noCopyWaits {s : State} {n r k ch : Nat} {d : Desc} {c : CopyJob} (hd : Held s n r d)
    (hn : s.noCopyWaits n) (hmay : c.mayRun k ch = true) : (s.runPiece n r d c k ch).noCopyWaits n := by
  have hstack := s.readAll_stackOnly n (c.pieceReads k)
  have held {t : State} (ht : StackOnly s t) : Held t n r d := hd.congr ht.vfs ht.parts
  have waits {t : State} (ht : StackOnly s t) : t.copyWaitsOnly n r d.id := State.copyWaitsOnly_of_vfs ht.vfs (hn.only r d.id)
  cases h : (s.readAll n (c.pieceReads k)).1 with
  | some x =>
    rw [State.runPiece_unread rfl h]
    exact (held hstack).copyHalts_noCopyWaits (waits hstack) _ _ _ _
  | none =>
    have hstack' := hstack.trans (CopyJob.perform_stackOnly _ n c k)
    cases hp : (c.perform n k (s.readAll n (c.pieceReads k)).2).2 with
    | cons a more =>
      rw [State.runPiece_dropped rfl h hp]
      exact (held hstack').copyHalts_noCopyWaits (waits hstack') _ _ _ _
    | nil =>
      by_cases hleft : (c.ended k ch).left = []
      · rw [State.runPiece_last rfl h hp hleft]
        exact (held hstack').complete_noCopyWaits (waits hstack') _
      · rw [State.runPiece_goesOn rfl h hp hleft]
        have hch : (c.ended k ch).channels ≠ [] := List.ne_nil_of_mem (CopyJob.mayRun_iff.1 hmay).1
        exact State.setDesc_noCopyWaits (waits hstack') hch

section Row
variable {s : State} {n r k ch : Nat} {d : Desc} {c : CopyJob} {row : Instr} {errs : Errs} (hl : s.live)
  (hrow : exec row s = actOn errs (whenRunning fun s => s.pieceEnds n r d.id k ch) s)
  (hd : Held s n r d) (hst : d.state = .copy c)
include hd hst

include hl hrow in
theorem piece_idle (h : ¬c.mayRun k ch = true) : Runs row s s :=
  (Row.of_actOn hrow).idle hl (State.pieceEnds_notDue (s := s.told errs) hd.1 hst h)

variable (hn : s.noCopyWaits n) (hmay : c.mayRun k ch = true)
include hn hmay

theorem told_pieceEnds : (s.told errs).pieceEnds n r d.id k ch = (s.told errs).runPiece n r d c k ch := by
  rw [State.pieceEnds_due (s := s.told errs) hd.1 hst hmay,
    State.settleChannels_idle (Held.runPiece_noCopyWaits (s := s.told errs) hd hn hmay)]

include hl hrow

/-- A due piece is carried out. -/
theorem piece_runs {u : State} (hu : (s.told errs).runPiece n r d c k ch = u) (hb : u.blocked = false) :
    Runs row s (s.after u) := by
  have hf : (s.told errs).pieceEnds n r d.id k ch = u := (told_pieceEnds hd hst hn hmay).trans hu
  have hr := (Row.of_actOn hrow).runs hl (by rw [hf]; exact hb)
  rwa [hf] at hr

/-- A due piece whose effect has to wait. -/
theorem piece_blocked (hb : ((s.told errs).runPiece n r d c k ch).blocked = true) : Runs row s s := by
  refine runs_blocked hl hrow ?_
  rwa [told_pieceEnds hd hst hn hmay]

/-- A due piece whose channel halts. -/
theorem piece_halts {m : State} (hm : StackOnly (s.told errs) m) (hb : m.blocked = false) {i : ErrInfo} (hpart : i.part = n)
    (hr : i.ring = r) {spent : Bool} (hu : (s.told errs).runPiece n r d c k ch = m.copyHalts n r d c ch i spent) :
    ∃ t, Runs row s t ∧ CopyHalted s m (s.after m) n r d c ch i spent t := by
  have held : Held m n r d := Held.congr (s := s.told errs) hm.vfs hm.parts hd
  obtain ⟨hmem, herr, hend, hblocked⟩ := held.copyHalts (s := s) (State.ring_of_vfs hm.vfs n r) c ch hpart hr spent
  exact ⟨_, piece_runs hl hrow hd hst hn hmay hu (hblocked.trans hb), hmem, herr, hend⟩

end Row

end Sys2Proof.Machine
end
section
/-! Device-bias memory that no re-read holds: a window range is read and written as it stands (R56, R105, R263, R265). -/

namespace Sys2Proof.Machine

/-! ### Bytes that a read gives (R265) -/

/-- What a read finds at an address: its byte, a free one where nothing had been written. -/
def Mem.byteOr (m : Mem) (draw a : Nat) : Byte := (m.byte a).getD (Config.freeByte draw a)

theorem readRun_eq (draw : Nat) (z : Ranges) (n : Nat) {cells : List Host.Cell} {a : Nat} (hs : tabSorted cells = true)
    (hfrom : tabFrom a cells) : readRun draw z n cells a =
      (List.range' a n).map fun x => ((tabFind cells x).or (unlisted z x)).getD (Config.freeByte draw x) := by
  induction n generalizing cells a with
  | zero => rfl
  | succ n ih =>
    rw [List.range'_succ, List.map_cons]
    match cells with
    | [] => rw [readRun, ih hs fun _ h => absurd h List.not_mem_nil, tabFind_nil, Option.none_or]
    | (k, b) :: t =>
      obtain ⟨hrest, hst⟩ := (tabSorted_cons ..).1 hs
      rw [readRun]
      split
      · rename_i hk
        subst hk
        rw [ih hst hrest, tabFind_cons, if_pos rfl, Option.some_or, Option.getD_some]
        refine congrArg _ (List.map_congr_left fun x hx => ?_)
        rw [tabFind_cons, if_neg (by have := List.mem_range'_1.1 hx; omega)]
      · rename_i hk
        have hlt : a + 1 ≤ k := by have : a ≤ k := hfrom (k, b) List.mem_cons_self; omega
        have hfrom' : tabFrom (a + 1) ((k, b) :: t) := fun x hx => by
          rcases List.mem_cons.1 hx with rfl | hx
          · exact hlt
          · have := hrest x hx
            omega
        rw [ih hs hfrom', tabFind_none_of_from hfrom' (Nat.lt_succ_self a), Option.none_or]

theorem Mem.read_eq {m : Mem} (h : m.wf = true) (draw a n : Nat) :
    m.read draw a n = (List.range' a n).map (m.byteOr draw) := by
  obtain ⟨hs, -⟩ := (Mem.wf_iff m).1 h
  rw [Mem.read, dropWhile_sorted hs, readRun_eq draw m.zeroed n (tabSorted_filter _ hs)
    fun x hx => of_decide_eq_true (List.mem_filter.1 hx).2]
  refine List.map_congr_left fun x hx => ?_
  rw [tabFind_filter (fun k => decide (a ≤ k)), if_pos (by simpa using (List.mem_range'_1.1 hx).1), Mem.byteOr, Mem.byte]
  cases tabFind m.cells x <;> rfl

/-! ### Addresses of device ranges -/

/-- The addresses of device ranges, in order. -/
def segAddrs (segs : List (Nat × Nat)) : List Nat := segs.flatMap fun x => List.range' x.1 x.2

@[simp] theorem segAddrs_nil : segAddrs [] = [] := rfl
@[simp] theorem segAddrs_cons (a n : Nat) (t : List (Nat × Nat)) : segAddrs ((a, n) :: t) = List.range' a n ++ segAddrs t := rfl

/-- Consecutive offsets of one region lie at consecutive addresses (R56). -/
theorem Part.dpa_add {p : Part} {w a j : Nat} (h : p.dpa w = some a) (hj : w % 2 ^ 28 + j < 2 ^ 28) :
    p.dpa (w + j) = some (a + j) := by
  obtain ⟨r, hr, rfl⟩ := Option.map_eq_some_iff.1 h
  have hdiv : (w + j) / 2 ^ 28 = w / 2 ^ 28 := by omega
  have hmod : (w + j) % 2 ^ 28 = w % 2 ^ 28 + j := by omega
  rw [Part.dpa, hdiv, hr, Option.map_some, hmod, Nat.add_assoc]

/-- The device ranges of a window range are the addresses of its offsets. -/
theorem segAddrs_winSegs {p : Part} {fuel w len : Nat} (hfuel : len ≠ 0 → w % 2 ^ 28 + len ≤ fuel * 2 ^ 28)
    (h : ∀ i, i < len → (p.dpa (w + i)).isSome = true) :
    (segAddrs (winSegs p fuel w len)).map some = (List.range' w len).map p.dpa := by
  induction fuel generalizing w len with
  | zero =>
    obtain rfl : len = 0 := by omega
    rfl
  | succ fuel ih =>
    rw [winSegs]
    split
    · subst len
      rfl
    · rename_i hlen
      obtain ⟨a, ha⟩ := Option.isSome_iff_exists.1 (h 0 (by omega))
      rw [Nat.add_zero] at ha
      dsimp only
      generalize hk : min len (2 ^ 28 - w % 2 ^ 28) = k
      have hkl : k ≤ len := by omega
      have hrest := ih (w := w + k) (len := len - k) (by omega) fun i hi => by
        rw [Nat.add_assoc]
        exact h (k + i) (by omega)
      have hhere : (List.range' a k).map some = (List.range' w k).map p.dpa := by
        rw [List.range'_eq_map_range, List.range'_eq_map_range, List.map_map, List.map_map]
        refine List.map_congr_left fun j hj => ?_
        exact (Part.dpa_add ha (by have := List.mem_range.1 hj; omega)).symm
      rw [ha]
      dsimp only
      rw [segAddrs_cons, List.map_append, hhere, hrest, ← List.map_append, List.range'_append_1, Nat.add_sub_of_le hkl]

/-- Each device range of a window range begins at an offset of it, and keeps what the range and its offset have of
multiples of 8. -/
theorem winSegs_aligned {p : Part} {fuel w len : Nat} (hw : w % 8 = 0) (hlen : len % 8 = 0) :
    ∀ x ∈ winSegs p fuel w len, x.1 % 8 = 0 ∧ x.2 % 8 = 0 := by
  induction fuel generalizing w len with
  | zero => exact fun x hx => absurd hx List.not_mem_nil
  | succ fuel ih =>
    rw [winSegs]
    split
    · exact fun x hx => absurd hx List.not_mem_nil
    · dsimp only
      cases ha : p.dpa w with
      | none => exact fun x hx => absurd hx List.not_mem_nil
      | some a =>
        have hk : min len (2 ^ 28 - w % 2 ^ 28) % 8 = 0 := by omega
        generalize min len (2 ^ 28 - w % 2 ^ 28) = k at hk
        rintro x hx
        rcases List.mem_cons.1 hx with rfl | hx
        · exact ⟨Part.dpa_aligned ha hw, hk⟩
        · exact ih (by omega) (by omega) x hx

/-! ### The window (R56, R57) -/

theorem regionAt_of_lt_winCount {p : Part} {fuel k j : Nat} (hk : k ≤ j) (hj : j < winCount p fuel k) :
    (p.regionAt j).isSome = true := by
  induction fuel generalizing k with
  | zero => exact absurd hj (by simp only [winCount]; omega)
  | succ fuel ih =>
    rw [winCount] at hj
    split at hj
    · rename_i hk'
      rcases Nat.eq_or_lt_of_le hk with rfl | hlt
      · exact hk'
      · exact ih hlt hj
    · omega

theorem Part.dpa_isSome {p : Part} {w : Nat} (h : w < p.winSize) : (p.dpa w).isSome = true := by
  rw [Part.dpa, Option.isSome_map]
  exact regionAt_of_lt_winCount (Nat.zero_le _) (Nat.div_lt_of_lt_mul (by rw [Nat.mul_comm]; exact h))

/-- Where no region stands twice in the window, an address has one offset. -/
theorem Part.dpa_injective {p : Part} (hp : p.regionList.Nodup) {v w a : Nat} (hv : v < p.winSize) (hw : w < p.winSize)
    (hva : p.dpa v = some a) (hwa : p.dpa w = some a) : v = w := by
  have hindex (i j : Nat) (hi : i < j) (hj : j < p.regionCount) (r : Nat) (hri : p.regionAt i = some r) :
      p.regionAt j ≠ some r := by
    have hpair := List.pairwise_filterMap.1 hp
    have := List.pairwise_iff_getElem.1 hpair i j (by simpa using hi.trans hj) (by simpa using hj) hi
    simp only [List.getElem_range] at this
    exact fun hrj => this r hri r hrj rfl
  obtain ⟨r, hr, rfl⟩ := Option.map_eq_some_iff.1 hva
  obtain ⟨q, hq, he⟩ := Option.map_eq_some_iff.1 hwa
  obtain rfl : q = r := by omega
  have hlt {x : Nat} (hx : x < p.winSize) : x / 2 ^ 28 < p.regionCount :=
    Nat.div_lt_of_lt_mul (by rw [Nat.mul_comm]; exact hx)
  rcases Nat.lt_trichotomy (v / 2 ^ 28) (w / 2 ^ 28) with h | h | h
  · exact absurd hq (hindex _ _ h (hlt hw) q hr)
  · omega
  · exact absurd hr (hindex _ _ h (hlt hv) q hq)

/-! ### Writes of whole check words (R263) -/

/-- Device ranges hold new bytes. -/
def Mem.replaceSegs : Mem → List (Nat × Nat) → List Byte → Mem
  | m, [], _ => m
  | m, (a, n) :: t, bs => (m.replace a (bs.take n)).replaceSegs t (bs.drop n)

/-- A store of whole 64-bit words covers whole check words in either kind of region (R259, R260). -/
theorem Mem.store_words (m : Mem) (g : Bool) {a : Nat} (ha : a % 8 = 0) {bs : List Byte} (hb : bs.length % 8 = 0) :
    m.store g a bs = (m.replace a bs, []) := by
  have hcw : a % checkWord g = 0 ∧ bs.length / checkWord g * checkWord g = bs.length := by
    cases g
    · exact ⟨by simp only [checkWord, Bool.false_eq_true, if_false]; omega,
        by simp only [checkWord, Bool.false_eq_true, if_false]; omega⟩
    · exact ⟨by simp only [checkWord, if_true]; omega, by simp only [checkWord, if_true]; omega⟩
  obtain ⟨hmod, hlen⟩ := hcw
  simp [Mem.store, hmod, hlen, Mem.merge]

theorem Mem.byte_replace_eq {m : Mem} (h : m.wf = true) (a : Nat) (bs : List Byte) (x : Nat) :
    (m.replace a bs).byte x = if a ≤ x ∧ x < a + bs.length then some (bs.getD (x - a) 0) else m.byte x := by
  cases bs with
  | nil => rw [if_neg (by simp only [List.length_nil]; omega)]; rfl
  | cons b bs => exact Mem.byte_replace h a (List.cons_ne_nil b bs) x

theorem Mem.replace_bias (m : Mem) (a : Nat) (bs : List Byte) : (m.replace a bs).bias = m.bias := by
  unfold Mem.replace
  split <;> rfl

section Bytes
variable {segs : List (Nat × Nat)} {m : Mem} {bs : List Byte} {x : Nat}

theorem Mem.byte_replaceSegs_outside (h : m.wf = true) (hx : x ∉ segAddrs segs) : (m.replaceSegs segs bs).byte x = m.byte x := by
  induction segs generalizing m bs with
  | nil => rfl
  | cons y t ih =>
    obtain ⟨a, n⟩ := y
    rw [segAddrs_cons, List.mem_append, not_or, List.mem_range'_1] at hx
    obtain ⟨hhere, hrest⟩ := hx
    rw [Mem.replaceSegs, ih (Mem.replace_wf h _ _) hrest, Mem.byte_replace_eq h, if_neg]
    rw [List.length_take]
    omega

theorem Mem.byte_replaceSegs (h : m.wf = true) (hnodup : (segAddrs segs).Nodup) {i : Nat} (hx : (segAddrs segs)[i]? = some x)
    (hi : i < bs.length) : (m.replaceSegs segs bs).byte x = bs[i]? := by
  induction segs generalizing m bs i with
  | nil => exact absurd hx (by simp)
  | cons y t ih =>
    obtain ⟨a, n⟩ := y
    rw [segAddrs_cons] at hx hnodup
    obtain ⟨-, hnodup', hdisjoint⟩ := List.nodup_append.1 hnodup
    rw [Mem.replaceSegs]
    by_cases hin : i < n
    · have hxa : x = a + i := by
        rw [List.getElem?_append_left (by simpa using hin), List.getElem?_range' hin] at hx
        simpa using hx.symm
      subst hxa
      have hout : a + i ∉ segAddrs t := fun hmem =>
        hdisjoint _ (List.mem_range'_1.2 ⟨by omega, by omega⟩) _ hmem rfl
      rw [Mem.byte_replaceSegs_outside (Mem.replace_wf h _ _) hout, Mem.byte_replace_eq h,
        if_pos (by rw [List.length_take]; omega), Nat.add_sub_cancel_left, List.getD_eq_getElem?_getD,
        List.getElem?_take_of_lt hin, List.getElem?_eq_getElem hi, Option.getD_some]
    · rw [List.getElem?_append_right (by simpa using hin), List.length_range'] at hx
      rw [ih (Mem.replace_wf h _ _) hnodup' hx (by rw [List.length_drop]; omega), List.getElem?_drop,
        Nat.add_sub_of_le (by omega)]

end Bytes

/-- A device range of whole 64-bit words, in device bias, that no re-read holds. -/
def State.plain (s : State) (x : Nat × Nat) : Prop :=
  x.1 % 8 = 0 ∧ x.2 % 8 = 0 ∧ s.held [x] = false ∧ s.hostLines [x] = []

theorem State.meet_empty (s : State) : s.meet [] = s := by
  have h : s.badGranules [] = [] := List.filter_eq_nil_iff.2 fun g _ => by simp
  rw [State.meet, h]
  rfl

theorem State.storeAt_plain {s : State} {a : Nat} {bs : List Byte} (h : s.plain (a, bs.length)) :
    s.storeAt a bs = ({ s with mem := s.mem.replace a bs }, []) := by
  obtain ⟨ha, hn, hheld, hlines⟩ := h
  have hparts : partWords (s.checkAt a) a bs.length = [] := by
    have hcw : a % s.checkAt a = 0 ∧ (a + bs.length) % s.checkAt a = 0 := by
      simp only [State.checkAt, checkWord]
      dsimp only at ha hn
      split <;> omega
    simp [partWords, hcw]
  simp only [State.storeAt, s.cohere_none _ hlines hheld, hparts, State.meet_empty, Mem.store_words _ _ ha hn]

theorem writeSegs_plain {segs : List (Nat × Nat)} {s : State} {bs : List Byte} (h : ∀ x ∈ segs, s.plain x)
    (hlen : (segAddrs segs).length ≤ bs.length) :
    writeSegs s segs bs = ({ s with mem := s.mem.replaceSegs segs bs }, []) := by
  induction segs generalizing s bs with
  | nil => rfl
  | cons y t ih =>
    obtain ⟨a, n⟩ := y
    rw [segAddrs_cons, List.length_append, List.length_range'] at hlen
    have htake : (bs.take n).length = n := by rw [List.length_take]; omega
    have hstore := State.storeAt_plain (s := s) (a := a) (bs := bs.take n) (by rw [htake]; exact h _ List.mem_cons_self)
    have hrest := ih (s := { s with mem := s.mem.replace a (bs.take n) }) (bs := bs.drop n) (fun x hx => ?_)
      (by rw [List.length_drop]; omega)
    · simp only [writeSegs, hstore, hrest, List.append_nil]
      rfl
    · obtain ⟨hx1, hx2, hheld, hlines⟩ := h x (List.mem_cons_of_mem _ hx)
      refine ⟨hx1, hx2, hheld, ?_⟩
      simp only [State.hostLines, Mem.devBias, Mem.replace_bias] at hlines ⊢
      exact hlines

/-- A device range whose pages are all in device bias takes no line from the host (R59, R60). -/
theorem State.hostLines_deviceBias {s : State} {a n : Nat} (h : ∀ b, a ≤ b → b < a + n → s.mem.devBias (b / 4096) = true) :
    s.hostLines [(a, n)] = [] := by
  simp only [State.hostLines, List.flatMap_cons, List.flatMap_nil, List.append_nil]
  split
  · rfl
  · refine List.flatMap_eq_nil_iff.2 fun p hp => ?_
    obtain ⟨k, hk, rfl⟩ := List.mem_map.1 hp
    have hk' := List.mem_range.1 hk
    simp only [pageOf] at hk'
    have hb := h (max a (4096 * (a / 4096 + k))) (by omega) (by omega)
    rw [show max a (4096 * (a / 4096 + k)) / 4096 = pageOf a + k by unfold pageOf; omega] at hb
    exact if_pos hb

/-! ### A write of a window range -/

section Window
variable {p : Part} {w len : Nat} (hin : w + len ≤ p.winSize) (hlen : len ≤ 2 ^ 28)
include hin hlen

theorem segAddrs_segs : (segAddrs (p.segs w len)).map some = (List.range' w len).map p.dpa :=
  segAddrs_winSegs (by omega) fun i hi => Part.dpa_isSome (by omega)

theorem length_segAddrs : (segAddrs (p.segs w len)).length = len := by
  simpa using congrArg List.length (segAddrs_segs hin hlen)

theorem mem_segAddrs {x : Nat} : x ∈ segAddrs (p.segs w len) ↔ ∃ i, i < len ∧ p.dpa (w + i) = some x := by
  rw [← List.mem_map_of_injective (Option.some_injective _), segAddrs_segs hin hlen, List.mem_map]
  simp only [List.mem_range'_1]
  constructor
  · rintro ⟨v, ⟨hlo, hhi⟩, hv⟩
    exact ⟨v - w, by omega, by rwa [Nat.add_sub_of_le hlo]⟩
  · rintro ⟨i, hi, hx⟩
    exact ⟨w + i, by omega, hx⟩

theorem getElem?_segAddrs {i x : Nat} (hi : i < len) (hx : p.dpa (w + i) = some x) : (segAddrs (p.segs w len))[i]? = some x := by
  have h := congrArg (fun l => l[i]?) (segAddrs_segs hin hlen)
  simp only [List.getElem?_map, List.getElem?_range' hi, Option.map_some, Nat.one_mul, hx] at h
  obtain ⟨y, hy, hyx⟩ := Option.map_eq_some_iff.1 h
  rw [hy, hyx]

theorem nodup_segAddrs (hp : p.regionList.Nodup) : (segAddrs (p.segs w len)).Nodup := by
  refine List.Nodup.of_map some ?_
  rw [segAddrs_segs hin hlen]
  refine List.Nodup.map_on (fun v hv u hu h => ?_) List.nodup_range'
  rw [List.mem_range'_1] at hv hu
  obtain ⟨a, ha⟩ := Option.isSome_iff_exists.1 (Part.dpa_isSome (p := p) (w := v) (by omega))
  exact Part.dpa_injective hp (by omega) (by omega) ha (h ▸ ha)

end Window

/-- Whole 64-bit words of a window range in device bias that no re-read holds are written as they stand. -/
theorem State.winWrite_plain {s : State} {n w : Nat} {bs : List Byte} (hin : w + bs.length ≤ (s.part n).winSize)
    (hlen : bs.length ≤ 2 ^ 28) (hw : w % 8 = 0) (hwords : bs.length % 8 = 0)
    (hheld : s.held ((s.part n).segs w bs.length) = false)
    (hbias : ∀ i b, i < bs.length → (s.part n).dpa (w + i) = some b → s.mem.devBias (b / 4096) = true) :
    s.winWrite n w bs = ({ s with mem := s.mem.replaceSegs ((s.part n).segs w bs.length) bs }, []) := by
  refine writeSegs_plain (fun x hx => ?_) (length_segAddrs hin hlen).le
  obtain ⟨ha, hn⟩ := winSegs_aligned hw hwords x hx
  refine ⟨ha, hn, ?_, State.hostLines_deviceBias fun b hlo hhi => ?_⟩
  · rw [State.held, List.any_eq_false] at hheld ⊢
    intro g hg
    have hnone := hheld g hg
    rw [Bool.not_eq_true, List.any_eq_false] at hnone ⊢
    exact fun y hy => hnone y (List.mem_singleton.1 hy ▸ hx)
  · obtain ⟨i, hi, hb⟩ := (mem_segAddrs hin hlen).1
      (List.mem_flatMap.2 ⟨x, hx, List.mem_range'_1.2 ⟨hlo, hhi⟩⟩)
    exact hbias i b hi hb

end Sys2Proof.Machine
end
section
/-! A COPY between views of one run (R104, R120): its piece writes the bytes of the source's run as one. -/

namespace Sys2Proof.Machine

/-! ### Numbers and bytes -/

theorem bytesOfNat_natOfBytes (bs : List Byte) : bytesOfNat bs.length (natOfBytes bs) = bs := by
  induction bs with
  | nil => rfl
  | cons b bs ih =>
    have hb := b.isLt
    have hdiv : (b.toNat + 256 * natOfBytes bs) / 256 = natOfBytes bs := by omega
    rw [List.length_cons, natOfBytes, bytesOfNat, hdiv, ih]
    congr 1
    apply BitVec.eq_of_toNat_eq
    rw [BitVec.toNat_ofNat]
    omega

/-- Chunks of equal length that follow one another (R105). -/
theorem flatMap_range_chunks {β : Type} (f : Nat → β) (k m : Nat) :
    (List.range m).flatMap (fun i => (List.range k).map fun j => f (k * i + j)) = (List.range (k * m)).map f := by
  induction m with
  | zero => rfl
  | succ m ih =>
    rw [List.range_succ, List.flatMap_append, ih, Nat.mul_succ, List.range_add, List.map_append, List.map_map,
      List.flatMap_singleton]
    rfl

/-- Writes that follow one another join to one (R263). -/
theorem joinWrites_run {f : Nat → List Byte} {k : Nat} (hf : ∀ i, (f i).length = k) (b m : Nat) :
    joinWrites ((List.range m).map fun i => (b + k * i, f i)) =
      if m = 0 then [] else [(b, (List.range m).flatMap f)] := by
  induction m generalizing b f with
  | zero => rfl
  | succ m ih =>
    have htail : (List.range m).map ((fun i => (b + k * i, f i)) ∘ Nat.succ) =
        (List.range m).map fun i => (b + k + k * i, (f ∘ Nat.succ) i) := by
      refine List.map_congr_left fun i _ => ?_
      simp only [Function.comp_apply, Nat.succ_eq_add_one, Prod.mk.injEq, and_true]
      ring
    rw [List.range_succ_eq_map, List.map_cons, List.map_map, htail, joinWrites, ih (f := f ∘ Nat.succ) fun i => hf (i + 1),
      if_neg (Nat.succ_ne_zero m), List.flatMap_cons, List.flatMap_map]
    split
    · rename_i hm
      split at hm
      · cases hm
      · simp only [List.cons.injEq, Prod.mk.injEq] at hm
        obtain ⟨⟨rfl, rfl⟩, rfl⟩ := hm
        rw [if_pos (by rw [hf, Nat.mul_zero, Nat.add_zero])]
        rfl
    · rename_i hm
      split at hm
      · subst m
        simp
      · cases hm

/-! ### A view of one run (R104, R105, R109) -/

/-- Each format of R33 has an even number of bits. -/
theorem fmtWidth_even {c : Nat} (h : fmtKnown c = true) : 0 < fmtWidth c ∧ fmtWidth c % 2 = 0 := by
  simp only [fmtKnown, Bool.or_eq_true, decide_eq_true_iff] at h
  rcases h with rfl | h
  · decide
  · obtain ⟨f, hf⟩ := Option.isSome_iff_exists.1 h
    unfold fmtOf at hf
    split at hf <;> cases hf <;> decide

section View
variable {v : View} (hrank : v.rank = 1)
include hrank

theorem View.outer_run : v.outer = [] := by
  have hlen : (v.extents.zip v.strides).length ≤ 1 := by
    rw [List.length_zip]
    exact (Nat.min_le_left _ _).trans_eq hrank
  rw [View.outer, ← List.length_eq_zero_iff, List.length_dropLast]
  omega

theorem View.rows_run : v.rows = 1 := by rw [View.rows, View.outer_run hrank]; rfl

theorem View.row_run (i : Nat) : v.row i = [] := by rw [View.row, View.outer_run hrank]; rfl

omit hrank in
theorem View.vecAddr_run (k : Nat) : v.vecAddr [] k = v.base + v.vecBytes * k := by
  have hbit : v.bit [] (32 * k) = (v.base + v.vecBytes * k) * 8 := by
    simp only [View.bit, View.outerOff, List.zip_nil_left, List.foldl_nil, View.vecBytes]
    have : ((v.base * 8 : Nat) + (0 + ((32 * k : Nat) : Int)) * (v.width : Nat) : Int) =
        (((v.base + 4 * v.width * k) * 8 : Nat) : Int) := by
      push_cast
      ring
    rw [this, Int.toNat_natCast]
  rw [View.vecAddr, hbit, Nat.mul_div_cancel _ (by omega)]

/-- The one span of a view of one run. -/
theorem View.spans_run (hmx : v.mx = false) (hinner : v.inner % 32 = 0) :
    v.spans = [((v.base : Int), ((v.base + v.vecBytes * v.vecs : Nat) : Int))] := by
  have hrange : v.range = (0, (v.inner : Int)) := by simp [View.range, View.outer_run hrank]
  have hbits : v.inner * v.width = 8 * (v.vecBytes * v.vecs) := by
    have h32 : v.inner = 32 * v.vecs := by rw [View.vecs]; omega
    rw [h32, View.vecBytes]
    ring
  have hhi : ((v.inner : Int) * (v.width : Nat) + 7) / 8 = ((v.vecBytes * v.vecs : Nat) : Int) := by
    rw [show (v.inner : Int) * (v.width : Nat) = ((v.inner * v.width : Nat) : Int) by push_cast; rfl, hbits]
    omega
  simp only [View.spans, hrange, hmx, Bool.false_eq_true, if_false, hhi, Int.zero_mul, Int.zero_ediv, Int.add_zero,
    Nat.cast_add]

end View

/-- A view that passes checks 2 and 3 of R117 lies in the window, its inner extent whole vectors and its base at a multiple
of 64. -/
theorem copyStatus_none {p : Part} {o : CopyOp} {dst : View} (h : copyStatus p o dst = none) :
    ∀ v ∈ dst :: o.reads, (∀ x ∈ v.spans, spanIn p x = true) ∧ v.aligned = true := by
  unfold copyStatus at h
  dsimp only at h
  split_ifs at h with hin haligned
  intro v hv
  simp only [Bool.not_eq_true', Bool.not_eq_false] at hin haligned
  exact ⟨List.all_eq_true.1 (List.all_eq_true.1 hin v hv), List.all_eq_true.1 haligned v hv⟩

theorem View.aligned_base {v : View} (h : v.aligned = true) : v.base % 64 = 0 ∧ v.inner % 32 = 0 := by
  simp only [View.aligned, Bool.and_eq_true, decide_eq_true_iff] at h
  exact ⟨h.1.1.1, h.1.1.2⟩

/-- A run lies in the window. -/
theorem View.run_inWindow {p : Part} {v : View} (hrank : v.rank = 1) (hmx : v.mx = false)
    (hin : ∀ x ∈ v.spans, spanIn p x = true) (haligned : v.aligned = true) : v.base + v.vecBytes * v.vecs ≤ p.winSize := by
  have hspan := hin _ (by rw [View.spans_run hrank hmx (View.aligned_base haligned).2]; exact List.mem_singleton_self _)
  simp only [spanIn, Part.inWindow, Bool.and_eq_true, decide_eq_true_iff] at hspan
  omega

/-! ### The bytes of a run -/

/-- The byte at a window offset as a read sees it. -/
def State.winByte (s : State) (n draw w : Nat) : Byte := ((s.part n).dpa w).elim 0 (s.mem.byteOr draw)

/-- The bytes of a window range as a read sees them. -/
def State.runBytes (s : State) (n draw w len : Nat) : List Byte := (List.range len).map fun j => s.winByte n draw (w + j)

theorem State.length_runBytes (s : State) (n draw w len : Nat) : (s.runBytes n draw w len).length = len := by
  rw [State.runBytes, List.length_map, List.length_range]

theorem State.getElem?_runBytes (s : State) (n draw w : Nat) {i len a : Nat} (hi : i < len)
    (ha : (s.part n).dpa (w + i) = some a) : (s.runBytes n draw w len)[i]? = some (s.mem.byteOr draw a) := by
  simp [State.runBytes, hi, State.winByte, ha]

section Bytes
variable {s : State} (hm : s.mem.wf = true) (n draw : Nat)
include hm

theorem State.winBytes_eq {w len : Nat} (hlen : len ≤ 2 ^ 28) (hin : w + len ≤ (s.part n).winSize) :
    s.winBytes n draw w len = s.runBytes n draw w len := by
  have haddrs := segAddrs_winSegs (p := s.part n) (fuel := 2049) (w := w) (len := len) (by omega)
    fun i hi => Part.dpa_isSome (by omega)
  have hread : s.winBytes n draw w len = (segAddrs ((s.part n).segs w len)).map (s.mem.byteOr draw) := by
    rw [State.winBytes, segAddrs, List.map_flatMap]
    exact List.flatMap_congr fun x _ => Mem.read_eq hm draw x.1 x.2
  have hmap := congrArg (List.map fun a => a.elim (0 : Byte) (s.mem.byteOr draw)) haddrs
  rw [List.map_map, List.map_map, List.range'_eq_map_range, List.map_map] at hmap
  exact hread.trans hmap

end Bytes

/-! ### The piece -/

/-- Bytes of the destination's run. -/
def CopyJob.runLen (c : CopyJob) : Nat := c.dst.vecBytes * c.dst.vecs

/-- A COPY between two runs of the same format, 64 KiB at most, that lie in the window. -/
structure RunCopy (p : Part) (c : CopyJob) (src : View) : Prop where
  op : c.op = .copy src
  rank : c.dst.rank = 1
  fmt : src.fmt = c.dst.fmt
  plain : c.dst.mx = false
  vec : 0 < c.dst.vecBytes
  size : c.runLen ≤ 65536
  words : c.runLen % 8 = 0
  base : c.dst.base % 8 = 0
  dst_in : c.dst.base + c.runLen ≤ p.winSize
  src_in : src.base + c.runLen ≤ p.winSize

/-- Checks 2 and 3 of R117 and the formats' widths say where the runs lie. -/
theorem RunCopy.of_checks {p : Part} {c : CopyJob} {src : View} (hop : c.op = .copy src) (hdst : c.dst.rank = 1)
    (hsrc : src.rank = 1) (hfmt : src.fmt = c.dst.fmt) (hext : src.extents = c.dst.extents) (hmx : c.dst.mx = false)
    (hknown : fmtKnown c.dst.fmt = true) (hstatus : copyStatus p c.op c.dst = none) (hsize : c.runLen ≤ 65536) :
    RunCopy p c src := by
  obtain ⟨hpos, heven⟩ := fmtWidth_even hknown
  have hviews := copyStatus_none hstatus
  obtain ⟨hdin, hdal⟩ := hviews c.dst List.mem_cons_self
  obtain ⟨hsin, hsal⟩ := hviews src (by rw [hop]; exact List.mem_cons_of_mem _ List.mem_cons_self)
  have hbytes : src.vecBytes = c.dst.vecBytes := by rw [View.vecBytes, View.vecBytes, View.width, View.width, hfmt]
  have hvecs : src.vecs = c.dst.vecs := by rw [View.vecs, View.vecs, View.inner, View.inner, hext]
  have h8 : 8 ∣ c.dst.vecBytes := (Nat.mul_dvd_mul_left 4 (Nat.dvd_of_mod_eq_zero heven) : 4 * 2 ∣ 4 * c.dst.width)
  have hsrcIn := View.run_inWindow hsrc (by rw [View.mx, hfmt]; exact hmx) hsin hsal
  rw [hbytes, hvecs] at hsrcIn
  exact ⟨hop, hdst, hfmt, hmx, Nat.mul_pos (by omega) hpos, hsize, Nat.mod_eq_zero_of_dvd (h8.mul_right _),
    by have := (View.aligned_base hdal).1; omega, View.run_inWindow hdst hmx hdin hdal, hsrcIn⟩

namespace RunCopy

variable {s : State} {n : Nat} {c : CopyJob} {src : View} (h : RunCopy (s.part n) c src)
include h

/-- One piece has all vectors of the run (R134). -/
theorem vectors : c.vectors 0 = (List.range c.dst.vecs).map fun i => ([], i) := by
  have hcount : c.dst.vecCount = c.dst.vecs := by rw [View.vecCount, View.rows_run h.rank, Nat.one_mul]
  have hper : c.dst.vecs ≤ c.dst.perPiece := (Nat.le_div_iff_mul_le h.vec).2 (by rw [Nat.mul_comm]; exact h.size)
  have hbounds : c.bounds 0 = (0, c.dst.vecs) := by
    simp only [CopyJob.bounds, CopyOp.run, h.op, hcount]
    split
    · rfl
    · simp [hper]
  simp only [CopyJob.vectors, hbounds, View.row_run h.rank, Nat.zero_add]
  exact List.map_congr_left fun i hi => by rw [Nat.mod_eq_of_lt (List.mem_range.1 hi)]

theorem small : c.runLen ≤ 2 ^ 28 := h.size.trans (by omega)

variable (hm : s.mem.wf = true)
include hm

/-- A vector is written as the bytes that its source holds. -/
theorem copyWrites_vector {i : Nat} (hi : i < c.dst.vecs) : copyWrites c.dst [] i (s.vector n s.freshCount src [] i) =
    [(c.dst.base + c.dst.vecBytes * i, s.runBytes n s.freshCount (src.base + c.dst.vecBytes * i) c.dst.vecBytes)] := by
  have hsmx : src.mx = false := by rw [View.mx, h.fmt]; exact h.plain
  have hsame : src.vecBytes = c.dst.vecBytes := by rw [View.vecBytes, View.vecBytes, View.width, View.width, h.fmt]
  have hend : c.dst.vecBytes * i + c.dst.vecBytes ≤ c.runLen := Nat.mul_le_mul_left c.dst.vecBytes hi
  have hsize := h.size
  have hin := h.src_in
  have hbytes : s.winBytes n s.freshCount (src.base + c.dst.vecBytes * i) c.dst.vecBytes = _ :=
    State.winBytes_eq hm n s.freshCount (by omega) (by omega)
  have hround := bytesOfNat_natOfBytes (s.runBytes n s.freshCount (src.base + c.dst.vecBytes * i) c.dst.vecBytes)
  rw [State.length_runBytes] at hround
  simp only [copyWrites, State.vector, h.plain, hsmx, Bool.false_eq_true, if_false, View.vecAddr_run, hsame, hbytes, hround]

/-- The writes of the piece: the vectors of the source's run, one after another. -/
theorem pieceWrites : c.pieceWrites s n s.freshCount 0 = (List.range c.dst.vecs).map fun i =>
    (c.dst.base + c.dst.vecBytes * i, s.runBytes n s.freshCount (src.base + c.dst.vecBytes * i) c.dst.vecBytes) := by
  simp only [CopyJob.pieceWrites, h.op, h.vectors, CopyJob.newVector, List.flatMap_map]
  rw [List.map_eq_flatMap]
  exact List.flatMap_congr fun i hi => h.copyWrites_vector hm (List.mem_range.1 hi)

/-- The piece writes the destination's run at once. -/
theorem perform_winWrite {bytes : List Byte} (hbytes : s.runBytes n s.freshCount src.base c.runLen = bytes) :
    c.perform n 0 s = ((s.winWrite n c.dst.base bytes).1.drew, (s.winWrite n c.dst.base bytes).2) := by
  subst hbytes
  have hchunk (i : Nat) : s.runBytes n s.freshCount (src.base + c.dst.vecBytes * i) c.dst.vecBytes =
      (List.range c.dst.vecBytes).map fun j => s.winByte n s.freshCount (src.base + (c.dst.vecBytes * i + j)) := by
    simp only [State.runBytes, Nat.add_assoc]
  have hjoin := joinWrites_run (f := fun i => s.runBytes n s.freshCount (src.base + c.dst.vecBytes * i) c.dst.vecBytes)
    (fun i => State.length_runBytes ..) c.dst.base c.dst.vecs
  have hflat := flatMap_range_chunks (fun j => s.winByte n s.freshCount (src.base + j)) c.dst.vecBytes c.dst.vecs
  simp only [← hchunk] at hflat
  rw [hflat, ← h.pieceWrites hm] at hjoin
  have hplanes : planes c.dst (c.pieceWrites s n s.freshCount 0) = joinWrites (c.pieceWrites s n s.freshCount 0) := by
    rw [planes, h.plain, if_neg Bool.false_ne_true]
  have hperform : c.perform n 0 s =
      ((writeAll n (planes c.dst (c.pieceWrites s n s.freshCount 0)) s).1.drew,
        (writeAll n (planes c.dst (c.pieceWrites s n s.freshCount 0)) s).2) := by
    simp only [CopyJob.perform, h.op]
    cases c.strictOrder <;> rfl
  rw [hperform, hplanes, hjoin]
  split
  · rename_i h0
    rw [CopyJob.runLen, h0]
    rfl
  · simp only [writeAll, List.append_nil]
    rfl

/-- In device-bias pages that no re-read holds, memory takes the bytes as they stand. -/
theorem perform_stores {bytes : List Byte} (hbytes : s.runBytes n s.freshCount src.base c.runLen = bytes)
    (hheld : s.held ((s.part n).segs c.dst.base c.runLen) = false)
    (hbias : ∀ i b, i < c.runLen → (s.part n).dpa (c.dst.base + i) = some b → s.mem.devBias (b / 4096) = true) :
    c.perform n 0 s =
      (({ s with mem := s.mem.replaceSegs ((s.part n).segs c.dst.base c.runLen) bytes } : State).drew, []) := by
  have hlength : bytes.length = c.runLen := by rw [← hbytes, State.length_runBytes]
  have hwrite := State.winWrite_plain (s := s) (n := n) (w := c.dst.base) (bs := bytes)
  rw [hlength] at hwrite
  rw [h.perform_winWrite hm hbytes, hwrite h.dst_in h.small h.base h.words hheld hbias]

end RunCopy

end Sys2Proof.Machine
end
section
/-! The statement on the pieces of a copy (R104, R120, R132, R134, R138, R265). -/

namespace Sys2Proof.Machine

/-- Settles O31: a piece reads, then writes, and ends as its reads and writes allow; a COPY of one run stores the bytes that
its source held. -/
theorem copiesMove : Obligations.CopiesMove := by
  refine ⟨?pieces, ?moves⟩
  case pieces =>
    intro s q d c k ch errs hl n r row kept may c' read p base halts hd hst hn
    have hkept : kept = (c.indexValue k).bind (tabFind c.keepers) := by
      simp only [kept]
      cases c.indexValue k <;> rfl
    have hmay : may ↔ c.mayRun k ch = true := by rw [CopyJob.mayRun_iff, ← hkept]
    have hrow : exec row s = actOn errs (whenRunning fun s => s.pieceEnds n r d.id k ch) s := rfl
    have hstack : StackOnly (s.told errs) read.2 := State.readAll_stackOnly _ n _
    have hstack' : StackOnly (s.told errs) p.1 := hstack.trans (CopyJob.perform_stackOnly _ n c k)
    have held : Held p.1 n r d := Held.congr (s := s.told errs) hstack'.vfs hstack'.parts hd
    have hring : p.1.ring n r = s.ring n r := State.ring_of_vfs hstack'.vfs n r
    refine ⟨fun h => piece_idle hl hrow hd hst fun hm => h (hmay.2 hm), fun h hb => ?_, fun w f h hb hf => ?_,
      fun h hf hb => ?_, fun h hf hb => ⟨fun hp hleft => ?_, fun hp hleft => ?_, fun a more hp => ?_⟩⟩
    · exact piece_blocked hl hrow hd hst hn (hmay.1 h) (State.readAll_runPiece_grows.2.2 hb)
    · exact piece_halts hl hrow hd hst hn (hmay.1 h) hstack hb rfl rfl (State.runPiece_unread rfl hf)
    · exact piece_blocked hl hrow hd hst hn (hmay.1 h) ((State.perform_runPiece_grows rfl hf).2.2 hb)
    · obtain ⟨honly, hend, hblocked⟩ := held.ends hring { result := c.result }
      exact ⟨_, piece_runs hl hrow hd hst hn (hmay.1 h) (State.runPiece_last rfl hf hp hleft) (hblocked.trans hb), hend, honly⟩
    · have honly : OnlyRing n r p.1 (p.1.setDesc n r d.id (.copy c')) := p.1.modRing_onlyRing n r _
      refine ⟨_, piece_runs hl hrow hd hst hn (hmay.1 h) (State.runPiece_goesOn rfl hf hp hleft)
        (honly.leaves.2.2.2.trans hb), honly.after_of s, ?_⟩
      exact (State.setDesc_ring p.1 n r d _).trans (by rw [hring]; rfl)
    · have hpart : p.1.part n = s.part n := State.part_of_parts hstack'.parts n
      have hu := State.runPiece_dropped (r := r) (d := d) (ch := ch.val) rfl hf hp
      rw [State.copyMerge, hpart] at hu
      exact piece_halts hl hrow hd hst hn (hmay.1 h) hstack' hb rfl rfl hu
  case moves =>
    intro s n c src hm hop _ hdst hsrc hfmt hext hmx hknown hstatus hsize hnodup len t hheld hbias
    have h : RunCopy (s.part n) c src := .of_checks hop hdst hsrc hfmt hext hmx hknown hstatus hsize
    obtain ⟨bytes, hbytes⟩ : ∃ bytes, s.runBytes n s.freshCount src.base len = bytes := ⟨_, rfl⟩
    have hperform := h.perform_stores hm hbytes hheld hbias
    have ht : t = _ := congrArg Prod.fst hperform
    refine ⟨congrArg Prod.snd hperform, by rw [ht]; rfl, fun i a b hi ha hb => ?_, fun x hx => ?_⟩
    · have hlength : bytes.length = len := by rw [← hbytes, State.length_runBytes]
      have hbyte := Mem.byte_replaceSegs (bs := bytes) hm (nodup_segAddrs h.dst_in h.small hnodup)
        (getElem?_segAddrs h.dst_in h.small hi hb) (hi.trans_eq hlength.symm)
      rw [← hbytes, State.getElem?_runBytes s n _ _ hi ha, hbytes] at hbyte
      rw [ht]
      exact hbyte
    · rw [ht]
      refine Mem.byte_replaceSegs_outside hm fun hmem => ?_
      obtain ⟨i, hi, hx'⟩ := (mem_segAddrs h.dst_in h.small).1 hmem
      exact hx i hi hx'

end Sys2Proof.Machine
end
section
/-! Reads and writes of the window do not look at the rings: with other rings they do the same (R56 to R60, R259 to R263). -/

namespace Sys2Proof.Machine

/-- The state with these rings. -/
def State.withVfs (x : Tab Vf) (s : State) : State := { s with vfs := x }

section Rings
variable (x : Tab Vf) (s : State)

/-! ### Outputs and events -/

theorem State.modEvq_withVfs (fn : Nat) (f : EvQueue → EvQueue) :
    (s.withVfs x).modEvq fn f = (s.modEvq fn f).withVfs x := rfl

theorem State.modStk_withVfs (k : Nat) (f : StackRegs → StackRegs) :
    (s.withVfs x).modStk k f = (s.modStk k f).withVfs x := rfl

theorem State.hostPut_withVfs (fn : Nat) (a : DWord) (bs : List Byte) :
    (s.withVfs x).hostPut fn a bs = (s.hostPut fn a bs).withVfs x := by
  simp only [State.hostPut, apply_ite (State.withVfs x)]
  rfl

theorem State.interrupt_withVfs (fn k : Nat) : (s.withVfs x).interrupt fn k = (s.interrupt fn k).withVfs x := by
  simp only [State.interrupt, apply_ite (State.withVfs x)]
  rfl

theorem State.evqWrite_withVfs (fn : Nat) (bs : List Byte) :
    (s.withVfs x).evqWrite fn bs = (s.evqWrite fn bs).withVfs x := by
  simp only [State.evqWrite, apply_ite (State.withVfs x), State.modEvq_withVfs, State.hostPut_withVfs,
    State.interrupt_withVfs]
  rfl

theorem State.vfPost_withVfs (n k beat info : Nat) :
    (s.withVfs x).vfPost n k beat info = (s.vfPost n k beat info).withVfs x := by
  simp only [State.vfPost, apply_ite (State.withVfs x), State.modEvq_withVfs, State.evqWrite_withVfs]
  rfl

theorem hevosServe_withVfs (k : Nat) : hevosServe k (s.withVfs x) = (hevosServe k s).withVfs x := by
  induction k generalizing s with
  | zero => rfl
  | succ k ih =>
    have hrun : (s.withVfs x).mgt.running = s.mgt.running := rfl
    have hbest : (s.withVfs x).evc.best 1 ((s.withVfs x).evc.target 1).level = s.evc.best 1 (s.evc.target 1).level := rfl
    have hrec : (s.withVfs x).mgt.receiver = s.mgt.receiver := rfl
    rw [hevosServe, hevosServe, hrun, hbest]
    split
    · rfl
    · split
      · rfl
      · rename_i c _ _
        dsimp only
        rw [hrec, ← ih]
        cases s.mgt.receiver <;> rfl

theorem pfQueueServe_withVfs (k : Nat) : pfQueueServe k (s.withVfs x) = (pfQueueServe k s).withVfs x := by
  induction k generalizing s with
  | zero => rfl
  | succ k ih =>
    have hbest : (s.withVfs x).evc.best 0 0 = s.evc.best 0 0 := rfl
    rw [pfQueueServe, pfQueueServe, hbest]
    split
    · rfl
    · simp only [apply_ite (State.withVfs x), ← ih]
      rw [State.evqWrite_withVfs]
      rfl

theorem State.evcDo_withVfs (f : Evc → Evc) : (s.withVfs x).evcDo f = (s.evcDo f).withVfs x := by
  have hserve : hevosServe 256 { s.withVfs x with evc := f (s.withVfs x).evc } =
      (hevosServe 256 { s with evc := f s.evc }).withVfs x := hevosServe_withVfs x { s with evc := f s.evc } 256
  simp only [State.evcDo, State.evcServe, hserve, apply_ite (State.withVfs x), pfQueueServe_withVfs, State.interrupt_withVfs]
  rfl

theorem State.raise_withVfs (k info : Nat) : (s.withVfs x).raise k info = (s.raise k info).withVfs x := by
  simp only [State.raise, apply_ite (State.withVfs x), State.evcDo_withVfs, State.vfPost_withVfs]
  rfl

theorem State.log_withVfs (i : ErrInfo) : (s.withVfs x).log i = (s.log i).withVfs x := by
  have hrec : ({ s.withVfs x with err := (s.withVfs x).recorded i } : State) = ({ s with err := s.recorded i } : State).withVfs x := rfl
  simp only [State.log, State.logError, hrec, apply_ite (State.withVfs x), State.raise_withVfs, ← State.vfPost_withVfs]
  rfl

/-! ### The stacks -/

theorem forAll_withVfs {α : Type} {f : α → State → State} (h : ∀ a s, f a (s.withVfs x) = (f a s).withVfs x) (l : List α)
    (s : State) : forAll l f (s.withVfs x) = (forAll l f s).withVfs x := by
  induction l generalizing s with
  | nil => rfl
  | cons a l ih => exact (congrArg (forAll l f) (h a s)).trans (ih _)

theorem State.countCe_withVfs (k : Nat) : (s.withVfs x).countCe k = (s.countCe k).withVfs x := by
  simp only [State.countCe, apply_ite (State.withVfs x), State.modStk_withVfs, State.log_withVfs, State.raise_withVfs]
  rfl

theorem State.takeLine_withVfs (l : Nat) (s : State) : (s.withVfs x).takeLine l = (s.takeLine l).withVfs x := by
  have hout : (s.withVfs x).out.length = s.out.length := rfl
  rw [State.takeLine, State.takeLine, hout]
  split <;> rfl

theorem State.meetGranule_withVfs (g : Nat) (s : State) : (s.withVfs x).meetGranule g = (s.meetGranule g).withVfs x := by
  have hmarks (l : List Nat) (s : State) : forAll l (fun w s => s.markAt (4 * w)) (s.withVfs x) =
      (forAll l (fun w s => s.markAt (4 * w)) s).withVfs x := forAll_withVfs x (f := fun w s => s.markAt (4 * w)) (fun _ _ => rfl) l s
  have hpull (c : Bool) (t u : State) : (if c then t.withVfs x else u.withVfs x) = (if c then t else u).withVfs x :=
    (apply_ite (State.withVfs x) ..).symm
  have hg : (s.withVfs x).guardedAt g = s.guardedAt g := rfl
  have he (k : WordErr) : (s.withVfs x).errsAt g k = s.errsAt g k := rfl
  simp only [State.meetGranule, hg, he, State.countUe, State.countCe_withVfs, hpull, hmarks, State.modStk_withVfs]

theorem State.meet_withVfs (segs : List (Nat × Nat)) : (s.withVfs x).meet segs = (s.meet segs).withVfs x :=
  forAll_withVfs x (State.meetGranule_withVfs x) _ s

theorem State.cohere_withVfs (segs : List (Nat × Nat)) : (s.withVfs x).cohere segs = (s.cohere segs).withVfs x := by
  have hblocked : (if (s.withVfs x).held segs then { s.withVfs x with blocked := true } else s.withVfs x) =
      (if s.held segs then { s with blocked := true } else s).withVfs x :=
    (apply_ite (State.withVfs x) (s.held segs = true) { s with blocked := true } s).symm
  rw [State.cohere, hblocked]
  exact forAll_withVfs x (State.takeLine_withVfs x) _ _

/-! ### The window -/

theorem State.readSegs_withVfs (segs : List (Nat × Nat)) :
    (s.withVfs x).readSegs segs = ((s.readSegs segs).1, (s.readSegs segs).2.withVfs x) := by
  have hfail (t : State) (w : Nat) : (t.withVfs x).firstFail w segs = t.firstFail w segs :=
    State.firstFail_congr (s := t) (t := t.withVfs x) rfl (fun _ => rfl) w segs
  simp only [State.readSegs, State.cohere_withVfs, State.meet_withVfs, hfail]
  rfl

theorem State.winRead_withVfs (n w len : Nat) :
    (s.withVfs x).winRead n w len = ((s.winRead n w len).1, (s.winRead n w len).2.withVfs x) := s.readSegs_withVfs x _

theorem State.storeAt_withVfs (a : Nat) (bs : List Byte) :
    (s.withVfs x).storeAt a bs = ((s.storeAt a bs).1.withVfs x, (s.storeAt a bs).2) := by
  simp only [State.storeAt, State.cohere_withVfs, State.meet_withVfs]
  rfl

theorem writeSegs_withVfs (segs : List (Nat × Nat)) (bs : List Byte) (s : State) :
    writeSegs (s.withVfs x) segs bs = ((writeSegs s segs bs).1.withVfs x, (writeSegs s segs bs).2) := by
  induction segs generalizing bs s with
  | nil => rfl
  | cons y t ih => simp only [writeSegs, State.storeAt_withVfs, ih]

theorem State.winWrite_withVfs (n w : Nat) (bs : List Byte) :
    (s.withVfs x).winWrite n w bs = ((s.winWrite n w bs).1.withVfs x, (s.winWrite n w bs).2) := writeSegs_withVfs x _ bs s

theorem writeAll_withVfs (n : Nat) (ws : List (Nat × List Byte)) (s : State) :
    writeAll n ws (s.withVfs x) = ((writeAll n ws s).1.withVfs x, (writeAll n ws s).2) := by
  induction ws generalizing s with
  | nil => rfl
  | cons y t ih => simp only [writeAll, State.winWrite_withVfs, ih]

theorem State.winZero_withVfs (n w len : Nat) : (s.withVfs x).winZero n w len = (s.winZero n w len).withVfs x := by
  simp only [State.winZero]
  have hpart : (s.withVfs x).part n = s.part n := rfl
  rw [hpart, State.cohere_withVfs]
  rfl

theorem State.fillView_withVfs (n : Nat) (dst : View) (v sc : Nat) :
    (s.withVfs x).fillView n dst v sc = ((s.fillView n dst v sc).1.withVfs x, (s.fillView n dst v sc).2) := by
  rw [State.fillView, State.fillView]
  dsimp only
  rw [forAll_withVfs x fun r s => ?_]
  · split
    · exact writeAll_withVfs x n _ _
    · rfl
  · split
    · exact s.winZero_withVfs x n _ _
    · rw [State.winWrite_withVfs]

theorem State.copyForget_withVfs (n : Nat) (c : CopyJob) : (s.withVfs x).copyForget n c = (s.copyForget n c).withVfs x := by
  refine forAll_withVfs x (fun idx s => ?_) _ s
  dsimp only
  split <;> rfl

end Rings

end Sys2Proof.Machine
end
section
/-! How a copy descriptor starts (R116 to R119): its view records, its checks, and the descriptor that waits for channels. -/

namespace Sys2Proof.Machine

/-! ### Checks 2 to 5 (R117) -/

theorem spanIn_iff {p : Part} {x : Int × Int} :
    spanIn p x = true ↔ 0 ≤ x.1 ∧ p.inWindow x.1.toNat (x.2 - x.1).toNat = true := by simp [spanIn]

theorem View.aligned_iff {v : View} : v.aligned = true ↔ v.base % 64 = 0 ∧ v.inner % 32 = 0 ∧
    (∀ x ∈ v.outer, x.2 * (v.width : Int) % 512 = 0) ∧ (v.mx = true → v.scaleBase % 64 = 0) := by
  simp [View.aligned, and_assoc, imp_iff_not_or]

theorem View.zeroStride_iff {v : View} : v.zeroStride = true ↔ ∃ x ∈ v.outer, 1 < x.1 ∧ x.2 = 0 := by
  simp [View.zeroStride]

theorem all_spans_iff {p : Part} {o : CopyOp} {dst : View} :
    ((dst :: o.reads).all fun v => v.spans.all (spanIn p)) = true ↔ ∀ v ∈ dst :: o.reads, ∀ x ∈ v.spans,
      0 ≤ x.1 ∧ p.inWindow x.1.toNat (x.2 - x.1).toNat = true := by
  simp only [List.all_eq_true, spanIn_iff]

theorem all_aligned_iff {o : CopyOp} {dst : View} : ((dst :: o.reads).all View.aligned) = true ↔ ∀ v ∈ dst :: o.reads,
    v.base % 64 = 0 ∧ v.inner % 32 = 0 ∧ (∀ x ∈ v.outer, x.2 * (v.width : Int) % 512 = 0) ∧
      (v.mx = true → v.scaleBase % 64 = 0) := by simp only [List.all_eq_true, View.aligned_iff]

theorem any_meets_iff {o : CopyOp} {dst : View} :
    (dst.spans.any fun a => (o.reads.flatMap View.spans).any (spansMeet a)) = true ↔
      ∃ x ∈ dst.spans, ∃ v ∈ o.reads, ∃ y ∈ v.spans, max x.1 y.1 < min x.2 y.2 := by
  simp only [List.any_eq_true, List.mem_flatMap, spansMeet, decide_eq_true_iff]
  constructor
  · rintro ⟨x, hx, y, ⟨v, hv, hy⟩, h⟩
    exact ⟨x, hx, v, hv, y, hy, h⟩
  · rintro ⟨x, hx, v, hv, y, hy, h⟩
    exact ⟨x, hx, y, ⟨v, hv, hy⟩, h⟩

/-! ### View records (R117, R511) -/

section ViewReads
variable (s : State) (n : Nat) (d : Desc) (ptrs : List Nat)

theorem State.viewReads_stackOnly : StackOnly s (s.viewReads n d ptrs).2 := by
  unfold State.viewReads
  refine foldl_stackOnly (fun v s p => ?_) ptrs _ s
  dsimp only
  split
  · exact .refl s
  · split <;> exact s.winRead_stackOnly n _ 128

end ViewReads

/-! ### What the start of a copy descriptor does -/

/-- The operation and the destination that a copy descriptor gets from the view records that were read. -/
def Desc.copyOf (d : Desc) (recs : List ViewRead) : CopyOp × View :=
  copyOp (descOpcode d.bits) d.bits fun p => ((recs.find? fun v => v.ptr == p).map fun v => viewOf v.bytes).getD
    { base := 0, scaleBase := 0, fmt := 0, extents := [], strides := [] }

/-- The first of a copy descriptor's own fields that is bad. -/
def Desc.copyOwn (d : Desc) : Option Nat :=
  firstBad (descBytes d) (headerChecks ++ copyChecks (descOpcode d.bits) d.bits)

/-- A copy descriptor that has started and has no channel yet. -/
def newCopy (o : CopyOp) (dst : View) : CopyJob :=
  { op := o, dst := dst, strictOrder := !dst.nonAliasing, index := [], left := [(0, o.pieceCount dst !dst.nonAliasing)],
    channels := [], keepers := [] }

section Start
variable {s : State} {n r : Nat} {d : Desc} {read : ViewReads × State}
  (hread : s.viewReads n d (copyPtrs (descOpcode d.bits)).all = read)
include hread

theorem State.startCopy_unread (hown : d.copyOwn = none) {w : Nat} {f : ReadFail} (hf : read.1.fail = some (w, f)) :
    s.startCopy n r (descOpcode d.bits) d = read.2.failDesc n r d (readInfo n 5 0 w f 0 r 1) { status := statusPoisonRead } := by
  rw [Desc.copyOwn] at hown
  simp only [State.startCopy, hread, hown, hf]

variable (hgood : d.copyOwn ≠ none ∨ read.1.fail = none)
include hgood

/-- Unless a view record of a descriptor with good fields could not be read, the checks go on. -/
theorem State.startCopy_checks : s.startCopy n r (descOpcode d.bits) d =
    match copyBad (descOpcode d.bits) d.bits d.copyOwn read.1.recs with
    | some off => read.2.complete n r d.id { status := statusBadDescriptor, detail := off }
    | none =>
      if read.1.recs.length < (copyPtrs (descOpcode d.bits)).all.length then
        read.2.complete n r d.id { status := statusBadAddress }
      else match copyStatus (read.2.part n) (d.copyOf read.1.recs).1 (d.copyOf read.1.recs).2 with
        | some st => read.2.complete n r d.id { status := st }
        | none => (read.2.setDesc n r d.id
            (.copy (newCopy (d.copyOf read.1.recs).1 (d.copyOf read.1.recs).2))).settleChannels n := by
  rw [Desc.copyOwn] at hgood ⊢
  rw [State.startCopy, hread]
  dsimp only
  split
  · rename_i w f hown hfail
    rcases hgood with h | h
    · exact absurd hown h
    · exact absurd (hfail.symm.trans h) (by simp)
  · rfl

theorem State.startCopy_bad {off : Nat}
    (hbad : copyBad (descOpcode d.bits) d.bits d.copyOwn read.1.recs = some off) :
    s.startCopy n r (descOpcode d.bits) d = read.2.complete n r d.id { status := statusBadDescriptor, detail := off } := by
  rw [State.startCopy_checks hread hgood, hbad]

variable (hsound : copyBad (descOpcode d.bits) d.bits d.copyOwn read.1.recs = none)
include hsound

theorem State.startCopy_outside (hrecs : read.1.recs.length < (copyPtrs (descOpcode d.bits)).all.length) :
    s.startCopy n r (descOpcode d.bits) d = read.2.complete n r d.id { status := statusBadAddress } := by
  rw [State.startCopy_checks hread hgood, hsound]
  exact if_pos hrecs

variable (hrecs : (copyPtrs (descOpcode d.bits)).all.length ≤ read.1.recs.length)
include hrecs

theorem State.startCopy_refused {st : Nat}
    (hst : copyStatus (read.2.part n) (d.copyOf read.1.recs).1 (d.copyOf read.1.recs).2 = some st) :
    s.startCopy n r (descOpcode d.bits) d = read.2.complete n r d.id { status := st } := by
  rw [State.startCopy_checks hread hgood, hsound]
  dsimp only
  rw [if_neg (Nat.not_lt.2 hrecs), hst]

theorem State.startCopy_begins
    (hst : copyStatus (read.2.part n) (d.copyOf read.1.recs).1 (d.copyOf read.1.recs).2 = none) :
    s.startCopy n r (descOpcode d.bits) d = (read.2.setDesc n r d.id
      (.copy (newCopy (d.copyOf read.1.recs).1 (d.copyOf read.1.recs).2))).settleChannels n := by
  rw [State.startCopy_checks hread hgood, hsound]
  dsimp only
  rw [if_neg (Nat.not_lt.2 hrecs), hst]

end Start

/-! ### The rows -/

/-- A command that starts copy descriptors of `d`'s opcode. -/
def CopyRow (c : Instr) (s : State) (n r : Nat) (d : Desc) (errs : Errs) : Prop :=
  exec c s = actOn errs (whenRunning fun s => s.copyRow n r (descOpcode d.bits)) s

theorem State.copyRow_starts {s : State} {n r : Nat} {d : Desc} (h : s.startable n r = some d) :
    s.copyRow n r (descOpcode d.bits) = s.startCopy n r (descOpcode d.bits) d := by simp only [State.copyRow, h, if_true]

section Row
variable {s : State} {c : Instr} {n r : Nat} {d : Desc} {errs : Errs} (hl : s.live) (hrow : CopyRow c s n r d errs)
  (hs : Starts s n r d)
include hl hrow hs

theorem CopyRow.runs {u : State} (hu : (s.told errs).startCopy n r (descOpcode d.bits) d = u) (hb : u.blocked = false) :
    Runs c s (s.after u) := by
  have hf : (s.told errs).copyRow n r (descOpcode d.bits) = u := (State.copyRow_starts (s := s.told errs) hs.1).trans hu
  have hr := (Row.of_actOn hrow).runs hl (by rw [hf]; exact hb)
  rwa [hf] at hr

theorem CopyRow.waits (hb : ((s.told errs).startCopy n r (descOpcode d.bits) d).blocked = true) : Runs c s s := by
  refine runs_blocked hl hrow ?_
  rwa [State.copyRow_starts (s := s.told errs) hs.1]

/-- A copy descriptor that is refused after its view records were read. -/
theorem CopyRow.ends {b : State} (hstack : StackOnly (s.told errs) b) (hb : b.blocked = false) {e : Ending}
    (hu : (s.told errs).startCopy n r (descOpcode d.bits) d = b.complete n r d.id e) :
    ∃ t, Runs c s t ∧ OnlyRing n r (s.after b) t ∧ Ended s t n r d e := by
  have held : Held b n r d := (Starts.held (s := s.told errs) hs).congr hstack.vfs hstack.parts
  obtain ⟨honly, hend, hblocked⟩ := held.ends (s := s) (State.ring_of_vfs hstack.vfs n r) e
  exact ⟨_, hrow.runs hl hs hu (hblocked.trans hb), honly, hend⟩

/-- A copy descriptor whose view record cannot be read. -/
theorem CopyRow.fails {b : State} (hstack : StackOnly (s.told errs) b) (hb : b.blocked = false) {i : ErrInfo} {e : Ending}
    (hu : (s.told errs).startCopy n r (descOpcode d.bits) d = b.failDesc n r d i e) :
    ∃ t, Runs c s t ∧ Ended s t n r d { e with errSeq := (s.after b).err.nextSeq } ∧
      t.err = (s.after b).recorded { i with part := n, tag := descTag d.bits, ring := r } := by
  have held : Held b n r d := (Starts.held (s := s.told errs) hs).congr hstack.vfs hstack.parts
  obtain ⟨hend, herr, hblocked⟩ := held.fails (s := s) (State.ring_of_vfs hstack.vfs n r) i e
  exact ⟨_, hrow.runs hl hs hu (hblocked.trans hb), hend, herr⟩

end Row

end Sys2Proof.Machine
end
section
/-! A copy descriptor takes its channels (R124, R132 to R135): which one is served first, and what it begins with. -/

namespace Sys2Proof.Machine

/-! ### The descriptor that waits -/

/-- The descriptor, which now waits for something. -/
def Desc.waiting (d : Desc) (st : DescState) : Desc := { d with state := st }

theorem Ring.find_waits {g : Ring} {d : Desc} (h : g.find d.id = some d) (st : DescState) :
    (g.waits d st).find d.id = some (d.waiting st) := by
  have hkey : ((fun x : Desc => x.id == d.id) ∘ fun x : Desc => if x.id = d.id then { x with state := st } else x) =
      fun x => x.id == d.id := by
    funext x
    simp only [Function.comp_apply]
    split <;> rfl
  have hfind : g.descs.find? (fun x => x.id == d.id) = some d := h
  rw [Ring.find, Ring.waits, List.find?_map, hkey, hfind, Option.map_some, if_pos rfl]
  rfl

theorem Ring.waits_waits (g : Ring) (d : Desc) (st st' : DescState) : (g.waits d st).waits d st' = g.waits d st' := by
  simp only [Ring.waits, List.map_map]
  congr 1
  refine List.map_congr_left fun x _ => ?_
  simp only [Function.comp_apply]
  by_cases h : x.id = d.id <;> simp [h]

/-- A descriptor that waits is still one that its ring holds. -/
theorem Held.setDesc {s : State} {n r : Nat} {d : Desc} (h : Held s n r d) {st : DescState} (hst : ∀ c k, st ≠ .fence c k) :
    Held (s.setDesc n r d.id st) n r (d.waiting st) := by
  obtain ⟨hfind, horphan, htakes, hfence, hdiscard⟩ := h
  refine ⟨?_, horphan, ?_, State.noFence_modRing hfence r _ fun g x hx c k hc => ?_, hdiscard⟩
  · rw [State.setDesc_ring]
    exact Ring.find_waits hfind st
  · rw [State.setDesc_ring]
    exact htakes
  · obtain ⟨y, hy, rfl⟩ := List.mem_map.1 hx
    split at hc
    · exact absurd hc (hst c k)
    · rename_i hne
      rwa [if_neg hne]

/-- The end of a descriptor that has waited is its end. -/
theorem Ended.of_waits {s w t : State} {n r : Nat} {d : Desc} {st : DescState} {e : Ending}
    (hring : w.ring n r = (s.ring n r).waits d st) (h : Ended w t n r (d.waiting st) e) : Ended s t n r d e := by
  have hdescs : ((s.ring n r).waits d st).descs.filter (fun x => x.id != d.id) =
      (s.ring n r).descs.filter fun x => x.id != d.id := by
    simp only [Ring.waits, List.filter_map]
    have hkey : ((fun x : Desc => x.id != d.id) ∘ fun x : Desc => if x.id = d.id then { x with state := st } else x) =
        fun x => x.id != d.id := by
      funext x
      simp only [Function.comp_apply]
      split <;> rfl
    rw [hkey]
    refine (List.map_congr_left fun x hx => ?_).trans (List.map_id _)
    have := (List.mem_filter.1 hx).2
    rw [if_neg (by simpa using this)]
    rfl
  rw [Ended, hring] at h
  rw [Ended, h, ← hdescs]
  rfl

/-! ### Who is served first (R134) -/

theorem insertBy_last {α : Type} {key : α → Nat} {x : α} {t : List α} (h : ∀ y ∈ t, key y ≤ key x) :
    insertBy key x t = t ++ [x] := by
  induction t with
  | nil => rfl
  | cons y t ih =>
    rw [insertBy, if_neg (Nat.not_lt.2 (h y List.mem_cons_self)), ih fun z hz => h z (List.mem_cons_of_mem _ hz),
      List.cons_append]

/-- Elements of one key stay in their order. -/
theorem sortBy_of_key {α : Type} {key : α → Nat} {k : Nat} {xs : List α} (h : ∀ x ∈ xs, key x = k) : sortBy key xs = xs := by
  suffices hfold : ∀ t : List α, (∀ y ∈ t, key y = k) → xs.foldl (fun t x => insertBy key x t) t = t ++ xs from
    hfold [] fun _ hy => absurd hy List.not_mem_nil
  induction xs with
  | nil => exact fun t _ => (List.append_nil t).symm
  | cons x xs ih =>
    intro t ht
    have hx := h x List.mem_cons_self
    rw [List.foldl_cons, insertBy_last fun y hy => by rw [ht y hy, hx],
      ih (fun y hy => h y (List.mem_cons_of_mem _ hy)) (t ++ [x]) fun y hy => ?_, List.append_assoc, List.singleton_append]
    rcases List.mem_append.1 hy with hy | hy
    · exact ht y hy
    · rw [List.mem_singleton.1 hy, hx]

/-- The copy descriptors of a partition that wait for a channel, oldest first. -/
def State.waitingCopies (s : State) (n : Nat) : List (Nat × Desc × CopyJob) :=
  sortBy (fun x : Nat × Desc × CopyJob => x.2.1.id) ((s.copies n).filter fun (_, _, c) => c.channels.isEmpty)

/-- A descriptor of ring `r` as one of the copies of its partition. -/
def Desc.asCopy (r : Nat) (d : Desc) : Option (Nat × Desc × CopyJob) := match d.state with
  | .copy c => some (r, d, c)
  | _ => none

theorem Desc.asCopy_eq_some {r : Nat} {d : Desc} {x : Nat × Desc × CopyJob} (h : d.asCopy r = some x) : x.1 = r ∧ x.2.1 = d := by
  unfold Desc.asCopy at h
  split at h
  · obtain rfl := Option.some.inj h
    exact ⟨rfl, rfl⟩
  · cases h

/-- A copy descriptor stands among the copies of its partition before every other one of its name. -/
theorem State.copies_split {s : State} {n r : Nat} {d : Desc} {c : CopyJob} (hr : r < 8)
    (hfind : (s.ring n r).find d.id = some d) (hst : d.state = .copy c) :
    ∃ pre post, s.copies n = pre ++ (r, d, c) :: post ∧ ∀ x ∈ pre, ¬(x.1 = r ∧ x.2.1.id = d.id) := by
  let ringCopies (q : Nat) := (s.ring n q).descs.filterMap (Desc.asCopy q)
  obtain ⟨m, hm⟩ : ∃ m, 8 = r + (m + 1) := ⟨7 - r, by omega⟩
  obtain ⟨-, as, bs, hdescs, has⟩ := List.find?_eq_some_iff_append.1 hfind
  have hcopies : s.copies n = (List.range (r + (m + 1))).flatMap ringCopies := by rw [← hm]; rfl
  have hhere : ringCopies r = as.filterMap (Desc.asCopy r) ++ (r, d, c) :: bs.filterMap (Desc.asCopy r) := by
    have hd : d.asCopy r = some (r, d, c) := by simp only [Desc.asCopy, hst]
    simp only [ringCopies, hdescs, List.filterMap_append, List.filterMap_cons, hd]
  refine ⟨(List.range r).flatMap ringCopies ++ as.filterMap (Desc.asCopy r),
    bs.filterMap (Desc.asCopy r) ++ ((List.range m).map fun i => r + (i + 1)).flatMap ringCopies, ?_, fun x hx => ?_⟩
  · rw [hcopies, List.range_add, List.range_succ_eq_map, List.map_cons, List.flatMap_append, List.flatMap_cons,
      Nat.add_zero, hhere, List.map_map]
    simp only [List.append_assoc, List.cons_append]
    rfl
  · rintro ⟨hxr, hxd⟩
    rcases List.mem_append.1 hx with hx | hx
    · obtain ⟨q, hq, hx⟩ := List.mem_flatMap.1 hx
      obtain ⟨e, -, he⟩ := List.mem_filterMap.1 hx
      have := List.mem_range.1 hq
      have := (Desc.asCopy_eq_some he).1
      omega
    · obtain ⟨e, hmem, he⟩ := List.mem_filterMap.1 hx
      rw [(Desc.asCopy_eq_some he).2] at hxd
      simpa [hxd] using has e hmem

theorem State.waitingCopies_head {s : State} {n r : Nat} {d : Desc} {c : CopyJob} (hr : r < 8)
    (hfind : (s.ring n r).find d.id = some d) (hst : d.state = .copy c) (hch : c.channels = [])
    (honly : s.copyWaitsOnly n r d.id) : ∃ rest, s.waitingCopies n = (r, d, c) :: rest := by
  obtain ⟨pre, post, hcopies, hpre⟩ := State.copies_split hr hfind hst
  have hwait {x : Nat × Desc × CopyJob} (hx : x ∈ s.copies n) (hc : x.2.2.channels.isEmpty = true) :=
    honly x hx (List.isEmpty_iff.1 hc)
  have hnone : pre.filter (fun (_, _, c) => c.channels.isEmpty) = [] := List.filter_eq_nil_iff.2 fun x hx hc =>
    hpre x hx (hwait (by rw [hcopies]; exact List.mem_append_left _ hx) hc)
  refine ⟨post.filter fun (_, _, c) => c.channels.isEmpty, ?_⟩
  rw [State.waitingCopies, sortBy_of_key (k := d.id) fun x hx => ?_]
  · rw [hcopies, List.filter_append, hnone, List.nil_append, List.filter_cons_of_pos (by simp [hch])]
  · obtain ⟨hx, hc⟩ := List.mem_filter.1 hx
    exact (hwait hx hc).2

/-! ### Channels (R133, R134) -/

/-- The most channels that a descriptor takes: one a piece. -/
def CopyJob.most (c : CopyJob) : Nat := if c.op.reads.isEmpty then 1 else c.op.pieceCount c.dst c.strictOrder

section Settle
variable {s : State} {n r : Nat} {d : Desc} {c : CopyJob} (hr : r < 8) (hfind : (s.ring n r).find d.id = some d)
  (hst : d.state = .copy c) (hch : c.channels = []) (honly : s.copyWaitsOnly n r d.id)
include hr hfind hst hch honly

theorem settleCopies_full (hfree : s.freeChannels n = []) (k : Nat) : settleCopies n k s = s := by
  cases k with
  | zero => rfl
  | succ k =>
    obtain ⟨rest, hhead⟩ := State.waitingCopies_head hr hfind hst hch honly
    rw [State.waitingCopies] at hhead
    simp only [settleCopies, hhead, hfree]

/-- The descriptor that waits begins; then none waits. -/
theorem settleCopies_begins (hfree : s.freeChannels n ≠ [])
    (hdone : (s.beginCopy n r d c ((s.freeChannels n).take c.most)).noCopyWaits n) (k : Nat) :
    settleCopies n (k + 1) s = s.beginCopy n r d c ((s.freeChannels n).take c.most) := by
  obtain ⟨rest, hhead⟩ := State.waitingCopies_head hr hfind hst hch honly
  obtain ⟨ch, more, hcons⟩ := List.exists_cons_of_ne_nil hfree
  rw [State.waitingCopies] at hhead
  rw [hcons] at hdone ⊢
  simp only [settleCopies, hhead, hcons]
  exact settleCopies_idle hdone k

end Settle

end Sys2Proof.Machine
end
section
/-! What a copy descriptor begins with once it has its channels: a FILL, the index list of a GATHER or SCATTER, its pieces
(R124, R132, R135). -/

namespace Sys2Proof.Machine

/-- Bytes of a row of a FILL's destination (R124). -/
def State.fillRow (n : Nat) (dst : View) (x r : Nat) (s : State) : State :=
  if x = 0 then s.winZero n (dst.vecAddr (dst.row r) 0) (dst.vecBytes * dst.vecs)
  else (s.winWrite n (dst.vecAddr (dst.row r) 0)
    (bytesOfNat (dst.vecBytes * dst.vecs) (packElems dst.width (List.replicate (32 * dst.vecs) x)))).1

theorem State.fillView_eq (s : State) (n : Nat) (dst : View) (x sc : Nat) : s.fillView n dst x sc =
    if dst.mx then writeAll n (dst.fillScales sc) (forAll (List.range dst.rows) (State.fillRow n dst x) s)
    else (forAll (List.range dst.rows) (State.fillRow n dst x) s, []) := rfl

theorem State.fillView_stackOnly (s : State) (n : Nat) (dst : View) (x sc : Nat) : StackOnly s (s.fillView n dst x sc).1 := by
  have hrows := forAll_stackOnly (State.fillRow n dst x) (fun r s => by
    unfold State.fillRow
    split
    · exact s.winZero_stackOnly n _ _
    · exact s.winWrite_stackOnly n _ _) (List.range dst.rows) s
  rw [State.fillView_eq]
  split
  · exact hrows.trans (writeAll_stackOnly n _ _)
  · exact hrows

theorem foldl_scrub_wf (segs : List (Nat × Nat)) {m : Mem} (h : m.wf = true) :
    (segs.foldl (fun m (x : Nat × Nat) => m.scrub x.1 (x.1 + x.2)) m).wf = true := by
  induction segs generalizing m with
  | nil => exact h
  | cons x t ih => exact ih (Mem.scrub_wf h _ _)

theorem State.winZero_grows (s : State) (n w len : Nat) : Grows s (s.winZero n w len) :=
  (s.cohere_grows _).trans ⟨List.Subset.refl _, fun h => foldl_scrub_wf _ h, id⟩

theorem State.fillView_grows (s : State) (n : Nat) (dst : View) (x sc : Nat) : Grows s (s.fillView n dst x sc).1 := by
  have hrows := forAll_grows (f := State.fillRow n dst x) (fun r s => by
    unfold State.fillRow
    split
    · exact s.winZero_grows n _ _
    · exact s.winWrite_grows n _ _) (List.range dst.rows) s
  rw [State.fillView_eq]
  split
  · exact hrows.trans (writeAll_grows n _ _)
  · exact hrows

/-! ### What it begins with -/

section Begin
variable {s : State} {n r : Nat} {d : Desc} {c : CopyJob} {chans : List Nat}

/-- A FILL goes on once its destination has been written. -/
def CopyJob.filled (c : CopyJob) (n r : Nat) (d : Desc) (ch : Nat) (marked : Nat → Bool) (f : State × List Nat) : State :=
  match f.2 with
  | a :: _ => f.1.copyMerge n r d c ch a (!marked a)
  | [] => f.1.complete n r d.id {}

/-- The place of the first index that is out of range (R132). -/
def firstOutOfRange (index : List Int) (extent : Nat) : Option Nat :=
  (List.range index.length).find? fun j => (inRange (index.getD j (-1)) extent).isNone

/-- A GATHER or SCATTER goes on once its index list has been read from window offset `w`. -/
def CopyJob.indexRead (c : CopyJob) (n r : Nat) (d : Desc) (chans : List Nat) (w extent : Nat) (strict : Bool)
    (read : ReadOut × State) : State :=
  match read.1.fail with
  | some f => read.2.copyFails n r d c (chans.headD 0) w f
  | none =>
    match strict, firstOutOfRange (indexList read.1.bytes) extent with
    | true, some j => read.2.complete n r d.id { status := statusBadDescriptor, detail := 0x10, result := j }
    | _, _ => read.2.setDesc n r d.id (.copy { c with index := indexList read.1.bytes, channels := chans })

theorem State.beginCopy_fill {x sc : Nat} (hop : c.op = .fill x sc) :
    s.beginCopy n r d c chans = c.filled n r d (chans.headD 0) s.isMarked (s.fillView n c.dst x sc) := by
  simp only [State.beginCopy, hop]
  rfl

theorem State.beginCopy_pieces (hfill : ∀ x sc, c.op ≠ .fill x sc) (hindex : c.op.indexed c.dst = none) :
    s.beginCopy n r d c chans = s.setDesc n r d.id (.copy { c with channels := chans }) := by
  simp only [State.beginCopy, hindex]

theorem State.beginCopy_indexed {iv : View} {extent : Nat} {strict : Bool}
    (hindex : c.op.indexed c.dst = some (iv, extent, strict)) : s.beginCopy n r d c chans =
      c.indexRead n r d chans (iv.vecAddr [] 0) extent strict (s.winRead n (iv.vecAddr [] 0) (4 * iv.inner)) := by
  simp only [State.beginCopy, hindex]
  split
  · rename_i hop
    rw [hop] at hindex
    cases hindex
  · rename_i h _
    cases h
    rfl
  · rename_i h _
    cases h

variable {ch : Nat} {marked : Nat → Bool} {f : State × List Nat}

theorem CopyJob.filled_whole (h : f.2 = []) : c.filled n r d ch marked f = f.1.complete n r d.id {} := by
  rw [CopyJob.filled, h]

theorem CopyJob.filled_dropped {a : Nat} {more : List Nat} (h : f.2 = a :: more) :
    c.filled n r d ch marked f = f.1.copyMerge n r d c ch a (!marked a) := by rw [CopyJob.filled, h]

/-- What the writes of a FILL met is kept. -/
theorem CopyJob.filled_grows : Grows f.1 (c.filled n r d ch marked f) := by
  unfold CopyJob.filled
  split
  · exact State.copyHalts_grows _ n r d c _ _ _
  · exact (State.complete_ringOnly _ _ _ _ _).grows

section Index
variable {w extent : Nat} {strict : Bool} {read : ReadOut × State}

theorem CopyJob.indexRead_unread {f : ReadFail} (h : read.1.fail = some f) :
    c.indexRead n r d chans w extent strict read = read.2.copyFails n r d c (chans.headD 0) w f := by
  simp only [CopyJob.indexRead, h]

theorem CopyJob.indexRead_outOfRange (hf : read.1.fail = none) {j : Nat} (hstrict : strict = true)
    (hj : firstOutOfRange (indexList read.1.bytes) extent = some j) :
    c.indexRead n r d chans w extent strict read =
      read.2.complete n r d.id { status := statusBadDescriptor, detail := 0x10, result := j } := by
  simp only [CopyJob.indexRead, hf, hstrict, hj]

theorem CopyJob.indexRead_inRange (hf : read.1.fail = none)
    (h : strict = false ∨ firstOutOfRange (indexList read.1.bytes) extent = none) :
    c.indexRead n r d chans w extent strict read =
      read.2.setDesc n r d.id (.copy { c with index := indexList read.1.bytes, channels := chans }) := by
  unfold CopyJob.indexRead
  rw [hf]
  rcases h with rfl | h
  · rfl
  · rw [h]
    cases strict <;> rfl

/-- What reading the index list met is kept. -/
theorem CopyJob.indexRead_grows : Grows read.2 (c.indexRead n r d chans w extent strict read) := by
  unfold CopyJob.indexRead
  split
  · exact State.copyHalts_grows _ n r d c _ _ _
  · split
    · exact (State.complete_ringOnly _ _ _ _ _).grows
    · exact (State.setDesc_ringOnly _ _ _ _ _).grows

end Index

/-! ### Whichever way it begins -/

/-- A copy descriptor that begins keeps what it has met. -/
theorem State.beginCopy_grows : Grows s (s.beginCopy n r d c chans) := by
  cases hindex : c.op.indexed c.dst with
  | some x =>
    rw [State.beginCopy_indexed hindex]
    exact (s.winRead_grows n _ _).trans CopyJob.indexRead_grows
  | none =>
    by_cases hfill : ∃ x sc, c.op = .fill x sc
    · obtain ⟨x, sc, hop⟩ := hfill
      rw [State.beginCopy_fill hop]
      exact (s.fillView_grows n _ _ _).trans CopyJob.filled_grows
    · rw [State.beginCopy_pieces (fun x sc hop => hfill ⟨x, sc, hop⟩) hindex]
      exact (s.setDesc_ringOnly _ _ _ _).grows

/-- A copy descriptor that begins waits no more. -/
theorem Held.beginCopy_noCopyWaits (h : Held s n r d) (hw : s.copyWaitsOnly n r d.id) (hch : chans ≠ []) :
    (s.beginCopy n r d c chans).noCopyWaits n := by
  have held {t : State} (ht : StackOnly s t) : Held t n r d := h.congr ht.vfs ht.parts
  have only {t : State} (ht : StackOnly s t) : t.copyWaitsOnly n r d.id := State.copyWaitsOnly_of_vfs ht.vfs hw
  cases hindex : c.op.indexed c.dst with
  | some x =>
    have hstack := s.winRead_stackOnly n (x.1.vecAddr [] 0) (4 * x.1.inner)
    rw [State.beginCopy_indexed hindex]
    unfold CopyJob.indexRead
    split
    · exact (held hstack).copyHalts_noCopyWaits (only hstack) _ _ _ _
    · split
      · exact (held hstack).complete_noCopyWaits (only hstack) _
      · exact State.setDesc_noCopyWaits (only hstack) hch
  | none =>
    by_cases hfill : ∃ x sc, c.op = .fill x sc
    · obtain ⟨x, sc, hop⟩ := hfill
      have hstack := s.fillView_stackOnly n c.dst x sc
      rw [State.beginCopy_fill hop, CopyJob.filled]
      split
      · exact (held hstack).copyHalts_noCopyWaits (only hstack) _ _ _ _
      · exact (held hstack).complete_noCopyWaits (only hstack) _
    · rw [State.beginCopy_pieces (fun x sc hop => hfill ⟨x, sc, hop⟩) hindex]
      exact State.setDesc_noCopyWaits hw hch

end Begin

end Sys2Proof.Machine
end
section
/-! A copy descriptor that passes its checks (R116, R132 to R138): what its command answers. -/

namespace Sys2Proof.Machine

/-- The command starts copy descriptor `d`, which passes every check; `v` is the state once its view records are read, and
the descriptor is the only one that then waits for a channel. -/
structure CopyPasses (c : Instr) (s v : State) (errs : Errs) (n r : Nat) (d : Desc) (job : CopyJob) : Prop where
  live : s.live
  row : CopyRow c s n r d errs
  starts : Starts s n r d
  slot : r < 8
  stack : StackOnly (s.told errs) v
  begins : (s.told errs).startCopy n r (descOpcode d.bits) d = (v.setDesc n r d.id (.copy job)).settleChannels n
  only : (v.setDesc n r d.id (.copy job)).copyWaitsOnly n r d.id
  channels : job.channels = []
  pieces : 0 < job.most

namespace CopyPasses

variable {c : Instr} {s v : State} {errs : Errs} {n r : Nat} {d : Desc} {job : CopyJob}
  (h : CopyPasses c s v errs n r d job)
include h

theorem held : Held v n r d := (Starts.held (s := s.told errs) h.starts).congr h.stack.vfs h.stack.parts

theorem ring : v.ring n r = s.ring n r := State.ring_of_vfs h.stack.vfs n r

theorem held_waiting : Held (v.setDesc n r d.id (.copy job)) n r (d.waiting (.copy job)) :=
  h.held.setDesc fun _ _ hc => by cases hc

theorem ring_waiting : (v.setDesc n r d.id (.copy job)).ring n r = (s.ring n r).waits d (.copy job) := by
  rw [State.setDesc_ring, h.ring]

/-! ### Before it has channels -/

/-- With no free channel it waits (R134). -/
theorem full (hfree : (v.setDesc n r d.id (.copy job)).freeChannels n = []) (hb : v.blocked = false) :
    ∃ t, Runs c s t ∧ OnlyRing n r (s.after v) t ∧ t.ring n r = (s.ring n r).waits d (.copy job) := by
  have hsettled := h.begins.trans
    (settleCopies_full h.slot h.held_waiting.1 rfl h.channels h.only hfree 513)
  have honly : OnlyRing n r v (v.setDesc n r d.id (.copy job)) := v.modRing_onlyRing n r _
  exact ⟨_, h.row.runs h.live h.starts hsettled (honly.leaves.2.2.2.trans hb), honly.after_of s, h.ring_waiting⟩

/-! ### With its channels -/

section Begun
variable (hfree : (v.setDesc n r d.id (.copy job)).freeChannels n ≠ [])
include hfree

theorem begun : (s.told errs).startCopy n r (descOpcode d.bits) d =
    (v.setDesc n r d.id (.copy job)).beginCopy n r (d.waiting (.copy job)) job
      (((v.setDesc n r d.id (.copy job)).freeChannels n).take job.most) := by
  have hch : ((v.setDesc n r d.id (.copy job)).freeChannels n).take job.most ≠ [] := by
    rw [ne_eq, List.take_eq_nil_iff]
    exact fun hnil => hnil.elim (Nat.pos_iff_ne_zero.1 h.pieces) hfree
  exact h.begins.trans (settleCopies_begins h.slot h.held_waiting.1 rfl h.channels h.only hfree
    (h.held_waiting.beginCopy_noCopyWaits h.only hch) 512)

/-- The channel that names the descriptor is the lowest that is free. -/
theorem first_channel : (((v.setDesc n r d.id (.copy job)).freeChannels n).take job.most).headD 0 =
    ((v.setDesc n r d.id (.copy job)).freeChannels n).headD 0 := by
  obtain ⟨m, hm⟩ := Nat.exists_eq_succ_of_ne_zero (Nat.pos_iff_ne_zero.1 h.pieces)
  obtain ⟨ch, more, hcons⟩ := List.exists_cons_of_ne_nil hfree
  rw [hm, hcons]
  rfl

end Begun

/-- Where reading the view records meets a granule under re-read, the command waits (R526). -/
theorem blocked (hb : v.blocked = true) : Runs c s s := by
  refine h.row.waits h.live h.starts ?_
  have hset : Grows v (v.setDesc n r d.id (.copy job)) := (State.setDesc_ringOnly ..).grows
  by_cases hfree : (v.setDesc n r d.id (.copy job)).freeChannels n = []
  · rw [h.begins, State.settleChannels, settleCopies_full h.slot h.held_waiting.1 rfl h.channels h.only hfree]
    exact hset.2.2 hb
  · rw [h.begun hfree]
    exact (hset.trans State.beginCopy_grows).2.2 hb

/-! ### What it comes to

After the view records the descriptor reads or writes the window; `u` is the state that this leaves, with the rings as they
were. -/

section Outcome
variable {u : State} (hstack : StackOnly v u) (hb : u.blocked = false)
include hstack

theorem held_after : Held (u.withVfs (v.setDesc n r d.id (.copy job)).vfs) n r (d.waiting (.copy job)) :=
  Held.congr (s := v.setDesc n r d.id (.copy job)) rfl hstack.parts h.held_waiting

omit h in
theorem onlyRing_after : OnlyRing n r u (u.withVfs (v.setDesc n r d.id (.copy job)).vfs) := by
  obtain ⟨-, hvf, hring⟩ := v.modRing_onlyRing n r fun g => g.waits d (.copy job)
  have hwaits : (v.setDesc n r d.id (.copy job)).vfs = (v.modRing n r fun g => g.waits d (.copy job)).vfs := by
    simp [State.setDesc, Ring.waits]
  rw [hwaits]
  refine ⟨rfl, fun m hm => (hvf m hm).trans (State.vf_of_vfs hstack.vfs m).symm,
    fun q hq => (hring q hq).trans (State.ring_of_vfs hstack.vfs n q).symm⟩

include hb

/-- Its channel halts. -/
theorem halts {i : ErrInfo} (hpart : i.part = n) (hr : i.ring = r) {ch : Nat} {spent : Bool}
    (hu : (s.told errs).startCopy n r (descOpcode d.bits) d =
      (u.withVfs (v.setDesc n r d.id (.copy job)).vfs).copyHalts n r (d.waiting (.copy job)) job ch i spent) :
    ∃ t, Runs c s t ∧ CopyHalted s u (s.after u) n r d job ch i spent t := by
  obtain ⟨hmem, herr, hend, hblocked⟩ := (h.held_after hstack).copyHalts
    (s := s.withVfs (v.setDesc n r d.id (.copy job)).vfs) rfl job ch hpart hr spent
  refine ⟨_, h.row.runs h.live h.starts hu (hblocked.trans hb), hmem.trans ?_, herr, hend.of_waits h.ring_waiting⟩
  rw [State.copyForget_withVfs]
  rfl

/-- It ends. -/
theorem ends {e : Ending} (hu : (s.told errs).startCopy n r (descOpcode d.bits) d =
      (u.withVfs (v.setDesc n r d.id (.copy job)).vfs).complete n r d.id e) :
    ∃ t, Runs c s t ∧ OnlyRing n r (s.after u) t ∧ Ended s t n r d e := by
  obtain ⟨honly, hend, hblocked⟩ := (h.held_after hstack).ends (s := s.withVfs (v.setDesc n r d.id (.copy job)).vfs) rfl e
  exact ⟨_, h.row.runs h.live h.starts hu (hblocked.trans hb), ((onlyRing_after hstack).after_of s).trans honly,
    hend.of_waits h.ring_waiting⟩

/-- It holds its channels, and its pieces are due. -/
theorem becomes {job' : CopyJob} (hu : (s.told errs).startCopy n r (descOpcode d.bits) d =
      (u.withVfs (v.setDesc n r d.id (.copy job)).vfs).setDesc n r d.id (.copy job')) :
    ∃ t, Runs c s t ∧ OnlyRing n r (s.after u) t ∧ t.ring n r = (s.ring n r).waits d (.copy job') := by
  have honly := (onlyRing_after (d := d) (job := job) hstack).trans (State.modRing_onlyRing _ n r fun g =>
    { g with descs := g.descs.map fun x => if x.id == d.id then { x with state := .copy job' } else x })
  refine ⟨_, h.row.runs h.live h.starts hu (honly.leaves.2.2.2.trans hb), honly.after_of s, ?_⟩
  have hring : (u.withVfs (v.setDesc n r d.id (.copy job)).vfs).ring n r = (s.ring n r).waits d (.copy job) := h.ring_waiting
  exact (State.setDesc_ring _ n r d _).trans (by rw [hring, Ring.waits_waits])

end Outcome

end CopyPasses

end Sys2Proof.Machine
end
section
/-! A copy descriptor that begins: its FILL, the index list of a GATHER or SCATTER, and how either ends (R124, R129, R132, R138). -/

namespace Sys2Proof.Machine

/-! ### Who begins with what -/

/-- COPY and RELAYOUT have neither values of their own nor an index list (R120, R126). -/
theorem copyOp_pieces {op : Nat} {bits : Bits512} {view : Nat → View} {o : CopyOp} {dst : View}
    (h : copyOp op bits view = (o, dst)) (hop : op = 0x10 ∨ op = 0x12) :
    (∀ x sc, o ≠ .fill x sc) ∧ o.indexed dst = none ∧ o.reads.isEmpty = false := by
  obtain ⟨rfl, -⟩ := Prod.mk.inj h
  rcases hop with rfl | rfl
  · rw [if_pos rfl]
    split <;> exact ⟨fun _ _ h => (by cases h), rfl, rfl⟩
  · exact ⟨fun _ _ h => (by cases h), rfl, rfl⟩

/-- A copy descriptor whose checks pass, as the statement has it. -/
theorem CopyStarts.passes {c : Instr} {s v : State} {errs : Errs} {n r : Nat} {d : Desc} {o : CopyOp} {dst : View}
    (h : CopyStarts (s.told errs) n r d o dst) (hl : s.live) (hrow : CopyRow c s n r d errs) (hr : r < 8)
    (hv : ((s.told errs).viewReads n d (copyPtrs (descOpcode d.bits)).all).2 = v)
    (honly : (v.setDesc n r d.id (.copy (newCopy o dst))).copyWaitsOnly n r d.id)
    (hpieces : 0 < o.pieceCount dst !dst.nonAliasing) : CopyPasses c s v errs n r d (newCopy o dst) := by
  obtain ⟨hs, hfail, hrecs, hbad, hcopy, hstatus⟩ := h
  have hstack : StackOnly (s.told errs) v := hv ▸ State.viewReads_stackOnly ..
  refine ⟨hl, hrow, hs, hr, hstack, ?_, honly, rfl, ?_⟩
  · generalize hread : (s.told errs).viewReads n d (copyPtrs (descOpcode d.bits)).all = read at hfail hrecs hbad hcopy hv
    subst hv
    have hof : d.copyOf read.1.recs = (o, dst) := hcopy
    have hst : copyStatus (read.2.part n) (d.copyOf read.1.recs).1 (d.copyOf read.1.recs).2 = none := by
      rw [State.part_of_parts hstack.parts, hof]
      exact hstatus
    rw [State.startCopy_begins hread (.inr hfail) hbad hrecs.ge hst, hof]
  · rw [CopyJob.most]
    split
    · exact Nat.one_pos
    · exact hpieces

/-! ### Index lists (R129, R132) -/

theorem inRange_isNone {i : Int} {extent : Nat} : (inRange i extent).isNone = true ↔ ¬(0 ≤ i ∧ i < (extent : Int)) := by
  unfold inRange
  split <;> simp_all

theorem firstOutOfRange_eq_some {index : List Int} {extent j : Nat}
    (hj : j < index.length ∧ ¬(0 ≤ index.getD j (-1) ∧ index.getD j (-1) < (extent : Int)))
    (hfirst : ∀ i, i < j → ¬(i < index.length ∧ ¬(0 ≤ index.getD i (-1) ∧ index.getD i (-1) < (extent : Int)))) :
    firstOutOfRange index extent = some j := by
  refine List.find?_range_eq_some.2 ⟨inRange_isNone.2 hj.2, List.mem_range.2 hj.1, fun i hi => ?_⟩
  rw [Bool.not_eq_true', Bool.eq_false_iff, ne_eq, inRange_isNone]
  exact fun h => hfirst i hi ⟨hi.trans hj.1, h⟩

theorem firstOutOfRange_eq_none {index : List Int} {extent : Nat}
    (h : ∀ j, ¬(j < index.length ∧ ¬(0 ≤ index.getD j (-1) ∧ index.getD j (-1) < (extent : Int)))) :
    firstOutOfRange index extent = none :=
  List.find?_eq_none.2 fun j hj hnone => h j ⟨List.mem_range.1 hj, inRange_isNone.1 hnone⟩

namespace CopyPasses

section Indexed
variable {c : Instr} {s v : State} {errs : Errs} {n r : Nat} {d : Desc} {job : CopyJob}
  (h : CopyPasses c s v errs n r d job) (hfree : (v.setDesc n r d.id (.copy job)).freeChannels n ≠ [])
  {iv : View} {extent : Nat} {strict : Bool} (hindex : job.op.indexed job.dst = some (iv, extent, strict))
  {read : ReadOut × State} (hread : v.winRead n (iv.vecAddr [] 0) (4 * iv.inner) = read)
include h hfree hindex hread

theorem begun_indexed : (s.told errs).startCopy n r (descOpcode d.bits) d =
    job.indexRead n r (d.waiting (.copy job)) (((v.setDesc n r d.id (.copy job)).freeChannels n).take job.most)
      (iv.vecAddr [] 0) extent strict (read.1, read.2.withVfs (v.setDesc n r d.id (.copy job)).vfs) := by
  have hw : (v.setDesc n r d.id (.copy job)).winRead n (iv.vecAddr [] 0) (4 * iv.inner) =
      (read.1, read.2.withVfs (v.setDesc n r d.id (.copy job)).vfs) := hread ▸ v.winRead_withVfs _ n _ _
  rw [h.begun hfree, State.beginCopy_indexed hindex, hw]

theorem index_blocked (hb : read.2.blocked = true) : Runs c s s := by
  refine h.row.waits h.live h.starts ?_
  rw [h.begun_indexed hfree hindex hread]
  exact CopyJob.indexRead_grows.2.2 hb

theorem index_unread (hb : read.2.blocked = false) {f : ReadFail} (hf : read.1.fail = some f) :
    ∃ t, Runs c s t ∧ CopyHalted s read.2 (s.after read.2) n r d job
      (((v.setDesc n r d.id (.copy job)).freeChannels n).headD 0) (readInfo n 5 0 (iv.vecAddr [] 0) f 0 r 1) f.spent t := by
  have hu := (h.begun_indexed hfree hindex hread).trans (CopyJob.indexRead_unread hf)
  rw [h.first_channel hfree] at hu
  exact h.halts (hread ▸ v.winRead_stackOnly n _ _) hb rfl rfl hu

theorem index_outOfRange (hb : read.2.blocked = false) (hf : read.1.fail = none) (hstrict : strict = true) {j : Nat}
    (hj : firstOutOfRange (indexList read.1.bytes) extent = some j) :
    ∃ t, Runs c s t ∧ OnlyRing n r (s.after read.2) t ∧
      Ended s t n r d { status := statusBadDescriptor, detail := 0x10, result := j } := by
  have hu := h.begun_indexed hfree hindex hread
  rw [CopyJob.indexRead_outOfRange (read := (read.1, read.2.withVfs (v.setDesc n r d.id (.copy job)).vfs)) hf hstrict hj] at hu
  exact h.ends (hread ▸ v.winRead_stackOnly n _ _) hb hu

theorem index_taken (hb : read.2.blocked = false) (hf : read.1.fail = none)
    (hin : strict = false ∨ firstOutOfRange (indexList read.1.bytes) extent = none) :
    ∃ t, Runs c s t ∧ OnlyRing n r (s.after read.2) t ∧ t.ring n r = (s.ring n r).waits d (.copy
      { job with index := indexList read.1.bytes,
                 channels := ((v.setDesc n r d.id (.copy job)).freeChannels n).take job.most }) := by
  have hu := (h.begun_indexed hfree hindex hread).trans (CopyJob.indexRead_inRange hf hin)
  exact h.becomes (hread ▸ v.winRead_stackOnly n _ _) hb hu

end Indexed

section Fill
variable {c : Instr} {s v : State} {errs : Errs} {n r : Nat} {d : Desc} {job : CopyJob}
  (h : CopyPasses c s v errs n r d job) (hfree : (v.setDesc n r d.id (.copy job)).freeChannels n ≠ [])
  {x sc : Nat} (hop : job.op = .fill x sc) {f : State × List Nat} (hf : v.fillView n job.dst x sc = f)
include h hfree hop hf

theorem begun_fill : (s.told errs).startCopy n r (descOpcode d.bits) d =
    job.filled n r (d.waiting (.copy job)) (((v.setDesc n r d.id (.copy job)).freeChannels n).headD 0) v.isMarked
      (f.1.withVfs (v.setDesc n r d.id (.copy job)).vfs, f.2) := by
  have hw : (v.setDesc n r d.id (.copy job)).fillView n job.dst x sc =
      (f.1.withVfs (v.setDesc n r d.id (.copy job)).vfs, f.2) := hf ▸ v.fillView_withVfs _ n _ _ _
  rw [h.begun hfree, State.beginCopy_fill hop, hw, h.first_channel hfree]
  rfl

theorem fill_blocked (hb : f.1.blocked = true) : Runs c s s := by
  refine h.row.waits h.live h.starts ?_
  rw [h.begun_fill hfree hop hf]
  exact CopyJob.filled_grows.2.2 hb

theorem fill_ends (hb : f.1.blocked = false) (hwhole : f.2 = []) :
    ∃ t, Runs c s t ∧ OnlyRing n r (s.after f.1) t ∧ Ended s t n r d {} := by
  have hu := (h.begun_fill hfree hop hf).trans (CopyJob.filled_whole hwhole)
  exact h.ends (hf ▸ v.fillView_stackOnly n _ _ _) hb hu

theorem fill_halts (hb : f.1.blocked = false) {a : Nat} {more : List Nat} (hdropped : f.2 = a :: more) :
    ∃ t, Runs c s t ∧ CopyHalted s f.1 (s.after f.1) n r d job (((v.setDesc n r d.id (.copy job)).freeChannels n).headD 0)
      { code := 0x0106, severity := 1, part := n, path := 5, addrKind := 1, addr := (s.part n).offsetOf a, ring := r,
        detail1 := a } (!v.isMarked a) t := by
  have hstack : StackOnly v f.1 := hf ▸ v.fillView_stackOnly n _ _ _
  have hpart : (f.1.withVfs (v.setDesc n r d.id (.copy job)).vfs).part n = s.part n :=
    (State.part_of_parts hstack.parts n).trans (State.part_of_parts h.stack.parts n)
  have hu := (h.begun_fill hfree hop hf).trans (CopyJob.filled_dropped hdropped)
  rw [State.copyMerge, hpart] at hu
  exact h.halts hstack hb rfl rfl hu

end Fill

end CopyPasses

end Sys2Proof.Machine
end
section
/-! The statement on how copy descriptors begin (R116 to R119, R124, R132 to R135, R138, R511). -/

namespace Sys2Proof.Machine

/-- Checks 2 to 5 of R117 in their order. -/
theorem copyStatus_order {p : Part} {o : CopyOp} {dst : View} {inside aligned zero meets : Bool}
    (hi : ((dst :: o.reads).all fun v => v.spans.all (spanIn p)) = inside) (ha : ((dst :: o.reads).all View.aligned) = aligned)
    (hz : (dst.zeroStride && !o.isReduce) = zero)
    (hm : (dst.spans.any fun a => (o.reads.flatMap View.spans).any (spansMeet a)) = meets) :
    (¬inside = true → copyStatus p o dst = some statusBadAddress) ∧
    (inside = true → ¬aligned = true → copyStatus p o dst = some statusAlignment) ∧
    (inside = true → aligned = true → zero = true → copyStatus p o dst = some statusZeroStrideWrite) ∧
    (inside = true → aligned = true → ¬zero = true → meets = true → copyStatus p o dst = some statusOverlap) ∧
    (inside = true → aligned = true → ¬zero = true → ¬meets = true → copyStatus p o dst = none) := by
  simp only [copyStatus, hi, ha, hz, hm, Bool.not_eq_true]
  refine ⟨?_, ?_, ?_, ?_, ?_⟩
  · rintro rfl; rfl
  · rintro rfl rfl; rfl
  · rintro rfl rfl rfl; rfl
  · rintro rfl rfl rfl rfl; rfl
  · rintro rfl rfl rfl rfl; rfl

theorem zeroStrideWrite_iff {o : CopyOp} {dst : View} : (dst.zeroStride && !o.isReduce) = true ↔
    (∃ x ∈ dst.outer, 1 < x.1 ∧ x.2 = 0) ∧ o.isReduce = false := by
  rw [Bool.and_eq_true, View.zeroStride_iff, Bool.not_eq_true']

/-- Settles O30: the checks of a copy descriptor in their order; one that passes them waits for channels, and begins with
those that are free. -/
theorem copiesBegin : Obligations.CopiesBegin := by
  refine ⟨?checks, ?refusals, ?begins⟩
  case checks =>
    intro p o dst views inside aligned zero meets
    have h := copyStatus_order (p := p) (o := o) (dst := dst) rfl rfl rfl rfl
    simp only [all_spans_iff, all_aligned_iff, zeroStrideWrite_iff, any_meets_iff] at h
    exact h
  case refusals =>
    intro s q d errs hl n r op ptrs own v base view o readable c hc ends
    have hrow : CopyRow c s n r d errs := by
      simp only [List.mem_cons, List.not_mem_nil, or_false, Prod.mk.injEq] at hc
      rcases hc with ⟨rfl, hop⟩ | ⟨rfl, hop⟩ | ⟨rfl, hop⟩ | ⟨rfl, hop⟩ | ⟨rfl, hop⟩ <;>
        (rw [CopyRow, show descOpcode d.bits = _ from hop]; rfl)
    have hstack : StackOnly (s.told errs) v.2 := State.viewReads_stackOnly ..
    have hpart : v.2.part n = s.part n := State.part_of_parts hstack.parts n
    refine ⟨fun hnone => (Row.of_actOn hrow).idle hl (State.copyRow_none (s := s.told errs) hnone), fun hs hb _ =>
      ⟨fun w f hown hf => ?_, fun off hgood hbad => ?_, fun hgood hsound hshort => ?_, fun st hgood hsound hrecs hst => ?_⟩⟩
    · exact hrow.fails hl hs hstack hb (State.startCopy_unread rfl hown hf)
    · exact hrow.ends hl hs hstack hb (State.startCopy_bad rfl hgood hbad)
    · exact hrow.ends hl hs hstack hb (State.startCopy_outside rfl hgood hsound hshort)
    · exact hrow.ends hl hs hstack hb (State.startCopy_refused rfl hgood hsound hrecs (hpart ▸ hst))
  case begins =>
    intro s q d o dst errs hl n r op v strict pieces job w free ch taken becomes halts indexed row begun hstarts hpieces honly
    have passes {c : Instr} (hrow : CopyRow c s n r d errs) : CopyPasses c s v errs n r d job :=
      CopyStarts.passes hstarts hl hrow q.ring.isLt rfl honly hpieces
    have hcopy : copyOp op d.bits _ = (o, dst) := hstarts.2.2.2.2.1
    have rows {c : Instr} {code : Nat} {begins : Prop}
        (hexec : exec c s = actOn errs (whenRunning fun s => s.copyRow n r code) s)
        (hbegins : CopyRow c s n r d errs → op = code → v.blocked = false → free ≠ [] → begins) : row c code begins := by
      intro hop
      have hrow : CopyRow c s n r d errs := by
        rw [CopyRow, show descOpcode d.bits = code from hop]
        exact hexec
      exact ⟨(passes hrow).blocked, fun hb hfree => (passes hrow).full hfree hb, hbegins hrow hop⟩
    have hmost (hreads : o.reads.isEmpty = false) : job.most = pieces := if_neg (by simpa using hreads)
    have goesOn {c : Instr} (hrow : CopyRow c s n r d errs) (hop : op = 0x10 ∨ op = 0x12) (hb : v.blocked = false)
        (hfree : free ≠ []) : begun c := by
      obtain ⟨hfill, hindex, hreads⟩ := copyOp_pieces hcopy hop
      have hu := (passes hrow).begun hfree
      rw [State.beginCopy_pieces hfill hindex, hmost hreads] at hu
      exact (passes hrow).becomes (StackOnly.refl v) hb hu
    have reads {c : Instr} (hrow : CopyRow c s n r d errs) (hfree : free ≠ []) {iv : View} {extent : Nat} {si : Bool}
        (hindex : o.indexed dst = some (iv, extent, si)) (hreads : o.reads.isEmpty = false) : indexed c iv extent si := by
      have p := passes hrow
      refine ⟨fun hb => p.index_blocked hfree hindex rfl hb, fun f hb hf => p.index_unread hfree hindex rfl hb hf,
        fun hb hf => ⟨fun hin => ?_, fun j hsi hj hfirst => ?_⟩⟩
      · have h := p.index_taken hfree hindex rfl hb hf (hin.imp_right firstOutOfRange_eq_none)
        rw [hmost hreads] at h
        exact h
      · exact p.index_outOfRange hfree hindex rfl hb hf hsi (firstOutOfRange_eq_some hj hfirst)
    refine ⟨rows rfl fun hrow hop => goesOn hrow (.inl hop), rows rfl fun hrow hop => goesOn hrow (.inr hop),
      rows rfl fun hrow _ _ hfree x sc ho => ?fill, rows rfl fun hrow _ _ hfree src iv dim si ho => ?gather,
      rows rfl fun hrow _ _ hfree src iv dim si acc ho => ?scatter⟩
    case fill =>
      intro f
      have p := passes hrow
      refine ⟨fun hb => p.fill_blocked hfree ho rfl hb, fun hb hwhole => ?_, fun a more hb hdropped =>
        p.fill_halts hfree ho rfl hb hdropped⟩
      obtain ⟨t, hruns, honly', hend⟩ := p.fill_ends hfree ho rfl hb hwhole
      exact ⟨t, hruns, hend, honly'⟩
    case gather =>
      subst ho
      exact reads hrow hfree rfl rfl
    case scatter =>
      subst ho
      exact reads hrow hfree rfl rfl

end Sys2Proof.Machine
end
section
/-! The statement on lane-wise vector rows (R157, R158, R241, R242): a row that replaces lanes of VD, then the statement. -/

namespace Sys2Proof.Machine

/-! ### Operands and results of a lane -/

/-- A lane of the second operand: with SB the low word of s[VB] (R241). -/
def laneB (x : Vat) (a : VecArgs) (l : Nat) : Word :=
  if a.sb then field (x.sreg a.vb) 0 32 else lane (x.vreg a.vb.val) l

theorem lane_vecB (x : Vat) (a : VecArgs) {l : Nat} (hl : l < 256) : lane (vecB x a) l = laneB x a l := by
  rw [vecB, laneB]
  split
  next => exact lane_ofLanes _ hl
  next => rfl

theorem boolLane_slt (m n : Word) : boolLane (m.slt n) = if m.toInt < n.toInt then 1 else 0 := by
  simp only [boolLane, BitVec.slt, decide_eq_true_iff]

/-! ### Rows -/

/-- A row gives each lane of the groups in GMASK its result in VD, and leaves everything else (R242). -/
def GivesLanes (s : State) (v : Fin 128) (a : VecArgs) (c : Instr) (f : Nat → Word) : Prop :=
  ∃ t, Runs c s t ∧ ToLanes v a.vd (fun l => if vecOn a l then f l else lane ((s.vat v).vreg a.vd.val) l) s t

section Rows
variable {s : State} {v : Fin 128} {a : VecArgs} (hl : s.live) (hr : a.rnd ≠ 3) (hg : a.gmask ≠ 0) (c : Instr)
include hl hr hg

theorem setLanes_gives (op : Nat → Vat → Vat) {f g : Nat → Word}
    (hc : exec c s = act (unitRow v 6 (fun _ => checkVec a) op) s)
    (hop : op s.freshCount (s.vat v) = (s.vat v).setVreg a.vd.val (setLanes ((s.vat v).vreg a.vd.val) (vecOn a) g))
    (hfg : ∀ l, l < 256 → vecOn a l = true → g l = f l) : GivesLanes s v a c f := by
  obtain ⟨t, hruns, honly, hvat⟩ := unitRow_passes hl hc (checkVec_passes hr hg)
  rw [hop] at hvat
  refine ⟨t, hruns, honly, by rw [hvat]; rfl, fun r hne => by rw [hvat, Vat.vreg_setVreg_ne _ hne], fun l hlane => ?_⟩
  rw [hvat, Vat.vreg_setVreg_same, lane_setLanes _ _ _ hlane]
  exact ite_congr rfl (hfg l hlane) fun _ => rfl

theorem vecMap1_gives (f : Word → Word)
    (hc : exec c s = act (unitRow v 6 (fun _ => checkVec a) fun _ x => vecMap1 a f x x) s) :
    GivesLanes s v a c fun l => f (lane ((s.vat v).vreg a.va.val) l) :=
  setLanes_gives hl hr hg c _ hc rfl fun _ _ _ => rfl

theorem vecMap2_gives (f : Word → Word → Word)
    (hc : exec c s = act (unitRow v 6 (fun _ => checkVec a) fun _ x => vecMap2 a f x x) s) :
    GivesLanes s v a c fun l => f (lane ((s.vat v).vreg a.va.val) l) (laneB (s.vat v) a l) :=
  setLanes_gives hl hr hg c _ hc rfl fun _ hlane _ => congrArg (f _) (lane_vecB _ _ hlane)

theorem vecFma_gives (hc : exec c s = act (unitRow v 6 (fun _ => checkVec a) fun _ x => vecFma a x x) s) :
    GivesLanes s v a c fun l => fFma (lane ((s.vat v).vreg a.va.val) l) (laneB (s.vat v) a l)
      (lane ((s.vat v).vreg a.vc.val) l) :=
  setLanes_gives hl hr hg c _ hc rfl fun _ hlane _ => congrArg (fFma _ · _) (lane_vecB _ _ hlane)

/-- A shift whose operands the spec admits in every lane of GMASK takes no free value (log 18). -/
theorem vecShift_gives (ok : Word → Word → Bool) (f : Word → Nat → Word)
    (hc : exec c s = act (unitRow v 6 (fun _ => checkVec a) fun draw x => vecShift draw a ok f x x) s)
    (hok : ∀ l, l < 256 → vecOn a l = true → ok (lane ((s.vat v).vreg a.va.val) l) (laneB (s.vat v) a l) = true) :
    GivesLanes s v a c fun l => f (lane ((s.vat v).vreg a.va.val) l) (laneB (s.vat v) a l).toNat := by
  refine setLanes_gives hl hr hg c _ hc rfl fun l hlane hon => ?_
  rw [lane_vecB _ _ hlane]
  exact if_pos (hok l hlane hon)

end Rows

/-- Settles O17: a row replaces lanes of VD by its operation on the lanes of its operands, and a shift has a result where
its count is below 32 and, for ISHR, its operand is not negative. -/
theorem vectorLanes : Obligations.VectorLanes := by
  intro s v a hl hr hg x p q r gives
  have unary (c : Instr) := vecMap1_gives (v := v) hl hr hg c
  have binary (c : Instr) := vecMap2_gives (v := v) hl hr hg c
  have shift (c : Instr) := vecShift_gives (v := v) hl hr hg c
  have islt : gives (.islt v a) fun l => if (p l).toInt < (q l).toInt then 1 else 0 := by
    have h := binary (.islt v a) (fun m n => boolLane (m.slt n)) rfl
    simp only [boolLane_slt] at h
    exact h
  refine ⟨binary _ fAdd rfl, binary _ fSub rfl, binary _ fMul rfl, binary _ fMax rfl, binary _ fMin rfl,
    vecFma_gives hl hr hg _ rfl, binary _ (fun m n => boolLane (fLt m n)) rfl, binary _ (fun m n => boolLane (fEq m n)) rfl,
    binary _ (· + ·) rfl, binary _ (· - ·) rfl, binary _ (· &&& ·) rfl, binary _ (· ||| ·) rfl, binary _ (· ^^^ ·) rfl,
    islt, unary _ znExp2 rfl, unary _ znRecip rfl, unary _ znLog rfl, unary _ znRsqrt rfl,
    fun hcount => ⟨?ishl, fun hsign => ?ishr⟩⟩
  case ishl =>
    exact shift _ (fun _ n => decide (n.toNat < 32)) (fun m n => m <<< n) rfl
      fun l hlane hon => decide_eq_true (hcount l hlane hon)
  case ishr =>
    refine shift _ (fun m n => decide (n.toNat < 32) && !m.msb) (fun m n => m >>> n) rfl fun l hlane hon => ?_
    have hmsb : (p l).msb = false := by
      rw [BitVec.msb_eq_toInt, decide_eq_false_iff_not, not_lt]
      exact hsign l hlane hon
    exact Bool.and_eq_true_iff.2 ⟨decide_eq_true (hcount l hlane hon), congrArg not hmsb⟩

end Sys2Proof.Machine
end
section
/-! What the operations of a vat do to its registers, its scratchpad and its arrays (R199 to R201, R224, R235, R321): one rule
for each, which the statements of chapter 06 cite. -/

namespace Sys2Proof.Machine

/-! ### The vat alone -/

/-- A change of one vat changes it alone. -/
theorem State.modVat_onlyVat (s : State) (v : Nat) (f : Vat → Vat) : OnlyVat v s (s.modVat v f) :=
  ⟨rfl, fun w hw => by rw [State.vat_modVat, if_neg hw]⟩

/-- A PORT row whose check passes, and that meets no parity mismatch and no fault, performs its access on the vat, and nothing
else. -/
theorem portRow_passes {s : State} {c : Instr} {v : Fin 128} {check : Vat → Option TrapCause} {f : Vat → PortOut}
    (hl : s.live) (hc : exec c s = act (portRow v false check f) s) (hcheck : check (s.vat v) = none)
    (hfault : (f (s.vat v)).fault = none) :
    ∃ t, Runs c s t ∧ OnlyVat v s t ∧ t.vat v = (f (s.vat v)).vat := by
  have hrow : portRow v false check f s = s.modVat v fun _ => (f (s.vat v)).vat := by
    rw [portRow, whenRunning_on hl.1]
    simp only [hcheck, hfault]
    rfl
  have hleaves : s.Leaves (s.modVat v fun _ => (f (s.vat v)).vat) := ⟨rfl, rfl, rfl, rfl⟩
  refine ⟨s.modVat v fun _ => (f (s.vat v)).vat, ?_, s.modVat_onlyVat v _, State.vat_modVat_same ..⟩
  rw [Runs, hc, act_next, hrow, hleaves.after hl.2.1 hl.2.2]

/-! ### Scalar registers (R224, R235) -/

theorem Vat.sreg_setSreg (x : Vat) (r q : Fin 32) (w : DWord) :
    (x.setSreg r w).sreg q = if q = r ∧ q ≠ 0 then w else x.sreg q := by
  have hzero (p : Fin 32) : p.val = 0 ↔ p = 0 := (Fin.ext_iff (b := 0)).symm
  unfold Vat.setSreg
  by_cases hr : r.val = 0
  · have hq : ¬(q = r ∧ q ≠ 0) := fun h => h.2 (h.1.trans ((hzero r).1 hr))
    rw [if_pos hr, if_neg hq]
  · rw [if_neg hr]
    by_cases hqr : q = r
    · subst hqr
      have hne : q ≠ 0 := fun h => hr ((hzero q).2 h)
      simp [Vat.sreg, hr, hne]
    · have hval : q.val ≠ r.val := fun h => hqr (Fin.ext h)
      simp [Vat.sreg, hqr, tabGet_set_ne hval]

/-- The post-increment of a PORT access, whatever else the access changed of the vat (R235). -/
theorem Vat.sreg_increment {x y : Vat} (h : ∀ r, y.sreg r = x.sreg r) (a : PortArgs) (r : Fin 32) :
    (y.increment x a).sreg r = x.afterIncrement a r := by
  have hinc : portIncrements x a = true ↔ x.sreg a.inc ≠ 0 := decide_eq_true_iff
  unfold Vat.increment Vat.afterIncrement
  by_cases hi : x.sreg a.inc = 0
  · rw [if_neg (by simp [hinc, hi]), h, if_neg (by simp [hi])]
  · rw [if_pos (hinc.2 hi), Vat.sreg_setSreg, h]
    exact if_congr (and_congr_right fun _ => (and_iff_left hi).symm) rfl rfl

/-- Of a vat the post-increment changes the scalar registers alone. -/
theorem Vat.increment_only (x x0 : Vat) (a : PortArgs) : ∃ t, x.increment x0 a = { x with sregs := t } := by
  unfold Vat.increment Vat.setSreg
  split
  · split
    · exact ⟨x.sregs, rfl⟩
    · exact ⟨_, rfl⟩
  · exact ⟨x.sregs, rfl⟩

/-! ### Lines and words (R200, R201, R321) -/

theorem getLsbD_lineWord (l : Line) (w : Nat) {j : Nat} (hj : j < 32) : (lineWord l w).getLsbD j = l.getLsbD (32 * w + j) := by
  simp [lineWord, hj]

/-- The words of the first `n` places that `p` holds, all their bits set. -/
theorem testBit_maskSum (p : Nat → Bool) (n i : Nat) :
    (((List.range n).filter p).foldl (fun a k => a + (2 ^ 32 - 1) * 2 ^ (32 * k)) 0).testBit i =
      (decide (i < 32 * n) && p (i / 32)) := by
  suffices h : ∀ n, ((List.range n).filter p).foldl (fun a k => a + (2 ^ 32 - 1) * 2 ^ (32 * k)) 0 < 2 ^ (32 * n) ∧
      ∀ i, (((List.range n).filter p).foldl (fun a k => a + (2 ^ 32 - 1) * 2 ^ (32 * k)) 0).testBit i =
        (decide (i < 32 * n) && p (i / 32)) from (h n).2 i
  intro n
  induction n with
  | zero => simp
  | succ n ih =>
    obtain ⟨hlt, hbit⟩ := ih
    rw [List.range_succ, List.filter_append, List.foldl_append]
    generalize ((List.range n).filter p).foldl (fun a k => a + (2 ^ 32 - 1) * 2 ^ (32 * k)) 0 = m at hlt hbit
    have hpow : 2 ^ (32 * (n + 1)) = 2 ^ (32 * n) * 2 ^ 32 := by rw [Nat.mul_succ, Nat.pow_add]
    by_cases hp : p n = true
    · have hsum : m + (2 ^ 32 - 1) * 2 ^ (32 * n) = 2 ^ (32 * n) * (2 ^ 32 - 1) + m := by ring
      simp only [List.filter_cons, hp, if_true, List.filter_nil, List.foldl_cons, List.foldl_nil, hsum]
      refine ⟨by rw [hpow]; omega, fun i => ?_⟩
      rw [Nat.testBit_two_pow_mul_add _ hlt, Nat.testBit_two_pow_sub_one, hbit]
      by_cases hi : i < 32 * n
      · simp [hi, show i < 32 * (n + 1) by omega]
      · by_cases hi' : i < 32 * (n + 1)
        · simp [hi, hi', show i / 32 = n by omega, hp, show i - 32 * n < 32 by omega]
        · simp [hi, hi', show ¬ i - 32 * n < 32 by omega]
    · simp only [List.filter_cons, hp, Bool.false_eq_true, if_false, List.filter_nil, List.foldl_nil]
      refine ⟨by rw [hpow]; omega, fun i => ?_⟩
      rw [hbit]
      by_cases hi : i < 32 * n
      · simp [hi, show i < 32 * (n + 1) by omega]
      · by_cases hi' : i < 32 * (n + 1)
        · simp [hi, show i / 32 = n by omega, hp]
        · simp [hi, hi']

theorem getLsbD_maskBits (m : BitVec 512) {i : Nat} (hi : i < 16384) : (maskBits m).getLsbD i = m.getLsbD (i / 32) := by
  unfold maskBits
  split
  next h => rw [h, BitVec.getLsbD_allOnes, BitVec.getLsbD_allOnes, decide_eq_true hi, decide_eq_true (by omega)]
  next => rw [BitVec.getLsbD_ofNat, bitsSet, testBit_maskSum]; simp [hi]

theorem getLsbD_mergeBits {k : Nat} (hk : k < 3) (old new m : Line) {i : Nat} (hi : i < 16384) :
    (mergeBits k old new m).getLsbD i =
      if m.getLsbD i then
        if k = 0 then new.getLsbD i else if k = 1 then old.getLsbD i || new.getLsbD i else old.getLsbD i && !new.getLsbD i
      else old.getLsbD i := by
  obtain rfl | rfl | rfl : k = 0 ∨ k = 1 ∨ k = 2 := by omega
  all_goals
    simp only [mergeBits, BitVec.getLsbD_or, BitVec.getLsbD_and, BitVec.getLsbD_not, hi, decide_true, Bool.true_and]
    cases m.getLsbD i <;> simp

/-- A word of a line after a write at any of its addresses, under a word mask (R200, R201). -/
theorem lineWord_mergeLine {k : Nat} (hk : k < 3) (old new : Line) (mask : BitVec 512) {w : Nat} (hw : w < 512) :
    lineWord (mergeLine k old new mask) w =
      if mask.getLsbD w then
        if k = 0 then lineWord new w else if k = 1 then lineWord old w ||| lineWord new w
        else lineWord old w &&& ~~~ lineWord new w
      else lineWord old w := by
  refine BitVec.eq_of_getLsbD_eq fun j hj => ?_
  have hdiv : (32 * w + j) / 32 = w := by omega
  rw [getLsbD_lineWord _ _ hj, mergeLine, getLsbD_mergeBits hk _ _ _ (by omega), getLsbD_maskBits _ (by omega), hdiv]
  split_ifs
  all_goals simp only [BitVec.getLsbD_or, BitVec.getLsbD_and, BitVec.getLsbD_not, getLsbD_lineWord _ _ hj, hj, decide_true,
    Bool.true_and]

/-- A word that `wordsAt` names. -/
theorem wordsAt_mask {k n w : Nat} (hw : w < 512) (m : Nat) :
    (wordsAt k n m).2.getLsbD w = decide (k ≤ w ∧ w < k + n) := by
  simp only [wordsAt, BitVec.getLsbD_ofNat, hw, decide_true, Bool.true_and, Nat.testBit_mul_two_pow,
    Nat.testBit_two_pow_sub_one]
  by_cases hk : k ≤ w
  · simp [hk, show w - k < n ↔ w < k + n by omega]
  · simp [hk]

theorem wordsAt_word {k n w : Nat} (hk : k ≤ w) (hw : w < 512) (m : Nat) :
    lineWord (wordsAt k n m).1 w = BitVec.ofNat 32 (m >>> (32 * (w - k))) := by
  refine BitVec.eq_of_getLsbD_eq fun j hj => ?_
  rw [getLsbD_lineWord _ _ hj, BitVec.getLsbD_ofNat, wordsAt, BitVec.getLsbD_ofNat, Nat.testBit_mul_two_pow,
    Nat.testBit_shiftRight]
  have hsub : 32 * w + j - 32 * k = 32 * (w - k) + j := by omega
  simp [hj, show 32 * w + j < 16384 by omega, show 32 * k ≤ 32 * w + j by omega, hsub]

/-- The line that a write puts, and every other line as before. -/
theorem Vat.line_putLine (x : Vat) (a : Nat) (mask : BitVec 512) (d : Line) (k : Nat) :
    (x.putLine a mask d).line k = if k = spdLine a then mergeLine (spdAlias a) (x.line k) d mask else x.line k := by
  by_cases h : k = spdLine a
  · subst h
    simp [Vat.putLine, Vat.line]
  · simp [Vat.putLine, Vat.line, tabFind_put_ne h, h]

end Sys2Proof.Machine
end
section
/-! The statement on PORT stores (R199 to R201, R235, R236). -/

namespace Sys2Proof.Machine

/-- The word mask of STV by MSEL (R235). -/
theorem getLsbD_stvMask (x : Vat) (a : PortArgs) {w : Nat} (hw : w < 512) :
    (stvMask x a).getLsbD w = true ↔
      a.msel = 0 ∨ (a.msel = 1 ∧ w < 256) ∨ (a.msel = 2 ∧ 256 ≤ w) ∨ (a.msel = 3 ∧ (x.vreg a.vm.val).getLsbD w = true) := by
  unfold stvMask
  generalize a.msel = m
  obtain rfl | rfl | rfl | rfl : m = 0 ∨ m = 1 ∨ m = 2 ∨ m = 3 := by
    revert m
    decide
  · have hbit : (BitVec.allOnes 512).getLsbD w = true := by rw [BitVec.getLsbD_allOnes, decide_eq_true hw]
    exact iff_of_true hbit (.inl rfl)
  · have hbit : (BitVec.ofNat 512 (2 ^ 256 - 1)).getLsbD w = decide (w < 256) := by
      rw [BitVec.getLsbD_ofNat, Nat.testBit_two_pow_sub_one, decide_eq_true hw, Bool.true_and]
    exact (Bool.eq_iff_iff.1 hbit).trans (by simp)
  · have hbit : (BitVec.ofNat 512 ((2 ^ 256 - 1) * 2 ^ 256)).getLsbD w = decide (256 ≤ w) := by
      rw [BitVec.getLsbD_ofNat, Nat.testBit_mul_two_pow, Nat.testBit_two_pow_sub_one, decide_eq_true hw, Bool.true_and,
        decide_eq_true (show w - 256 < 256 by omega), Bool.and_true]
    exact (Bool.eq_iff_iff.1 hbit).trans (by simp)
  · have hbit : (field (x.vreg a.vm.val) 0 512).getLsbD w = (x.vreg a.vm.val).getLsbD w := by
      rw [BitVec.getLsbD_extractLsb', decide_eq_true hw, Bool.true_and, Nat.zero_add]
    exact (Bool.eq_iff_iff.1 hbit).trans (by simp)

/-- The words of two vector registers that STV stores. -/
theorem lineWord_append (hi lo : BitVec 8192) {w : Nat} (hw : w < 512) :
    lineWord (hi ++ lo) w = if w < 256 then lane lo w else lane hi (w - 256) := by
  refine BitVec.eq_of_getLsbD_eq fun j hj => ?_
  rw [lineWord, BitVec.getLsbD_extractLsb', BitVec.getLsbD_append, decide_eq_true hj, Bool.true_and]
  split
  next h => rw [if_pos (by omega), lane, BitVec.getLsbD_extractLsb', decide_eq_true hj, Bool.true_and]
  next h =>
    have hsub : 32 * w + j - 8192 = 32 * (w - 256) + j := by omega
    rw [if_neg (by omega), lane, BitVec.getLsbD_extractLsb', decide_eq_true hj, Bool.true_and, hsub]

/-- STS writes two words of the line. -/
theorem portSts_puts (a : PortArgs) (x y : Vat) :
    portSts a x y =
      { vat := (y.putLine (portAddr x a 0) (wordsAt (portAddr x a 0 % 2048 / 4) 2 (x.sreg a.reg).toNat).2
          (wordsAt (portAddr x a 0 % 2048 / 4) 2 (x.sreg a.reg).toNat).1).increment x a } := rfl

/-- The check of a PORT slot that is no LDW, at a good address. -/
theorem checkPort_passes {x : Vat} {a : PortArgs} {scalar : Bool} (hcount : a.count = 0)
    (hok : (if scalar then scalarAddrOk (portAddr x a 0) else lineAddrOk (portAddr x a 0)) = true) :
    checkPort x a scalar false = none := by
  simp [checkPort, need, hcount, hok]

/-- Settles O11: both stores write one line under a word mask and then increment the base. -/
theorem portStores : Obligations.PortStores := by
  intro s v a hl hcount x addr merged stores haddr
  have halias : addr / 2 ^ 22 < 3 := by omega
  have store (c : Instr) {check : Vat → Option TrapCause} {mask : BitVec 512} {d : Line} {on : Nat → Prop} {word : Nat → Word}
      {f : Vat → PortOut} (hc : exec c s = act (portRow v false check f) s) (hcheck : check x = none)
      (hf : f x = { vat := (x.putLine addr mask d).increment x a }) (hon : ∀ w, w < 512 → (mask.getLsbD w = true ↔ on w))
      (hword : ∀ w, w < 512 → on w → lineWord d w = word w) : stores c on word := by
    obtain ⟨t, hruns, honly, hvat⟩ := portRow_passes hl hc hcheck (congrArg PortOut.fault hf)
    replace hvat : t.vat v = (x.putLine addr mask d).increment x a := hvat.trans (congrArg PortOut.vat hf)
    obtain ⟨regs, hregs⟩ := Vat.increment_only (x.putLine addr mask d) x a
    have hput : t.vat v = { x.putLine addr mask d with sregs := regs } := hvat.trans hregs
    have hline (k : Nat) : (t.vat v).line k =
        if k = addr % 2 ^ 22 / 2048 then mergeLine (addr / 2 ^ 22) (x.line k) d mask else x.line k := by
      rw [hput]
      exact x.line_putLine addr mask d k
    refine ⟨t, hruns, honly, by rw [hput]; rfl, fun r => ?_, fun k hk => by rw [hline, if_neg hk], fun w hw => ?_⟩
    · rw [hvat]
      exact Vat.sreg_increment (x := x) (y := x.putLine addr mask d) (fun _ => rfl) a r
    · rw [hline, if_pos rfl, lineWord_mergeLine halias _ _ _ hw]
      exact ⟨fun h => by rw [if_pos ((hon w hw).2 h), hword w hw h], fun h => if_neg fun hm => h ((hon w hw).1 hm)⟩
  refine ⟨fun hline hreg => ?stv, fun hdword => ?sts⟩
  case stv =>
    have hpair : checkPair a false = none := by simp [checkPair, need, hreg]
    have hport : checkPort x a false false = none :=
      checkPort_passes hcount (Bool.and_eq_true_iff.2 ⟨decide_eq_true halias, decide_eq_true hline⟩)
    exact store (.stv v a) rfl (by simp [hpair, hport]) rfl (fun w hw => getLsbD_stvMask x a hw)
      fun w hw _ => lineWord_append _ _ hw
  case sts =>
    have hport : checkPort x a true false = none :=
      checkPort_passes hcount (Bool.and_eq_true_iff.2 ⟨decide_eq_true halias, decide_eq_true hdword⟩)
    have hputs := portSts_puts a x x
    rw [show portAddr x a 0 = addr from rfl] at hputs
    refine store (.sts v a) rfl hport hputs (fun w hw => ?_) fun w hw hon => wordsAt_word (by omega) hw _
    rw [wordsAt_mask hw, decide_eq_true_iff]
    omega

end Sys2Proof.Machine
end
section
/-! What the operations of a vat do to its arrays and their accumulators (R192, R195, R196, R238, R240; log 17). -/

namespace Sys2Proof.Machine

/-! ### One change for each of several places -/

/-- Changes of distinct places: each place has its own change, and the others are as before. -/
theorem foldl_places {σ β : Type} {get : σ → Nat → β} {upd : σ → Nat → σ} {g : Nat → β → β}
    (h : ∀ s k q, get (upd s k) q = if q = k then g k (get s k) else get s q) {l : List Nat} (hd : l.Nodup) (s : σ) (q : Nat) :
    get (l.foldl upd s) q = if q ∈ l then g q (get s q) else get s q := by
  induction l generalizing s with
  | nil => rfl
  | cons k l ih =>
    obtain ⟨hk, hd⟩ := List.nodup_cons.1 hd
    rw [List.foldl_cons, ih hd, h]
    by_cases hq : q = k
    · subst hq
      simp [hk]
    · simp [hq]

theorem nodup_bitsSet {n : Nat} (m : BitVec n) : (bitsSet m).Nodup := List.nodup_range.filter _

theorem mem_bitsSet_lt {n k : Nat} {m : BitVec n} : k ∈ bitsSet m ↔ k < n ∧ m.getLsbD k = true := by
  rw [bitsSet, List.mem_filter, List.mem_range]

/-! ### Arrays of a mask -/

theorem Vat.array_modArray (x : Vat) (k q : Nat) (f : ArrayUnit → ArrayUnit) :
    (x.modArray k f).array q = if q = k then f (x.array k) else x.array q := tabGet_mod ..

theorem Vat.array_modArrays (x : Vat) (m : BitVec 8) (f : Nat → ArrayUnit → ArrayUnit) (k : Nat) :
    (x.modArrays m f).array k = if k < 8 ∧ m.getLsbD k = true then f k (x.array k) else x.array k := by
  have h := foldl_places (get := Vat.array) (upd := fun x k => x.modArray k (f k)) (g := f)
    (fun x k q => x.array_modArray k q (f k)) (nodup_bitsSet m) x k
  simp only [mem_bitsSet_lt] at h
  exact h

/-- Of a vat a change of arrays changes these alone. -/
theorem Vat.modArrays_only (x : Vat) (m : BitVec 8) (f : Nat → ArrayUnit → ArrayUnit) :
    x.modArrays m f = { x with arrays := (x.modArrays m f).arrays } := by
  unfold Vat.modArrays
  induction bitsSet m generalizing x with
  | nil => rfl
  | cons k l ih => exact ih (x.modArray k (f k))

/-! ### Entries of an accumulator (R192) -/

/-- The entries that `idx` names for the numbers of a list change, in their order. -/
def ArrayUnit.setEntries (u : ArrayUnit) (ns : List Nat) (idx : Nat → Nat) (g : Nat → AccEntry → AccEntry) : ArrayUnit :=
  ns.foldl (fun v n => v.setEntry (idx n) (g n (v.entry (idx n)))) u

theorem ArrayUnit.entry_setEntry (u : ArrayUnit) (i j : Nat) (e : AccEntry) :
    (u.setEntry i e).entry j = if j = i then e else u.entry j := by
  by_cases h : j = i
  · subst h
    simp [ArrayUnit.entry, ArrayUnit.setEntry]
  · simp [ArrayUnit.entry, ArrayUnit.setEntry, tabFind_put_ne h, h]

section Entries
variable (u : ArrayUnit) (ns : List Nat) {idx : Nat → Nat} (g : Nat → AccEntry → AccEntry)

theorem ArrayUnit.setEntries_only : u.setEntries ns idx g = { u with acc := (u.setEntries ns idx g).acc } := by
  induction ns generalizing u with
  | nil => rfl
  | cons n ns ih => exact ih (u.setEntry (idx n) (g n (u.entry (idx n))))

/-- Entries that are not named stay. -/
theorem ArrayUnit.setEntries_other {i : Nat} (h : ∀ n ∈ ns, i ≠ idx n) :
    tabFind (u.setEntries ns idx g).acc i = tabFind u.acc i := by
  induction ns generalizing u with
  | nil => rfl
  | cons n ns ih =>
    refine (ih (u.setEntry (idx n) (g n (u.entry (idx n)))) fun k hk => h k (List.mem_cons_of_mem _ hk)).trans ?_
    exact tabFind_put_ne (h n List.mem_cons_self) _ _

/-- Each of several distinct entries has its own change. -/
theorem ArrayUnit.setEntries_entry (hd : (ns.map idx).Nodup) {n : Nat} (hn : n ∈ ns) :
    (u.setEntries ns idx g).entry (idx n) = g n (u.entry (idx n)) := by
  induction ns generalizing u with
  | nil => exact absurd hn List.not_mem_nil
  | cons m ns ih =>
    obtain ⟨hm, hd⟩ := List.nodup_cons.1 hd
    have hother (k : Nat) (hk : k ∈ ns) : idx k ≠ idx m := fun h => hm (h ▸ List.mem_map_of_mem hk)
    have hfirst (j : Nat) := u.entry_setEntry (idx m) j (g m (u.entry (idx m)))
    rcases List.mem_cons.1 hn with rfl | hn
    · have hacc := (u.setEntry (idx n) (g n (u.entry (idx n)))).setEntries_other ns g fun k hk => (hother k hk).symm
      have honly := (u.setEntry (idx n) (g n (u.entry (idx n)))).setEntries_only ns (idx := idx) g
      have hlast : ((u.setEntry (idx n) (g n (u.entry (idx n)))).setEntries ns idx g).entry (idx n) =
          (u.setEntry (idx n) (g n (u.entry (idx n)))).entry (idx n) := by
        rw [ArrayUnit.entry, hacc, honly]
        rfl
      exact hlast.trans ((hfirst _).trans (if_pos rfl))
    · exact (ih (u.setEntry (idx m) (g m (u.entry (idx m)))) hd hn).trans
        (congrArg (g n) ((hfirst _).trans (if_neg (hother n hn))))

end Entries

/-! ### One issue (R189, R191, R192, R195, R196, R238) -/

/-- What an entry becomes in one issue: `groups` are its products, lower group first. -/
def issued (c : CfgArgs) (draw i : Nat) (anchor : Int) (last : Bool) (groups : List (List Val)) (e : AccEntry) : AccEntry :=
  if cfgAccExact c then entryExact e (Config.freeAt draw (32768 + i) 80) anchor groups.flatten
  else if c.quad then groups.foldl (fun e g => entryQuad e last (groupSum g)) e
  else groups.foldl (fun e g => entryFast e (fRn (groupSum g))) e

theorem foldl_entryIssue (u : ArrayUnit) (ns : List Nat) (draw : Nat) (idx : Nat → Nat) (anchor : Nat → Int) (last : Bool)
    (groups : Nat → List (List Val)) :
    ns.foldl (fun v n => entryIssue v draw (idx n) (anchor n) last (groups n)) u =
      u.setEntries ns idx fun n => issued u.cfg draw (idx n) (anchor n) last (groups n) := by
  induction ns generalizing u with
  | nil => rfl
  | cons n ns ih => exact ih _

/-- The products of entry (row, n) in array mode, one group or two (R189, R191). -/
def arrayGroups (u : ArrayUnit) (draw k index : Nat) (sel : Bool) (n : Nat) : List (List Val) :=
  (if cfgFourPair u.cfg then [false, true] else [false]).map fun up => (List.range 32).map fun j =>
    (activation u draw k sel index (if up then 32 + j else j)).mul (laneWeight u draw k up j n)

/-- The products of entry j of the row in quadrant mode: entry n of quadrant q for j = 16q + n (R195). -/
def quadGroup (u : ArrayUnit) (draw k index : Nat) (sel : Bool) (j : Nat) : List Val :=
  (List.range 16).map fun i =>
    (activation u draw k sel index (16 * (j / 16) + i)).mul
      (laneWeight u draw k false (j / 16 / 2 * 16 + i) (j / 16 % 2 * 16 + j % 16))

theorem issueArray_eq (u : ArrayUnit) (draw k row index : Nat) (sel last : Bool) :
    issueArray u draw k row index sel last = u.setEntries (List.range 32) (fun n => 32 * row + n) fun n =>
      issued u.cfg draw (32 * row + n) (u.rowCeiling row + u.colCeiling n) last (arrayGroups u draw k index sel n) :=
  foldl_entryIssue u _ draw (fun n => 32 * row + n) _ last _

theorem issueQuad_eq (u : ArrayUnit) (draw k row index : Nat) (sel last : Bool) :
    issueQuad u draw k row index sel last =
      u.setEntries (List.range 64) (fun j => 512 * (j / 16) + 16 * row + j % 16) fun j =>
        issued u.cfg draw (512 * (j / 16) + 16 * row + j % 16) (u.rowCeiling row + u.colCeiling (16 * (j / 16) + j % 16)) last
          [quadGroup u draw k index sel j] :=
  foldl_entryIssue u _ draw (fun j => 512 * (j / 16) + 16 * row + j % 16) _ last _

theorem nodup_arrayRow (row : Nat) : ((List.range 32).map fun n => 32 * row + n).Nodup :=
  List.nodup_range.map_on fun _ _ _ _ h => Nat.add_left_cancel h

theorem nodup_quadRow (row : Nat) : ((List.range 64).map fun j => 512 * (j / 16) + 16 * row + j % 16).Nodup :=
  List.nodup_range.map_on fun _ _ _ _ h => by omega

/-- The entry of column `n` after an issue in array mode. -/
theorem issueArray_entry (u : ArrayUnit) (draw k row index : Nat) (sel last : Bool) {n : Nat} (hn : n < 32) :
    (issueArray u draw k row index sel last).entry (32 * row + n) =
      issued u.cfg draw (32 * row + n) (u.rowCeiling row + u.colCeiling n) last (arrayGroups u draw k index sel n)
        (u.entry (32 * row + n)) := by
  rw [issueArray_eq]
  exact u.setEntries_entry _ _ (nodup_arrayRow row) (List.mem_range.2 hn)

/-- The entry of column `n` of quadrant `q` after an issue in quadrant mode. -/
theorem issueQuad_entry (u : ArrayUnit) (draw k row index : Nat) (sel last : Bool) {q n : Nat} (hq : q < 4) (hn : n < 16) :
    (issueQuad u draw k row index sel last).entry (512 * q + 16 * row + n) =
      issued u.cfg draw (512 * q + 16 * row + n) (u.rowCeiling row + u.colCeiling (16 * q + n)) last
        [quadGroup u draw k index sel (16 * q + n)] (u.entry (512 * q + 16 * row + n)) := by
  have hdiv : (16 * q + n) / 16 = q := by omega
  have hmod : (16 * q + n) % 16 = n := by omega
  rw [issueQuad_eq]
  have hentry := u.setEntries_entry (List.range 64) (idx := fun j => 512 * (j / 16) + 16 * row + j % 16)
    (fun j => issued u.cfg draw (512 * (j / 16) + 16 * row + j % 16) (u.rowCeiling row + u.colCeiling (16 * (j / 16) + j % 16))
      last [quadGroup u draw k index sel j]) (nodup_quadRow row) (List.mem_range.2 (show 16 * q + n < 64 by omega))
  simp only [hdiv, hmod] at hentry
  exact hentry

/-- Settles O15: an issue changes the entries of one row of each named array, each by its own products. -/
theorem arrayIssue : Obligations.ArrayIssue := by
  intro s v a hl x row index named hok
  have hcheck : checkArr x a = none := by
    have hall : ((bitsSet a.amask).all fun k => cfgPairOk (x.array k).cfg && (!(x.array k).cfg.quad || decide (row < 32)) &&
        decide ((index + 1) * cfgIssueBytes (x.array k).cfg ≤ 2048)) = true := by
      rw [List.all_eq_true]
      intro k hk
      obtain ⟨hpair, hrow, hline⟩ := hok k (mem_bitsSet_lt.1 hk)
      cases hquad : (x.array k).cfg.quad <;> simp_all
    exact if_pos hall
  obtain ⟨t, hruns, honly, hvat⟩ := unitRow_passes hl (c := .arrIssue v a) rfl hcheck
  have harray (k : Nat) : (t.vat v).array k = if named k then
      if (x.array k).cfg.quad then issueQuad (x.array k) s.freshCount k row index a.sel a.last
      else issueArray (x.array k) s.freshCount k row index a.sel a.last
      else x.array k := by
    rw [hvat]
    exact x.array_modArrays ..
  have honlyArrays : t.vat v = { x with arrays := (t.vat v).arrays } := by
    rw [hvat]
    exact x.modArrays_only ..
  refine ⟨t, hruns, honly, honlyArrays, fun k hk => by rw [harray, if_neg hk], fun k hk => ?_⟩
  obtain ⟨-, hrow, -⟩ := hok k hk
  have hissued := harray k
  rw [if_pos hk] at hissued
  intro u u' act weight exact
  cases hquad : u.cfg.quad with
  | false =>
    have hu : u' = issueArray u s.freshCount k row index a.sel a.last := hissued.trans (if_neg (by simp [u, hquad]))
    refine ⟨by rw [hu, issueArray_eq]; exact u.setEntries_only .., fun _ => ⟨fun i hi => ?_, fun n hn => ?_⟩,
      fun h => absurd h (by simp)⟩
    · rw [hu, issueArray_eq]
      exact u.setEntries_other _ _ fun n hn => by have := List.mem_range.1 hn; omega
    · intro low high groups
      have hentry := issueArray_entry u s.freshCount k row index a.sel a.last hn
      have hgroups : arrayGroups u s.freshCount k index a.sel n = groups := by
        unfold arrayGroups
        simp only [groups]
        split <;> rfl
      rw [hgroups, ← hu] at hentry
      exact ⟨fun h => hentry.trans (if_pos h), fun h => hentry.trans ((if_neg (by simp [h])).trans (if_neg (by simp [hquad])))⟩
  | true =>
    have hu : u' = issueQuad u s.freshCount k row index a.sel a.last := hissued.trans (if_pos hquad)
    refine ⟨by rw [hu, issueQuad_eq]; exact u.setEntries_only .., fun h => absurd h (by simp), fun _ => ⟨fun i hi => ?_, fun q n hq hn => ?_⟩⟩
    · rw [hu, issueQuad_eq]
      exact u.setEntries_other _ _ fun j hj => hi _ _ (by have := List.mem_range.1 hj; omega) (Nat.mod_lt _ (by omega))
    · intro i ps
      have hdiv : (16 * q + n) / 16 = q := by omega
      have hmod : (16 * q + n) % 16 = n := by omega
      have hps : quadGroup u s.freshCount k index a.sel (16 * q + n) = ps := by
        simp only [quadGroup, hdiv, hmod]
        rfl
      have hentry := issueQuad_entry u s.freshCount k row index a.sel a.last hq hn
      rw [hps, ← hu] at hentry
      refine ⟨fun h => hentry.trans ((if_pos h).trans ?_), fun h => hentry.trans ((if_neg (by simp [h])).trans (if_pos hquad))⟩
      rw [List.flatten_cons, List.flatten_nil, List.append_nil]

end Sys2Proof.Machine
end
section
/-! What a job's start, its end and its fault leave, and how a fault of a vat's step ends (R24, R90, R246, R461, R505). -/

namespace Sys2Proof.Machine

/-! ### Who holds what (R215, R461, R465) -/

/-- Nothing but the job table, the vats and the islands differs, and no number that names no job comes to name one. -/
def JobsOnly (s t : State) : Prop :=
  (∃ j v p, t = { s with jobs := j, vats := v, pwr := p }) ∧ ∀ id, tabFind s.jobs id = none → tabFind t.jobs id = none

theorem JobsOnly.refl (s : State) : JobsOnly s s := ⟨⟨s.jobs, s.vats, s.pwr, rfl⟩, fun _ => id⟩

theorem JobsOnly.trans {s t u : State} (h : JobsOnly s t) (g : JobsOnly t u) : JobsOnly s u := by
  obtain ⟨⟨j, v, p, rfl⟩, hnone⟩ := h
  obtain ⟨⟨j', v', p', rfl⟩, gnone⟩ := g
  exact ⟨⟨j', v', p', rfl⟩, fun id => gnone id ∘ hnone id⟩

theorem forAll_jobsOnly {α : Type} {f : α → State → State} (h : ∀ a s, JobsOnly s (f a s)) (xs : List α) (s : State) :
    JobsOnly s (forAll xs f s) := by
  induction xs generalizing s with
  | nil => exact .refl s
  | cons x xs ih => exact (h x s).trans (ih _)

theorem State.modVat_jobsOnly (s : State) (v : Nat) (f : Vat → Vat) : JobsOnly s (s.modVat v f) :=
  ⟨⟨s.jobs, _, s.pwr, rfl⟩, fun _ => id⟩

theorem State.modVpoint_jobsOnly (s : State) (k : Nat) (f : VPoint → VPoint) : JobsOnly s (s.modVpoint k f) :=
  ⟨⟨s.jobs, s.vats, _, rfl⟩, fun _ => id⟩

/-- A job read back after a replacement under any number. -/
theorem State.find_modJob (s : State) (j k : Nat) (f : Job → Job) :
    tabFind (s.modJob j f).jobs k = if k = j then (tabFind s.jobs j).map f else tabFind s.jobs k := by
  unfold State.modJob
  by_cases hk : k = j
  · subst hk
    cases h : tabFind s.jobs k <;> simp [h]
  · cases h : tabFind s.jobs j <;> simp [hk, tabFind_put_ne hk]

theorem State.modJob_jobsOnly (s : State) (j : Nat) (f : Job → Job) : JobsOnly s (s.modJob j f) := by
  obtain ⟨js, hjs⟩ := s.modJob_only j f
  refine ⟨⟨js, s.vats, s.pwr, hjs⟩, fun id h => ?_⟩
  rw [State.find_modJob]
  split
  next hid => rw [← hid, h]; rfl
  next => exact h

theorem State.modJobVats_jobsOnly (s : State) (j : Job) (f : Vat → Vat) : JobsOnly s (s.modJobVats j f) :=
  forAll_jobsOnly (fun v s => s.modVat_jobsOnly v f) _ s

theorem State.wakeIslands_jobsOnly (s : State) (j : Job) : JobsOnly s (s.wakeIslands j) := by
  refine forAll_jobsOnly (fun k s => (s.modVpoint_jobsOnly k fun v => { v with idleSince := none }).trans ?_) _ s
  dsimp only
  split
  · exact State.modVpoint_jobsOnly _ _ _
  · exact .refl _

theorem State.idleIslands_jobsOnly (s : State) (j : Job) : JobsOnly s (s.idleIslands j) :=
  forAll_jobsOnly (fun k s => s.modVpoint_jobsOnly k _) _ s

theorem State.take_jobsOnly (s : State) (j : Job) : JobsOnly s (s.take j) :=
  ((s.modJob_jobsOnly _ _).trans (State.modJobVats_jobsOnly _ _ _)).trans (State.wakeIslands_jobsOnly _ _)

theorem startWaiting_jobsOnly (n k : Nat) (s : State) : JobsOnly s (startWaiting n k s) := by
  induction k generalizing s with
  | zero => exact .refl s
  | succ k ih =>
    unfold startWaiting
    split
    · exact .refl s
    · exact (s.take_jobsOnly _).trans (ih _)

theorem State.giveWay_jobsOnly (s : State) (j : Job) : JobsOnly s (s.giveWay j) := by
  have move (f : Job → Job) (g : Vat → Vat) : JobsOnly s ((s.modJob j.id f).modJobVats j g) :=
    (s.modJob_jobsOnly _ _).trans (State.modJobVats_jobsOnly _ _ _)
  unfold State.giveWay
  dsimp only
  split
  · exact move _ _
  · exact move _ _
  · exact move _ _
  · exact move _ _
  · exact .refl s

/-- Settling who holds what changes the job table, the vats and the islands alone, and adds no job. -/
theorem State.settleJobs_jobsOnly (s : State) (n : Nat) : JobsOnly s (s.settleJobs n) :=
  (forAll_jobsOnly (fun _ s => forAll_jobsOnly (fun j s => s.giveWay_jobsOnly j) _ s) _ s).trans (startWaiting_jobsOnly _ _ _)

/-! ### The end of a job (R24, R90) -/

/-- Nothing but stack memory, the vats, the near-bank jobs, the job table and the islands differs. -/
def StopOnly (s t : State) : Prop :=
  ∃ m v k e j p, t = { s with mem := m, vats := v, nbeJobs := k, nbes := e, jobs := j, pwr := p }

theorem State.forgetStores_only (s : State) (n : Nat) (x : Vat) : ∃ m, s.forgetStores n x = { s with mem := m } := by
  unfold State.forgetStores
  generalize x.xfers.filter _ = ts
  induction ts generalizing s with
  | nil => exact ⟨s.mem, rfl⟩
  | cons t ts ih =>
    obtain ⟨m, hm⟩ := ih (s.winForget n t.2.addr (2048 * t.2.data.length))
    exact ⟨m, hm⟩

theorem State.stopVats_only (s : State) (j : Job) (run : RunState) (well : Bool) :
    ∃ m v, s.stopVats j run well = { s with mem := m, vats := v } := by
  unfold State.stopVats
  dsimp only
  generalize j.vatList.filter _ = vs
  induction vs generalizing s with
  | nil => exact ⟨s.mem, s.vats, rfl⟩
  | cons v vs ih =>
    obtain ⟨m, hm⟩ := s.forgetStores_only j.part (s.vat v)
    rw [forAll, List.foldl_cons, ← forAll, hm]
    obtain ⟨m', v', h⟩ := ih _
    exact ⟨m', v', h⟩

/-- A job ends: its vats stop, its entry goes, its LAUNCH completes or its engine's step is over, and jobs that wait may
start. -/
theorem State.endJob_ends {s : State} {id : Nat} {j : Job} (h : tabFind s.jobs id = some j) (run : RunState) (e : Ending) :
    ∃ u, StopOnly s u ∧ tabFind u.jobs id = none ∧
      s.endJob id run e = (if j.serving then u.modSrv j.part fun x =>
        { x with stepJob := none, stepFault := x.stepFault || e.status != statusOk }
        else u.complete j.part j.ring j.desc { e with detail := s.quantaOf j }).settleJobs j.part := by
  obtain ⟨m, v, hstop⟩ := s.stopVats_only j run (e.status == statusOk)
  let stopped := (s.stopVats j run (e.status == statusOk)).dropNbeJobs fun k => k.job == some id
  obtain ⟨⟨js, vs, p, hidle⟩, hnone⟩ := State.idleIslands_jobsOnly { stopped with jobs := tabErase id stopped.jobs } j
  refine ⟨State.idleIslands { stopped with jobs := tabErase id stopped.jobs } j, ?_, hnone id (tabFind_erase_same _ _), ?_⟩
  · rw [hidle]
    simp only [stopped, hstop]
    exact ⟨_, _, _, _, _, _, rfl⟩
  · simp only [State.endJob, h]
    rfl

/-- What the end of a job leaves: the error log, the timebase, and whether an access waits; the job is gone. -/
structure JobGone (id : Nat) (s t : State) : Prop where
  gone : tabFind t.jobs id = none
  err : t.err = s.err
  tmb : t.tmb = s.tmb
  blocked : t.blocked = s.blocked

theorem State.endJob_gone (s : State) (id : Nat) (run : RunState) (e : Ending) : JobGone id s (s.endJob id run e) := by
  cases h : tabFind s.jobs id with
  | none =>
    have hnone : s.endJob id run e = s := by simp only [State.endJob, h]
    rw [hnone]
    exact ⟨h, rfl, rfl, rfl⟩
  | some j =>
    obtain ⟨u, ⟨_, _, _, _, _, _, hu⟩, hgone, hend⟩ := State.endJob_ends h run e
    rw [hend]
    generalize hw : (if j.serving then u.modSrv j.part fun x =>
        { x with stepJob := none, stepFault := x.stepFault || e.status != statusOk }
      else u.complete j.part j.ring j.desc { e with detail := s.quantaOf j }) = w
    have hkept : w.jobs = u.jobs ∧ w.err = s.err ∧ w.tmb = s.tmb ∧ w.blocked = s.blocked := by
      subst hw
      split
      · rw [hu]
        exact ⟨rfl, rfl, rfl, rfl⟩
      · obtain ⟨_, _, _, hc⟩ := u.complete_ringOnly j.part j.ring j.desc { e with detail := s.quantaOf j }
        rw [hc, hu]
        exact ⟨rfl, rfl, rfl, rfl⟩
    obtain ⟨hjobs, herr, htmb, hblocked⟩ := hkept
    obtain ⟨⟨_, _, _, hs⟩, hnone⟩ := w.settleJobs_jobsOnly j.part
    refine ⟨hnone id (by rw [hjobs]; exact hgone), ?_, ?_, ?_⟩ <;> rw [hs]
    exacts [herr, htmb, hblocked]

/-- The end of a job whose LAUNCH its ring holds: the descriptor has left the ring, which owes its record. -/
theorem State.endJob_ended {s : State} {id : Nat} {j : Job} {d : Desc} (h : tabFind s.jobs id = some j)
    (hj : j.serving = false) (hd : d.id = j.desc) (hheld : Held s j.part j.ring d) (run : RunState) (e : Ending) :
    Ended s (s.endJob id run e) j.part j.ring d { e with detail := s.quantaOf j } := by
  obtain ⟨u, ⟨_, _, _, _, _, _, hu⟩, -, hend⟩ := State.endJob_ends h run e
  rw [hj, if_neg Bool.false_ne_true, ← hd] at hend
  have hu' : Held u j.part j.ring d := by rw [hu]; exact hheld
  have hended := (hu'.complete { e with detail := s.quantaOf j }).1
  have hsettle (w : State) : (w.settleJobs j.part).ring j.part j.ring = w.ring j.part j.ring := by
    rw [State.ring, State.vf, (w.settleJobs_apart j.part).vfs]
    rfl
  have hring : u.ring j.part j.ring = s.ring j.part j.ring := by rw [hu]; rfl
  rw [Ended, hring] at hended
  rw [Ended, hend, hsettle, hended]

/-! ### A job's fault (R24, R246, R441, R505, R513) -/

/-- Nothing but the timebase, the fabric ports and the outputs differs. -/
def FloodOnly (s t : State) : Prop := ∃ b p o, t = { s with tmb := b, ports := p, out := o }

theorem forAll_portOnly {α : Type} {f : α → State → State} (h : ∀ a s, PortOnly s (f a s)) (xs : List α) (s : State) :
    PortOnly s (forAll xs f s) := by
  induction xs generalizing s with
  | nil => exact .refl s
  | cons x xs ih => exact (h x s).trans (ih _)

theorem State.floodFor_floodOnly (s : State) (j : Job) (seq : Word) : FloodOnly s (s.floodFor j seq) := by
  unfold State.floodFor State.originAbort State.floodAbort
  dsimp only
  split
  · split
    · exact ⟨s.tmb, s.ports, s.out, rfl⟩
    · obtain ⟨p, o, h⟩ := forAll_portOnly (fun p s => s.sendCtrl_portOnly p _) _ { s with tmb := { s.tmb with abortsSeen := _ } }
      rw [h]
      exact ⟨_, _, _, rfl⟩
  · exact ⟨s.tmb, s.ports, s.out, rfl⟩

/-- A job's fault: one record, which names the job, and the job is gone. -/
theorem State.faultJob_spec {s : State} {id : Nat} {j : Job} (h : tabFind s.jobs id = some j) (i : ErrInfo) :
    tabFind (s.faultJob id i).jobs id = none ∧
      (s.faultJob id i).err = s.recorded { i with severity := 1, part := j.part, tag := j.tag,
                                                  ring := if j.serving then ringNone else j.ring } ∧
      (s.faultJob id i).blocked = s.blocked := by
  unfold State.faultJob
  simp only [h]
  generalize { i with severity := 1, part := j.part, tag := j.tag, ring := if j.serving then ringNone else j.ring } = k
  obtain ⟨hgone, herr, -, hblocked⟩ := (s.logError k).2.endJob_gone id .stopped { status := statusFault, errSeq := (s.logError k).1 }
  obtain ⟨_, _, _, hf⟩ := ((s.logError k).2.endJob id .stopped { status := statusFault, errSeq := (s.logError k).1 }).floodFor_floodOnly
    j (s.logError k).1
  rw [hf]
  exact ⟨hgone, herr.trans (s.logError_err k), hblocked.trans (s.logError_logOnly k).leaves.2.2.2⟩

/-! ### A fault of a vat's step (R246, R505) -/

theorem State.jobOf_eq {s : State} {v : Nat} : s.jobOf v = (s.vat v).job.bind (tabFind s.jobs) := rfl

/-- A fault of a vat's step whose record names neither a ring nor a TAG yet. -/
theorem State.faultVat_spec (s : State) (v : Nat) {i : ErrInfo} (hsev : i.severity = 1) (htag : i.tag = 0)
    (hring : i.ring = ringNone) : StepFaults v i s (s.faultVat v i) ∧ (s.faultVat v i).blocked = s.blocked := by
  have hinfo (hnone : s.jobOf v = none) : stepInfo s v i = { i with part := s.vatPart v } := by
    simp only [stepInfo, hnone, ← hsev, ← htag, ← hring]
  let stopped := s.modVat v fun x => { x with run := .stopped }
  have hlog := stopped.log_logOnly { i with part := s.vatPart v }
  have hlogs (hnone : s.jobOf v = none) (id : Nat) (hid : (s.vat v).job = some id) :
      tabFind (stopped.log { i with part := s.vatPart v }).jobs id = none := by
    obtain ⟨_, _, _, _, h⟩ := hlog
    rw [h]
    rw [State.jobOf_eq, hid] at hnone
    exact hnone
  have hstop : ((stopped.log { i with part := s.vatPart v }).vat v).run = .stopped := by
    have hvat : (stopped.log { i with part := s.vatPart v }).vat v = stopped.vat v := by
      obtain ⟨_, _, _, _, h⟩ := hlog
      rw [h]
      rfl
    rw [hvat, State.vat_modVat_same]
  have herr (hnone : s.jobOf v = none) : (stopped.log { i with part := s.vatPart v }).err = s.recorded (stepInfo s v i) := by
    rw [State.log_err, hinfo hnone]
    rfl
  have hwait : (stopped.log { i with part := s.vatPart v }).blocked = s.blocked := hlog.leaves.2.2.2
  cases hjob : (s.vat v).job with
  | none =>
    have hnone : s.jobOf v = none := by rw [State.jobOf_eq, hjob]; rfl
    have hf : s.faultVat v i = stopped.log { i with part := s.vatPart v } := by simp only [State.faultVat, hjob]; rfl
    rw [hf]
    exact ⟨⟨herr hnone, hlogs hnone, fun _ => hstop⟩, hwait⟩
  | some id =>
    cases hfind : tabFind s.jobs id with
    | none =>
      have hnone : s.jobOf v = none := by rw [State.jobOf_eq, hjob]; exact hfind
      have hf : s.faultVat v i = stopped.log { i with part := s.vatPart v } := by
        simp only [State.faultVat, hjob, hfind]
        rfl
      rw [hf]
      exact ⟨⟨herr hnone, hlogs hnone, fun h => by rw [hjob] at h; cases h⟩, hwait⟩
    | some j =>
      have hsome : s.jobOf v = some j := by rw [State.jobOf_eq, hjob]; exact hfind
      have hf : s.faultVat v i = stopped.faultJob id i := by simp only [State.faultVat, hjob, hfind]; rfl
      have hpart : s.vatPart v = j.part := by simp only [State.vatPart, hjob, hfind]
      obtain ⟨hgone, herr', hwait'⟩ := State.faultJob_spec (s := stopped) hfind i
      rw [hf]
      refine ⟨⟨herr'.trans ?_, fun k hk => ?_, fun h => by rw [hjob] at h; cases h⟩, hwait'⟩
      · simp only [stepInfo, hsome, hpart]
        rfl
      · rw [hjob] at hk
        rwa [← Option.some.inj hk]

/-- A vat's trap (R246). -/
theorem State.vatTrap_traps (s : State) (v : Nat) (c : TrapCause) (slot : Option Nat) (imm : Word) :
    Traps v c slot imm s (s.vatTrap v c slot imm) := (s.faultVat_spec v rfl rfl rfl).1

/-- A row of a unit whose check fails traps. -/
theorem unitRow_traps {s : State} {c : Instr} {v : Fin 128} {slot : Nat} {check : Vat → Option TrapCause}
    {f : Nat → Vat → Vat} {k : TrapCause} (hl : s.live) (hc : exec c s = act (unitRow v slot check f) s)
    (hcheck : check (s.vat v) = some k) : ∃ t, Runs c s t ∧ Traps v k (some slot) 0 s t := by
  have hrow : unitRow v slot check f s = s.vatTrap v k (some slot) 0 := by
    rw [unitRow, whenRunning_on hl.1]
    simp only [hcheck]
  exact ⟨_, hc.trans (act_next _ s), by rw [hrow]; exact s.vatTrap_traps v k (some slot) 0⟩

end Sys2Proof.Machine
end
section
/-! The statement on DRAIN, PRELOAD and SETRC (R192, R197, R240; log 17, log 121). -/

namespace Sys2Proof.Machine

/-! ### The row of an array that a DRN slot names -/

/-- The accumulator entry behind lane `n` of an array's 32 (R240; log 17). -/
def drnIndex (u : ArrayUnit) (a : DrnArgs) (n : Nat) : Nat :=
  if u.cfg.quad then 512 * ((if a.qsel then 2 else 0) + n / 16) + 16 * a.row.toNat + n % 16 else 32 * a.row.toNat + n

/-- The column ceiling behind lane `n` of an array's 32. -/
def drnColumn (u : ArrayUnit) (a : DrnArgs) (n : Nat) : Nat :=
  if u.cfg.quad then 16 * ((if a.qsel then 2 else 0) + n / 16) + n % 16 else n

theorem drnEntry_eq (u : ArrayUnit) (a : DrnArgs) (n : Nat) :
    drnEntry u a.row.toNat a.qsel n = (drnIndex u a n, drnColumn u a n) := by
  unfold drnEntry drnIndex drnColumn
  split <;> rfl

theorem nodup_drnIndex (u : ArrayUnit) (a : DrnArgs) : ((List.range 32).map (drnIndex u a)).Nodup := by
  refine List.nodup_range.map_on fun m _ n _ h => ?_
  unfold drnIndex at h
  split at h <;> omega

/-- An array with the 32 entries of its row changed. -/
def ArrayUnit.rowChanged (u : ArrayUnit) (a : DrnArgs) (g : Nat → AccEntry → AccEntry) : ArrayUnit :=
  u.setEntries (List.range 32) (drnIndex u a) g

section Row
variable (u : ArrayUnit) (a : DrnArgs) (g : Nat → AccEntry → AccEntry)

theorem ArrayUnit.rowChanged_only : u.rowChanged a g = { u with acc := (u.rowChanged a g).acc } := u.setEntries_only ..

theorem ArrayUnit.rowChanged_other {i : Nat} (h : ∀ n, n < 32 → i ≠ drnIndex u a n) :
    tabFind (u.rowChanged a g).acc i = tabFind u.acc i :=
  u.setEntries_other _ _ fun n hn => h n (List.mem_range.1 hn)

theorem ArrayUnit.rowChanged_entry {n : Nat} (hn : n < 32) :
    (u.rowChanged a g).entry (drnIndex u a n) = g n (u.entry (drnIndex u a n)) :=
  u.setEntries_entry _ _ (nodup_drnIndex u a) (List.mem_range.2 hn)

end Row

/-! ### The rows -/

/-- A lane of the register that DRAIN writes: the value of its array's entry (R197). -/
theorem lane_drained (draw : Nat) (a : DrnArgs) (x : Vat) (hraw : a.raw = false) {l : Nat} (hl : l < 256) :
    lane ((drnDrain draw a x).vreg a.reg.val) l =
      if a.amask.getLsbD (l / 32) then
        drainValue (x.array (l / 32)) a.row.toNat (drnIndex (x.array (l / 32)) a (l % 32)) (drnColumn (x.array (l / 32)) a (l % 32))
      else lane (x.vreg a.reg.val) l := by
  simp only [drnDrain, hraw, Bool.false_eq_true, if_false, Vat.vreg_setVreg_same, lane_setLanes _ _ _ hl, drnEntry_eq]

theorem setBytes_eq_setGroups (c n : Nat) (old : BitVec 8192) : setBytes old 0 c n = setGroups c (fun _ => n) old [0] := by
  rw [setGroups, List.foldl_cons, List.foldl_nil, Nat.mul_zero]

/-- The register that a raw DRAIN writes: 32 values of 80 bits in its first 320 bytes (R240). -/
theorem vreg_drainedRaw (draw : Nat) (a : DrnArgs) (x : Vat) (hraw : a.raw = true) :
    (drnDrain draw a x).vreg a.reg.val = setGroups (4 * 80)
      (fun _ => packElems 80 ((List.range 32).map fun n =>
        (drainRaw (x.array ((bitsSet a.amask).headD 0)) draw (drnIndex (x.array ((bitsSet a.amask).headD 0)) a n)).toNat))
      (x.vreg a.reg.val) [0] := by
  simp only [drnDrain, hraw, if_true, Vat.vreg_setVreg_same, drnEntry_eq, setBytes_eq_setGroups]

theorem array_drained (draw : Nat) (a : DrnArgs) (x : Vat) (k : Nat) :
    (drnDrain draw a x).array k =
      if k < 8 ∧ a.amask.getLsbD k = true then (x.array k).rowChanged a fun _ _ => {} else x.array k := by
  have h := x.array_modArrays a.amask (fun _ u => u.rowChanged a fun _ _ => {}) k
  rw [← h]
  simp only [drnDrain, drnEntry_eq]
  rfl

/-- What PRELOAD makes of the entry behind lane `n` of array `k` (R192). -/
def preloaded (draw : Nat) (a : DrnArgs) (x : Vat) (k n : Nat) (e : AccEntry) : AccEntry :=
  let u := x.array k
  let w := lane (x.vreg a.reg.val) (32 * k + n)
  if cfgAccExact u.cfg then
    entryExact e (Config.freeAt draw (40960 + 2048 * k + drnIndex u a n) 80) (u.anchor a.row.toNat (drnColumn u a n)) [fVal w]
  else { entryFast e w with half := e.half }

theorem array_preloaded (draw : Nat) (a : DrnArgs) (x : Vat) (k : Nat) :
    (drnPreload draw a x x).array k =
      if k < 8 ∧ a.amask.getLsbD k = true then (x.array k).rowChanged a (preloaded draw a x k) else x.array k := by
  have h := x.array_modArrays a.amask (fun k u => (List.range 32).foldl (fun v l =>
      let (i, col) := drnEntry u a.row.toNat a.qsel l
      let t := lane (x.vreg a.reg.val) (32 * k + l)
      let e := v.entry i
      v.setEntry i (if cfgAccExact u.cfg then
          entryExact e (Config.freeAt draw (40960 + 2048 * k + i) 80) (u.anchor a.row.toNat col) [fVal t]
        else { entryFast e t with half := e.half })) u) k
  refine h.trans (if_congr Iff.rfl ?_ rfl)
  simp only [drnEntry_eq]
  rfl

/-- What DRAIN and PRELOAD ask of a row, and a raw drain of its arrays (R240). -/
def DrnOk (x : Vat) (a : DrnArgs) (drain : Bool) : Prop :=
  (∀ k, (k < 8 ∧ a.amask.getLsbD k = true) → (x.array k).cfg.quad = true → a.row.toNat < 32) ∧
    (drain = true → a.raw = true → (bitsSet a.amask).length = 1)

theorem drnOk_iff (x : Vat) (a : DrnArgs) (drain : Bool) :
    (((bitsSet a.amask).all fun k => !(x.array k).cfg.quad || decide (a.row.toNat < 32)) &&
      (!(drain && a.raw) || decide ((bitsSet a.amask).length = 1))) = true ↔ DrnOk x a drain := by
  rw [Bool.and_eq_true, List.all_eq_true]
  refine and_congr (forall_congr' fun k => ?_) ?_
  · rw [mem_bitsSet_lt]
    refine forall_congr' fun _ => ?_
    cases (x.array k).cfg.quad <;> simp
  · cases drain <;> cases a.raw <;> simp

theorem checkDrn_passes {x : Vat} {a : DrnArgs} {drain : Bool} (h : DrnOk x a drain) : checkDrn x a drain = none :=
  if_pos ((drnOk_iff x a drain).2 h)

theorem checkDrn_fails {x : Vat} {a : DrnArgs} {drain : Bool} (h : ¬DrnOk x a drain) :
    checkDrn x a drain = some .bundleFormat := if_neg fun hok => h ((drnOk_iff x a drain).1 hok)

/-- A mask of one array. -/
theorem bitsSet_one {k : Nat} (hk : k < 8) : bitsSet (BitVec.ofNat 8 (2 ^ k)) = [k] := by
  revert k
  decide

/-- Settles O16: each row changes the entries of one row of the named arrays, and DRAIN one vector register. -/
theorem drainRows : Obligations.DrainRows := by
  intro s v a hl x row named col idx cleared drains
  have hdrained (draw k : Nat) : (¬named k → (drnDrain draw a x).array k = x.array k) ∧ (named k →
      let u := x.array k
      let u' := (drnDrain draw a x).array k
      u' = { u with acc := u'.acc } ∧ (∀ i, (∀ n, n < 32 → i ≠ idx u n) → tabFind u'.acc i = tabFind u.acc i) ∧
        ∀ n, n < 32 → u'.entry (idx u n) = {}) := by
    rw [array_drained]
    refine ⟨fun h => if_neg h, fun h => ?_⟩
    rw [if_pos h]
    exact ⟨ArrayUnit.rowChanged_only .., fun i hi => ArrayUnit.rowChanged_other _ a _ hi,
      fun n hn => ArrayUnit.rowChanged_entry _ a _ hn⟩
  have hdrains (hcheck : checkDrn x a true = none) : ∃ t, drains t ∧ t.vat v = drnDrain s.freshCount a x := by
    obtain ⟨t, hruns, honly, hvat⟩ := unitRow_passes hl (c := .drain v a) rfl hcheck
    refine ⟨t, ⟨hruns, honly, ?_, fun r hr => ?_, fun k => by rw [hvat]; exact hdrained s.freshCount k⟩, hvat⟩
    · rw [hvat]
      exact congrArg (fun y : Vat => { y with vregs := (drnDrain s.freshCount a x).vregs }) (x.modArrays_only ..)
    · rw [hvat]
      exact (Vat.vreg_setVreg_ne _ hr _).trans (by rw [x.modArrays_only]; rfl)
  refine ⟨?setrc, fun hrow => ⟨fun hraw => ?drain, fun hraw k hk hmask => ?raw, ?preload⟩, fun hraw hone => ?many, ?range⟩
  case setrc =>
    obtain ⟨t, hruns, honly, hvat⟩ := unitRow_passes hl (c := .setrc v a) rfl rfl
    refine ⟨t, hruns, honly, by rw [hvat]; exact Vat.modArrays_only .., fun k => by rw [hvat]; exact Vat.array_modArrays ..⟩
  case drain =>
    obtain ⟨t, ht, hvat⟩ := hdrains (checkDrn_passes ⟨hrow, fun _ h => by simp [hraw] at h⟩)
    refine ⟨t, ht, fun k n hk hn => ?_, fun l hl' hk => ?_⟩
    · have hlane := lane_drained s.freshCount a x hraw (show 32 * k + n < 256 by have := hk.1; omega)
      have hdiv : (32 * k + n) / 32 = k := by omega
      have hmod : (32 * k + n) % 32 = n := by omega
      rw [hdiv, hmod, if_pos hk.2] at hlane
      rw [hvat]
      exact hlane
    · rw [hvat, lane_drained s.freshCount a x hraw hl', if_neg fun h => hk ⟨by omega, h⟩]
  case raw =>
    have hbits : bitsSet a.amask = [k] := by rw [hmask, bitsSet_one hk]
    obtain ⟨t, ht, hvat⟩ := hdrains (checkDrn_passes ⟨hrow, fun _ _ => by rw [hbits]; rfl⟩)
    have hreg := vreg_drainedRaw s.freshCount a x hraw
    rw [hbits] at hreg
    refine ⟨t, ht, fun n hn => ?_, fun l hlo hl' => ?_⟩
    · refine BitVec.eq_of_toNat_eq ?_
      rw [exactAt_toNat, hvat, hreg, elemAt_setGroups_packed (by omega) (fun _ => _) _ _ (by omega),
        if_pos (by simp [Nat.div_eq_of_lt hn])]
      rw [Nat.mod_eq_of_lt hn, List.getD_eq_getElem _ _ (by simpa using hn), List.getElem_map, List.getElem_range,
        Nat.mod_eq_of_lt (BitVec.isLt _)]
      rfl
    · refine BitVec.eq_of_toNat_eq ?_
      rw [lane_toNat, lane_toNat, hvat, hreg, elemAt_setGroups (c := 4 * 80) (m := 80) (by omega) rfl _ _ _ (by omega),
        if_neg (by simp; omega)]
  case preload =>
    have hcheck : checkDrn x a false = none := checkDrn_passes ⟨hrow, fun h => by simp at h⟩
    obtain ⟨t, hruns, honly, hvat⟩ := unitRow_passes hl (c := .preload v a) rfl hcheck
    have harray (k : Nat) : (t.vat v).array k = _ := (congrArg (Vat.array · k) hvat).trans (array_preloaded _ a x k)
    refine ⟨t, hruns, honly, by rw [hvat]; exact Vat.modArrays_only .., fun k hk => (harray k).trans (if_neg hk), fun k hk => ?_⟩
    rw [harray, if_pos hk]
    refine ⟨ArrayUnit.rowChanged_only .., fun i hi => ArrayUnit.rowChanged_other _ a _ hi, fun n hn => ?_⟩
    intro e w
    have hentry := (x.array k).rowChanged_entry a (preloaded s.freshCount a x k) hn
    exact ⟨fun h => hentry.trans (if_pos h), fun h => hentry.trans (if_neg (by simp [h]))⟩
  case many =>
    exact unitRow_traps hl (c := .drain v a) rfl (checkDrn_fails fun h => hone (h.2 rfl hraw))
  case range =>
    rintro ⟨k, hk, hquad⟩ hrow
    have hcheck (drain : Bool) : checkDrn x a drain = some .bundleFormat :=
      checkDrn_fails fun h => absurd (h.1 k hk hquad) (by omega)
    exact ⟨unitRow_traps hl (c := .drain v a) rfl (hcheck true), unitRow_traps hl (c := .preload v a) rfl (hcheck false)⟩

end Sys2Proof.Machine
end
section
/-! The statement on VAT_CLEAR, JOB_START and LATE_START (R88, R206, R220, R432, R438, R461, R464, R485). -/

namespace Sys2Proof.Machine

/-! ### Holds and beat division (R435 to R440, R484, R497) -/

/-- Nothing but the swarm slots, the fabric ports and the outputs differs. -/
def HoldOnly (s t : State) : Prop := ∃ k p o, t = { s with tmb := { s.tmb with slots := k }, ports := p, out := o }

theorem HoldOnly.refl (s : State) : HoldOnly s s := ⟨s.tmb.slots, s.ports, s.out, rfl⟩

theorem HoldOnly.trans {s t u : State} (h : HoldOnly s t) (g : HoldOnly t u) : HoldOnly s u := by
  obtain ⟨k, p, o, rfl⟩ := h
  obtain ⟨k', p', o', rfl⟩ := g
  exact ⟨k', p', o', rfl⟩

theorem PortOnly.holdOnly {s t : State} (h : PortOnly s t) : HoldOnly s t := by
  obtain ⟨p, o, rfl⟩ := h
  exact ⟨s.tmb.slots, p, o, rfl⟩

theorem State.modSlot_holdOnly (s : State) (k : Nat) (f : SwarmSlot → SwarmSlot) : HoldOnly s (s.modSlot k f) :=
  ⟨_, s.ports, s.out, rfl⟩

theorem State.rootAnnounce_holdOnly (s : State) (slot : Nat) (a : Announced) : HoldOnly s (s.rootAnnounce slot a) := by
  have hsend : HoldOnly (s.noteAnnounce slot a) ((s.noteAnnounce slot a).sendAnnounce slot a) :=
    (forAll_portOnly (fun p s => s.sendCtrl_portOnly p _) _ _).holdOnly
  exact ((s.modSlot_holdOnly slot _).trans hsend).trans (State.modSlot_holdOnly _ _ _)

/-- The root's handling of a request changes what is announced alone. -/
theorem State.rootRequest_holdOnly (s : State) (slot quanta divisor origin : Nat) :
    HoldOnly s (s.rootRequest slot quanta divisor origin) := by
  unfold State.rootRequest
  have hnoted : HoldOnly s (if divisor = 0 then s
      else s.modSlot slot fun x => { x with divisorReq := tabPut origin divisor x.divisorReq }) := by
    split
    · exact .refl s
    · exact s.modSlot_holdOnly _ _
  refine hnoted.trans ?_
  generalize (if divisor = 0 then s
    else s.modSlot slot fun x => { x with divisorReq := tabPut origin divisor x.divisorReq }) = u
  have announce (a : Announced) : HoldOnly u (u.rootAnnounce slot a) := u.rootAnnounce_holdOnly slot a
  dsimp only
  split
  · exact announce _
  · split
    · split
      · exact announce _
      · exact .refl u
    · split
      · exact announce _
      · split
        · exact announce _
        · exact .refl u
  · split
    · exact announce _
    · split
      · exact announce _
      · exact .refl u

theorem State.sendHoldReq_holdOnly (s : State) (slot quanta divisor cause : Nat) (alone : Bool) :
    HoldOnly s (s.sendHoldReq slot quanta divisor cause alone) := by
  unfold State.sendHoldReq State.sendUp
  dsimp only
  split
  · exact s.rootRequest_holdOnly _ _ _ _
  · split
    · exact (s.modPort_portOnly _ _).holdOnly
    · exact (s.sendCtrl_portOnly _ _).holdOnly

theorem State.requestHold_holdOnly (s : State) (slot lateness cause : Nat) (alone : Bool) :
    HoldOnly s (s.requestHold slot lateness cause alone).2 := by
  unfold State.requestHold
  dsimp only
  split
  · exact .refl s
  · exact (s.modSlot_holdOnly _ _).trans (State.sendHoldReq_holdOnly _ _ _ _ _ _)

theorem forAll_holdOnly {α : Type} {f : α → State → State} (h : ∀ a s, HoldOnly s (f a s)) (xs : List α) (s : State) :
    HoldOnly s (forAll xs f s) := by
  induction xs generalizing s with
  | nil => exact .refl s
  | cons x xs ih => exact (h x s).trans (ih _)

/-- A new beat divisor changes what islands and swarms ask for, and sends requests (R497). -/
theorem State.setDivReq_only (s : State) (d : Nat) :
    ∃ w k p o, s.setDivReq d = { s with pwr := w, tmb := { s.tmb with slots := k }, ports := p, out := o } := by
  unfold State.setDivReq
  dsimp only
  split
  · exact ⟨s.pwr, s.tmb.slots, s.ports, s.out, rfl⟩
  · obtain ⟨k, p, o, h⟩ := forAll_holdOnly (fun k s => s.sendHoldReq_holdOnly k 0 d 0 (s.slotAlone k)) _ { s with pwr := _ }
    rw [h]
    exact ⟨_, k, p, o, rfl⟩

theorem State.settleDiv_only (s : State) :
    ∃ w k p o, s.settleDiv = { s with pwr := w, tmb := { s.tmb with slots := k }, ports := p, out := o } := s.setDivReq_only _

/-! ### Vats of a job -/

theorem State.vat_modJobVats (s : State) (j : Job) (f : Vat → Vat) (w : Nat) :
    (s.modJobVats j f).vat w = if w ∈ j.vatList then f (s.vat w) else s.vat w :=
  foldl_places (get := State.vat) (upd := fun s v => s.modVat v f) (g := fun _ => f) (fun s v w => s.vat_modVat v w f)
    (nodup_bitsSet _) s w

/-- Of the state a change of a job's vats changes the vats alone. -/
theorem State.modJobVats_only (s : State) (j : Job) (f : Vat → Vat) :
    s.modJobVats j f = { s with vats := (s.modJobVats j f).vats } := by
  unfold State.modJobVats
  induction j.vatList generalizing s with
  | nil => rfl
  | cons v vs ih => exact ih (s.modVat v f)

/-! ### Beats that pass (R225, R438) -/

theorem tabFind_map {α β : Type} (g : Nat → α → β) (t : Tab α) (k : Nat) :
    tabFind (t.map fun x => (x.1, g x.1 x.2)) k = (tabFind t k).map (g k) := by
  induction t with
  | nil => rfl
  | cons x t ih =>
    rw [List.map_cons, tabFind_cons, tabFind_cons, ih]
    split
    next h => rw [h]; rfl
    next => rfl

theorem Job.advanced_still {j : Job} (h : j.counts = false) (hold : Bool) (d k : Nat) : j.advanced hold d k = j :=
  if_pos (by simp [h])

/-- No beat passes for a job that has not begun, or that stands preempted (R225). -/
theorem State.find_advance {s : State} {id : Nat} {j : Job} (h : tabFind s.jobs id = some j) (hj : j.counts = false) (k : Nat) :
    tabFind (s.advance k).jobs id = some j := by
  have hfind := tabFind_map (fun _ j => j.advanced (s.inHold (s.part j.part).swarm.toNat)
    (s.slot (s.part j.part).swarm.toNat).divisor k) s.jobs id
  rw [h] at hfind
  exact hfind.trans (congrArg some (Job.advanced_still hj _ _ _))

theorem State.advanceTo_beat (s : State) {b : Nat} (h : s.tmb.beat ≤ b) : (s.advanceTo b).tmb.beat = b % 2 ^ 64 := by
  rw [State.advanceTo, State.advance_beat, Nat.add_sub_cancel' h]

/-! ### VAT_CLEAR (R206) -/

theorem vatClear_clears {s : State} (hl : s.live) (v : Fin 128) (h : (s.vat v).run = .clearing) :
    ∃ t, Runs (.vatClear v) s t ∧ VatBecomes v { inbound := (s.vat v).inbound, job := (s.vat v).job } s t := by
  have hf : s.vatCleared v = s.modVat v fun x => { inbound := x.inbound, job := x.job } := if_pos h
  refine ⟨s.vatCleared v, act_live hl (hf ▸ ⟨rfl, rfl, rfl, rfl⟩), ?_⟩
  rw [hf]
  exact ⟨s.modVat_onlyVat v _, State.vat_modVat_same ..⟩

/-- An effect that does nothing. -/
theorem act_idle {s : State} {f : State → State} (hl : s.live) (h : f s = s) : act (whenRunning f) s = .next s := by
  rw [act_live hl (by rw [h]; exact .refl s), h]

/-- A job that ends by itself: its LAUNCH ends, and the beat stays. -/
theorem endJob_runs {s u : State} {c : Instr} {f : State → State} {id : Nat} {j : Job} {e : Ending} (hl : s.live)
    (hc : exec c s = act (whenRunning f) s) (hf : f s = u.endJob id .idle e) (hu : ∃ b, u = { s with tmb := b, jobs := u.jobs })
    (hfind : tabFind u.jobs id = some j) :
    ∃ t, Runs c s t ∧ tabFind t.jobs id = none ∧ t.tmb = u.tmb ∧
      ∀ d, j.serving = false → d.id = j.desc → Held s j.part j.ring d →
        Ended s t j.part j.ring d { e with detail := u.quantaOf j } := by
  obtain ⟨hgone, -, htmb, -⟩ := u.endJob_gone id .idle e
  refine ⟨s.after (u.endJob id .idle e), by rw [Runs, hc, act_next, whenRunning_on hl.1, hf], hgone, htmb, fun d hj hd hheld => ?_⟩
  obtain ⟨b, hb⟩ := hu
  have hheld' : Held u j.part j.ring d := by rw [hb]; exact hheld
  have hended := State.endJob_ended hfind hj hd hheld' .idle e
  have hring : u.ring j.part j.ring = s.ring j.part j.ring := by rw [hb]; rfl
  rw [Ended, hring] at hended
  exact hended

/-! ### JOB_START (R88, R220, R432, R438, R461, R485) -/

/-- What keeps a job that holds its footprint from starting: a hold, a voltage that rises, a vat that clears itself. -/
def State.startHeld (s : State) (j : Job) : Prop :=
  s.inHold (s.part j.part).swarm.toNat = true ∨ (∃ i ∈ j.islands, (s.vpoint i).rising ≠ none) ∨
    ∃ v ∈ j.vatList, (s.vat v).run = .clearing

theorem State.startHeld_iff (s : State) (j : Job) : s.startHeld j ↔ s.inHold (s.part j.part).swarm.toNat = true ∨
    (j.islands.any fun i => (s.vpoint i).rising.isSome) = true ∨ (j.vatList.any fun v => (s.vat v).run == .clearing) = true := by
  simp only [State.startHeld, List.any_eq_true, Option.isSome_iff_ne_none, beq_iff_eq]

/-- The first beat at which the job may run (R88). -/
def State.startsAt (s : State) (j : Job) : Nat := if s.tmb.beat ≤ j.startBeat then j.startBeat else (s.tmb.beat + 63) / 64 * 64

theorem State.startsAt_le (s : State) (j : Job) : s.tmb.beat ≤ s.startsAt j := by
  unfold State.startsAt
  split <;> omega

theorem quantumAt_eq (b : Nat) : quantumAt b = (b + 63) / 64 * 64 := by
  rw [quantumAt, alignUp, ceilDiv, Nat.add_sub_assoc (by omega)]

/-- A job as it begins (R220). -/
def Job.begins (j : Job) (b : Nat) : Job := { j with state := .running, startBeat := b, beat := 0, beatSub := 0, ended := [] }

/-- A vat as its job begins: bundle address 0 and an empty cache (R220; log 26). -/
def Vat.begins (x : Vat) : Vat := { x with pc := 0, run := .running, icache := [], preempt := false }

section Start
variable {s : State} {id : Nat} {j : Job} (hfind : tabFind s.jobs id = some j)
include hfind

theorem State.startJob_lockless (hst : j.state = .starting) (h : 1 < j.hdr.devices ∧ s.tmb.lock ≠ .locked) :
    s.startJob id = s.endJob id .idle { status := statusFault } := by
  simp only [State.startJob, hfind]
  exact if_pos ⟨hst, h⟩

variable (h : ¬(1 < j.hdr.devices ∧ s.tmb.lock ≠ .locked))
include h

theorem State.startJob_held (hheld : s.startHeld j) : s.startJob id = s := by
  simp only [State.startJob, hfind]
  rw [if_neg fun hlock => h hlock.2]
  exact if_pos (.inr ((s.startHeld_iff j).1 hheld))

theorem State.startJob_starts (hst : j.state = .starting) (hheld : ¬s.startHeld j) :
    s.startJob id =
      (((s.advanceTo (s.startsAt j)).modJob id fun k => k.begins (s.startsAt j)).modJobVats j Vat.begins).settleDiv := by
  have hnot : ¬(j.state ≠ .starting ∨ s.inHold (s.part j.part).swarm.toNat = true ∨
      (j.islands.any fun i => (s.vpoint i).rising.isSome) = true ∨
        (j.vatList.any fun v => (s.vat v).run == .clearing) = true) := by
    rintro (hne | hback)
    · exact hne hst
    · exact hheld ((s.startHeld_iff j).2 hback)
  simp only [State.startJob, hfind]
  rw [if_neg fun hlock => h hlock.2, if_neg hnot, quantumAt_eq]
  rfl

end Start

/-- A job that starts: its beats, its entry, its vats, and what a command does not change. -/
theorem State.starts_spec {s : State} {id : Nat} {j : Job} (hfind : tabFind s.jobs id = some j) (hst : j.state = .starting)
    {b : Nat} (hb : s.tmb.beat ≤ b) :
    let t := (((s.advanceTo b).modJob id fun j => j.begins b).modJobVats j Vat.begins).settleDiv
    s.Leaves t ∧ t.tmb.beat = b % 2 ^ 64 ∧ tabFind t.jobs id = some (j.begins b) ∧
      ∀ v, t.vat v = if v ∈ j.vatList then (s.vat v).begins else s.vat v := by
  have hjob : tabFind ((s.advanceTo b).modJob id fun j => j.begins b).jobs id = some (j.begins b) := by
    rw [State.find_modJob, if_pos rfl, State.advanceTo, State.find_advance hfind (by simp [Job.counts, hst])]
    rfl
  obtain ⟨js, hjs⟩ := (s.advanceTo b).modJob_only id fun j => j.begins b
  have hvats := ((s.advanceTo b).modJob id fun j => j.begins b).modJobVats_only j Vat.begins
  obtain ⟨w, k, p, o, hdiv⟩ :=
    (((s.advanceTo b).modJob id fun j => j.begins b).modJobVats j Vat.begins).settleDiv_only
  intro t
  have hother : t.jobs = ((s.advanceTo b).modJob id fun j => j.begins b).jobs ∧ t.tmb.beat = (s.advanceTo b).tmb.beat ∧
      s.Leaves t := by
    simp only [t, hdiv]
    rw [hvats, hjs]
    exact ⟨rfl, rfl, rfl, rfl, rfl, rfl⟩
  obtain ⟨hjobs, hbeat, hleaves⟩ := hother
  refine ⟨hleaves, hbeat.trans (s.advanceTo_beat hb), by rw [hjobs]; exact hjob, fun v => ?_⟩
  have hvat : t.vat v = (((s.advanceTo b).modJob id fun j => j.begins b).modJobVats j Vat.begins).vat v := by
    simp only [t, hdiv]
    rfl
  have hkept : ((s.advanceTo b).modJob id fun j => j.begins b).vat v = s.vat v := by rw [hjs]; rfl
  rw [hvat, State.vat_modJobVats, hkept]

/-! ### LATE_START (R88, R464) -/

/-- Settles O25: each command ends the clear, starts the job, ends its LAUNCH, or waits. -/
theorem jobsStart : Obligations.JobsStart := by
  refine ⟨fun s v hl => ⟨fun h => vatClear_clears hl v h, fun h => act_idle hl (if_neg h)⟩,
    fun s id j hl hfind hst => ?start, fun s id j d hl hfind hid => ⟨?late, ?waits⟩⟩
  case start =>
    intro holdsBack b lockless
    refine ⟨fun hlock _ => ?_, fun hlock hback => act_idle hl (State.startJob_held hfind hlock hback), fun hlock hback => ?_⟩
    · exact endJob_runs (c := .jobStart id) hl rfl (State.startJob_lockless hfind hst hlock) ⟨s.tmb, rfl⟩ hfind
    · obtain ⟨hleaves, hbeat, hjob, hvat⟩ := State.starts_spec hfind hst (s.startsAt_le j)
      rw [← State.startJob_starts hfind hlock hst hback] at hleaves hbeat hjob hvat
      exact ⟨s.startJob id, act_live hl hleaves, hbeat, hjob, fun v hv => (hvat v).trans (if_pos hv),
        fun v hv => (hvat v).trans (if_neg hv)⟩
  case late =>
    intro hwait hlc hasked hserving hd hheld
    have hstill : tabFind (s.advanceTo (j.askedBeat + 1)).jobs id = some j := State.find_advance hfind (by simp [Job.counts, hwait]) _
    have hlate : s.lateStart id = (s.advanceTo (j.askedBeat + 1)).endJob id .idle { status := statusLateStart } := by
      simp only [State.lateStart, hfind]
      exact if_pos ⟨by simp [Job.isWaiting, hwait], hlc, hasked⟩
    obtain ⟨t, hruns, hgone, htmb, hended⟩ := endJob_runs (c := .lateStart id) hl rfl hlate ⟨_, rfl⟩ hstill
    have hquanta : (s.advanceTo (j.askedBeat + 1)).quantaOf j = j.holdQuanta := by
      have hbegun : j.begun = false := by simp [Job.begun, hwait]
      unfold State.quantaOf
      split <;> simp [hbegun]
    rw [hquanta] at hended
    refine ⟨t, hruns, hgone, ?_, hended d hserving hd hheld⟩
    rw [htmb, State.advanceTo, State.advance_beat]
    congr 1
    omega
  case waits =>
    intro h
    refine act_idle hl ?_
    simp only [State.lateStart, hfind]
    refine if_neg fun hdue => ?_
    obtain ⟨hwait, hlc, hasked⟩ := hdue
    rcases h with h | h | h
    · exact h (by simpa [Job.isWaiting] using hwait)
    · rw [h] at hlc; exact absurd hlc Bool.false_ne_true
    · exact hasked h

end Sys2Proof.Machine
end
section
/-! Refutation of the statement on preemption (R215, R461). -/

namespace Sys2Proof.Machine

/-! ### A save where the job table names another job under its own key -/

/-- Job 0 is being saved; the job table holds another job with that number, which waits, under the key 5. -/
def saveBesideKey : State :=
  { pins := { mode := .running }
    jobs := [(0, { preemptedZero with state := .saving }), (5, { preemptedZero with state := .waiting })] }

/-- Whether job 0 stands preempted or is being restored in the state that a command answers. -/
def standsSaved (o : Host.Outcome State Fault Refusal) : Bool := match o with
  | .next t => (tabFind t.jobs 0).any fun j => j.state == .preempted || j.state == .restoring
  | _ => false

/-- The job that waits is taken too, and what it changes is the entry of the saved one, which then starts. -/
theorem saveBesideKey_starts : standsSaved (exec (.saveComplete 0 none) saveBesideKey) = false := by decide +kernel

/-- Refutes O24: a save that completes leaves its job in state STARTING where the job table holds, under another key, a job
that waits with the saved job's number: `settleJobs` takes that job too, and `take` changes the entry under its number. The
statement asks of its states only that they are live and that the saved job's own entry has its number; no run from reset is
claimed to make such a table. -/
theorem not_preemptionSavesRestores : ¬ Obligations.PreemptionSavesRestores := by
  intro h
  have hlive : saveBesideKey.live := ⟨rfl, by decide +kernel, rfl, rfl⟩
  obtain ⟨hsaves, -⟩ := h.2 saveBesideKey 0 { preemptedZero with state := .saving } hlive rfl rfl
  obtain ⟨t, hruns, j, hfind, -, hstate⟩ := hsaves rfl (fun _ _ => rfl) (by decide +kernel)
  have hstarts := saveBesideKey_starts
  rw [hruns] at hstarts
  rcases hstate with hstate | hstate <;> simp [standsSaved, hfind, hstate] at hstarts

end Sys2Proof.Machine
end
section
/-! Lines that arrive at a vat's port (R201, R231, R233, R244, R321, R426): the bytes that they write, the flag that they set,
and what follows the last line of a transfer. -/

namespace Sys2Proof.Machine

/-! ### Bytes of a line (R321) -/

/-- The bits of bytes `lo` up to `hi` of a line. -/
def byteMask (lo hi : Nat) : Line :=
  if lo = 0 ∧ hi = 2048 then BitVec.allOnes 16384 else BitVec.ofNat 16384 (2 ^ (8 * hi) - 2 ^ (8 * lo))

theorem testBit_two_pow_sub_two_pow (a b i : Nat) : (2 ^ b - 2 ^ a).testBit i = decide (a ≤ i ∧ i < b) := by
  by_cases h : a ≤ b
  · have hsplit : 2 ^ b - 2 ^ a = (2 ^ (b - a) - 1) * 2 ^ a := by
      rw [Nat.sub_mul, ← Nat.pow_add, Nat.sub_add_cancel h, Nat.one_mul]
    rw [hsplit, Nat.testBit_mul_two_pow, Nat.testBit_two_pow_sub_one]
    by_cases hi : a ≤ i
    · simp [hi, show i - a < b - a ↔ i < b by omega]
    · simp [hi]
  · have hle : 2 ^ b ≤ 2 ^ a := Nat.pow_le_pow_right (by omega) (by omega)
    rw [Nat.sub_eq_zero_of_le hle, Nat.zero_testBit, decide_eq_false (by omega)]

theorem getLsbD_byteMask (lo hi : Nat) {i : Nat} (h : i < 16384) :
    (byteMask lo hi).getLsbD i = decide (lo ≤ i / 8 ∧ i / 8 < hi) := by
  unfold byteMask
  split
  next hall => rw [BitVec.getLsbD_allOnes, decide_eq_true h, decide_eq_true (by omega)]
  next =>
    rw [BitVec.getLsbD_ofNat, decide_eq_true h, Bool.true_and, testBit_two_pow_sub_two_pow]
    exact decide_eq_decide.2 (by omega)

theorem Vat.line_putBytes (x : Vat) (a lo hi : Nat) (d : Line) (k : Nat) :
    (x.putBytes a lo hi d).line k =
      if k = spdLine a then mergeBits (spdAlias a) (x.line k) d (byteMask lo hi) else x.line k := by
  by_cases h : k = spdLine a
  · subst h
    simp [Vat.putBytes, Vat.line, byteMask]
  · simp [Vat.putBytes, Vat.line, tabFind_put_ne h, h]

/-- A byte of a line after bytes `lo` up to `hi` were written at its plain address. -/
theorem field_putBytes (old new : Line) (lo hi : Nat) {b : Nat} (hb : b < 2048) :
    field (mergeBits 0 old new (byteMask lo hi)) (8 * b) 8 = if lo ≤ b ∧ b < hi then field new (8 * b) 8 else field old (8 * b) 8 := by
  refine BitVec.eq_of_getLsbD_eq fun j hj => ?_
  have hdiv : (8 * b + j) / 8 = b := by omega
  rw [BitVec.getLsbD_extractLsb', decide_eq_true hj, Bool.true_and, getLsbD_mergeBits (by omega) _ _ _ (by omega),
    getLsbD_byteMask _ _ (by omega), hdiv, if_pos rfl]
  by_cases h : lo ≤ b ∧ b < hi
  · rw [decide_eq_true h, if_pos rfl, if_pos h, BitVec.getLsbD_extractLsb', decide_eq_true hj, Bool.true_and]
  · rw [decide_eq_false h, if_neg Bool.false_ne_true, if_neg h, BitVec.getLsbD_extractLsb', decide_eq_true hj, Bool.true_and]

/-- The word of a flag after its bit was set (R201, R244). -/
theorem Vat.word_setFlag (x : Vat) {a : Nat} (ha : a < 2 ^ 22) (b : Nat) :
    (x.setFlag a b).word a = x.word a ||| BitVec.ofNat 32 (2 ^ b) := by
  have hoff : spdOff a = a := Nat.mod_eq_of_lt ha
  have hline : spdLine (a + 2 ^ 22) = spdLine a := by simp [spdLine, spdOff]
  have halias : spdAlias (a + 2 ^ 22) = 1 := by unfold spdAlias; omega
  have hw : a % 2048 / 4 < 512 := by omega
  have hset : x.setFlag a b = x.putLine (a + 2 ^ 22) (wordsAt (a % 2048 / 4) 1 (2 ^ b)).2 (wordsAt (a % 2048 / 4) 1 (2 ^ b)).1 := by
    rw [Vat.setFlag, hoff]
  rw [hset, Vat.word, Vat.line_putLine, hline, if_pos rfl, halias, lineWord_mergeLine (by omega) _ _ _ hw, wordsAt_mask hw,
    wordsAt_word le_rfl hw, if_pos (by simp), if_neg (by omega), if_pos rfl, Nat.sub_self, Nat.mul_zero, Nat.shiftRight_zero]
  rfl

/-! ### Whether the command has to wait (R526) -/

theorem HoldOnly.blocked {s t : State} (h : HoldOnly s t) : t.blocked = s.blocked := by
  obtain ⟨_, _, _, rfl⟩ := h
  rfl

theorem PortOnly.blocked {s t : State} (h : PortOnly s t) : t.blocked = s.blocked := by
  obtain ⟨_, _, rfl⟩ := h
  rfl

theorem State.overrun_blocked (s : State) (v lateness : Nat) : (s.overrun v lateness).blocked = s.blocked := by
  have hsent (u : State) (slot : Nat) (alone : Bool) (i : ErrInfo) :
      (if (u.requestHold slot lateness 2 alone).1 then ((u.requestHold slot lateness 2 alone).2.log i).raise 0x2C (v / 2)
        else (u.requestHold slot lateness 2 alone).2).blocked = u.blocked := by
    have hhold := (u.requestHold_holdOnly slot lateness 2 alone).blocked
    split
    · exact ((State.raise_evcOnly _ _ _).blocked.trans (State.log_logOnly _ _).leaves.2.2.2).trans hhold
    · exact hhold
  unfold State.overrun
  cases s.jobOf v with
  | none => exact hsent { s with pwr := _ } _ _ _
  | some j => exact hsent { s with pwr := _ } _ _ _

theorem State.waitfTest_blocked (s : State) (v : Nat) : (s.waitfTest v).blocked = s.blocked := by
  unfold State.waitfTest
  dsimp only
  split
  · split
    · split
      · exact State.overrun_blocked _ _ _
      · rfl
    · rfl
  · rfl

theorem State.setFlagAt_blocked (s : State) (f : Option (Nat × Nat × Nat)) : (s.setFlagAt f).blocked = s.blocked := by
  unfold State.setFlagAt
  split
  · rfl
  · exact State.waitfTest_blocked _ _

theorem State.finishEnd_blocked (s : State) (v : Nat) : (s.finishEnd v).blocked = s.blocked := by
  have hmod (u : State) (k : Nat) (f : Job → Job) : (u.modJob k f).blocked = u.blocked := (u.modJob_apart k f).blocked
  unfold State.finishEnd
  dsimp only
  split
  · split
    · rfl
    · split
      · exact (State.endJob_gone _ _ _ _).blocked.trans (hmod _ _ _)
      · exact hmod _ _ _
  · rfl

theorem State.sendAck_blocked (s : State) (h : Bits512) : (s.sendAck h).blocked = s.blocked := by
  unfold State.sendAck
  dsimp only
  split
  · exact (State.sendCells_portOnly _ _ _).blocked
  · rfl

/-! ### What follows the last line of a transfer (R222, R233, R426) -/

/-- The last line of a transfer frees its slot, and a SEND is acknowledged. -/
def State.lineDone (s : State) (l : Inbound) : State :=
  if !l.last then s else match l.src with
    | .vat w slot => s.xferDone w slot
    | .fabric head => s.sendAck head
    | .nbe _ => s

theorem State.lineDone_blocked (s : State) (l : Inbound) : (s.lineDone l).blocked = s.blocked := by
  unfold State.lineDone
  split
  · rfl
  · split
    · exact State.finishEnd_blocked _ _
    · exact s.sendAck_blocked _
    · rfl

/-- A transfer whose vat's END does not wait for it. -/
theorem State.xferDone_running {s : State} {w slot : Nat} (h : (s.vat w).run ≠ .ending) :
    s.xferDone w slot = s.modVat w fun x => { x with xfers := tabErase slot x.xfers } := by
  have hrun : ((s.modVat w fun x => { x with xfers := tabErase slot x.xfers }).vat w).run = (s.vat w).run := by
    rw [State.vat_modVat_same]
  unfold State.xferDone State.finishEnd
  exact if_neg fun hend => h (hrun.symm.trans hend.1)

/-- A transfer that the END of a vat without a job waited for, its last. -/
theorem State.xferDone_ending {s : State} {w slot : Nat} (h : (s.vat w).run = .ending) (hx : tabErase slot (s.vat w).xfers = [])
    (hn : s.nbeBusy w = false) (hj : s.jobOf w = none) :
    s.xferDone w slot = (s.modVat w fun x => { x with xfers := tabErase slot x.xfers }).modVat w fun x => { x with run := .ended } := by
  have hvat : (s.modVat w fun x => { x with xfers := tabErase slot x.xfers }).vat w =
      { s.vat w with xfers := tabErase slot (s.vat w).xfers } := State.vat_modVat_same ..
  have hbusy : (s.modVat w fun x => { x with xfers := tabErase slot x.xfers }).nbeBusy w = false := hn
  have hjob : (s.vat w).job.bind (tabFind (s.modVat w fun x => { x with xfers := tabErase slot x.xfers }).jobs) = none := hj
  unfold State.xferDone State.finishEnd
  dsimp only
  rw [hvat, if_pos ⟨h, by simp [hx], by simp [hbusy]⟩]
  simp only [hjob]

/-- Sending frames does not look at stack memory, nor at what a command is told of it. -/
theorem pump_after (s u : State) (p k : Nat) : pump p k (s.after u) = s.after (pump p k u) := by
  induction k generalizing u with
  | zero => rfl
  | succ k ih =>
    have hport : (s.after u).port p = u.port p := rfl
    unfold pump
    dsimp only
    rw [hport]
    generalize (if (u.port p).partnerPause then [] else (u.port p).outCells.take 9) = cells
    have hsent (f : Port → Port) (nak : Bool) (c : SentFrame) :
        ((s.after u).modPort p f).emitFrame p nak false c = s.after ((u.modPort p f).emitFrame p nak false c) := rfl
    split
    · rfl
    · rw [hsent, ih]

theorem State.sendCells_after (s u : State) (p : Nat) (t : Transfer) : (s.after u).sendCells p t = s.after (u.sendCells p t) := by
  have hmod (f : Port → Port) : (s.after u).modPort p f = s.after (u.modPort p f) := rfl
  have hpumped (w : State) : (s.after w).pumped p = s.after (w.pumped p) := pump_after s w p _
  rw [State.sendCells, hmod, hpumped]
  rfl

theorem State.sendAck_after (s u : State) (h : Bits512) : (s.after u).sendAck h = s.after (u.sendAck h) := by
  unfold State.sendAck
  dsimp only
  rw [State.sendCells_after]
  exact (apply_ite s.after _ _ _).symm

/-- What a command leaves is what it leaves of that. -/
theorem State.after_after (s u : State) : s.after (s.after u) = s.after u := by
  rw [State.after, State.after_mem, Mem.canon_of_wf (Mem.canon_wf _)]
  rfl

end Sys2Proof.Machine
end
section
/-! The statement on lines that arrive at a vat's port (R203, R206, R231, R233, R244, R314, R316, R426, R526). -/

namespace Sys2Proof.Machine

/-! ### The vat alone, more than once -/

theorem OnlyVat.trans {v : Nat} {s t u : State} (h : OnlyVat v s t) (g : OnlyVat v t u) : OnlyVat v s u := by
  obtain ⟨ht, hvat⟩ := h
  obtain ⟨gu, gvat⟩ := g
  exact ⟨by rw [gu, ht], fun w hw => (gvat w hw).trans (hvat w hw)⟩

theorem State.modVat_congr {s : State} {v : Nat} {f g : Vat → Vat} (h : f (s.vat v) = g (s.vat v)) : s.modVat v f = s.modVat v g := by
  have hval : f (tabGet {} s.vats v) = g (tabGet {} s.vats v) := h
  rw [State.modVat, State.modVat, tabMod, tabMod, hval]

/-- What the vats are is over with no command. -/
theorem State.after_modVat (s u : State) (v : Nat) (f : Vat → Vat) : s.after (u.modVat v f) = (s.after u).modVat v f := rfl

/-- A fault of a step is what it is, whatever the command that it belongs to is told. -/
theorem StepFaults.after {v : Nat} {i : ErrInfo} {u t : State} (s : State) (h : StepFaults v i u t) :
    StepFaults v i (s.after u) (s.after t) := by
  obtain ⟨herr, hjob, hnone⟩ := h
  have hrecorded : (s.after u).recorded (stepInfo (s.after u) v i) = u.recorded (stepInfo u v i) := rfl
  exact ⟨herr.trans hrecorded.symm, hjob, hnone⟩

/-! ### A WAITF that a write may end (R231) -/

theorem State.waitfTest_idle {s : State} {v : Nat} (h : ∀ a m c d, (s.vat v).run ≠ .waitf a m c d) : s.waitfTest v = s := by
  unfold State.waitfTest
  dsimp only
  split
  next heq => exact absurd heq (h _ _ _ _)
  next => rfl

/-- A WAITF without a deadline: its vat goes on where its condition holds. -/
theorem State.waitfTest_undated {s : State} {v a : Nat} {m : Word} {k : Bool} (h : (s.vat v).run = .waitf a m k 0) :
    s.waitfTest v = if (if k then (s.vat v).word a &&& m = 0 else (s.vat v).word a &&& m = m)
      then s.modVat v fun x => { x with run := .running } else s := by
  have hholds : waitfHolds ((s.vat v).word a) m k = true ↔
      if k then (s.vat v).word a &&& m = 0 else (s.vat v).word a &&& m = m := by
    cases k <;> simp [waitfHolds]
  unfold State.waitfTest
  simp only [h, hholds, ne_eq, not_true_eq_false, false_and, and_false, if_false]

/-! ### The line at the front of the port (R203, R244, R314) -/

/-- A vat once its oldest line has been performed. -/
def Vat.lineIn (x : Vat) (l : Inbound) (rest : List Inbound) (d : Line) : Vat :=
  { x.putBytes l.addr l.lo l.hi d with inbound := rest }

/-- The state once data `d` of the line has been written: its flag is set and its transfer may be over. -/
def State.lineIn (s : State) (v : Nat) (l : Inbound) (rest : List Inbound) (d : Line) : State :=
  (((s.modVat v fun x => x.lineIn l rest d).waitfTest v).setFlagAt l.flag).lineDone l

theorem State.lineIn_blocked (s : State) (v : Nat) (l : Inbound) (rest : List Inbound) (d : Line) :
    (s.lineIn v l rest d).blocked = s.blocked :=
  (State.lineDone_blocked _ l).trans ((State.setFlagAt_blocked _ l.flag).trans (State.waitfTest_blocked _ v))

section Front
variable {s : State} {v : Nat} {l : Inbound} {rest : List Inbound} (hin : (s.vat v).inbound = l :: rest)
include hin

theorem State.inboundWrite_waits (h : (s.vat v).run = .clearing ∨ s.loadBlocked v l = true) : s.inboundWrite v = s := by
  simp only [State.inboundWrite, hin]
  exact if_pos h

variable (h : ¬((s.vat v).run = .clearing ∨ s.loadBlocked v l = true))
include h

theorem State.inboundWrite_performs {d : Line} {u : State} (hd : s.inboundData v l = (some d, u)) :
    s.inboundWrite v = u.lineIn v l rest d := by
  simp only [State.inboundWrite, hin]
  rw [if_neg h]
  simp only [hd]
  rfl

theorem State.inboundWrite_fails {u : State} (hd : s.inboundData v l = (none, u)) : s.inboundWrite v = u := by
  simp only [State.inboundWrite, hin]
  rw [if_neg h]
  simp only [hd]

end Front

theorem State.inboundData_brought {s : State} {v : Nat} {l : Inbound} (h : l.read = none) :
    s.inboundData v l = (some l.data, s) := by simp only [State.inboundData, h]

section Read
variable {s : State} {v : Nat} {l : Inbound} {a : Nat × Nat} (ha : l.read = some a)
include ha

theorem State.inboundData_read (h : (s.winRead a.1 a.2 2048).1.fail = none) :
    s.inboundData v l = (some (lineOf (s.winRead a.1 a.2 2048).1.bytes), (s.winRead a.1 a.2 2048).2) := by
  simp only [State.inboundData, ha, h]

theorem State.inboundData_failed {f : ReadFail} (h : (s.winRead a.1 a.2 2048).1.fail = some f) :
    s.inboundData v l = (none, (s.winRead a.1 a.2 2048).2.faultVat v (readInfo a.1 3 v a.2 f 0 ringNone 1)) := by
  simp only [State.inboundData, ha, h]

end Read

/-! ### What the vat's line does when it has its data -/

theorem State.lineDone_more {l : Inbound} (h : l.last = false) (s : State) : s.lineDone l = s := by
  rw [State.lineDone, h]
  rfl

section Arrived
variable {s u : State} {v : Fin 128} {l : Inbound} {rest : List Inbound} {d : Line} (hvat : ∀ w, u.vat w = s.vat w)
include hvat

theorem State.vat_lineWritten : (u.modVat v fun x => x.lineIn l rest d).vat v = (s.vat v).lineIn l rest d := by
  rw [State.vat_modVat_same, hvat]

/-- Where the vat watches no word and no flag is set, what follows is the transfer's end alone. -/
theorem State.lineIn_idle (hidle : ∀ a m c k, (s.vat v).run ≠ .waitf a m c k) (hflag : l.flag = none) :
    u.lineIn v l rest d = (u.modVat v fun x => x.lineIn l rest d).lineDone l := by
  unfold State.lineIn
  rw [State.waitfTest_idle (by rw [State.vat_lineWritten hvat]; exact hidle), hflag]
  rfl

theorem State.lineIn_quiet (hidle : ∀ a m c k, (s.vat v).run ≠ .waitf a m c k) (hflag : l.flag = none) (hlast : l.last = false) :
    VatBecomes v ((s.vat v).lineIn l rest d) (s.after u) (s.after (u.lineIn v l rest d)) := by
  rw [State.lineIn_idle hvat hidle hflag, State.lineDone_more hlast, State.after_modVat]
  exact ⟨(s.after u).modVat_onlyVat v _, State.vat_lineWritten hvat⟩

/-- A WAITF without a deadline goes on where the line makes its condition hold. -/
theorem State.lineIn_watched {a : Nat} {m : Word} {k : Bool} (hwait : (s.vat v).run = .waitf a m k 0) (hflag : l.flag = none)
    (hlast : l.last = false) :
    VatBecomes v
      (if (if k then ((s.vat v).lineIn l rest d).word a &&& m = 0 else ((s.vat v).lineIn l rest d).word a &&& m = m)
        then { (s.vat v).lineIn l rest d with run := .running } else (s.vat v).lineIn l rest d)
      (s.after u) (s.after (u.lineIn v l rest d)) := by
  have hwritten : (u.modVat v fun x => x.lineIn l rest d).vat v = (s.vat v).lineIn l rest d := State.vat_lineWritten hvat
  have hrun : ((u.modVat v fun x => x.lineIn l rest d).vat v).run = .waitf a m k 0 := by rw [hwritten]; exact hwait
  have honly := (s.after u).modVat_onlyVat v fun x => x.lineIn l rest d
  have heffect : u.lineIn v l rest d = (u.modVat v fun x => x.lineIn l rest d).waitfTest v := by
    rw [State.lineIn, hflag, State.lineDone_more hlast]
    rfl
  rw [heffect, State.waitfTest_undated hrun, hwritten]
  by_cases hholds : if k then ((s.vat v).lineIn l rest d).word a &&& m = 0 else ((s.vat v).lineIn l rest d).word a &&& m = m
  · rw [if_pos hholds, if_pos hholds, State.after_modVat, State.after_modVat]
    refine ⟨honly.trans (State.modVat_onlyVat _ v _), ?_⟩
    rw [State.vat_modVat_same]
    exact congrArg (fun x : Vat => { x with run := .running }) hwritten
  · rw [if_neg hholds, if_neg hholds]
    exact ⟨honly, hwritten⟩

section Last
variable (hidle : ∀ a m c k, (s.vat v).run ≠ .waitf a m c k) (hflag : l.flag = none) (hlast : l.last = true)
include hidle hflag hlast

/-- The last line of a transfer of a vat that does not wait for it in END frees the transfer slot. -/
theorem State.lineIn_frees {w k : Nat} (hsrc : l.src = .vat w k) (hrun : (s.vat w).run ≠ .ending) :
    u.lineIn v l rest d = (u.modVat v fun x => x.lineIn l rest d).modVat w fun x => { x with xfers := tabErase k x.xfers } := by
  have hkept : ((u.modVat v fun x => x.lineIn l rest d).vat w).run = (s.vat w).run := by
    rw [State.vat_modVat]
    split
    next hw => rw [hw, hvat]; rfl
    next => rw [hvat]
  rw [State.lineIn_idle hvat hidle hflag, State.lineDone, hlast, hsrc]
  exact State.xferDone_running (hkept ▸ hrun)

/-- Where END waited for that transfer alone, the vat has ended. -/
theorem State.lineIn_ends {w k : Nat} (hsrc : l.src = .vat w k) (hrun : (s.vat w).run = .ending)
    (hx : tabErase k (s.vat w).xfers = []) (hnbe : u.nbeBusy w = false) (hjob : u.jobOf w = none) :
    ((u.lineIn v l rest d).vat w).run = .ended ∧ ((u.lineIn v l rest d).vat w).xfers = [] := by
  have hkept : ((u.modVat v fun x => x.lineIn l rest d).vat w).run = (s.vat w).run ∧
      ((u.modVat v fun x => x.lineIn l rest d).vat w).xfers = (s.vat w).xfers ∧
      ((u.modVat v fun x => x.lineIn l rest d).vat w).job = (u.vat w).job := by
    rw [State.vat_modVat]
    split
    next hw => rw [hw, hvat]; exact ⟨rfl, rfl, rfl⟩
    next => rw [hvat]; exact ⟨rfl, rfl, rfl⟩
  obtain ⟨hkrun, hkxfers, hkjob⟩ := hkept
  have hdone : u.lineIn v l rest d = (u.modVat v fun x => x.lineIn l rest d).xferDone w k := by
    rw [State.lineIn_idle hvat hidle hflag, State.lineDone, hlast, hsrc]
    rfl
  have hnone : (u.modVat v fun x => x.lineIn l rest d).jobOf w = none := by
    rw [State.jobOf, hkjob]
    exact hjob
  rw [hdone, State.xferDone_ending (hkrun.trans hrun) (by rw [hkxfers, hx]) hnbe hnone]
  simp only [State.vat_modVat_same, hkxfers, hx, and_self]

/-- The last line of a SEND is acknowledged. -/
theorem State.lineIn_acknowledges {h : Bits512} (hsrc : l.src = .fabric h) :
    s.after (u.lineIn v l rest d) = s.after (((s.after u).modVat v fun _ => (s.vat v).lineIn l rest d).sendAck h) := by
  have hwritten : (s.after u).modVat v (fun _ => (s.vat v).lineIn l rest d) = s.after (u.modVat v fun x => x.lineIn l rest d) := by
    rw [State.after_modVat]
    exact State.modVat_congr (congrArg (fun x : Vat => x.lineIn l rest d) (hvat v).symm)
  rw [State.lineIn_idle hvat hidle hflag, State.lineDone, hlast, hsrc, hwritten, State.sendAck_after, State.after_after]
  rfl

end Last

/-- The flag of a near-bank job's line is set in the vat that the line came to. -/
theorem State.lineIn_flagged (hidle : ∀ a m c k, (s.vat v).run ≠ .waitf a m c k) {a b n : Nat}
    (hflag : l.flag = some (v.val, a, b)) (hsrc : l.src = .nbe n) :
    u.lineIn v l rest d = (u.modVat v fun x => x.lineIn l rest d).modVat v fun x => x.setFlag a b := by
  have hwritten : (u.modVat v fun x => x.lineIn l rest d).vat v = (s.vat v).lineIn l rest d := State.vat_lineWritten hvat
  have hdone (t : State) : t.lineDone l = t := by
    rw [State.lineDone, hsrc]
    exact ite_self t
  rw [State.lineIn, hdone, hflag, State.waitfTest_idle (by rw [hwritten]; exact hidle), State.setFlagAt]
  exact State.waitfTest_idle (by rw [State.vat_modVat_same, hwritten]; exact hidle)

end Arrived

/-- Settles O21: the line at the front of the port is read where SLD asked for it, written, and followed by its flag and the
end of its transfer. -/
theorem inboundWrites : Obligations.InboundWrites := by
  intro s v l rest errs hl hin x c idle read
  have row : Row c s errs fun s => s.inboundWrite v := .inl rfl
  have hin' : ((s.told errs).vat v).inbound = l :: rest := hin
  refine ⟨fun h => row.idle hl (State.inboundWrite_waits hin' h), fun hrun hload a ha => ?_, fun base d hread => ?_⟩
  · have hfree : ¬(((s.told errs).vat v).run = .clearing ∨ (s.told errs).loadBlocked v l = true) :=
      not_or.2 ⟨hrun, (Bool.eq_false_iff.1 hload)⟩
    refine ⟨fun hblocked => runs_blocked (f := fun s => s.inboundWrite v) hl rfl ?_, fun f hblocked hfail => ?_⟩
    · cases hfail : (read a).1.fail with
      | none =>
        rw [State.inboundWrite_performs hin' hfree (State.inboundData_read ha hfail), State.lineIn_blocked]
        exact hblocked
      | some f =>
        rw [State.inboundWrite_fails hin' hfree (State.inboundData_failed ha hfail)]
        exact (State.faultVat_spec _ _ rfl rfl rfl).2.trans hblocked
    · have heffect := State.inboundWrite_fails hin' hfree (State.inboundData_failed ha hfail)
      obtain ⟨hfaults, hwait⟩ := (read a).2.faultVat_spec v (i := readInfo a.1 3 v a.2 f 0 ringNone 1) rfl rfl rfl
      have hruns := row.runs hl (by rw [heffect]; exact hwait.trans hblocked)
      rw [heffect] at hruns
      exact ⟨_, hruns, hfaults.after s⟩
  · intro y hrun hload
    obtain ⟨u, hstack, hblocked, hdata, rfl⟩ : ∃ u, StackOnly (s.told errs) u ∧ u.blocked = false ∧
        (s.told errs).inboundData v l = (some d, u) ∧ base = s.after u := by
      rcases hread with ⟨hnone, rfl, rfl⟩ | ⟨a, ha, hb, hfail, rfl, rfl⟩
      · exact ⟨_, .refl _, hl.2.2.2, State.inboundData_brought hnone, ((State.Leaves.refl _).after hl.2.1 hl.2.2).symm⟩
      · exact ⟨_, State.winRead_stackOnly _ _ _ _, hb, State.inboundData_read ha hfail, rfl⟩
    have hfree : ¬(((s.told errs).vat v).run = .clearing ∨ (s.told errs).loadBlocked v l = true) :=
      not_or.2 ⟨hrun, (Bool.eq_false_iff.1 hload)⟩
    have heffect := State.inboundWrite_performs hin' hfree hdata
    have hruns := row.runs hl (by rw [heffect, State.lineIn_blocked]; exact hblocked)
    rw [heffect] at hruns
    have hkept : u.vats = s.vats ∧ u.jobs = s.jobs ∧ u.nbeJobs = s.nbeJobs := by
      obtain ⟨_, _, _, _, _, _, _, _, hu⟩ := hstack
      rw [hu]
      exact ⟨rfl, rfl, rfl⟩
    obtain ⟨hvats, hjobs, hnbe⟩ := hkept
    have hvat (w : Nat) : u.vat w = s.vat w := by rw [State.vat, hvats]; rfl
    have htest (P : State → Prop) (h : P (s.after (u.lineIn v l rest d))) : ∃ t, Runs c s t ∧ P t := ⟨_, hruns, h⟩
    refine ⟨fun k hk => (Vat.line_putBytes ..).trans (if_neg hk), fun hplain b hb => ?_,
      fun hidle hflag hlast => htest _ (State.lineIn_quiet hvat hidle hflag hlast),
      fun a m k hwait hflag hlast => htest _ (State.lineIn_watched hvat hwait hflag hlast),
      fun w k hidle hflag hlast hsrc hend => htest _ ?_, fun w k hidle hflag hlast hsrc hend hx hbusy hjob => htest _ ?_,
      fun h hidle hflag hlast hsrc => htest _ (State.lineIn_acknowledges hvat hidle hflag hlast hsrc),
      fun a b n hidle hflag ha _ _ _ hsrc => htest _ ?_⟩
    · have hline : spdLine l.addr = l.addr / 2048 := by rw [spdLine, spdOff, Nat.mod_eq_of_lt hplain]
      have halias : spdAlias l.addr = 0 := by unfold spdAlias; omega
      have hput : y.line (l.addr / 2048) = mergeBits 0 ((s.vat v).line (l.addr / 2048)) d (byteMask l.lo l.hi) :=
        (Vat.line_putBytes ..).trans (by rw [hline, if_pos rfl, halias])
      rw [hput, field_putBytes _ _ _ _ hb]
    · rw [State.lineIn_frees hvat hidle hflag hlast hsrc hend, State.after_modVat, State.after_modVat]
      have hbase (z : Nat) : (s.after u).vat z = s.vat z := hvat z
      refine ⟨rfl, fun hw => ?_, fun hw => ⟨?_, ?_⟩, fun z hzv hzw => ?_⟩
      · rw [hw, State.vat_modVat_same, State.vat_modVat_same, hbase]
        rfl
      · rw [State.vat_modVat, if_neg hw.symm, State.vat_modVat_same, hbase]
        rfl
      · rw [State.vat_modVat_same, State.vat_modVat, if_neg hw, hbase]
      · rw [State.vat_modVat, if_neg hzw, State.vat_modVat, if_neg hzv, hbase]
    · have hbusy' : u.nbeBusy w = false := by rw [State.nbeBusy, hnbe]; exact hbusy
      have hjob' : u.jobOf w = none := by rw [State.jobOf, hvat, hjobs]; exact hjob
      exact State.lineIn_ends hvat hidle hflag hlast hsrc hend hx hbusy' hjob'
    · rw [State.lineIn_flagged hvat hidle hflag hsrc, State.after_modVat, State.after_modVat]
      have hset : (((s.after u).modVat v fun x => x.lineIn l rest d).modVat v fun x => x.setFlag a b).vat v = y.setFlag a b := by
        rw [State.vat_modVat_same]
        exact congrArg (Vat.setFlag · a b) (State.vat_lineWritten hvat)
      exact ⟨((s.after u).modVat_onlyVat v _).trans (State.modVat_onlyVat _ v _), by rw [hset]; rfl,
        by rw [hset]; exact y.word_setFlag ha b⟩

end Sys2Proof.Machine
end
section
/-! The statements on the words of slots, on a beat of an empty queue and on scalar slots (R221, R225, R234, R428, R429). -/

namespace Sys2Proof.Machine

/-- Settles O57: each word is read field by field. -/
theorem slotWords : Obligations.SlotWords := fun _ _ =>
  ⟨rfl, rfl, rfl, rfl, rfl, rfl, rfl, rfl, rfl, rfl, rfl, rfl, rfl⟩

/-! ### A row that changes one vat -/

/-- A command whose effect is a change of one vat makes that vat what the change gives, and nothing else. -/
theorem runs_modVat {s : State} {c : Instr} {v : Nat} {f : State → State} {g : Vat → Vat} (hl : s.live)
    (hc : exec c s = act (whenRunning f) s) (hf : f s = s.modVat v g) :
    ∃ t, Runs c s t ∧ VatBecomes v (g (s.vat v)) s t := by
  refine ⟨s.modVat v g, ?_, s.modVat_onlyVat v g, State.vat_modVat_same ..⟩
  rw [Runs, hc, act_live hl (by rw [hf]; exact ⟨rfl, rfl, rfl, rfl⟩), hf]

/-! ### The beat of an empty queue (R225, R428, R429) -/

theorem tabGet_foldl_tabSet {β : Type} [DecidableEq β] (d : β) (skip : Nat → Bool) (g : Nat → β → β) {l : List Nat} (hd : l.Nodup)
    (t : Tab β) (i : Nat) :
    tabGet d (l.foldl (fun t i => if skip i then t else tabSet d t i (g i (tabGet d t i))) t) i =
      if i ∈ l ∧ skip i = false then g i (tabGet d t i) else tabGet d t i := by
  have h := foldl_places (get := tabGet d) (upd := fun t i => if skip i then t else tabSet d t i (g i (tabGet d t i)))
    (g := fun i x => if skip i then x else g i x) (fun t k q => ?_) hd t i
  · rw [h]
    cases skip i <;> simp
  · by_cases hq : q = k
    · subst hq
      cases skip q <;> simp
    · cases skip k <;> simp [hq, tabGet_set_ne hq]

/-- A swarm slot's transfer clock after some beats (R428). -/
theorem State.clock_after (s : State) (k : Nat) {i : Nat} (hi : i < 16) :
    tabGet 0 (s.clocksAfter k) i =
      if s.replaying = true ∨ s.inHold i = true then tabGet 0 s.tmb.clocks i else tabGet 0 s.tmb.clocks i + k := by
  unfold State.clocksAfter
  by_cases hr : s.replaying = true
  · rw [if_pos hr, if_pos (.inl hr)]
  · rw [if_neg hr, tabGet_foldl_tabSet 0 s.inHold (fun _ n => n + k) List.nodup_range]
    cases h : s.inHold i <;> simp [hi, hr]

/-- A job after some beats (R225, R438). -/
theorem State.find_advance_job {s : State} {id : Nat} {j : Job} (h : tabFind s.jobs id = some j) (k : Nat) :
    tabFind (s.advance k).jobs id =
      some (j.advanced (s.inHold (s.part j.part).swarm.toNat) (s.slot (s.part j.part).swarm.toNat).divisor k) := by
  have hfind := tabFind_map (fun _ j => j.advanced (s.inHold (s.part j.part).swarm.toNat)
    (s.slot (s.part j.part).swarm.toNat).divisor k) s.jobs id
  rw [h] at hfind
  exact hfind

theorem Job.advanced_held (j : Job) (d k : Nat) : j.advanced true d k = j := rfl

/-- A running job whose swarm does not divide beats counts each. -/
theorem Job.advanced_undivided {j : Job} (hrun : j.state = .running) (hsub : j.beatSub = 0) (k : Nat) :
    j.advanced false 1 k = { j with beat := j.beat + k } := by
  obtain ⟨⟩ := j
  simp only at hrun hsub
  subst hrun hsub
  simp [Job.advanced, Job.counts, Nat.mod_one]

/-- Settles O2: a running device advances by one beat, and a job's beat by what its swarm allows. -/
theorem emptyQueuePassesABeat : Obligations.EmptyQueuePassesABeat := by
  intro s hempty
  have hstep : step s = .next s.tick := by simp only [step, hempty]
  refine ⟨fun hoff => ?_, fun hon => ⟨s.advance 1, ?_, rfl, fun i hi => s.clock_after 1 hi, fun id j hj => ⟨fun hhold => ?_,
    fun hhold hrun hdiv hsub => ?_⟩⟩⟩
  · rw [hstep, State.tick, hoff]
    rfl
  · rw [hstep, State.tick, hon]
    rfl
  · rw [State.find_advance_job hj, State.inHold, hhold, Job.advanced_held]
  · rw [State.find_advance_job hj, hhold, hdiv, Job.advanced_undivided hrun hsub]

/-! ### Scalar rows (R224, R234) -/

/-- A scalar row writes what its operation gives to RD; s0 still reads 0. -/
theorem sclRow_writes {s : State} {c : Instr} {v : Fin 128} {rd : Fin 32} {f : State → Vat → DWord} {w : DWord} (hl : s.live)
    (hc : exec c s = act (sclRow v rd f) s) (hw : f s (s.vat v) = w) :
    ∃ t, Runs c s t ∧ OnlySregs v s t ∧
      ∀ r, (t.vat v).sreg r = if r = 0 then 0 else if r = rd then w else (s.vat v).sreg r := by
  obtain ⟨t, hruns, honly, hvat⟩ := runs_modVat (g := fun x => x.setSreg rd (f s x)) hl hc rfl
  refine ⟨t, hruns, ⟨honly, ?_⟩, fun r => ?_⟩
  · rw [hvat]
    unfold Vat.setSreg
    split <;> rfl
  · rw [hvat, Vat.sreg_setSreg, hw]
    by_cases hr : r = 0
    · subst hr
      rw [if_neg fun h => h.2 rfl, if_pos rfl]
      rfl
    · simp [hr]

theorem field_toNat {n : Nat} (x : BitVec n) (lo w : Nat) : (field x lo w).toNat = x.toNat / 2 ^ lo % 2 ^ w := by
  rw [field, BitVec.extractLsb'_toNat, Nat.shiftRight_eq_div_pow]

theorem boolWord_slt (a b : DWord) : boolWord (a.slt b) = if a.toInt < b.toInt then 1 else 0 := by
  rw [boolWord, BitVec.slt]
  exact if_congr decide_eq_true_iff rfl rfl

theorem State.jobBeat_some {s : State} {v : Nat} {j : Job} (h : s.jobOf v = some j) : s.jobBeat v = j.beat := by
  rw [State.jobBeat, h]

theorem State.jobBeat_none {s : State} {v : Nat} (h : s.jobOf v = none) : s.jobBeat v = 0 := by
  rw [State.jobBeat, h]

/-- The loop register that RDL reads: LC, LI, LS or LE of the level that IMM names. -/
theorem sclRdl_eq (x : Vat) (imm : Half) {l : LoopLevel} (hl : tabGet {} x.loops (imm.toNat / 4 % 4) = l) :
    sclRdl x imm = (if imm.toNat % 4 = 0 then l.lc else if imm.toNat % 4 = 1 then l.li
      else if imm.toNat % 4 = 2 then l.ls else l.le).zeroExtend 64 := by
  have hlevel : (field imm 2 2).toNat = imm.toNat / 4 % 4 := field_toNat imm 2 2
  have hwhich : (field imm 0 2).toNat = imm.toNat % 4 := by rw [field_toNat]; omega
  unfold sclRdl
  rw [hlevel, hl, hwhich]
  have : imm.toNat % 4 < 4 := Nat.mod_lt _ (by decide)
  generalize imm.toNat % 4 = k at this
  match k, this with
  | 0, _ => rfl
  | 1, _ => rfl
  | 2, _ => rfl
  | 3, _ => rfl

/-- Settles O5: each scalar row is `sclRow` with its own operation. -/
theorem scalarResults : Obligations.ScalarResults := by
  intro s v rd ra rb imm hl x a b gives
  have row (c : Instr) (f : State → Vat → DWord) (w : DWord) (hc : exec c s = act (sclRow v rd f) s) (hw : f s x = w) :
      gives c w := sclRow_writes hl hc hw
  have hshift : (field imm 0 6).toNat = imm.toNat % 64 := by rw [field_toNat]; omega
  refine ⟨row _ _ _ rfl rfl, row _ _ _ rfl rfl, row _ _ _ rfl rfl, row _ _ _ rfl rfl, row _ _ _ rfl rfl, row _ _ _ rfl rfl,
    row _ _ _ rfl rfl, row _ _ _ rfl rfl, row _ _ _ rfl rfl, row _ _ _ rfl (boolWord_slt a b), row _ _ _ rfl rfl,
    row _ _ _ rfl rfl, row _ _ _ rfl rfl, row _ _ _ rfl ?shli, row _ _ _ rfl ?shri, row _ _ _ rfl ?rdid,
    fun j hj => row _ _ _ rfl (congrArg (BitVec.ofNat 64) (State.jobBeat_some hj)),
    fun hj => row _ _ _ rfl (congrArg (BitVec.ofNat 64) (State.jobBeat_none hj)),
    fun l hlevel => row _ _ _ rfl (sclRdl_eq x imm ?level),
    fun hlevel => row _ _ _ rfl ((sclRdl_eq x imm (l := {}) ?unlisted).trans ?zero)⟩
  case shli => exact congrArg (a <<< ·) hshift
  case shri => exact congrArg (a >>> ·) hshift
  case rdid => rw [sclRdid, Nat.mod_eq_of_lt v.isLt]
  case level => rw [tabGet, hlevel]; rfl
  case unlisted => rw [tabGet, hlevel]; rfl
  case zero => simp

end Sys2Proof.Machine
end
section
/-! The statements on hardware loops and branches (R227 to R229), with what a CTL row does where its check passes and where it
fails. -/

namespace Sys2Proof.Machine

/-! ### Checks and CTL rows -/

theorem need_eq_none {ok : Bool} {c : TrapCause} : need ok c = none ↔ ok = true := by
  unfold need
  split <;> simp_all

theorem need_false (c : TrapCause) : need false c = some c := rfl

/-- A row traps with the cause that its check gives, and has its effect where the check gives none. -/
def State.checked (s : State) (v slot : Nat) (imm : Word) (check : Option TrapCause) (effect : State) : State :=
  match check with
  | some k => s.vatTrap v k (some slot) imm
  | none => effect

section Checked
variable {s : State} {c : Instr} {v slot : Nat} {imm : Word} {check : State → Option TrapCause} {f : State → State} (hl : s.live)
  (hc : exec c s = act (whenRunning fun s => s.checked v slot imm (check s) (f s)) s)
include hl hc

theorem checked_passes (h : check s = none) : Runs c s (s.after (f s)) := by
  rw [Runs, hc, act_next, whenRunning_on hl.1, h]
  rfl

theorem checked_leaves {u : State} (h : check s = none) (hf : f s = u) (hu : s.Leaves u) : Runs c s u := by
  rw [← hu.after hl.2.1 hl.2.2, ← hf]
  exact checked_passes hl hc h

theorem checked_becomes {g : Vat → Vat} (h : check s = none) (hf : f s = s.modVat v g) :
    ∃ t, Runs c s t ∧ VatBecomes v (g (s.vat v)) s t :=
  ⟨s.modVat v g, checked_leaves hl hc h hf ⟨rfl, rfl, rfl, rfl⟩, s.modVat_onlyVat v g, State.vat_modVat_same ..⟩

theorem checked_traps {k : TrapCause} (h : check s = some k) : ∃ t, Runs c s t ∧ Traps v k (some slot) imm s t := by
  refine ⟨s.after (s.vatTrap v k (some slot) imm), ?_, s.vatTrap_traps v k (some slot) imm⟩
  rw [Runs, hc, act_next, whenRunning_on hl.1, h]
  rfl

end Checked

/-- The bundle of a CTL row: a head and this slot, 12 bytes (R221). -/
def State.ctlCheck (s : State) (v : Nat) (c : Instr) : Option TrapCause := s.slotCheck v (s.vat v) ((s.vat v).pc.toNat + 12) c

def State.ctlAlone (s : State) (v : Nat) (c : Instr) : State :=
  s.ctl v c (s.vat v) (s.vat v).pc.toNat ((s.vat v).pc.toNat + 12)

/-- The command is the row of this CTL operation; IMM is TRAP's. -/
def IsCtl (v : Nat) (c : Instr) (imm : Word) (s : State) : Prop :=
  exec c s = act (whenRunning fun s => s.checked v 0 imm (s.ctlCheck v c) (s.ctlAlone v c)) s

/-! ### Loop levels (R229) -/

section Onward
variable {x : Vat} {pc : Nat}

theorem Vat.onward_outside (h : x.depth = 0 ∨ x.level.le.toNat ≠ pc) (seq : Nat) :
    x.onward pc seq = { x with pc := BitVec.ofNat 32 seq } := if_pos h

section Level
variable (hd : x.depth ≠ 0) (hpc : x.level.le.toNat = pc)
include hd hpc

theorem Vat.onward_repeats (hlc : 1 < x.level.lc.toNat) (seq : Nat) :
    x.onward pc seq = { x with
      pc := x.level.ls
      loops := tabPut (x.depth - 1) { x.level with lc := x.level.lc - 1, li := x.level.li + 1 } x.loops } := by
  rw [Vat.onward, loopNext, if_neg (not_or.2 ⟨hd, not_not.2 hpc⟩), if_pos hlc]

theorem Vat.onward_pops (hlc : x.level.lc.toNat ≤ 1) (seq : Nat) :
    x.onward pc seq = { x with depth := x.depth - 1 }.onward pc seq := by
  have hfuel : x.depth - 1 + 1 = x.depth := Nat.sub_add_cancel (Nat.pos_of_ne_zero hd)
  rw [Vat.onward, loopNext, if_neg (not_or.2 ⟨hd, not_not.2 hpc⟩), if_neg (Nat.not_lt.2 hlc), Vat.onward, hfuel]
  rfl

end Level

end Onward

/-- Going on changes of a vat its loop levels and its next bundle alone. -/
theorem Vat.onward_only (x : Vat) (pc seq : Nat) :
    x.onward pc seq = { x with pc := (x.onward pc seq).pc, depth := (x.onward pc seq).depth, loops := (x.onward pc seq).loops } := by
  suffices h : ∀ (k : Nat) (y : Vat), ∃ p d l, loopNext pc seq k y = { y with pc := p, depth := d, loops := l } by
    obtain ⟨p, d, l, h⟩ := h (x.depth + 1) x
    rw [Vat.onward, h]
  intro k
  induction k with
  | zero => exact fun y => ⟨_, _, _, rfl⟩
  | succ k ih =>
    intro y
    rw [loopNext]
    split
    · exact ⟨_, _, _, rfl⟩
    · split
      · exact ⟨_, _, _, rfl⟩
      · obtain ⟨p, d, l, h⟩ := ih y.pop
        exact ⟨p, d, l, h⟩

/-- A list laid down as a table from key 0 on reads back. -/
theorem map_tabGet_foldl_tabPut {β : Type} (d : β) (xs : List β) (t : Tab β) :
    (List.range xs.length).map (tabGet d ((List.range xs.length).foldl (fun m k => tabPut k (xs.getD k d) m) t)) = xs := by
  have h (q : Nat) := foldl_places (get := tabFind) (upd := fun m k => tabPut k (xs.getD k d) m)
    (g := fun k _ => some (xs.getD k d)) (fun m k q => by
      by_cases hq : q = k
      · subst hq
        simp
      · simp [hq, tabFind_put_ne hq]) (List.nodup_range (n := xs.length)) t q
  refine List.ext_getElem (by simp) fun i hi hi' => ?_
  rw [List.getElem_map, List.getElem_range, tabGet, h, if_pos (List.mem_range.2 hi'), Option.getD_some,
    List.getD_eq_getElem _ _ hi']

/-- Settles O6: the push of LOOP, and one round of `loopNext` after another. -/
theorem hardwareLoops : Obligations.HardwareLoops := by
  constructor
  · intro s v ra imm hl x seq count
    have hc : IsCtl v (.loop v ra imm) 0 s := rfl
    have hcheck : s.ctlCheck v (.loop v ra imm) =
        (need (decide (x.depth < 4)) .loopDepth).or (need (decide (seq ≤ imm.toNat)) .loopRange) := rfl
    have hpass (hd : x.depth < 4) (hr : seq ≤ imm.toNat) : s.ctlCheck v (.loop v ra imm) = none := by
      rw [hcheck, need_eq_none.2 (decide_eq_true hd), need_eq_none.2 (decide_eq_true hr)]
      rfl
    refine ⟨fun hd => checked_traps hl hc ?_, fun hd hr => checked_traps hl hc ?_, fun hd hr hcount =>
      checked_becomes hl hc (hpass hd hr) (if_pos hcount), fun hd hr hcount => ?_⟩
    · rw [hcheck, decide_eq_false (Nat.not_lt.2 hd)]
      rfl
    · rw [hcheck, decide_eq_true hd, decide_eq_false (Nat.not_le.2 hr)]
      rfl
    · obtain ⟨t, hruns, honly, hvat⟩ := checked_becomes hl hc (hpass hd hr) (if_neg hcount)
      refine ⟨t, hruns, honly, ?_⟩
      rw [hvat]
      refine ⟨rfl, ?_, rfl, rfl, fun k hk => tabFind_put_ne hk _ _⟩
      rw [Vat.level, tabGet]
      exact congrArg (Option.getD · _) (tabFind_put_same _ _ _)
  · intro x pc seq t
    refine ⟨fun h => Vat.onward_outside h seq, fun hd hpc hlc => ⟨_, rfl, ?_⟩, fun hd hpc hlc => Vat.onward_pops hd hpc hlc seq, rfl,
      ⟨_, rfl, rfl, ?_⟩⟩
    · rw [Vat.onward_repeats hd hpc hlc seq]
      exact ⟨rfl, congrArg (Option.getD · _) (tabFind_put_same _ _ _), fun k hk => tabFind_put_ne hk _ _⟩
    · exact map_tabGet_foldl_tabPut {} (((List.range x.depth).map (tabGet {} x.loops)).filter fun l => l.within t.toNat) x.loops

/-- Settles O7: a branch checks its target, and then goes or not. -/
theorem branches : Obligations.Branches := by
  intro s v ra rb t hl x pc goes
  have row (c : Instr) (taken : Bool) (hc : IsCtl v c 0 s) (hcheck : s.ctlCheck v c = s.checkTarget v t)
      (hctl : s.ctlAlone v c = s.modVat v fun x => x.branch taken t pc (pc + 12)) : goes c taken := by
    refine ⟨fun halign hin => checked_becomes hl hc (hcheck.trans (need_eq_none.2 ?_)) hctl, fun hbad =>
      checked_traps hl hc (hcheck.trans ?_)⟩
    · exact Bool.and_eq_true_iff.2 ⟨decide_eq_true halign, decide_eq_true hin⟩
    · have : ¬(t.toNat % 4 = 0 ∧ t.toNat < s.codeSize v) := by omega
      rw [State.checkTarget, ← Bool.decide_and, decide_eq_false this, need_false]
  exact ⟨row (.jmp v t) _ rfl rfl rfl, row (.brz v ra t) _ rfl rfl rfl,
    row (.brnz v ra t) _ rfl rfl (by rw [decide_not]; rfl), row (.brlt v ra rb t) _ rfl rfl rfl⟩

end Sys2Proof.Machine
end
section
/-! The statements on BSYNC and WAITF, and on YIELD, TRAP and END (R202, R227, R230 to R233, R246, R489). -/

namespace Sys2Proof.Machine

/-! ### An overrun (R489) -/

/-- An overrun is counted, and what it asks for is a hold and a record: it changes no vat, no job and no beat. -/
theorem State.overrun_only (s : State) (v lateness : Nat) : ∃ k p o l e m, s.overrun v lateness =
    { s with
      pwr := { s.pwr with overruns := s.pwr.overruns + 1, overrunLast := (min lateness 65535, v / 2) }
      tmb := { s.tmb with slots := k }, ports := p, out := o, err := l, evc := e, msix := m } := by
  have hsent (u : State) (slot : Nat) (alone : Bool) (i : ErrInfo) : ∃ k p o l e m,
      (if (u.requestHold slot lateness 2 alone).1 then ((u.requestHold slot lateness 2 alone).2.log i).raise 0x2C (v / 2)
        else (u.requestHold slot lateness 2 alone).2) =
      { u with tmb := { u.tmb with slots := k }, ports := p, out := o, err := l, evc := e, msix := m } := by
    obtain ⟨k, p, o, hhold⟩ := u.requestHold_holdOnly slot lateness 2 alone
    rw [hhold]
    split
    · obtain ⟨l, e, m, o', hlog⟩ := (State.log_logOnly { u with tmb := { u.tmb with slots := k }, ports := p, out := o } i).trans
        (State.raise_evcOnly _ 0x2C (v / 2)).logOnly
      exact ⟨k, p, o', l, e, m, hlog⟩
    · exact ⟨k, p, o, u.err, u.evc, u.msix, rfl⟩
  unfold State.overrun
  cases s.jobOf v with
  | none => exact hsent { s with pwr := _ } _ _ _
  | some j => exact hsent { s with pwr := _ } _ _ _

theorem State.overrun_vat (s : State) (v lateness w : Nat) : (s.overrun v lateness).vat w = s.vat w := by
  obtain ⟨_, _, _, _, _, _, h⟩ := s.overrun_only v lateness
  rw [h]
  rfl

theorem State.overrun_pwr (s : State) (v lateness : Nat) : (s.overrun v lateness).pwr =
    { s.pwr with overruns := s.pwr.overruns + 1, overrunLast := (min lateness 65535, v / 2) } := by
  obtain ⟨_, _, _, _, _, _, h⟩ := s.overrun_only v lateness
  rw [h]

/-! ### Whose job a vat runs -/

theorem State.jobOf_modVat {s : State} {v : Nat} {f : Vat → Vat} (hf : (f (s.vat v)).job = (s.vat v).job) :
    (s.modVat v f).jobOf v = s.jobOf v := by
  rw [State.jobOf, State.vat_modVat_same, hf]
  rfl

theorem State.vatLc_modVat {s : State} {v : Nat} {f : Vat → Vat} (hf : (f (s.vat v)).job = (s.vat v).job) :
    (s.modVat v f).vatLc v = s.vatLc v := by rw [State.vatLc, State.jobOf_modVat hf]; rfl

theorem State.jobBeat_modVat {s : State} {v : Nat} {f : Vat → Vat} (hf : (f (s.vat v)).job = (s.vat v).job) :
    (s.modVat v f).jobBeat v = s.jobBeat v := by rw [State.jobBeat, State.jobOf_modVat hf]; rfl

theorem VatBecomes.modVat {v : Nat} {y : Vat} {s t : State} (h : VatBecomes v y s t) (f : Vat → Vat) :
    VatBecomes v (f y) s (t.modVat v f) :=
  ⟨h.1.trans (t.modVat_onlyVat v f), by rw [State.vat_modVat_same, h.2]⟩

theorem State.modVat_becomes (s : State) (v : Nat) (f : Vat → Vat) : VatBecomes v (f (s.vat v)) s (s.modVat v f) :=
  ⟨s.modVat_onlyVat v f, State.vat_modVat_same ..⟩

theorem State.modVat_leaves (s : State) (v : Nat) (f : Vat → Vat) : s.Leaves (s.modVat v f) := ⟨rfl, rfl, rfl, rfl⟩

/-! ### BSYNC (R230) -/

/-- The beat that BSYNC names. -/
def bsyncBeat (x : Vat) (ra : Fin 32) (imm : Word) : Nat := (x.sreg ra + imm.zeroExtend 64).toNat

section Bsync
variable {s : State} {v : Fin 128} {ra : Fin 32} {imm : Word}

theorem State.bsync_bestEffort (h : s.vatLc v = false) :
    s.ctlAlone v (.bsync v ra imm) =
      (s.modVat v fun x => x.onward (s.vat v).pc.toNat ((s.vat v).pc.toNat + 12)).modVat v fun x => { x with run := .bsync 0 } :=
  if_neg (by simp [h])

section Critical
variable (h : s.vatLc v = true)
include h

theorem State.bsync_early (ht : s.jobBeat v < bsyncBeat (s.vat v) ra imm) :
    s.ctlAlone v (.bsync v ra imm) =
      (s.modVat v fun x => x.onward (s.vat v).pc.toNat ((s.vat v).pc.toNat + 12)).modVat v
        fun x => { x with run := .bsync (bsyncBeat (s.vat v) ra imm) } :=
  (if_pos h).trans ((if_neg (Nat.not_lt.2 ht.le)).trans (if_neg ht.ne'))

theorem State.bsync_now (ht : s.jobBeat v = bsyncBeat (s.vat v) ra imm) :
    s.ctlAlone v (.bsync v ra imm) = s.modVat v fun x => x.onward (s.vat v).pc.toNat ((s.vat v).pc.toNat + 12) :=
  (if_pos h).trans ((if_neg (Nat.not_lt.2 ht.le)).trans (if_pos ht.symm))

theorem State.bsync_late (ht : bsyncBeat (s.vat v) ra imm < s.jobBeat v) :
    s.ctlAlone v (.bsync v ra imm) =
      (s.modVat v fun x => x.onward (s.vat v).pc.toNat ((s.vat v).pc.toNat + 12)).overrun v
        (s.jobBeat v - bsyncBeat (s.vat v) ra imm) :=
  (if_pos h).trans (if_pos ht)

end Critical

end Bsync

/-! ### WAITF (R231) -/

theorem waitfHolds_iff (w m : Word) (k : Bool) : waitfHolds w m k = true ↔ if k then w &&& m = 0 else w &&& m = m := by
  cases k <;> simp [waitfHolds]

/-- The test of a watched word: the vat goes on where the condition holds, and late where its deadline beat has begun. -/
theorem State.waitfTest_dated {s : State} {v a d : Nat} {m : Word} {k : Bool} (h : (s.vat v).run = .waitf a m k d) :
    s.waitfTest v = if waitfHolds ((s.vat v).word a) m k then
      (if s.vatLc v = true ∧ d ≠ 0 ∧ d ≤ s.jobBeat v then
        (s.modVat v fun x => { x with run := .running }).overrun v (max 1 (s.jobBeat v - d))
      else s.modVat v fun x => { x with run := .running })
      else s := by
  simp only [State.waitfTest, h]

theorem Vat.word_of_spd {x y : Vat} (h : y.spd = x.spd) (hs : y.stale = x.stale) (a : Nat) : y.word a = x.word a := by
  rw [Vat.word, Vat.line, h, hs]
  rfl

section Waitf
variable (s : State) (v : Fin 128) (ra rb : Fin 32) (cond : Bool) (imm : Word)

/-- The vat's state as a WAITF has begun to watch its word. -/
def State.watching : State :=
  (s.modVat v fun x => x.onward (s.vat v).pc.toNat ((s.vat v).pc.toNat + 12)).modVat v fun x =>
    { x with run := .waitf ((s.vat v).sreg ra).toNat (field ((s.vat v).sreg rb) 0 32) cond imm.toNat }

theorem State.watching_becomes : VatBecomes v
    { (s.vat v).onward (s.vat v).pc.toNat ((s.vat v).pc.toNat + 12) with
      run := .waitf ((s.vat v).sreg ra).toNat (field ((s.vat v).sreg rb) 0 32) cond imm.toNat }
    s (s.watching v ra rb cond imm) := (s.modVat_becomes v _).modVat _

theorem State.watching_leaves : s.Leaves (s.watching v ra rb cond imm) :=
  (s.modVat_leaves v _).trans (State.modVat_leaves _ v _)

/-- What a WAITF does is its first test, of the word as it was before the bundle. -/
theorem State.waitf_alone : s.ctlAlone v (.waitf v ra rb cond imm false) =
    if waitfHolds ((s.vat v).word ((s.vat v).sreg ra).toNat) (field ((s.vat v).sreg rb) 0 32) cond then
      (if s.vatLc v = true ∧ imm.toNat ≠ 0 ∧ imm.toNat ≤ s.jobBeat v then
        ((s.watching v ra rb cond imm).modVat v fun x => { x with run := .running }).overrun v (max 1 (s.jobBeat v - imm.toNat))
      else (s.watching v ra rb cond imm).modVat v fun x => { x with run := .running })
    else s.watching v ra rb cond imm := by
  have hvat := (s.watching_becomes v ra rb cond imm).2
  have honward := (s.vat v).onward_only (s.vat v).pc.toNat ((s.vat v).pc.toNat + 12)
  have hword (a : Nat) : ((s.watching v ra rb cond imm).vat v).word a = (s.vat v).word a :=
    Vat.word_of_spd (by rw [hvat, honward]) (by rw [hvat, honward]) a
  have hjob : (s.watching v ra rb cond imm).jobOf v = s.jobOf v := by
    have : ((s.watching v ra rb cond imm).vat v).job = (s.vat v).job := by rw [hvat, honward]
    rw [State.jobOf, this]
    rfl
  have hlc : (s.watching v ra rb cond imm).vatLc v = s.vatLc v := by rw [State.vatLc, hjob, State.vatLc]
  have hbeat : (s.watching v ra rb cond imm).jobBeat v = s.jobBeat v := by rw [State.jobBeat, hjob, State.jobBeat]
  have htest : s.ctlAlone v (.waitf v ra rb cond imm false) = (s.watching v ra rb cond imm).waitfTest v := rfl
  rw [htest, State.waitfTest_dated (congrArg Vat.run hvat), hword, hlc, hbeat]

theorem waitf_isCtl (p : Bool) : IsCtl v (.waitf v ra rb cond imm p) 0 s := rfl

theorem State.waitf_check (p : Bool) : s.ctlCheck v (.waitf v ra rb cond imm p) =
    need (decide (((s.vat v).sreg ra).toNat < 2 ^ 22) && decide (((s.vat v).sreg ra).toNat % 4 = 0)) .scratchAddress := rfl

theorem State.waitf_parity : s.ctlAlone v (.waitf v ra rb cond imm true) = s.spdParity v 2 ((s.vat v).sreg ra).toNat := rfl

end Waitf

theorem State.spdParity_faults (s : State) (v path a : Nat) : ParityFaults v path a s (s.spdParity v path a) :=
  (s.faultVat_spec v rfl rfl rfl).1

/-- Settles O8: each of the two passes its check or traps, and goes on as its test of the beat or of the word allows. -/
theorem ctlWaits : Obligations.CtlWaits := by
  constructor
  · intro s v ra imm hl x becomes on T
    have hc : IsCtl v (.bsync v ra imm) 0 s := rfl
    have hwaits (y : RunState) (h : s.ctlAlone v (.bsync v ra imm) =
        (s.modVat v fun z => z.onward x.pc.toNat (x.pc.toNat + 12)).modVat v fun z => { z with run := y }) :
        becomes (.bsync v ra imm) { on with run := y } :=
      ⟨_, checked_leaves hl hc rfl h ((s.modVat_leaves v _).trans (State.modVat_leaves _ v _)), (s.modVat_becomes v _).modVat _⟩
    refine ⟨fun hbe => hwaits _ (State.bsync_bestEffort hbe), fun hlc ht => hwaits _ (State.bsync_early hlc ht),
      fun hlc ht => checked_becomes hl hc rfl (State.bsync_now hlc ht),
      fun hlc ht => ⟨_, checked_passes hl hc rfl, ?_⟩⟩
    rw [State.bsync_late hlc ht]
    have hpwr := (s.modVat v fun z => z.onward x.pc.toNat (x.pc.toNat + 12)).overrun_pwr v (s.jobBeat v - T)
    exact ⟨(State.overrun_vat _ _ _ _).trans (State.vat_modVat_same ..), congrArg Pwr.overruns hpwr, congrArg Pwr.overrunLast hpwr⟩
  · intro s v ra rb cond imm hl x becomes on a mask holds c
    have hc (p : Bool) : IsCtl v (c p) 0 s := waitf_isCtl s v ra rb cond imm p
    have hpass (p : Bool) (ha : a < 2 ^ 22) (halign : a % 4 = 0) : s.ctlCheck v (c p) = none := by
      rw [State.waitf_check, need_eq_none]
      exact Bool.and_eq_true_iff.2 ⟨decide_eq_true ha, decide_eq_true halign⟩
    have heffect := s.waitf_alone v ra rb cond imm
    have hwatching := s.watching_becomes v ra rb cond imm
    have hleaves := s.watching_leaves v ra rb cond imm
    refine ⟨fun p hbad => checked_traps hl (hc p) ?_, fun ha halign hno => ?_, fun ha halign hyes hintime => ?_,
      fun ha halign hyes hcrit himm hlate => ⟨_, checked_passes hl (hc false) (hpass false ha halign), ?_⟩, fun ha halign => ?_⟩
    · have : ¬(a < 2 ^ 22 ∧ a % 4 = 0) := by omega
      rw [State.waitf_check, ← Bool.decide_and, decide_eq_false this, need_false]
    · rw [if_neg (by rwa [waitfHolds_iff])] at heffect
      exact ⟨_, checked_leaves hl (hc false) (hpass false ha halign) heffect hleaves, hwatching⟩
    · have hundue : ¬(s.vatLc v = true ∧ imm.toNat ≠ 0 ∧ imm.toNat ≤ s.jobBeat v) := by
        rintro ⟨hcrit, himm, hlate⟩
        rcases hintime with h | h | h
        · exact Bool.false_ne_true (h.symm.trans hcrit)
        · exact himm (by rw [h]; rfl)
        · exact Nat.not_lt.2 hlate h
      rw [if_pos ((waitfHolds_iff ..).2 hyes), if_neg hundue] at heffect
      exact ⟨_, checked_leaves hl (hc false) (hpass false ha halign) heffect (hleaves.trans (State.modVat_leaves _ v _)),
        hwatching.modVat _⟩
    · have himm' : imm.toNat ≠ 0 := fun h => himm (BitVec.eq_of_toNat_eq h)
      rw [if_pos ((waitfHolds_iff ..).2 hyes), if_pos ⟨hcrit, himm', hlate⟩] at heffect
      rw [heffect]
      exact ⟨(State.overrun_vat _ _ _ _).trans (hwatching.modVat _).2, congrArg Pwr.overruns (State.overrun_pwr _ _ _)⟩
    · exact ⟨_, checked_passes hl (hc true) (hpass true ha halign), s.spdParity_faults v 2 a⟩

/-! ### END (R233) -/

theorem State.finishEnd_waits {s : State} {v : Nat} (h : (s.vat v).xfers ≠ [] ∨ s.nbeBusy v = true) : s.finishEnd v = s := by
  unfold State.finishEnd
  refine if_neg fun ⟨_, hx, hb⟩ => h.elim (fun h => h (List.isEmpty_iff.1 hx)) fun h => ?_
  rw [h] at hb
  exact Bool.false_ne_true hb

section End
variable {s : State} {v : Nat} (hrun : (s.vat v).run = .ending) (hx : (s.vat v).xfers = []) (hb : s.nbeBusy v = false)
include hrun hx hb

theorem State.finishEnd_alone (hjob : s.jobOf v = none) : s.finishEnd v = s.modVat v fun x => { x with run := .ended } := by
  have hbind : (s.vat v).job.bind (tabFind s.jobs) = none := hjob
  unfold State.finishEnd
  dsimp only
  rw [if_pos ⟨hrun, by rw [hx]; rfl, by rw [hb]; rfl⟩]
  simp only [hbind]

/-- The vat has ended; where it was the last of its job, the job ends. -/
theorem State.finishEnd_job {j : Job} (hjob : s.jobOf v = some j) :
    s.finishEnd v =
      let u := (s.modVat v fun x => { x with run := .ended }).modJob j.id fun j =>
        { j with ended := if j.ended.contains v then j.ended else j.ended ++ [v] }
      if j.vatList.all fun k => k == v || j.ended.contains k then
        u.endJob j.id .idle { status := statusOk, result := u.tmb.beat }
      else u := by
  have hbind : (s.vat v).job.bind (tabFind s.jobs) = some j := hjob
  unfold State.finishEnd
  dsimp only
  rw [if_pos ⟨hrun, by rw [hx]; rfl, by rw [hb]; rfl⟩]
  simp only [hbind]

end End

theorem State.yield_alone (s : State) (v : Fin 128) (imm : Word) : s.ctlAlone v (.yield v imm) =
    if s.vatLc v then s.modVat v fun x => x.onward (s.vat v).pc.toNat ((s.vat v).pc.toNat + 12)
    else (s.modVat v fun x => x.onward (s.vat v).pc.toNat ((s.vat v).pc.toNat + 12)).modVat v
      fun x => { x with run := .yield imm.toNat } := rfl

/-- Settles O9: YIELD waits or goes on, the check of TRAP always traps, and END is `finishEnd` of a vat that ends. -/
theorem yieldTrapEnd : Obligations.YieldTrapEnd := by
  intro s v imm hl x becomes on
  have hyield : IsCtl v (.yield v imm) 0 s := rfl
  have hend : IsCtl v (.endJob v) 0 s := rfl
  let ending : State := s.modVat v fun x => { x with run := .ending }
  have hending : VatBecomes v { x with run := .ending } s ending := s.modVat_becomes v _
  have hrun : (ending.vat v).run = .ending := congrArg Vat.run hending.2
  have hxfers : (ending.vat v).xfers = x.xfers := by rw [hending.2]
  have hjobOf : ending.jobOf v = s.jobOf v := State.jobOf_modVat rfl
  have heffect : s.ctlAlone v (.endJob v) = ending.finishEnd v := rfl
  refine ⟨fun hlc => checked_becomes hl hyield rfl ((s.yield_alone v imm).trans (if_pos hlc)), fun hbe => ?_,
    checked_traps hl (c := .trap v imm) (check := fun s => s.ctlCheck v (.trap v imm)) (f := fun s => s.ctlAlone v (.trap v imm)) rfl rfl,
    fun hwait => ?_, fun hx hb hj => ?_, fun j w hx hb hj hfind hw hwv hwend hvend => ?_, fun j hx hb hj hfind hall => ?_⟩
  · exact ⟨_, checked_leaves hl hyield rfl ((s.yield_alone v imm).trans (if_neg (by simp [hbe])))
      ((s.modVat_leaves v _).trans (State.modVat_leaves _ v _)), (s.modVat_becomes v _).modVat _⟩
  · rw [State.finishEnd_waits (by rwa [hxfers])] at heffect
    exact ⟨ending, checked_leaves hl hend rfl heffect (s.modVat_leaves v _), hending⟩
  · rw [State.finishEnd_alone hrun (hxfers.trans hx) hb (hjobOf.trans hj)] at heffect
    exact ⟨_, checked_leaves hl hend rfl heffect ((s.modVat_leaves v _).trans (State.modVat_leaves _ v _)), hending.modVat _⟩
  · have hothers : ¬(j.vatList.all fun k => k == v.val || j.ended.contains k) = true := fun h => by
      have := List.all_eq_true.1 h w hw
      simp [hwv, hwend] at this
    rw [State.finishEnd_job hrun (hxfers.trans hx) hb (hjobOf.trans hj)] at heffect
    replace heffect := heffect.trans (if_neg hothers)
    refine ⟨_, checked_passes hl hend rfl, ?_⟩
    rw [heffect]
    refine ⟨?_, (State.find_modJob _ _ _ _).trans ?_⟩
    · obtain ⟨js, h⟩ := (ending.modVat v fun x => { x with run := .ended }).modJob_only j.id fun j =>
        { j with ended := if j.ended.contains v.val then j.ended else j.ended ++ [v.val] }
      rw [h]
      exact congrArg Vat.run (hending.modVat fun x => { x with run := .ended }).2
    · have hfind' : tabFind (ending.modVat v fun x => { x with run := .ended }).jobs j.id = some j := hfind
      rw [if_pos rfl, hfind']
      simp [hvend]
  · have hlast : (j.vatList.all fun k => k == v.val || j.ended.contains k) = true := by
      simpa [List.all_eq_true] using hall
    rw [State.finishEnd_job hrun (hxfers.trans hx) hb (hjobOf.trans hj)] at heffect
    refine ⟨_, checked_passes hl hend rfl, ?_⟩
    rw [heffect.trans (if_pos hlast)]
    exact (State.endJob_gone _ _ _ _).gone

end Sys2Proof.Machine
end
section
/-! The statement on PORT loads (R200, R224, R235, R236; log 32). -/

namespace Sys2Proof.Machine

/-! ### Runs of keys in a table -/

theorem tabFind_consecutive {β : Type} (c n : Nat) (g : Nat → β) (k : Nat) :
    tabFind ((List.range n).map fun i => (c + i, g i)) k = if c ≤ k ∧ k < c + n then some (g (k - c)) else none := by
  induction n with
  | zero => rw [if_neg (by omega)]; rfl
  | succ n ih =>
    rw [List.range_succ, List.map_append, tabFind_append, ih, List.map_singleton, tabFind_cons, tabFind_nil]
    by_cases hk : c + n = k
    · subst hk
      simp
    · rw [if_neg hk, Option.or_none]
      exact if_congr (by omega) rfl rfl

theorem tabFind_foldl_tabPut {β : Type} (c n : Nat) (g : Nat → β) (t : Tab β) (k : Nat) :
    tabFind ((List.range n).foldl (fun t i => tabPut (c + i) (g i) t) t) k =
      if c ≤ k ∧ k < c + n then some (g (k - c)) else tabFind t k := by
  induction n with
  | zero => rw [if_neg (by omega)]; rfl
  | succ n ih =>
    rw [List.range_succ, List.foldl_append, List.foldl_cons, List.foldl_nil]
    by_cases hk : k = c + n
    · subst hk
      simp
    · rw [tabFind_put_ne hk, ih]
      exact if_congr (by omega) rfl rfl

/-! ### Rows that load into arrays -/

/-- Arrays that change, and the base register that is post-incremented. -/
theorem portToArrays {v : Nat} {a : PortArgs} {f : ArrayUnit → ArrayUnit} {s t : State} (honly : OnlyVat v s t)
    (hvat : t.vat v = ((s.vat v).modArrays a.amask fun _ => f).increment (s.vat v) a) : PortToArrays v a f s t := by
  obtain ⟨regs, hregs⟩ := Vat.increment_only ((s.vat v).modArrays a.amask fun _ => f) (s.vat v) a
  have harrays := (s.vat v).modArrays_only a.amask fun _ => f
  have hsreg (r : Fin 32) : ((s.vat v).modArrays a.amask fun _ => f).sreg r = (s.vat v).sreg r := by rw [harrays]; rfl
  refine ⟨honly, ?_, fun k => ?_, fun r => by rw [hvat, Vat.sreg_increment hsreg]⟩
  · rw [hvat, hregs, harrays]
  · rw [hvat, hregs]
    exact Vat.array_modArrays _ _ _ _

/-- The entries of the delta buffer after LDD of one half (R236). -/
def deltaLoaded (base : Nat) (l : Line) (u : ArrayUnit) : Tab Word :=
  let rest := u.delta.filter fun (k, _) => decide (k < base) || decide (base + 512 ≤ k)
  (rest.filter fun (k, _) => decide (k < base)) ++ ((List.range 512).map fun k => (base + k, lineWord l k)) ++
    (rest.filter fun (k, _) => decide (base + 512 ≤ k))

theorem tabFind_deltaLoaded (base : Nat) (l : Line) (u : ArrayUnit) (k : Nat) :
    tabFind (deltaLoaded base l u) k =
      if base ≤ k ∧ k < base + 512 then some (lineWord l (k - base)) else tabFind u.delta k := by
  have hrest (p : Nat → Bool) (t : Tab Word) : tabFind (t.filter fun (k, _) => p k) k = if p k then tabFind t k else none :=
    tabFind_filter p t k
  simp only [deltaLoaded, tabFind_append]
  rw [hrest fun k => decide (k < base), hrest fun k => decide (base + 512 ≤ k),
    hrest fun k => decide (k < base) || decide (base + 512 ≤ k), tabFind_consecutive]
  by_cases hlow : k < base
  · simp [hlow, Nat.not_le.2 hlow, show ¬base + 512 ≤ k by omega]
  · by_cases hhigh : k < base + 512
    · simp [hlow, hhigh, Nat.not_lt.1 hlow, Nat.not_le.2 hhigh]
    · simp [hlow, hhigh, Nat.not_lt.1 hhigh]

/-- The store of code tables after LDT of one half (R236, R237). -/
def tablesLoaded (base first : Nat) (l : Line) (u : ArrayUnit) : Tab (Nat × CodeTable) :=
  (List.range 16).foldl (fun t i => tabPut (base + i) (first + i, field l (1024 * i) 1024) t) u.tables

/-! ### Rows that load into registers -/

theorem lane_field_line (l : Line) (h i : Nat) (hi : i < 256) : lane (field l (8192 * h) 8192) i = lineWord l (256 * h + i) := by
  refine BitVec.eq_of_getLsbD_eq fun j hj => ?_
  rw [getLsbD_lineWord _ _ hj, lane, BitVec.getLsbD_extractLsb', BitVec.getLsbD_extractLsb', decide_eq_true hj,
    decide_eq_true (by omega), Bool.true_and, Bool.true_and]
  congr 1
  omega

theorem Vat.vreg_setPair (x : Vat) (r q : Nat) (lo hi : BitVec 8192) :
    ((x.setVreg r lo).setVreg (r + 1) hi).vreg q = if q = r + 1 then hi else if q = r then lo else x.vreg q := by
  by_cases hhi : q = r + 1
  · subst hhi
    simp
  · rw [Vat.vreg_setVreg_ne _ hhi, if_neg hhi]
    by_cases hlo : q = r
    · subst hlo
      simp
    · rw [Vat.vreg_setVreg_ne _ hlo, if_neg hlo]

/-- A PORT load's check at a good line address. -/
theorem checkPort_line {x : Vat} {a : PortArgs} (hcount : a.count = 0) (haddr : portAddr x a 0 < 3 * 2 ^ 22)
    (hline : portAddr x a 0 % 2048 = 0) : checkPort x a false false = none :=
  checkPort_passes hcount (Bool.and_eq_true_iff.2 ⟨decide_eq_true (by unfold spdAlias; omega), decide_eq_true hline⟩)

theorem checkPort_dword {x : Vat} {a : PortArgs} (hcount : a.count = 0) (haddr : portAddr x a 0 < 3 * 2 ^ 22)
    (hdword : portAddr x a 0 % 8 = 0) : checkPort x a true false = none :=
  checkPort_passes hcount (Bool.and_eq_true_iff.2 ⟨decide_eq_true (by unfold spdAlias; omega), decide_eq_true hdword⟩)

/-- Settles O10: a load changes arrays or registers by the line that it reads, and increments the base. -/
theorem portLoads : Obligations.PortLoads := by
  constructor
  · intro s v a hl hcount x addr line sel haddr hline
    have hcheck : checkPort x a false false = none := checkPort_line hcount haddr hline
    have row (c : Instr) {f : Vat → PortOut} (g : ArrayUnit → ArrayUnit)
        (hc : exec c s = act (portRow v false (fun x => checkPort x a false false) f) s)
        (hf : f x = { vat := (x.modArrays a.amask fun _ => g).increment x a }) :
        ∃ t, Runs c s t ∧ PortToArrays v a g s t := by
      obtain ⟨t, hruns, honly, hvat⟩ := portRow_passes hl hc hcheck (congrArg PortOut.fault hf)
      exact ⟨t, hruns, portToArrays honly (hvat.trans (congrArg PortOut.vat hf))⟩
    refine ⟨row (.lda v a false) _ rfl rfl, ?_, ?_⟩
    · obtain ⟨t, hruns, hto⟩ := row (.ldd v a false) (fun u => { u with delta := deltaLoaded (if a.sel then 512 else 0) line u }) rfl rfl
      refine ⟨t, hruns, _, hto, fun u k => (tabFind_deltaLoaded _ _ _ _).trans ?_⟩
      have hbase : (if a.sel then 512 else 0) = 512 * sel := by cases h : a.sel <;> simp [sel, h]
      rw [hbase]
    · obtain ⟨t, hruns, hto⟩ := row (.ldt v a false)
        (fun u => { u with tables := tablesLoaded (if a.sel then 16 else 0) (x.sreg a.reg).toNat line u }) rfl rfl
      refine ⟨t, hruns, _, hto, fun u k => (tabFind_foldl_tabPut _ 16 _ _ _).trans ?_⟩
      have hbase : (if a.sel then 16 else 0) = 16 * sel := by cases h : a.sel <;> simp [sel, h]
      rw [hbase]
  · intro s v a hl hcount x addr line haddr
    refine ⟨fun hline heven => ?_, fun hdword => ?_⟩
    · have hcheck : (checkPair a true).or (checkPort x a false false) = none := by
        have hpair : checkPair a true = none := by
          have : a.reg.val < 31 := by omega
          simp [checkPair, need, this, heven]
        rw [hpair, checkPort_line hcount haddr hline]
        rfl
      obtain ⟨t, hruns, honly, hvat⟩ := portRow_passes (c := .ldv v a false) hl rfl hcheck rfl
      replace hvat : t.vat v =
          ((x.increment x a).setVreg a.reg.val (field line 0 8192)).setVreg (a.reg.val + 1) (field line 8192 8192) := hvat
      obtain ⟨regs, hregs⟩ := Vat.increment_only x x a
      have hvreg (q : Nat) : (t.vat v).vreg q =
          if q = a.reg.val + 1 then field line 8192 8192 else if q = a.reg.val then field line 0 8192 else x.vreg q := by
        rw [hvat, Vat.vreg_setPair, hregs]
        rfl
      refine ⟨t, hruns, honly, by rw [hvat, hregs]; rfl, fun r => ?_, fun r hr hr' => ?_, fun l hi => ⟨?_, ?_⟩⟩
      · rw [hvat]
        exact Vat.sreg_increment (fun _ => rfl) a r
      · rw [hvreg, if_neg hr', if_neg hr]
      · rw [hvreg, if_neg (by omega), if_pos rfl, show (0 : Nat) = 8192 * 0 from rfl, lane_field_line _ _ _ hi, Nat.mul_zero, Nat.zero_add]
      · rw [hvreg, if_pos rfl]
        exact lane_field_line line 1 l hi
    · obtain ⟨t, hruns, honly, hvat⟩ := portRow_passes (c := .lds v a false) hl rfl (checkPort_dword hcount haddr hdword) rfl
      replace hvat : t.vat v = (x.increment x a).setSreg a.reg (field line (8 * (addr % 2048)) 64) := hvat
      obtain ⟨regs, hregs⟩ := Vat.increment_only x x a
      refine ⟨t, hruns, ⟨honly, ?_⟩, fun r => ?_⟩
      · rw [hvat, hregs]
        unfold Vat.setSreg
        split <;> rfl
      · rw [hvat, Vat.sreg_setSreg]
        by_cases hr : r = 0
        · subst hr
          rw [if_neg fun h => h.2 rfl, if_pos rfl]
          rfl
        · rw [if_neg hr, Vat.sreg_increment (fun _ => rfl)]
          simp [hr]

end Sys2Proof.Machine
end
section
/-! The statement on the weight slot (R184, R193, R222, R239; log 22). -/

namespace Sys2Proof.Machine

/-- Arrays that change, and nothing else. -/
theorem toArrays {v : Nat} {m : BitVec 8} {f : Nat → ArrayUnit → ArrayUnit} {s t : State} (honly : OnlyVat v s t)
    (hvat : t.vat v = (s.vat v).modArrays m f) : ToArrays v m f s t := by
  refine ⟨honly, ?_, fun k => ?_⟩
  · rw [hvat]
    exact Vat.modArrays_only _ _ _
  · rw [hvat]
    exact Vat.array_modArrays _ _ _ _

/-! ### Entries that are laid down one after another (R239) -/

section Laid
variable {β : Type} (pos : Nat → Nat) (val : Nat → β)

/-- What is laid down at places that no entry names stays. -/
theorem tabFind_laid_other {p : Nat} (n : Nat) (t : Tab β) (h : ∀ e, e < n → pos e ≠ p) :
    tabFind ((List.range n).foldl (fun t e => tabPut (pos e) (val e) t) t) p = tabFind t p := by
  induction n with
  | zero => rfl
  | succ n ih =>
    rw [List.range_succ, List.foldl_append, List.foldl_cons, List.foldl_nil, tabFind_put_ne (h n (Nat.lt_succ_self n)).symm,
      ih fun e he => h e (Nat.lt_succ_of_lt he)]

/-- Of several entries for one place the last one stays. -/
theorem tabFind_laid_last {p e : Nat} (n : Nat) (t : Tab β) (he : e < n) (hp : pos e = p)
    (hlast : ∀ e', e < e' → e' < n → pos e' ≠ p) :
    tabFind ((List.range n).foldl (fun t e => tabPut (pos e) (val e) t) t) p = some (val e) := by
  induction n with
  | zero => exact absurd he (Nat.not_lt_zero e)
  | succ n ih =>
    rw [List.range_succ, List.foldl_append, List.foldl_cons, List.foldl_nil]
    by_cases hn : e = n
    · subst hn hp
      exact tabFind_put_same _ _ _
    · have hlt : e < n := by omega
      rw [tabFind_put_ne (hlast n hlt (Nat.lt_succ_self n)).symm]
      exact ih hlt fun e' h h' => hlast e' h (Nat.lt_succ_of_lt h')

end Laid

/-- The shadow column ceilings after CEIL (R239). -/
def ceilingsLaid (w : BitVec 8192) (u : ArrayUnit) : Tab (BitVec 10) :=
  (List.range 64).foldl (fun t n => tabPut n (field (lane w n) 0 10) t) u.colCeilShadow

theorem tabFind_ceilingsLaid (w : BitVec 8192) (u : ArrayUnit) (c : Nat) :
    tabFind (ceilingsLaid w u) c = if c < 64 then some (field (lane w c) 0 10) else tabFind u.colCeilShadow c := by
  have hlaid := tabFind_foldl_tabPut 0 64 (fun n => field (lane w n) 0 10) u.colCeilShadow c
  simp only [Nat.zero_add, Nat.zero_le, true_and, Nat.sub_zero] at hlaid
  exact hlaid

/-! ### SWAP (R193, R239) -/

/-- The new shadow set takes what waited at the weight port. -/
theorem ArrayUnit.swap_eq (u : ArrayUnit) : u.swap =
    { u with cfg := u.cfgNext, active := u.shadow, colCeil := u.colCeilShadow, colCeilShadow := u.colCeil,
             overlay := [], overlayUpper := [], shadow := u.waiting.take (cfgSetSize u.cfgNext),
             waiting := u.waiting.drop (cfgSetSize u.cfgNext) } := by
  simp only [ArrayUnit.swap, ArrayUnit.feed, List.append_nil, List.nil_append, List.length_nil, Nat.sub_zero]

theorem bundleWaits_swap (x : Vat) (v : Fin 128) (m : BitVec 8) : bundleWaits x [.swap v m] = true ↔
    ∃ k, k < 8 ∧ m.getLsbD k = true ∧ (x.array k).shadow.length ≠ cfgSetSize (x.array k).cfgNext := by
  simp [bundleWaits, List.any_eq_true, mem_bitsSet_lt, ArrayUnit.shadowFull, and_assoc]

/-- Settles O14: each row changes the arrays of its mask, and SWAP waits for their shadow sets. -/
theorem weightSlot : Obligations.WeightSlot := by
  constructor
  · intro s v m k reg b n hl x gives entry joins
    have row (c : Instr) {check : Vat → Option TrapCause} {f : Nat → Vat → Vat} (g : ArrayUnit → ArrayUnit)
        (hc : exec c s = act (unitRow v 4 check f) s) (hcheck : check x = none)
        (hf : f s.freshCount x = x.modArrays m fun _ => g) : gives c g := by
      obtain ⟨t, hruns, honly, hvat⟩ := unitRow_passes hl hc hcheck
      exact ⟨t, hruns, toArrays honly (hvat.trans hf)⟩
    have hovl (hpos : 1 ≤ n.toNat) (hend : b.toNat + n.toNat ≤ 1024) : checkOvl b n = none :=
      need_eq_none.2 (Bool.and_eq_true_iff.2 ⟨decide_eq_true hpos, decide_eq_true hend⟩)
    have laid (u : ArrayUnit) (t : Tab Half) (p : Nat) :
        (∀ e, e < n.toNat → entry u e = p → (∀ e', e < e' → e' < n.toNat → entry u e' ≠ p) →
          tabFind (addOverlay u b.toNat n.toNat t) p = some (BitVec.ofNat 16 (rennetVal (u.deltaEntry (b.toNat + e))))) ∧
        ((∀ e, e < n.toNat → entry u e ≠ p) → tabFind (addOverlay u b.toNat n.toNat t) p = tabFind t p) :=
      ⟨fun e he hp hlast => tabFind_laid_last (entry u)
          (fun e => BitVec.ofNat 16 (rennetVal (u.deltaEntry (b.toNat + e)))) n.toNat t he hp hlast,
        tabFind_laid_other (entry u) _ n.toNat t⟩
    have hbad (h : n = 0 ∨ 1024 < b.toNat + n.toNat) : checkOvl b n = some .bundleFormat := by
      have : ¬(1 ≤ n.toNat ∧ b.toNat + n.toNat ≤ 1024) := by
        rcases h with h | h
        · simp [h]
        · omega
      rw [checkOvl, ← Bool.decide_and, decide_eq_false this, need_false]
    refine ⟨fun hk => row (.cfg v m k) _ rfl (need_eq_none.2 hk) rfl,
      ⟨_, row (.ceil v m reg) (fun u => { u with colCeilShadow := ceilingsLaid (x.vreg reg.val) u }) rfl rfl rfl,
        fun u c => tabFind_ceilingsLaid _ u c⟩,
      fun hpos hend => ⟨⟨_, row (.ovl v m b n) (fun u => { u with overlay := addOverlay u b.toNat n.toNat u.overlay }) rfl
          (hovl hpos hend) rfl, fun u p => laid u u.overlay p⟩,
        ⟨_, row (.ovlu v m b n) (fun u => { u with overlayUpper := addOverlay u b.toNat n.toNat u.overlayUpper }) rfl
          (hovl hpos hend) rfl, fun u p => laid u u.overlayUpper p⟩⟩,
      row (.ovlc v m) _ rfl rfl rfl, fun hk => unitRow_traps hl (c := .cfg v m k) rfl ?_, fun h => ⟨?_, ?_⟩⟩
    · rw [checkCfg, hk, need_false]
    · exact unitRow_traps hl (c := .ovl v m b n) rfl (hbad h)
    · exact unitRow_traps hl (c := .ovlu v m b n) rfl (hbad h)
  · intro s v m hl x full
    obtain ⟨t, hruns, honly, hvat⟩ := unitRow_passes (c := .swap v m) hl rfl rfl
    refine ⟨fun hfull => ⟨t, hruns, toArrays honly ?_⟩, fun ⟨k, hk, hm, hnot⟩ => ⟨t, hruns, honly, ?_⟩⟩
    · have hready : ¬bundleWaits x [.swap v m] = true := by
        rw [bundleWaits_swap]
        exact fun ⟨k, hk, hm, hnot⟩ => hnot (hfull k hk hm)
      rw [hvat, if_neg hready]
      exact congrArg (x.modArrays m) (funext fun _ => funext ArrayUnit.swap_eq)
    · rw [hvat, if_pos ((bundleWaits_swap x v m).2 ⟨k, hk, hm, hnot⟩)]

end Sys2Proof.Machine
end
section
/-! The statement on where PORT, VEC and XCH slots trap, and where an XCH slot waits (R202, R222, R235, R236, R241, R242, R244,
R246; log 21, log 34, log 35). -/

namespace Sys2Proof.Machine

/-! ### Checks with one cause -/

/-- Two checks with one cause are one check. -/
theorem need_or (a b : Bool) (c : TrapCause) : (need a c).or (need b c) = need (a && b) c := by
  cases a <;> rfl

theorem need_fails {p : Prop} [Decidable p] (h : ¬p) (c : TrapCause) : need (decide p) c = some c := by
  rw [decide_eq_false h, need_false]

theorem need_passes {p : Prop} [Decidable p] (h : p) (c : TrapCause) : need (decide p) c = none := by
  rw [decide_eq_true h]
  rfl

theorem lineAddrOk_iff (n : Nat) : lineAddrOk (n % 2 ^ 24) = true ↔ n % 2 ^ 24 < 3 * 2 ^ 22 ∧ n % 2048 = 0 := by
  rw [lineAddrOk, Bool.and_eq_true, decide_eq_true_iff, decide_eq_true_iff, spdAlias]
  omega

theorem scalarAddrOk_iff (n : Nat) : scalarAddrOk (n % 2 ^ 24) = true ↔ n % 2 ^ 24 < 3 * 2 ^ 22 ∧ n % 8 = 0 := by
  rw [scalarAddrOk, Bool.and_eq_true, decide_eq_true_iff, decide_eq_true_iff, spdAlias]
  omega

/-! ### PORT (R235, R236) -/

section Port
variable {s : State} {c : Instr} {v : Fin 128} {check : Vat → Option TrapCause} {f : Vat → PortOut}

theorem portRow_traps {p : Bool} {k : TrapCause} (hl : s.live) (hc : exec c s = act (portRow v p check f) s)
    (h : check (s.vat v) = some k) : ∃ t, Runs c s t ∧ Traps v k (some 2) 0 s t :=
  checked_traps (check := fun s => check (s.vat v))
    (f := fun s => if p then s.spdParity v 2 0 else (s.modVat v fun _ => (f (s.vat v)).vat).portFault v (f (s.vat v)).fault) hl hc h

theorem portRow_parity (hl : s.live) (hc : exec c s = act (portRow v true check f) s) (h : check (s.vat v) = none) :
    ∃ t, Runs c s t ∧ ParityFaults v 2 0 s t :=
  ⟨_, checked_passes (check := fun s => check (s.vat v)) (f := fun s => s.spdParity v 2 0) (slot := 2) (imm := 0) hl hc h,
    s.spdParity_faults v 2 0⟩

end Port

section PortChecks
variable {x : Vat} {a : PortArgs}

theorem checkPort_count (h : a.count ≠ 0) (scalar : Bool) : checkPort x a scalar false = some .bundleFormat := by
  have hcount : (a.count == 0) = false := by simpa using h
  rw [checkPort, hcount]
  rfl

theorem checkPort_line_fails (hcount : a.count = 0)
    (h : 3 * 2 ^ 22 ≤ portAddr x a 0 ∨ ((x.sreg a.base).toNat + a.offset.toNat) % 2 ^ 24 % 2048 ≠ 0) :
    checkPort x a false false = some .scratchAddress := by
  have hbad : lineAddrOk (portAddr x a 0) = false := Bool.eq_false_iff.2 fun hok => by
    have := (lineAddrOk_iff _).1 hok
    unfold portAddr at h
    omega
  simp [checkPort, need, hcount, hbad]

theorem checkPort_scalar_fails (hcount : a.count = 0)
    (h : 3 * 2 ^ 22 ≤ portAddr x a 0 ∨ ((x.sreg a.base).toNat + a.offset.toNat) % 2 ^ 24 % 8 ≠ 0) :
    checkPort x a true false = some .scratchAddress := by
  have hbad : scalarAddrOk (portAddr x a 0) = false := Bool.eq_false_iff.2 fun hok => by
    have := (scalarAddrOk_iff _).1 hok
    unfold portAddr at h
    omega
  simp [checkPort, need, hcount, hbad]

/-- Of an LDW each line's address is checked. -/
theorem checkPort_lines {scalar : Bool} : checkPort x a scalar true = need ((List.range (a.count.toNat + 1)).all fun i =>
    if scalar then scalarAddrOk (portAddr x a i) else lineAddrOk (portAddr x a i)) .scratchAddress := rfl

theorem checkPort_lines_fails {i : Nat} (hi : i ≤ a.count.toNat) (h : 3 * 2 ^ 22 ≤ portAddr x a i ∨ portAddr x a i % 2048 ≠ 0) :
    checkPort x a false true = some .scratchAddress := by
  rw [checkPort_lines, List.all_eq_false.2 ⟨i, List.mem_range.2 (by omega), fun hok => ?_⟩, need_false]
  have := (lineAddrOk_iff _).1 hok
  unfold portAddr at h
  omega

theorem checkPort_one_line (hcount : a.count = 0) : checkPort x a false true = checkPort x a false false := by
  simp [checkPort, need, hcount]

theorem checkPair_passes {even : Bool} (hlast : a.reg.val < 31) (h : even = true → a.reg.val % 2 = 0) : checkPair a even = none := by
  cases even <;> simp_all [checkPair, need]

/-- The check of a register pair has one cause. -/
theorem checkPair_or (even : Bool) (o : Option TrapCause) (h : o = some .bundleFormat) :
    (checkPair a even).or o = some .bundleFormat := by
  rw [h, checkPair, need]
  split <;> rfl

end PortChecks

/-! ### VEC (R241, R242) -/

section Vec
variable {a : VecArgs}

theorem checkVec_fails (h : a.rnd = 3 ∨ a.gmask = 0) : checkVec a = some .bundleFormat := by
  rcases h with h | h <;> simp [checkVec, need, h]

theorem checkVec_or (h : a.rnd = 3 ∨ a.gmask = 0) (o : Option TrapCause) : (checkVec a).or o = some .bundleFormat := by
  rw [checkVec_fails h]
  rfl

theorem checkFmt_fails {mx : Bool} (h : fmtKnown a.fmt.toNat = false ∨ fmtIsMx a.fmt.toNat = !mx) :
    checkFmt a mx = some .bundleFormat := by
  rw [checkFmt, checkVec, need_or]
  rcases h with h | h <;> cases mx <;> simp [h, need]

theorem checkSb_fails (h : a.sb = false) : checkSb a = some .bundleFormat := by
  rw [checkSb, checkVec, need_or, h, Bool.and_false, need_false]

end Vec

/-! ### XCH (R244) -/

/-- The command is the row of this XCH operation. -/
def IsXch (v : Nat) (c : Instr) (s : State) : Prop :=
  exec c s = act (whenRunning fun s => s.checked v 7 0 (s.checkXch v (s.vat v) c)
    (match (s.vat v).freeSlot with
      | some slot => s.xch v slot c (s.vat v)
      | none => s)) s

section Xch
variable {s : State} {v : Fin 128} {c : Instr} (hl : s.live) (hc : IsXch v c s)
include hl hc

theorem xch_traps {k : TrapCause} (h : s.checkXch v (s.vat v) c = some k) : ∃ t, Runs c s t ∧ Traps v k (some 7) 0 s t :=
  checked_traps (check := fun s => s.checkXch v (s.vat v) c) hl hc h

theorem xch_waits (h : s.checkXch v (s.vat v) c = none) (hslot : (s.vat v).freeSlot = none) : Runs c s s :=
  checked_leaves (check := fun s => s.checkXch v (s.vat v) c) hl hc h (by simp only [hslot]) (.refl s)

theorem xch_issues {k : Nat} {u : State} (h : s.checkXch v (s.vat v) c = none) (hslot : (s.vat v).freeSlot = some k)
    (hx : s.xch v k c (s.vat v) = u) (hu : s.Leaves u) : Runs c s u :=
  checked_leaves (check := fun s => s.checkXch v (s.vat v) c) hl hc h (by simp only [hslot, hx]) hu

end Xch

theorem freeSlot_eq_none {x : Vat} : x.freeSlot = none ↔ ∀ k, k < 8 → (tabFind x.xfers k).isSome = true := by
  simp [Vat.freeSlot, Option.isSome_iff_ne_none]

section XchChecks
variable (x : Vat) (a : XchArgs)

/-- A local line in the reserved range, or out of alignment. -/
def xchLineBad (b : Nat) : Prop := ∃ i, i < a.lines.toNat + 1 ∧ (3 * 2 ^ 22 ≤ (b + 2048 * i) % 2 ^ 24 ∨ (b + 2048 * i) % 2048 ≠ 0)

def xchFlagBad : Prop := a.flag = true ∧ (3 * 2 ^ 22 ≤ (x.sreg a.rf).toNat % 2 ^ 24 ∨ (x.sreg a.rf).toNat % 4 ≠ 0)

theorem checkLocal_iff : checkLocal x a = none ↔ ¬xchLineBad a (x.sreg a.rb).toNat := by
  rw [checkLocal, need_eq_none, List.all_eq_true]
  refine ⟨fun h ⟨i, hi, hbad⟩ => ?_, fun h i hi => (lineAddrOk_iff _).2 ?_⟩
  · have := (lineAddrOk_iff _).1 (h i (List.mem_range.2 hi))
    omega
  · by_contra hbad
    exact h ⟨i, List.mem_range.1 hi, by omega⟩

theorem checkFlag_iff : checkFlag x a = none ↔ ¬xchFlagBad x a := by
  have halias (n : Nat) : spdAlias n < 3 ↔ ¬3 * 2 ^ 22 ≤ n := by unfold spdAlias; omega
  rw [checkFlag, need_eq_none, xchFlagBad]
  simp only [Bool.or_eq_true, Bool.not_eq_true', Bool.and_eq_true, decide_eq_true_eq, halias]
  cases a.flag <;> simp

theorem need_cases (ok : Bool) (c : TrapCause) : need ok c = none ∨ need ok c = some c := by
  cases ok
  · exact .inr rfl
  · exact .inl rfl

/-- Local lines and the flag word are checked first, with one cause. -/
theorem checkLocal_flag_fails (h : xchLineBad a (x.sreg a.rb).toNat ∨ xchFlagBad x a) (o : Option TrapCause) :
    (checkLocal x a).or ((checkFlag x a).or o) = some .scratchAddress := by
  rcases need_cases ((List.range (xchLines a)).all fun i => lineAddrOk (xchLocal x a i)) .scratchAddress with hlocal | hlocal
  · rcases need_cases (!a.flag || (decide (spdAlias ((x.sreg a.rf).toNat % 2 ^ 24) < 3) &&
      decide ((x.sreg a.rf).toNat % 4 = 0))) .scratchAddress with hflag | hflag
    · exact absurd h (not_or.2 ⟨(checkLocal_iff x a).1 hlocal, (checkFlag_iff x a).1 hflag⟩)
    · rw [checkLocal, hlocal, checkFlag, hflag]
      rfl
  · rw [checkLocal, hlocal]
    rfl

variable {x a}

theorem checkPut_target {s : State} {v : Nat} {j : Job} (hj : s.jobOf v = some j)
    (hvat : j.hdr.vats.getLsbD (field (x.sreg a.ra) 24 7).toNat = false) : s.checkPut v x a = some .target := by
  have hmember : j.hdr.vats.getLsbD (xchVat x a) = false := hvat
  simp only [State.checkPut, hj, hmember, need_false, Option.some_or]

theorem checkSend_target {s : State} {v : Nat}
    (hroute : routeOk (s.route (field (x.sreg a.ra) 44 4).toNat (field (x.sreg a.ra) 32 12).toNat) = false) :
    s.checkSend v x a = some .target := by
  have hbad : routeOk (s.route (xchPort x a) (xchEntry x a)) = false := hroute
  rw [State.checkSend, hbad]
  rfl

theorem checkWindow_align {s : State} {v bytes align : Nat} (h : (x.sreg a.ra).toNat % align ≠ 0) :
    s.checkWindow v x a bytes align = some .scratchAddress := by
  rw [State.checkWindow, xchWindow, need_fails h]
  rfl

theorem checkWindow_outside {s : State} {v bytes align : Nat} (h : (x.sreg a.ra).toNat % align = 0)
    (hw : (s.part (s.vatPart v)).winSize < (x.sreg a.ra).toNat + bytes) :
    s.checkWindow v x a bytes align = some .window := by
  have hout : (s.part (s.vatPart v)).inWindow (x.sreg a.ra).toNat bytes = false := by
    rw [Part.inWindow, decide_eq_false (Nat.not_le.2 hw), Bool.false_and]
  rw [State.checkWindow, xchWindow, need_passes h, hout]
  rfl

end XchChecks

/-- Settles O13: each row is a check and an effect; the check says which cause it traps with. -/
theorem slotTraps : Obligations.SlotTraps := by
  unfold Obligations.SlotTraps
  refine ⟨?_, ?_, ?_⟩
  · intro s v a p hl x addr traps
    have row {c : Instr} {q : Bool} {check : Vat → Option TrapCause} {f : Vat → PortOut} {k : TrapCause}
        (hc : exec c s = act (portRow v q check f) s) (h : check x = some k) : traps c k := portRow_traps hl hc h
    have haddr : portAddr x a 0 = addr := by rw [portAddr, Nat.mul_zero, Nat.add_zero]
    refine ⟨fun hcount => ?_, fun hcount hbad => ?_, fun hcount hbad => ?_, fun hodd => ?_, ?_, fun hcount hplain halign => ?_⟩
    · have hline := checkPort_count (x := x) hcount false
      have hscalar := checkPort_count (x := x) hcount true
      exact ⟨row rfl hline, row rfl hscalar, row rfl hscalar, row rfl hline, row rfl hline,
        row rfl (checkPair_or true _ hline), row rfl (checkPair_or false _ hline)⟩
    · have hline : checkPort x a false false = some .scratchAddress := checkPort_line_fails hcount (by rw [haddr]; exact hbad)
      refine ⟨row rfl hline, row rfl hline, row rfl hline, fun heven => row rfl ?_, fun hlast => row rfl ?_⟩
      · rw [checkPair_passes (by omega) fun _ => heven]
        exact hline
      · rw [checkPair_passes (even := false) hlast (absurd · Bool.false_ne_true)]
        exact hline
    · have hscalar : checkPort x a true false = some .scratchAddress := checkPort_scalar_fails hcount (by rw [haddr]; exact hbad)
      exact ⟨row rfl hscalar, row rfl hscalar⟩
    · refine row rfl (k := .bundleFormat) ?_
      simp [checkPair, need, hodd]
    · rintro ⟨i, hi, hbad⟩
      refine row rfl (k := .scratchAddress) ?_
      have hfail : checkPort x a false true = some .scratchAddress := checkPort_lines_fails (i := i) hi (by
        unfold portAddr
        omega)
      simp only [hfail, Option.some_or]
    · intro mismatch
      have row {c : Instr} {check : Vat → Option TrapCause} {f : Vat → PortOut}
          (hc : exec c s = act (portRow v true check f) s) (h : check x = none) : mismatch c := portRow_parity hl hc h
      have hline : checkPort x a false false = none := checkPort_line hcount hplain halign
      have hscalar : checkPort x a true false = none := checkPort_dword hcount hplain (by omega)
      refine ⟨row rfl hline, row rfl hline, row rfl hline, row rfl hscalar, fun heven => row rfl ?_, fun hldw => row rfl ?_⟩
      · rw [checkPair_passes (by omega) fun _ => heven]
        exact hline
      · rw [checkPort_one_line hcount, hline]
        exact hldw
  · intro s v a hl traps
    have row {c : Instr} {check : Vat → Option TrapCause} {f : Nat → Vat → Vat}
        (hc : exec c s = act (unitRow v 6 check f) s) (h : check (s.vat v) = some .bundleFormat) : traps c :=
      unitRow_traps hl hc h
    refine ⟨fun h => ?_, fun h => ?_, fun h => ?_, fun h => ?_⟩
    · have hvec := checkVec_fails h
      have hfmt (mx : Bool) : checkFmt a mx = some .bundleFormat := checkVec_or h _
      exact ⟨row rfl hvec, row rfl hvec, row rfl hvec, row rfl hvec, row rfl hvec, row rfl (hfmt false), row rfl (hfmt true),
        row rfl hvec, row rfl hvec, row rfl (checkVec_or h _)⟩
    · exact ⟨row rfl (checkFmt_fails (mx := false) h), row rfl (checkFmt_fails (mx := false) h)⟩
    · exact row rfl (checkFmt_fails (mx := true) h)
    · exact ⟨row rfl (checkSb_fails h), row rfl (checkSb_fails h)⟩
  · intro s v a hl x w n lineBad local_ flagBad traps
    have row {c : Instr} {k : TrapCause} (hc : IsXch v c s) (h : s.checkXch v x c = some k) : traps c k := xch_traps hl hc h
    refine ⟨fun h => ?_, fun hline hflag => ?_, fun hflag hw => ?_, fun hfull c hc hpass => ?_⟩
    · exact ⟨row rfl (checkLocal_flag_fails x a h _), row rfl (checkLocal_flag_fails x a h _),
        row rfl (checkLocal_flag_fails x a h _), row rfl (checkLocal_flag_fails x a h _)⟩
    · have onward (o : Option TrapCause) : (checkLocal x a).or ((checkFlag x a).or o) = o := by
        rw [(checkLocal_iff x a).2 hline, (checkFlag_iff x a).2 hflag]
        rfl
      refine ⟨fun halign => ?_, fun halign hout => ?_, fun j hj hvat => ?_, fun hroute => ?_⟩
      · have h := (onward _).trans (checkWindow_align (s := s) (v := v) (bytes := 2048 * xchLines a) halign)
        exact ⟨row rfl h, row rfl h⟩
      · have h := (onward _).trans (checkWindow_outside (s := s) (v := v) (bytes := 2048 * xchLines a) halign hout)
        exact ⟨row rfl h, row rfl h⟩
      · exact row rfl ((onward _).trans (checkPut_target hj hvat))
      · exact row rfl ((onward _).trans (checkSend_target hroute))
    · refine row rfl (k := .window) ?_
      rw [State.checkXch, (checkFlag_iff x a).2 hflag, Option.none_or, checkWindow_outside (Nat.mod_one _) hw]
    · have hrow : IsXch v c s := by
        simp only [List.mem_cons, List.not_mem_nil, or_false] at hc
        rcases hc with rfl | rfl | rfl | rfl | rfl <;> rfl
      exact xch_waits hl hrow hpass (freeSlot_eq_none.2 hfull)

end Sys2Proof.Machine
end
section
/-! The statement on what an XCH slot begins (R202, R222, R244, R245, R288; log 4, log 41). -/

namespace Sys2Proof.Machine

/-- A new transfer is entered into the vat, and stamped. -/
def State.entered (s : State) (v : Nat) (f : Vat → Vat) : State := s.stamped.modVat v f

theorem State.entered_only (s : State) (v : Nat) (f : Vat → Vat) :
    s.entered v f = { s with vats := (s.entered v f).vats, stamp := s.stamp + 1 } := rfl

theorem State.entered_leaves (s : State) (v : Nat) (f : Vat → Vat) : s.Leaves (s.entered v f) :=
  State.modVat_leaves s.stamped v f

theorem State.vat_entered (s : State) (v d : Nat) (f : Vat → Vat) :
    (s.entered v f).vat d = if d = v then f (s.vat v) else s.vat d := by
  rw [State.entered, State.vat_modVat]
  rfl

section Lines
variable (src : InboundSrc) (addr : Nat) (flag : Option (Nat × Nat × Nat)) (n : Nat) (data : Nat → Line)
  (read : Nat → Option (Nat × Nat))

theorem length_inboundLines : (inboundLines src addr flag n data read).length = n := by
  rw [inboundLines, List.length_map, List.length_range]

theorem inboundLines_getElem {i : Nat} (hi : i < n) : (inboundLines src addr flag n data read)[i]? = some
    { src := src, addr := (addr + 2048 * i) % 2 ^ 24, lo := 0, hi := 2048, data := data i,
      flag := if i + 1 = n then flag else none, last := decide (i + 1 = n), read := read i } := by
  rw [inboundLines, List.getElem?_map, List.getElem?_range hi]
  rfl

end Lines

theorem xchData_getD (x : Vat) (a : XchArgs) {i : Nat} (hi : i < xchLines a) :
    (xchData x a).getD i 0 = x.line (spdLine (xchLocal x a i)) := by
  rw [xchData, List.getD_eq_getElem?_getD, List.getElem?_map, List.getElem?_range hi]
  rfl

/-- The lines of a PUT. -/
def putInbound (v slot : Nat) (x : Vat) (a : XchArgs) : List Inbound :=
  inboundLines (.vat v slot) (xchDest x a) (xchFlag x a (xchVat x a)) (xchLines a) (fun i => (xchData x a).getD i 0) fun _ => none

theorem State.vat_putLines (s : State) (v slot d : Nat) (x : Vat) (a : XchArgs) : (s.putLines v slot x a).vat d =
    let y := (s.entered v fun y => { y with xfers := tabPut slot { (newXfer .put (s.stamp + 1) (xchFlag x a (xchVat x a))) with
      addr := xchDest x a, dest := xchVat x a } y.xfers }).vat d
    if d = xchVat x a then { y with inbound := y.inbound ++ putInbound v slot x a } else y := by
  refine Eq.trans (State.vat_modVat ..) ?_
  by_cases h : d = xchVat x a
  · rw [if_pos h]
    refine Eq.trans ?_ (if_pos h).symm
    rw [h]
    rfl
  · rw [if_neg h]
    exact (if_neg h).symm

/-- Settles O19: each row is its check, and what `State.xch` does with the free slot. -/
theorem xchIssues : Obligations.XchIssues := by
  unfold Obligations.XchIssues
  intro s v a k hl hslot x w n target addr flag line data fresh holds arrive mismatch
  have parity {c : Instr} {path : Nat} (hc : IsXch v c s)
      (hx : s.xch v k c x = s.spdParity v path ((x.sreg a.rb).toNat % 2 ^ 24)) : mismatch c path := fun hpass =>
    ⟨_, checked_passes (check := fun s => s.checkXch v (s.vat v) c) hl hc hpass, by
      simp only [hslot]
      rw [hx]
      exact s.spdParity_faults v path _⟩
  refine ⟨fun hpass => ?_, fun hpass => ?_, fun hpass => ?_, fun hpass => ?_, fun hpass => ?_, ?_⟩
  · refine ⟨_, xch_issues (c := .sst v a false) hl rfl hpass hslot rfl (s.entered_leaves v _), rfl, fun d hd => ?_, ?_⟩
    · exact (s.vat_entered v d _).trans (if_neg hd)
    · exact (s.vat_entered v v _).trans (if_pos rfl)
  · refine ⟨_, xch_issues (c := .send v a false) hl rfl hpass hslot rfl (s.entered_leaves v _), rfl, fun d hd => ?_, ?_⟩
    · exact (s.vat_entered v d _).trans (if_neg hd)
    · exact (s.vat_entered v v _).trans (if_pos rfl)
  · refine ⟨s.putLines v k x a, xch_issues (c := .put v a false) hl rfl hpass hslot rfl ?_, rfl, fun d hd htarget => ?_,
      putInbound v k x a, length_inboundLines ..,
      fun i hi => ?_, fun hne => ⟨?_, ?_⟩, fun heq => ?_⟩
    · exact (s.entered_leaves v _).trans (State.modVat_leaves _ _ _)
    · rw [s.vat_putLines]
      exact (if_neg htarget).trans ((s.vat_entered v d _).trans (if_neg hd))
    · rw [putInbound, inboundLines_getElem (n := xchLines a) (hi := hi), xchData_getD x a hi]
      rfl
    · rw [s.vat_putLines]
      exact (if_neg (Ne.symm hne)).trans ((s.vat_entered v v _).trans (if_pos rfl))
    · rw [s.vat_putLines]
      refine (if_pos rfl).trans ?_
      rw [s.vat_entered, if_neg hne]
    · rw [s.vat_putLines]
      refine (if_pos heq.symm).trans ?_
      rw [s.vat_entered, if_pos rfl]
      rfl
  · refine ⟨_, xch_issues (c := .sld v a) hl rfl hpass hslot rfl (s.entered_leaves v _), rfl, fun d hd => ?_, _,
      length_inboundLines (.vat v k) (xchLocal x a 0) (flag v) n (fun _ => 0) (fun i => some (s.vatPart v, w + 2048 * i)),
      fun i hi => ?_, ?_⟩
    · exact (s.vat_entered v d _).trans (if_neg hd)
    · exact inboundLines_getElem _ _ _ _ _ _ hi
    · exact (s.vat_entered v v _).trans (if_pos rfl)
  · refine ⟨_, xch_issues (c := .nbj v a) hl rfl hpass hslot rfl (u := s.nbj v k x a) ?_, rfl, fun d hd => ?_, ?_, fun i hi => ?_, ?_⟩
    · exact State.modVat_leaves _ _ _
    · exact (State.vat_modVat ..).trans (if_neg hd)
    · exact (State.vat_modVat ..).trans (if_pos rfl)
    · exact tabFind_put_ne hi _ _
    · exact tabFind_put_same _ _ _
  · exact ⟨parity rfl rfl, parity rfl rfl, parity rfl rfl⟩

end Sys2Proof.Machine
end
section
/-! The statement on BSYNC_RELEASE and on the yield barrier (R212, R215, R230, R438; log 2, log 33). -/

namespace Sys2Proof.Machine

/-- A command whose effect leaves memory and the queue alone becomes its effect. -/
theorem runs_leaves {c : Instr} {s t : State} {f : State → State} (hl : s.live) (hc : exec c s = act (whenRunning f) s)
    (hf : f s = t) (ht : s.Leaves t) : Runs c s t := by
  subst hf
  exact hc.trans (act_live hl ht)

/-! ### BSYNC_RELEASE (R230, R438) -/

/-- The beats that pass before job beat `T` bring a job that counts them to it. -/
theorem Job.advanced_to {j : Job} {T d : Nat} (hrun : j.state = .running) (hbeat : j.beat ≤ T) (hsub : j.beatSub < max 1 d) :
    j.advanced false d ((T - j.beat) * max 1 d - j.beatSub) =
      { j with beat := T, beatSub := if j.beat = T then j.beatSub else 0 } := by
  have hcounts : j.counts = true := by rw [Job.counts, hrun]
  rw [Job.advanced, hcounts]
  refine (if_neg Bool.false_ne_true).trans ?_
  generalize max 1 d = n at hsub
  rcases Nat.eq_or_lt_of_le hbeat with heq | hlt
  · rw [if_pos heq, heq, Nat.sub_self, Nat.zero_mul, Nat.zero_sub, Nat.add_zero, Nat.div_eq_of_lt hsub, Nat.mod_eq_of_lt hsub,
      Nat.add_zero]
  · have hle : n ≤ (T - j.beat) * n := Nat.le_mul_of_pos_left n (by omega)
    rw [if_neg (Nat.ne_of_lt hlt), show j.beatSub + ((T - j.beat) * n - j.beatSub) = (T - j.beat) * n by omega,
      Nat.mul_div_cancel _ (by omega), Nat.mul_mod_left, Nat.add_sub_cancel' hbeat]

section Release
variable {s : State} {v : Nat} {T id : Nat} {j : Job}

theorem State.jobOf_of_find (hjob : (s.vat v).job = some id) (hj : tabFind s.jobs id = some j) : s.jobOf v = some j := by
  rw [State.jobOf_eq, hjob]
  exact hj

theorem State.bsyncRelease_held (hrun : (s.vat v).run = .bsync T) (hjob : s.jobOf v = some j)
    (hhold : s.inHold (s.part j.part).swarm.toNat = true) : s.bsyncRelease v = s := by
  simp only [State.bsyncRelease, hrun, hjob, hhold, if_true]

theorem State.bsyncRelease_moves (hrun : (s.vat v).run = .bsync T) (hjob : s.jobOf v = some j)
    (hhold : s.inHold (s.part j.part).swarm.toNat = false) :
    s.bsyncRelease v = (s.advance (if j.lc then (T - j.beat) * max 1 (s.slot (s.part j.part).swarm.toNat).divisor - j.beatSub
      else 1)).modVat v fun x => { x with run := .running } := by
  simp only [State.bsyncRelease, hrun, hjob, hhold, Bool.false_eq_true, if_false]

end Release

/-! ### The yield barrier (R212, R215) -/

/-- The vats of a job that have not ended. -/
def Job.due (j : Job) : List Nat := j.vatList.filter fun v => !j.ended.contains v

theorem Job.mem_due {j : Job} {v : Nat} : v ∈ j.due ↔ v < 128 ∧ j.hdr.vats.getLsbD v = true ∧ v ∉ j.ended := by
  rw [Job.due, List.mem_filter, Job.vatList, mem_bitsSet_lt, and_assoc]
  simp

theorem State.atBarrier_iff {s : State} {v : Nat} :
    s.atBarrier v = true ↔ (s.vat v).xfers = [] ∧ s.nbeBusy v = false ∧ ∃ k, (s.vat v).run = .yield k := by
  rw [State.atBarrier, Bool.and_eq_true, Bool.and_eq_true, List.isEmpty_iff, Bool.not_eq_true', and_assoc]
  cases (s.vat v).run <;> simp

/-- Some vats' sequencers go on to another state. -/
def State.runAll (s : State) (l : List Nat) (r : RunState) : State := forAll l (fun v s => s.modVat v fun x => { x with run := r }) s

theorem State.runAll_only (s : State) (l : List Nat) (r : RunState) : s.runAll l r = { s with vats := (s.runAll l r).vats } := by
  induction l generalizing s with
  | nil => rfl
  | cons v l ih => exact ih (s.modVat v fun x => { x with run := r })

theorem State.runAll_leaves (s : State) (l : List Nat) (r : RunState) : s.Leaves (s.runAll l r) := by
  rw [s.runAll_only l r]
  exact ⟨rfl, rfl, rfl, rfl⟩

theorem State.vat_runAll {l : List Nat} (hd : l.Nodup) (s : State) (r : RunState) (w : Nat) :
    (s.runAll l r).vat w = if w ∈ l then { s.vat w with run := r } else s.vat w :=
  foldl_places (get := State.vat) (upd := fun s v => s.modVat v fun x => { x with run := r }) (g := fun _ x => { x with run := r })
    (fun s v w => s.vat_modVat v w fun x => { x with run := r }) hd s w

section Barrier
variable {s : State} {id : Nat} {j : Job} (hj : tabFind s.jobs id = some j)
include hj

theorem State.yieldBarrier_waits (h : ∃ v ∈ j.due, s.atBarrier v = false) : s.yieldBarrier id = s := by
  have hall : j.due.all s.atBarrier = false := List.all_eq_false.2 (by simpa using h)
  simp only [State.yieldBarrier, hj]
  exact if_pos (.inr (by rw [Job.due] at hall; rw [hall]; rfl))

theorem State.yieldBarrier_releases (hsome : j.due ≠ []) (hall : ∀ v ∈ j.due, s.atBarrier v = true) :
    s.yieldBarrier id = if j.state = .preempting then
        (s.modJob id fun j' => { j' with state := .saving, yieldStep := (s.vat (j.due.headD 0)).yieldStep }).runAll j.vatList .saving
      else s.runAll j.due .running := by
  simp only [State.yieldBarrier, hj]
  refine if_neg (not_or.2 ⟨by rwa [List.isEmpty_iff], ?_⟩)
  rw [show (j.vatList.filter fun v => !j.ended.contains v).all s.atBarrier = true from List.all_eq_true.2 hall]
  decide

end Barrier

/-- Settles O23: a release moves the beat on to the boundary; a barrier lets every vat that has not ended go on at once. -/
theorem barriersRelease : Obligations.BarriersRelease := by
  unfold Obligations.BarriersRelease
  refine ⟨?_, ?_⟩
  · intro s v T id j hl hrun hjob hj sw
    have hjobOf := State.jobOf_of_find hjob hj
    refine ⟨fun hhold => ?_, fun hhold =>
      ⟨_, runs_leaves hl rfl (State.bsyncRelease_moves hrun hjobOf hhold) ⟨rfl, rfl, rfl, rfl⟩, ?_⟩⟩
    · exact runs_leaves hl rfl (State.bsyncRelease_held hrun hjobOf hhold) (.refl s)
    · refine ⟨State.vat_modVat_same .., fun d hd => ?_, rfl, fun hlc hstate hbeat hsub => ?_, fun hbe => ?_⟩
      · rw [State.vat_modVat, if_neg hd]
        rfl
      · rw [if_pos hlc]
        refine (State.find_advance_job hj _).trans ?_
        rw [hhold, Job.advanced_to hstate hbeat hsub]
      · rw [hbe]
        rfl
  · intro s id j hl hj waits due
    have hdue {v : Nat} : v ∈ j.due ↔ due v := Job.mem_due
    have hwaits {v : Nat} : s.atBarrier v = true ↔ waits v := State.atBarrier_iff
    refine ⟨fun ⟨v, hv, hnot⟩ => ?_, fun ⟨v, hv⟩ hall => ?_⟩
    · exact runs_leaves hl rfl (State.yieldBarrier_waits hj ⟨v, hdue.2 hv, Bool.eq_false_iff.2 fun h => hnot (hwaits.1 h)⟩)
        (.refl s)
    have hgo := State.yieldBarrier_releases hj (List.ne_nil_of_mem (hdue.2 hv)) fun w hw => hwaits.2 (hall w (hdue.1 hw))
    by_cases hpre : j.state = .preempting
    · rw [if_pos hpre] at hgo
      obtain ⟨js, hjs⟩ := s.modJob_only id fun j' => { j' with state := .saving, yieldStep := (s.vat (j.due.headD 0)).yieldStep }
      have honly := State.runAll_only { s with jobs := js } j.vatList .saving
      have hjobs := congrArg State.jobs honly
      have hfind (k : Nat) := s.find_modJob id k fun j' => { j' with state := .saving, yieldStep := (s.vat (j.due.headD 0)).yieldStep }
      rw [hjs] at hgo hfind
      refine ⟨_, runs_leaves hl rfl hgo (State.runAll_leaves { s with jobs := js } _ _), ?_, fun k hk => ?_, fun h => absurd hpre h,
        fun _ => ⟨⟨(s.vat (j.due.headD 0)).yieldStep, ?_⟩, fun w hw => ?_⟩⟩
      · rw [hjobs]
        exact honly
      · rw [hjobs]
        exact (hfind k).trans (if_neg hk)
      · rw [hjobs]
        exact (hfind id).trans ((if_pos rfl).trans (by rw [hj]; rfl))
      · exact (State.vat_runAll (l := j.vatList) (nodup_bitsSet _) _ _ w).trans (if_pos (List.mem_filter.1 (hdue.2 hw)).1)
    · rw [if_neg hpre] at hgo
      have honly := s.runAll_only j.due .running
      have hvat (w : Nat) := State.vat_runAll (l := j.due) ((nodup_bitsSet _).filter _) s .running w
      refine ⟨_, runs_leaves hl rfl hgo (s.runAll_leaves _ _), honly ▸ ?_, fun k _ => ?_,
        fun _ => ⟨?_, fun w hw => (hvat w).trans (if_pos (hdue.2 hw)), fun w hw => (hvat w).trans (if_neg fun h => hw (hdue.1 h))⟩,
        fun h => absurd h hpre⟩
      · rfl
      · rw [honly]
      · rw [honly]

end Sys2Proof.Machine
end
section
/-! The statement on bundles and cache fills (R208, R209, R220, R221, R223, R246; log 40). -/

namespace Sys2Proof.Machine

theorem OnlyVat.leaves {v : Nat} {s t : State} (h : OnlyVat v s t) : s.Leaves t := by
  rw [h.1]
  exact ⟨rfl, rfl, rfl, rfl⟩

/-! ### The instruction cache (R208, R209) -/

section Cache
variable (x : Vat) (a : Nat)

/-- A line that is put into its set is found there. -/
theorem Vat.cached_put (bs : List Byte) (rest : List (Nat × List Byte)) :
    Vat.cached { x with icache := tabPut (a / 256 % 64) ((a / 2 ^ 14, bs) :: rest) x.icache } a = some bs := by
  simp [Vat.cached, tabGet]

theorem Vat.touch_only : x.touch a = { x with icache := (x.touch a).icache } := by
  unfold Vat.touch
  split <;> rfl

theorem Vat.touch_cached : (x.touch a).cached a = x.cached a := by
  unfold Vat.touch
  split
  next => rfl
  next l h => rw [x.cached_put, h]

theorem Vat.sreg_touch (r : Fin 32) : (x.touch a).sreg r = x.sreg r := by
  rw [x.touch_only]
  rfl

theorem Vat.uncache_cached : (x.uncache a).cached a = none := by
  rw [Vat.cached, Vat.uncache, tabGet, tabFind_put_same, Option.getD_some, List.find?_eq_none.2, Option.map_none]
  intro p hp
  simpa using (List.mem_filter.1 hp).2

theorem Vat.uncache_other {k : Nat} (hk : k ≠ a / 256 % 64) : tabGet [] (x.uncache a).icache k = tabGet [] x.icache k :=
  congrArg (Option.getD · []) (tabFind_put_ne hk _ _)

theorem Vat.cacheLine_cached (bs : List Byte) : (x.cacheLine a bs).cached a = some bs := x.cached_put a bs _

theorem Vat.cacheLine_other {k : Nat} (hk : k ≠ a / 256 % 64) (bs : List Byte) :
    tabGet [] (x.cacheLine a bs).icache k = tabGet [] x.icache k := congrArg (Option.getD · []) (tabFind_put_ne hk _ _)

/-- A set holds four lines. -/
theorem Vat.cacheLine_length (bs : List Byte) : (tabGet [] (x.cacheLine a bs).icache (a / 256 % 64)).length ≤ 4 := by
  rw [Vat.cacheLine, tabGet, tabFind_put_same, Option.getD_some]
  exact List.length_take_le 4 _

end Cache

/-! ### The words of a bundle (R221, R227, R234) -/

theorem bitsAt_eq {w lo width : Nat} {x : BitVec width} (h : w / 2 ^ lo % 2 ^ width = x.toNat) : bitsAt w lo width = x := by
  apply BitVec.eq_of_toNat_eq
  rw [bitsAt, BitVec.toNat_ofNat, Nat.shiftRight_eq_div_pow, h]

theorem regAt_eq {w lo : Nat} {r : Fin 32} (h : w / 2 ^ lo % 32 = r.val) : regAt w lo = r := by
  apply Fin.ext
  rw [regAt, Fin.ofNat, Nat.shiftRight_eq_div_pow]
  exact h

theorem decodeCtl_brz (v : Fin 128) (p : Bool) (rc : Fin 32) (imm : Word) :
    decodeCtl v p (ctlWord 2 rc 0 false imm) = some (.brz v rc imm) := by
  have himm := imm.isLt
  have hw : ctlWord 2 rc 0 false imm = 2 * 2 ^ 58 + rc.val * 2 ^ 53 + imm.toNat := by
    simp [ctlWord, fieldAt, regField, bitField]
  have hop : bitsAt (ctlWord 2 rc 0 false imm) 58 6 = 2 := bitsAt_eq (by rw [hw]; show _ = 2; omega)
  have hzero : bitsAt (ctlWord 2 rc 0 false imm) 32 15 = 0 := bitsAt_eq (by rw [hw]; show _ = 0; omega)
  have hra : regAt (ctlWord 2 rc 0 false imm) 53 = rc := regAt_eq (by rw [hw]; omega)
  have himmAt : bitsAt (ctlWord 2 rc 0 false imm) 0 32 = imm := bitsAt_eq (by rw [hw]; omega)
  simp only [decodeCtl, hop, hzero, hra, himmAt, ne_eq, not_true_eq_false, if_false]
  rfl

theorem decodeScl_add (v : Fin 128) (rd ra rb : Fin 32) : decodeScl v (sclWord 1 rd ra rb) = some (.add v rd ra rb) := by
  have hw : sclWord 1 rd ra rb = 2 ^ 26 + rd.val * 2 ^ 21 + ra.val * 2 ^ 16 + rb.val * 2 ^ 11 := by
    simp [sclWord, fieldAt, regField]
  have hop : bitsAt (sclWord 1 rd ra rb) 26 6 = 1 := bitsAt_eq (by rw [hw]; show _ = 1; omega)
  have hlow : sclWord 1 rd ra rb % 2048 = 0 := by rw [hw]; omega
  have hrd : regAt (sclWord 1 rd ra rb) 21 = rd := regAt_eq (by rw [hw]; omega)
  have hra : regAt (sclWord 1 rd ra rb) 16 = ra := regAt_eq (by rw [hw]; omega)
  have hrb : regAt (sclWord 1 rd ra rb) 11 = rb := regAt_eq (by rw [hw]; omega)
  simp only [decodeScl, hop, hlow, hrd, hra, hrb, ne_eq, not_true_eq_false, and_false, if_false]
  rfl

/-! ### The step of the sequencer (R209, R221, R222) -/

/-- The head of the bundle at an address of a cached line, and its slots. -/
def bundleHead (line : List Byte) (pc : Nat) : Word := BitVec.ofNat 32 (natOfBytes ((line.drop (pc % 256)).take 4))
def bundleSlots (v : Fin 128) (p : Bool) (line : List Byte) (pc : Nat) : List (Nat × Option Instr) :=
  decodeSlots v p (bundleHead line pc) (List.range 8) ((line.drop (pc % 256)).drop 4)

section Step
variable {s : State} {v : Fin 128} {p cp : Bool} {line : List Byte}

theorem Vat.run_touch (x : Vat) (a : Nat) : (x.touch a).run = x.run := by
  rw [x.touch_only]

theorem State.bundle_stopped (h : (s.vat v).run ≠ .running) : s.bundle v p cp = s := by
  unfold State.bundle
  exact if_pos (by rwa [Vat.run_touch])

variable (hrun : (s.vat v).run = .running)
include hrun

theorem State.bundle_outside (h : (s.vat v).pc.toNat % 4 ≠ 0 ∨ s.codeSize v ≤ (s.vat v).pc.toNat) :
    s.bundle v p cp = s.vatTrap v .codeRange none 0 := by
  unfold State.bundle
  refine (if_neg ?_).trans (if_pos h)
  rwa [Vat.run_touch, not_not]

variable (hplace : ¬((s.vat v).pc.toNat % 4 ≠ 0 ∨ s.codeSize v ≤ (s.vat v).pc.toNat))
include hplace

theorem State.bundle_inside : s.bundle v p cp =
    match (s.vat v).cached (s.vat v).pc.toNat with
    | none => s
    | some line =>
      if cp then s.modVat v fun x => x.uncache (s.vat v).pc.toNat
      else
        let y := (s.vat v).touch (s.vat v).pc.toNat
        let slots := bundleSlots v p line (s.vat v).pc.toNat
        match s.bundleCheck v y (bundleHead line (s.vat v).pc.toNat) slots with
        | some (c, k, imm) => s.vatTrap v c k imm
        | none => if bundleWaits y (slots.filterMap (·.2)) then s
          else s.issue v y (bundleHead line (s.vat v).pc.toNat) slots := by
  unfold State.bundle
  refine (if_neg ?_).trans ((if_neg hplace).trans ?_)
  · rwa [Vat.run_touch, not_not]
  · rw [Vat.touch_cached]
    rfl

section Cached
variable (hline : (s.vat v).cached (s.vat v).pc.toNat = some line)
include hline

theorem State.bundle_drops : s.bundle v p true = s.modVat v fun x => x.uncache (s.vat v).pc.toNat := by
  rw [State.bundle_inside hrun hplace, hline]
  rfl

theorem State.bundle_traps {c : TrapCause} {k : Option Nat} {imm : Word}
    (h : s.bundleCheck v ((s.vat v).touch (s.vat v).pc.toNat) (bundleHead line (s.vat v).pc.toNat)
      (bundleSlots v p line (s.vat v).pc.toNat) = some (c, k, imm)) : s.bundle v p false = s.vatTrap v c k imm := by
  rw [State.bundle_inside hrun hplace, hline]
  simp only [h, Bool.false_eq_true, if_false]

theorem State.bundle_issues {slots : List (Nat × Option Instr)} (hslots : bundleSlots v p line (s.vat v).pc.toNat = slots)
    (h : s.bundleCheck v ((s.vat v).touch (s.vat v).pc.toNat) (bundleHead line (s.vat v).pc.toNat) slots = none)
    (hfree : bundleWaits ((s.vat v).touch (s.vat v).pc.toNat) (slots.filterMap (·.2)) = false) :
    s.bundle v p false = s.issue v ((s.vat v).touch (s.vat v).pc.toNat) (bundleHead line (s.vat v).pc.toNat) slots := by
  rw [State.bundle_inside hrun hplace, hline]
  simp only [hslots, h, hfree, Bool.false_eq_true, if_false]

end Cached

end Step

/-! ### The two bundles -/

theorem bundleSlots_empty {v : Fin 128} {p : Bool} {line : List Byte} {pc : Nat}
    (h : bundleHead line pc = 0 ∨ bundleHead line pc = BitVec.ofNat 32 (2 ^ 23)) : bundleSlots v p line pc = [] := by
  unfold bundleSlots
  rcases h with h | h
  all_goals
    rw [h]
    rfl

theorem bundleSlots_brz_add {v : Fin 128} {p : Bool} {line : List Byte} {pc : Nat} {rd ra rb rc : Fin 32} {imm : Word}
    (h : bundleHead line pc = BitVec.ofNat 32 (3 * 2 ^ 24))
    (hctl : natOfBytes (((line.drop (pc % 256)).drop 4).take 8) = ctlWord 2 rc 0 false imm)
    (hscl : natOfBytes (((line.drop (pc % 256)).drop 12).take 4) = sclWord 1 rd ra rb) :
    bundleSlots v p line pc = [(0, some (.brz v rc imm)), (1, some (.add v rd ra rb))] := by
  have hslots (bs : List Byte) : decodeSlots v p (BitVec.ofNat 32 (3 * 2 ^ 24)) (List.range 8) bs =
      [(0, decodeCtl v p (natOfBytes (bs.take 8))), (1, decodeScl v (natOfBytes ((bs.drop 8).take 4)))] := rfl
  rw [bundleSlots, h, hslots, hctl, decodeCtl_brz, List.drop_drop, hscl, decodeScl_add]

theorem bundleHead_reserved {line : List Byte} {pc : Nat} (h : natOfBytes ((line.drop (pc % 256)).take 4) % 2 ^ 23 ≠ 0) :
    field (bundleHead line pc) 0 23 ≠ 0 := fun hz => h (by
  have := congrArg BitVec.toNat hz
  rw [field_toNat, bundleHead, BitVec.toNat_ofNat] at this
  change _ = 0 at this
  omega)

/-- The check of a bundle without slots is of its head and its place alone. -/
theorem State.bundleCheck_empty {s : State} {v : Nat} {x : Vat} {head : Word} (hzero : field head 0 23 = 0)
    (hplace : x.pc.toNat % 256 + bundleSize head ≤ 256) : s.bundleCheck v x head [] = none := by
  have hgood : ¬(field head 0 23 ≠ 0 ∨ 256 < x.pc.toNat % 256 + bundleSize head) := by
    rw [not_or, not_not]
    exact ⟨hzero, by omega⟩
  simp only [State.bundleCheck, if_neg hgood]
  rfl

theorem State.bundleCheck_reserved {s : State} {v : Nat} {x : Vat} {head : Word} (hbad : field head 0 23 ≠ 0)
    (slots : List (Nat × Option Instr)) : s.bundleCheck v x head slots = some (.bundleFormat, none, 0) :=
  if_pos (.inl hbad)

/-- Nothing but the vat differs once a bundle without slots, or with SCL and CTL slots, has issued. -/
theorem State.issue_empty {s : State} {v : Nat} {x : Vat} {head : Word} (hrun : x.run = .running) :
    VatBecomes v (x.onward x.pc.toNat (seqAddr x.pc.toNat head)) s (s.issue v x head []) := by
  have hvat : ((s.drew.modVat v fun _ => x).vat v).run = .running := by rw [State.vat_modVat_same, hrun]
  have hissue : s.issue v x head [] = (s.drew.modVat v fun _ => x).modVat v fun x' => x'.onward x.pc.toNat (seqAddr x.pc.toNat head) :=
    if_pos hvat
  rw [hissue]
  exact (State.modVat_becomes s.drew v fun _ => x).modVat _

/-- A branch and an ADD both read the registers of the vat before the bundle. -/
theorem State.issue_brz_add {s : State} {v : Fin 128} {x : Vat} {head : Word} {rd ra rb rc : Fin 32} {imm : Word}
    (hrun : x.run = .running) :
    VatBecomes v ((x.setSreg rd (x.sreg ra + x.sreg rb)).branch (x.sreg rc == 0) imm x.pc.toNat (seqAddr x.pc.toNat head)) s
      (s.issue v x head [(0, some (.brz v rc imm)), (1, some (.add v rd ra rb))]) := by
  have hvat : ((s.drew.modVat v fun _ => x.setSreg rd (x.sreg ra + x.sreg rb)).vat v).run = .running := by
    rw [State.vat_modVat_same, Vat.setSreg]
    split <;> exact hrun
  have hissue : s.issue v x head [(0, some (.brz v rc imm)), (1, some (.add v rd ra rb))] =
      (s.drew.modVat v fun _ => x.setSreg rd (x.sreg ra + x.sreg rb)).modVat v
        fun x' => x'.branch (x.sreg rc == 0) imm x.pc.toNat (seqAddr x.pc.toNat head) := if_pos hvat
  rw [hissue]
  exact (State.modVat_becomes s.drew v fun _ => x.setSreg rd (x.sreg ra + x.sreg rb)).modVat _

/-- A slot that writes no register clashes with no other. -/
theorem clash_pair {f : Instr → List Nat} {c d : Instr} (h : f c = []) : clash f [c, d] = false := by
  simp [clash, h]

theorem State.bundleCheck_brz_add {s : State} {v : Fin 128} {x : Vat} {head : Word} {rd ra rb rc : Fin 32} {imm : Word}
    (hzero : field head 0 23 = 0) (hplace : x.pc.toNat % 256 + bundleSize head ≤ 256) (halign : imm.toNat % 4 = 0)
    (hinside : imm.toNat < s.codeSize v) :
    s.bundleCheck v x head [(0, some (.brz v rc imm)), (1, some (.add v rd ra rb))] = none := by
  have hgood : ¬(field head 0 23 ≠ 0 ∨ 256 < x.pc.toNat % 256 + bundleSize head) := by
    rw [not_or, not_not]
    exact ⟨hzero, by omega⟩
  have htarget : s.checkTarget v imm = none := by simp [State.checkTarget, need, halign, hinside]
  have hbrz (seq : Nat) : s.slotCheck v x seq (.brz v rc imm) = none := htarget
  have hadd (seq : Nat) : s.slotCheck v x seq (.add v rd ra rb) = none := rfl
  have hclash : (clash (scalarWrites x) [.brz v rc imm, .add v rd ra rb] || clash vectorWrites [.brz v rc imm, .add v rd ra rb] ||
      preloadClash x [.brz v rc imm, .add v rd ra rb]) = false := by
    rw [clash_pair (f := scalarWrites x) rfl, clash_pair (f := vectorWrites) rfl]
    rfl
  simp only [State.bundleCheck, if_neg hgood, List.filterMap_cons, List.filterMap_nil, hbrz, hadd, hclash]
  rfl

/-! ### ICACHE_FILL (R208) -/

/-- The address of the line that a fill brings. -/
def fillAddr (x : Vat) : Nat :=
  if x.cached (x.pc.toNat / 256 * 256) = none then x.pc.toNat / 256 * 256 else x.pc.toNat / 256 * 256 + 256

/-- The record of a bundle's line that cannot be read. -/
def fillInfo (v off : Nat) : ErrInfo :=
  { code := 0x0301, severity := 1, part := 0, path := 1, unit := v, addrKind := 1, addr := off,
    detail0 := trapDetail .fetchUncorrectable none 0 }

section Fill
variable {s : State} {v : Nat}

theorem State.icacheFill_idle (h : s.codeSize v ≤ fillAddr (s.vat v) ∨ (s.vat v).cached (fillAddr (s.vat v)) ≠ none) :
    s.icacheFill v = s := by
  unfold State.icacheFill
  simp only [Option.isNone_iff_eq_none]
  refine if_pos (.inr (h.imp_right fun hc => ?_))
  rwa [Option.isSome_iff_ne_none]

variable (hjob : s.jobOf v ≠ none) (hinside : fillAddr (s.vat v) < s.codeSize v)
  (hmiss : (s.vat v).cached (fillAddr (s.vat v)) = none)
include hjob hinside hmiss

/-- What a fill does with the 256 bytes that it reads. -/
theorem State.icacheFill_reads : s.icacheFill v =
    let read := s.winRead (s.vatPart v) (s.bundleOffset v (fillAddr (s.vat v))) 256
    match read.1.fail with
    | none => read.2.modVat v fun x => x.cacheLine (fillAddr (s.vat v)) read.1.bytes
    | some _ =>
      if fillAddr (s.vat v) ≠ (s.vat v).pc.toNat / 256 * 256 then read.2
      else read.2.faultVat v (fillInfo v (s.bundleOffset v (fillAddr (s.vat v)))) := by
  unfold State.icacheFill
  simp only [Option.isNone_iff_eq_none]
  refine if_neg ?_
  rintro (h | h | h)
  · exact hjob h
  · exact absurd h (Nat.not_le.2 hinside)
  · exact absurd (hmiss ▸ h : (none : Option (List Byte)).isSome = true) (by decide)

/-- The line that a fill reads. -/
def State.fillRead (s : State) (v : Nat) : ReadOut × State := s.winRead (s.vatPart v) (s.bundleOffset v (fillAddr (s.vat v))) 256

theorem State.icacheFill_brings (h : (s.fillRead v).1.fail = none) :
    s.icacheFill v = (s.fillRead v).2.modVat v fun x => x.cacheLine (fillAddr (s.vat v)) (s.fillRead v).1.bytes := by
  rw [State.fillRead] at h
  rw [State.icacheFill_reads hjob hinside hmiss]
  simp only [h]
  rfl

theorem State.icacheFill_fails (h : (s.fillRead v).1.fail ≠ none) : s.icacheFill v =
    if fillAddr (s.vat v) ≠ (s.vat v).pc.toNat / 256 * 256 then (s.fillRead v).2
    else (s.fillRead v).2.faultVat v (fillInfo v (s.bundleOffset v (fillAddr (s.vat v)))) := by
  obtain ⟨f, hf⟩ := Option.ne_none_iff_exists'.1 h
  rw [State.fillRead] at hf
  rw [State.icacheFill_reads hjob hinside hmiss]
  simp only [hf]
  rfl

theorem State.icacheFill_faults (h : (s.fillRead v).1.fail ≠ none) (ha : fillAddr (s.vat v) = (s.vat v).pc.toNat / 256 * 256) :
    s.icacheFill v = (s.fillRead v).2.faultVat v (fillInfo v (s.bundleOffset v (fillAddr (s.vat v)))) :=
  (State.icacheFill_fails hjob hinside hmiss h).trans (if_neg (not_not.2 ha))

theorem State.icacheFill_skips (h : (s.fillRead v).1.fail ≠ none) (ha : fillAddr (s.vat v) ≠ (s.vat v).pc.toNat / 256 * 256) :
    s.icacheFill v = (s.fillRead v).2 :=
  (State.icacheFill_fails hjob hinside hmiss h).trans (if_pos ha)

theorem State.icacheFill_blocked : (s.icacheFill v).blocked = (s.fillRead v).2.blocked := by
  by_cases h : (s.fillRead v).1.fail = none
  · rw [State.icacheFill_brings hjob hinside hmiss h]
    rfl
  · rw [State.icacheFill_fails hjob hinside hmiss h]
    split
    · rfl
    · exact ((s.fillRead v).2.faultVat_spec v rfl rfl rfl).2

end Fill

/-- Settles O20: the step of the sequencer and a fill, each by what the cache holds. -/
theorem bundlesFetchAndIssue : Obligations.BundlesFetchAndIssue := by
  unfold Obligations.BundlesFetchAndIssue
  refine ⟨?_, ?_⟩
  · intro s v p cp hl x pc y
    have runs {p cp : Bool} {t : State} (h : s.bundle v p cp = t) (ht : s.Leaves t) : Runs (.bundle v p cp) s t :=
      runs_leaves hl rfl h ht
    have traps {p cp : Bool} {c : TrapCause} (h : s.bundle v p cp = s.vatTrap v c none 0) :
        ∃ t, Runs (.bundle v p cp) s t ∧ Traps v c none 0 s t := by
      refine ⟨_, act_next .., ?_⟩
      rw [whenRunning_on hl.1, h]
      exact s.vatTrap_traps v c none 0
    refine ⟨fun hrun => runs (State.bundle_stopped hrun) (.refl s), fun hrun hplace => traps (State.bundle_outside hrun hplace),
      fun hrun halign hcode => ?_⟩
    have hplace : ¬(pc % 4 ≠ 0 ∨ s.codeSize v ≤ pc) := by omega
    refine ⟨fun hmiss => runs ?_ (.refl s), fun hhit => ?_, fun line hline => ?_⟩
    · rw [State.bundle_inside hrun hplace, hmiss]
    · obtain ⟨line, hline⟩ := Option.ne_none_iff_exists'.1 hhit
      refine ⟨_, runs (State.bundle_drops hrun hplace hline) (State.modVat_leaves _ _ _), State.modVat_onlyVat _ _ _, ?_⟩
      rw [State.vat_modVat_same]
      exact ⟨rfl, x.uncache_cached pc, fun k hk => x.uncache_other pc hk⟩
    · intro bs head
      have hrunY : y.run = .running := (x.run_touch pc).trans hrun
      have hpcY : y.pc = x.pc := by rw [show y = _ from x.touch_only pc]
      have issued {q : Bool} {slots : List (Nat × Option Instr)} {z : Vat} (hslots : bundleSlots v q line pc = slots)
          (hcheck : s.bundleCheck v y (bundleHead line pc) slots = none)
          (hfree : bundleWaits y (slots.filterMap (·.2)) = false) (hz : VatBecomes v z s (s.issue v y (bundleHead line pc) slots)) :
          ∃ t, Runs (.bundle v q false) s t ∧ VatBecomes v z s t :=
        ⟨_, runs (State.bundle_issues hrun hplace hline hslots hcheck hfree) hz.1.leaves, hz⟩
      have issue_empty {head' : Word} (hhead : bundleHead line pc = head') :
          VatBecomes v (y.onward pc (seqAddr pc head')) s (s.issue v y (bundleHead line pc) []) := by
        have hz := State.issue_empty (s := s) (v := v) (head := bundleHead line pc) hrunY
        rw [hpcY] at hz
        rw [← hhead]
        exact hz
      have hfits (hsize : bundleSize (bundleHead line pc) = 4) : y.pc.toNat % 256 + bundleSize (bundleHead line pc) ≤ 256 := by
        have hpc : x.pc.toNat = pc := rfl
        rw [hpcY, hsize, hpc]
        omega
      refine ⟨fun hhead => ?_, fun hhead => ?_, fun hhead => ?_, fun rd ra rb rc imm hhead hplace16 hctl hscl himm hinside => ?_⟩
      · have hhead' : bundleHead line pc = 0 := congrArg (BitVec.ofNat 32) hhead
        have hz := issue_empty hhead'
        exact issued (bundleSlots_empty (.inl hhead')) (State.bundleCheck_empty (hhead' ▸ rfl) (hfits (hhead' ▸ rfl))) rfl hz
      · have hhead' : bundleHead line pc = BitVec.ofNat 32 (2 ^ 23) := congrArg (BitVec.ofNat 32) hhead
        have hz := issue_empty hhead'
        exact issued (bundleSlots_empty (.inr hhead')) (State.bundleCheck_empty (hhead' ▸ rfl) (hfits (hhead' ▸ rfl))) rfl hz
      · exact traps (State.bundle_traps hrun hplace hline (State.bundleCheck_reserved (bundleHead_reserved hhead) _))
      · have hhead' : bundleHead line pc = BitVec.ofNat 32 (3 * 2 ^ 24) := congrArg (BitVec.ofNat 32) hhead
        refine issued (bundleSlots_brz_add hhead' hctl hscl) (State.bundleCheck_brz_add (hhead' ▸ rfl) ?_ himm hinside) rfl ?_
        · rw [hpcY, hhead']
          exact hplace16
        · have hz := State.issue_brz_add (s := s) (v := v) (head := bundleHead line pc) (rd := rd) (ra := ra) (rb := rb) (rc := rc)
            (imm := imm) hrunY
          rw [hpcY, hhead', x.sreg_touch, x.sreg_touch, x.sreg_touch] at hz
          rw [hhead']
          exact hz
  · intro s v errs hl hjob x c here a read base
    have row : Row c s errs fun s => s.icacheFill v := .inl rfl
    have hu : StackOnly (s.told errs) read.2 := State.winRead_stackOnly _ _ _ _
    refine ⟨fun h => row.idle hl (State.icacheFill_idle h), fun hinside hmiss => ?_⟩
    have hblocked : ((s.told errs).icacheFill v).blocked = read.2.blocked := State.icacheFill_blocked hjob hinside hmiss
    have hvat : base.vat v = x := by
      obtain ⟨_, _, _, _, _, _, _, _, hu⟩ := hu
      show read.2.vat v = x
      rw [hu]
      rfl
    refine ⟨fun hb => runs_blocked (f := fun s => s.icacheFill v) hl rfl ?_, fun hb hread => ?_, fun hb hfail ha => ?_,
      fun hb hfail ha => ?_⟩
    · exact hblocked.trans hb
    · have hruns := row.runs hl (hblocked.trans hb)
      rw [State.icacheFill_brings (s := s.told errs) hjob hinside hmiss hread, State.after_modVat] at hruns
      refine ⟨_, hruns, State.modVat_onlyVat _ _ _, ?_⟩
      rw [State.vat_modVat_same]
      refine ⟨?_, Vat.cacheLine_cached _ _ _, Vat.cacheLine_length _ _ _, fun k hk => ?_⟩
      · rw [← hvat]
        rfl
      · rw [← hvat]
        exact Vat.cacheLine_other _ _ hk _
    · have hruns := row.runs hl (hblocked.trans hb)
      rw [State.icacheFill_faults (s := s.told errs) hjob hinside hmiss hfail ha] at hruns
      exact ⟨_, hruns, (read.2.faultVat_spec v rfl rfl rfl).1.after s⟩
    · have hruns := row.runs hl (hblocked.trans hb)
      rwa [State.icacheFill_skips (s := s.told errs) hjob hinside hmiss hfail ha] at hruns

end Sys2Proof.Machine
end
section
/-! A write of whole 64-byte lines of a window range, in either bias (R56, R60, R263): each byte becomes the one written, and no
other byte changes. -/

namespace Sys2Proof.Machine

/-! ### What taking lines from the host leaves (R60) -/

/-- Memory keeps its form, its bias and the bytes at these addresses. -/
def MemKept (at_ : Nat → Prop) (s t : State) : Prop :=
  s.mem.wf = true → t.mem.wf = true ∧ t.mem.bias = s.mem.bias ∧ ∀ x, at_ x → t.mem.byte x = s.mem.byte x

theorem MemKept.of_mem {at_ : Nat → Prop} {s t : State} (h : t.mem = s.mem) : MemKept at_ s t := fun hm =>
  ⟨h ▸ hm, by rw [h], fun _ _ => by rw [h]⟩

theorem MemKept.trans {at_ : Nat → Prop} {s t u : State} (h : MemKept at_ s t) (g : MemKept at_ t u) : MemKept at_ s u := fun hm => by
  obtain ⟨ht, hbias, hbyte⟩ := h hm
  obtain ⟨hu, gbias, gbyte⟩ := g ht
  exact ⟨hu, gbias.trans hbias, fun x hx => (gbyte x hx).trans (hbyte x hx)⟩

theorem length_bytesOf {n : Nat} (x : BitVec n) (k : Nat) : (bytesOf x k).length = k := by
  rw [bytesOf, List.length_map, List.length_range]

/-- A line that the device takes changes its own 64 bytes alone. -/
theorem State.takeLine_kept {at_ : Nat → Prop} {l : Nat} (h : ∀ x, at_ x → x < l ∨ l + 64 ≤ x) (s : State) :
    MemKept at_ s (State.takeLine l s) := by
  unfold State.takeLine
  split
  next y _ =>
    refine fun hm => ⟨Mem.replace_wf hm _ _, Mem.replace_bias _ _ _, fun x hx => (Mem.byte_replace_eq hm _ _ _).trans (if_neg ?_)⟩
    have := h x hx
    rw [length_bytesOf]
    omega
  next => exact .of_mem rfl

/-- The host's lines of a range of whole lines lie in it. -/
theorem State.mem_hostLines_range {s : State} {a n l : Nat} (ha : 64 ∣ a) (hn : 64 ∣ n) (h : l ∈ s.hostLines [(a, n)]) :
    a ≤ l ∧ l + 64 ≤ a + n := by
  simp only [State.hostLines, List.flatMap_cons, List.flatMap_nil, List.append_nil] at h
  split at h
  · exact absurd h List.not_mem_nil
  · obtain ⟨p, -, hp⟩ := List.mem_flatMap.1 h
    split at hp
    · exact absurd hp List.not_mem_nil
    · obtain ⟨hl, hmeets⟩ := List.mem_filter.1 hp
      obtain ⟨k, -, rfl⟩ := List.mem_map.1 hl
      rw [Bool.and_eq_true, decide_eq_true_iff, decide_eq_true_iff] at hmeets
      omega

theorem State.cohere_kept {a n : Nat} (ha : 64 ∣ a) (hn : 64 ∣ n) (s : State) :
    MemKept (fun x => ¬(a ≤ x ∧ x < a + n)) s (s.cohere [(a, n)]) := by
  have hlines : ∀ l ∈ s.hostLines [(a, n)], a ≤ l ∧ l + 64 ≤ a + n := fun l hl => State.mem_hostLines_range ha hn hl
  unfold State.cohere
  generalize s.hostLines [(a, n)] = lines at hlines
  refine MemKept.trans (t := if s.held [(a, n)] then { s with blocked := true } else s) (.of_mem ?_) ?_
  · split <;> rfl
  · generalize (if s.held [(a, n)] then { s with blocked := true } else s) = u
    induction lines generalizing u with
    | nil => exact .of_mem rfl
    | cons l t ih =>
      refine (u.takeLine_kept fun x hx => ?_).trans (ih (fun q hq => hlines q (List.mem_cons_of_mem _ hq)) _)
      have := hlines l List.mem_cons_self
      omega

/-! ### Stores (R263) -/

/-- A store of whole lines. -/
theorem State.storeAt_lines {s : State} {a : Nat} {bs : List Byte} (hm : s.mem.wf = true) (ha : 64 ∣ a) (hn : 64 ∣ bs.length) :
    (s.storeAt a bs).1.mem.wf = true ∧ (s.storeAt a bs).1.mem.bias = s.mem.bias ∧
      ∀ x, (s.storeAt a bs).1.mem.byte x = (s.mem.replace a bs).byte x := by
  have hparts : partWords (s.checkAt a) a bs.length = [] := by
    have hcw : a % s.checkAt a = 0 ∧ (a + bs.length) % s.checkAt a = 0 := by
      simp only [State.checkAt, checkWord]
      split <;> omega
    simp [partWords, hcw]
  have hmem : (s.storeAt a bs).1.mem = (s.cohere [(a, bs.length)]).mem.replace a bs := by
    simp only [State.storeAt, hparts, State.meet_empty, Mem.store_words _ _ (show a % 8 = 0 by omega) (show bs.length % 8 = 0 by omega)]
  obtain ⟨hwf, hbias, hbyte⟩ := s.cohere_kept ha hn hm
  rw [hmem]
  refine ⟨Mem.replace_wf hwf _ _, (Mem.replace_bias _ _ _).trans hbias, fun x => ?_⟩
  rw [Mem.byte_replace_eq hwf, Mem.byte_replace_eq hm]
  split
  next => rfl
  next hx => exact hbyte x hx

theorem Mem.byte_replaceSegs_congr {segs : List (Nat × Nat)} {m m' : Mem} {bs : List Byte} (hm : m.wf = true) (hm' : m'.wf = true)
    (h : ∀ x, m.byte x = m'.byte x) (x : Nat) : (m.replaceSegs segs bs).byte x = (m'.replaceSegs segs bs).byte x := by
  induction segs generalizing m m' bs with
  | nil => exact h x
  | cons y t ih =>
    refine ih (Mem.replace_wf hm _ _) (Mem.replace_wf hm' _ _) fun z => ?_
    rw [Mem.byte_replace_eq hm, Mem.byte_replace_eq hm', h z]

/-- A write of whole lines, in either bias, puts its bytes where its ranges are. -/
theorem writeSegs_lines {segs : List (Nat × Nat)} {s : State} {bs : List Byte} (hm : s.mem.wf = true)
    (h : ∀ x ∈ segs, 64 ∣ x.1 ∧ 64 ∣ x.2) (hlen : (segAddrs segs).length ≤ bs.length) :
    (writeSegs s segs bs).1.mem.bias = s.mem.bias ∧
      ∀ x, (writeSegs s segs bs).1.mem.byte x = (s.mem.replaceSegs segs bs).byte x := by
  induction segs generalizing s bs with
  | nil => exact ⟨rfl, fun _ => rfl⟩
  | cons y t ih =>
    obtain ⟨a, n⟩ := y
    obtain ⟨ha, hn⟩ := h _ List.mem_cons_self
    rw [segAddrs_cons, List.length_append, List.length_range'] at hlen
    have htake : (bs.take n).length = n := by rw [List.length_take]; omega
    obtain ⟨hwf, hbias, hbyte⟩ := State.storeAt_lines (s := s) (bs := bs.take n) hm ha (htake.symm ▸ hn)
    obtain ⟨gbias, gbyte⟩ := ih (s := (s.storeAt a (bs.take n)).1) (bs := bs.drop n) hwf
      (fun x hx => h x (List.mem_cons_of_mem _ hx)) (by rw [List.length_drop]; omega)
    exact ⟨gbias.trans hbias, fun x => (gbyte x).trans (Mem.byte_replaceSegs_congr hwf (Mem.replace_wf hm _ _) hbyte x)⟩

/-! ### Window ranges (R56) -/

theorem Part.dpa_dvd {p : Part} {q w a : Nat} (hq : q ∣ 2 ^ 28) (h : p.dpa w = some a) (hw : q ∣ w) : q ∣ a := by
  obtain ⟨r, -, rfl⟩ := Option.map_eq_some_iff.1 h
  exact (hq.mul_left r).add ((Nat.dvd_mod_iff hq).2 hw)

/-- The device ranges of a window range keep what the range and its offset have of multiples. -/
theorem winSegs_dvd {p : Part} {q fuel w len : Nat} (hq : q ∣ 2 ^ 28) (hw : q ∣ w) (hlen : q ∣ len) :
    ∀ x ∈ winSegs p fuel w len, q ∣ x.1 ∧ q ∣ x.2 := by
  induction fuel generalizing w len with
  | zero => exact fun x hx => absurd hx List.not_mem_nil
  | succ fuel ih =>
    rw [winSegs]
    split
    · exact fun x hx => absurd hx List.not_mem_nil
    · dsimp only
      cases ha : p.dpa w with
      | none => exact fun x hx => absurd hx List.not_mem_nil
      | some a =>
        have hk : q ∣ min len (2 ^ 28 - w % 2 ^ 28) := by
          rw [Nat.min_def]
          split
          · exact hlen
          · exact Nat.dvd_sub hq ((Nat.dvd_mod_iff hq).2 hw)
        rintro x hx
        rcases List.mem_cons.1 hx with rfl | hx
        · exact ⟨Part.dpa_dvd hq ha hw, hk⟩
        · exact ih (hw.add hk) (Nat.dvd_sub hlen hk) x hx

/-- Inside less than a region's length no address stands for two offsets, whatever the window's map. -/
theorem nodup_segAddrs_short {p : Part} {w len : Nat} (hin : w + len ≤ p.winSize) (hlen : len ≤ 2 ^ 28) :
    (segAddrs (p.segs w len)).Nodup := by
  refine List.Nodup.of_map some ?_
  rw [segAddrs_segs hin hlen]
  refine List.Nodup.map_on (fun v hv u hu h => ?_) List.nodup_range'
  rw [List.mem_range'_1] at hv hu
  obtain ⟨a, ha⟩ := Option.isSome_iff_exists.1 (Part.dpa_isSome (p := p) (w := v) (by omega))
  obtain ⟨r, -, hr⟩ := Option.map_eq_some_iff.1 ha
  obtain ⟨r', -, hr'⟩ := Option.map_eq_some_iff.1 (h ▸ ha)
  omega

section Write
variable {s : State} {n w : Nat} {bs : List Byte} (hm : s.mem.wf = true) (hin : w + bs.length ≤ (s.part n).winSize)
  (hlen : bs.length ≤ 2 ^ 28) (hw : 64 ∣ w) (hlines : 64 ∣ bs.length)
include hm hin hlen hw hlines

theorem State.winWrite_lines : (s.winWrite n w bs).1.mem.bias = s.mem.bias ∧ ∀ x, (s.winWrite n w bs).1.mem.byte x =
    (s.mem.replaceSegs ((s.part n).segs w bs.length) bs).byte x :=
  writeSegs_lines hm (winSegs_dvd (by decide) hw hlines) (length_segAddrs hin hlen).le

theorem State.winWrite_byte {i d : Nat} (hi : i < bs.length) (hd : (s.part n).dpa (w + i) = some d) :
    (s.winWrite n w bs).1.mem.byte d = bs[i]? := by
  rw [(State.winWrite_lines hm hin hlen hw hlines).2]
  exact Mem.byte_replaceSegs hm (nodup_segAddrs_short hin hlen) (getElem?_segAddrs hin hlen hi hd) hi

theorem State.winWrite_byte_outside {a : Nat} (ha : ∀ i, i < bs.length → (s.part n).dpa (w + i) ≠ some a) :
    (s.winWrite n w bs).1.mem.byte a = s.mem.byte a := by
  rw [(State.winWrite_lines hm hin hlen hw hlines).2]
  refine Mem.byte_replaceSegs_outside hm fun hmem => ?_
  obtain ⟨i, hi, hd⟩ := (mem_segAddrs hin hlen).1 hmem
  exact ha i hi hd

end Write

end Sys2Proof.Machine
end
section
/-! The statement on stored lines that reach the window and on SEND lines that leave (R244, R245, R316, R325, R415, R419, R438,
R526; log 2, log 33, log 41). -/

namespace Sys2Proof.Machine

/-! ### Bytes of lines -/

theorem length_flatMap_const {α β : Type} {f : α → List β} {k : Nat} (hf : ∀ a, (f a).length = k) (l : List α) :
    (l.flatMap f).length = k * l.length := by
  induction l with
  | nil => rfl
  | cons a l ih => rw [List.flatMap_cons, List.length_append, hf, ih, List.length_cons, Nat.mul_add_one, Nat.add_comm]

theorem getElem?_flatMap_const {α β : Type} {f : α → List β} {k : Nat} (hf : ∀ a, (f a).length = k) (l : List α) {i : Nat}
    (hi : i < k * l.length) : (l.flatMap f)[i]? = l[i / k]?.bind fun a => (f a)[i % k]? := by
  induction l generalizing i with
  | nil => exact absurd hi (by rw [List.length_nil]; omega)
  | cons a l ih =>
    have hk : 0 < k := Nat.pos_of_mul_pos_right (Nat.lt_of_le_of_lt (Nat.zero_le i) hi)
    rw [List.flatMap_cons]
    by_cases h : i < k
    · rw [List.getElem?_append_left (by rw [hf]; exact h), Nat.div_eq_of_lt h, Nat.mod_eq_of_lt h]
      rfl
    · have hle : k ≤ i := Nat.le_of_not_lt h
      rw [List.length_cons, Nat.mul_add_one] at hi
      rw [List.getElem?_append_right (by rw [hf]; exact hle), hf, ih (by omega), Nat.div_eq_sub_div hk hle,
        Nat.mod_eq_sub_mod hle, List.getElem?_cons_succ]

/-- The bytes of an SST's lines. -/
def sstBytes (x : Xfer) : List Byte := x.data.flatMap fun l => bytesOf l 2048

theorem length_sstBytes (x : Xfer) : (sstBytes x).length = 2048 * x.data.length := length_flatMap_const (fun _ => length_bytesOf _ _) _

theorem sstBytes_getElem {x : Xfer} {i : Nat} (hi : i < 2048 * x.data.length) :
    (sstBytes x)[i]? = some (field (x.data.getD (i / 2048) 0) (8 * (i % 2048)) 8) := by
  have hline : i / 2048 < x.data.length := Nat.div_lt_of_lt_mul hi
  rw [sstBytes, getElem?_flatMap_const (fun _ => length_bytesOf _ _) _ hi, List.getElem?_eq_getElem hline, Option.bind_some, bytesOf,
    List.getElem?_map, List.getElem?_range (Nat.mod_lt _ (by decide)), List.getD_eq_getElem?_getD, List.getElem?_eq_getElem hline]
  rfl

theorem length_lineCells (ls : List Line) : (lineCells ls).length = 32 * ls.length :=
  length_flatMap_const (fun _ => by rw [List.length_map, List.length_range]) ls

/-! ### SST_COMPLETE (R244, R316, R325) -/

theorem State.sstWrite_stackOnly (s : State) (v : Nat) (x : Xfer) : StackOnly s (s.sstWrite v x) := State.winWrite_stackOnly _ _ _ _

theorem StackOnly.vat {s t : State} (h : StackOnly s t) (w : Nat) : t.vat w = s.vat w := by
  obtain ⟨_, _, _, _, _, _, _, _, rfl⟩ := h
  rfl

/-- What a command was told is over with it. -/
theorem StackOnly.told_after {s u : State} {errs : Errs} (h : StackOnly (s.told errs) u) (hq : s.errs = []) :
    StackOnly s (s.after u) := by
  obtain ⟨_, _, _, _, _, _, _, _, rfl⟩ := h
  exact ⟨_, _, _, _, _, _, _, _, by rw [State.after, ← hq]; rfl⟩

theorem State.xferDone_blocked (s : State) (v k : Nat) : (s.xferDone v k).blocked = s.blocked := State.finishEnd_blocked _ _

section Sst
variable {s : State} {v k : Nat} {x : Xfer} (hx : tabFind (s.vat v).xfers k = some x) (hkind : x.kind = .sst)
include hx hkind

omit hkind in
theorem State.sstComplete_waits (h : s.sstBlocked v x = true) : s.sstComplete v k = s := by
  simp only [State.sstComplete, hx]
  exact if_pos (.inr h)

theorem State.sstComplete_writes (h : s.sstBlocked v x = false) :
    s.sstComplete v k = ((s.sstWrite v x).setFlagAt x.flag).xferDone v k := by
  simp only [State.sstComplete, hx]
  refine if_neg (not_or.2 ⟨not_not.2 hkind, ?_⟩)
  rw [h]
  exact Bool.false_ne_true

end Sst

section Written
variable {s u : State} {v : Fin 128} {k : Nat} {x : Xfer} (hvat : u.vat v = s.vat v) (hrun : (s.vat v).run ≠ .ending)
include hvat hrun

/-- Without a flag the transfer slot is free, and nothing else differs. -/
theorem State.sstDone_unflagged (hflag : x.flag = none) :
    VatBecomes v { s.vat v with xfers := tabErase k (s.vat v).xfers } (s.after u) (s.after ((u.setFlagAt x.flag).xferDone v k)) := by
  have hdone : (u.setFlagAt x.flag).xferDone v k = u.modVat v fun y => { y with xfers := tabErase k y.xfers } := by
    rw [hflag]
    exact State.xferDone_running (hvat ▸ hrun)
  rw [hdone, State.after_modVat, ← hvat]
  exact State.modVat_becomes (s.after u) v fun y => { y with xfers := tabErase k y.xfers }

/-- With a flag in a vat that watches no word the flag is set too. -/
theorem State.sstDone_flagged {a b : Nat} (hflag : x.flag = some (v.val, a, b))
    (hidle : ∀ e m c d, (s.vat v).run ≠ .waitf e m c d) :
    VatBecomes v { (s.vat v).setFlag a b with xfers := tabErase k (s.vat v).xfers } (s.after u)
      (s.after ((u.setFlagAt x.flag).xferDone v k)) := by
  have hset : u.setFlagAt x.flag = u.modVat v fun y => y.setFlag a b := by
    rw [hflag]
    refine State.waitfTest_idle ?_
    rw [State.vat_modVat_same, hvat]
    exact hidle
  have hdone : (u.setFlagAt x.flag).xferDone v k =
      (u.modVat v fun y => y.setFlag a b).modVat v fun y => { y with xfers := tabErase k y.xfers } := by
    rw [hset]
    refine State.xferDone_running ?_
    rw [State.vat_modVat_same, hvat]
    exact hrun
  rw [hdone, State.after_modVat, State.after_modVat, ← hvat]
  exact (State.modVat_becomes (s.after u) v fun y => y.setFlag a b).modVat fun y => { y with xfers := tabErase k y.xfers }

end Written

/-! ### SEND_DEPART (R245, R415, R419, R438) -/

/-- The vat once its SEND has left at this beat. -/
def State.marked (s : State) (v k : Nat) (x : Xfer) (sw : Nat) : State :=
  s.modVat v fun y => { y with xfers := tabPut k { x with departed := some s.tmb.beat, clock := tabGet 0 s.tmb.clocks sw } y.xfers }

/-- A SEND's lines leave at this beat. -/
def State.departs (s : State) (v k : Nat) (x : Xfer) (sw : Nat) : State :=
  (s.marked v k x sw).sendCells (x.route / 4096)
    { head := (s.marked v k x sw).sendHead v k x (s.jobBeat v), cells := lineCells x.data }

theorem State.departs_portOnly (s : State) (v k : Nat) (x : Xfer) (sw : Nat) : PortOnly (s.marked v k x sw) (s.departs v k x sw) :=
  State.sendCells_portOnly _ _ _

section Departs
variable (s : State) (v k : Nat) (x : Xfer) (sw : Nat)

theorem State.departs_leaves : s.Leaves (s.departs v k x sw) := by
  obtain ⟨_, _, h⟩ := s.departs_portOnly v k x sw
  rw [h]
  exact ⟨rfl, rfl, rfl, rfl⟩

theorem State.departs_tmb : (s.departs v k x sw).tmb = s.tmb := by
  obtain ⟨_, _, h⟩ := s.departs_portOnly v k x sw
  rw [h]
  rfl

theorem State.departs_pwr : (s.departs v k x sw).pwr = s.pwr := by
  obtain ⟨_, _, h⟩ := s.departs_portOnly v k x sw
  rw [h]
  rfl

theorem State.departs_xfer : tabFind ((s.departs v k x sw).vat v).xfers k =
    some { x with departed := some s.tmb.beat, clock := tabGet 0 s.tmb.clocks sw } := by
  obtain ⟨_, _, h⟩ := s.departs_portOnly v k x sw
  have hvat : (s.departs v k x sw).vat v = (s.marked v k x sw).vat v := by
    rw [h]
    rfl
  rw [hvat, State.marked, State.vat_modVat_same, tabFind_put_same]

theorem State.departs_jobBeat : (s.departs v k x sw).jobBeat v = s.jobBeat v := by
  obtain ⟨_, _, h⟩ := s.departs_portOnly v k x sw
  have hport : (s.departs v k x sw).jobBeat v = (s.marked v k x sw).jobBeat v := by
    rw [h]
    rfl
  rw [hport]
  exact State.jobBeat_modVat rfl

end Departs

section Send
variable {s : State} {v k : Nat} {x : Xfer} (hx : tabFind (s.vat v).xfers k = some x)
include hx

theorem State.depart_waits (h : x.departed ≠ none ∨ (s.port (x.route / 4096)).state ≠ .up ∨ (s.vat v).sendBlocked s x = true ∨
      (s.inHold (s.part (s.vatPart v)).swarm.toNat = true ∧ (x.beat ≠ none ∨ s.vatLc v = false))) : s.depart v k = s := by
  simp only [State.depart, hx]
  refine if_pos ?_
  simp only [← Option.isSome_iff_ne_none, Bool.not_eq_true'] at h ⊢
  tauto

/-- The beat at which a SEND leaves, and by how much it is late (R230, R438). -/
def State.departTime (s : State) (v : Nat) (x : Xfer) : Nat × State :=
  let d := max 1 (s.slot (s.part (s.vatPart v)).swarm.toNat).divisor
  match x.beat, s.jobOf v with
  | some b, some j =>
    if s.jobBeat v ≤ b then (0, s.advance ((b - s.jobBeat v) * d - j.beatSub))
    else ((s.advance (d - j.beatSub)).jobBeat v - b, s.advance (d - j.beatSub))
  | _, _ => (0, s.advance 1)

theorem State.depart_leaves (hkind : x.kind = .send) (hnew : x.departed = none) (hup : (s.port (x.route / 4096)).state = .up)
    (hfirst : (s.vat v).sendBlocked s x = false)
    (hhold : ¬(s.inHold (s.part (s.vatPart v)).swarm.toNat = true ∧ (x.beat.isSome = true ∨ (!s.vatLc v) = true))) :
    s.depart v k =
      if (s.departTime v x).1 = 0 then (s.departTime v x).2.departs v k x (s.part (s.vatPart v)).swarm.toNat
      else ((s.departTime v x).2.departs v k x (s.part (s.vatPart v)).swarm.toNat).overrun v (s.departTime v x).1 := by
  simp only [State.depart, hx]
  refine (if_neg ?_).trans ?_
  · simp only [hkind, hnew, hup, hfirst, hhold]
    decide
  · rfl

end Send

section Time
variable {s : State} {v : Nat} {x : Xfer}

theorem State.departTime_unasked (hbeat : x.beat = none) : s.departTime v x = (0, s.advance 1) := by
  simp only [State.departTime, hbeat]

section Asked
variable {j : Job} {b : Nat} (hbeat : x.beat = some b) (hjob : s.jobOf v = some j)
  (hdiv : (s.slot (s.part (s.vatPart v)).swarm.toNat).divisor = 1) (hsub : j.beatSub = 0)
include hbeat hjob hdiv hsub

theorem State.departTime_timely (h : j.beat ≤ b) : s.departTime v x = (0, s.advance (b - j.beat)) := by
  simp only [State.departTime, hbeat, hjob, hdiv, hsub, State.jobBeat_some hjob, if_pos h]
  simp

theorem State.departTime_late (h : b < j.beat) : s.departTime v x = ((s.advance 1).jobBeat v - b, s.advance 1) := by
  simp only [State.departTime, hbeat, hjob, hdiv, hsub, State.jobBeat_some hjob, if_neg (Nat.not_le.2 h)]
  simp

end Asked

/-- The job beat of a vat after some beats, outside a hold of a swarm that does not divide them. -/
theorem State.jobBeat_advance {j : Job} (hjob : s.jobOf v = some j) (hrun : j.state = .running)
    (hhold : s.inHold (s.part (s.vatPart v)).swarm.toNat = false)
    (hdiv : (s.slot (s.part (s.vatPart v)).swarm.toNat).divisor = 1) (hsub : j.beatSub = 0) (n : Nat) :
    (s.advance n).jobBeat v = j.beat + n := by
  obtain ⟨id, hid, hj⟩ := Option.bind_eq_some_iff.1 hjob
  have hpart : s.vatPart v = j.part := by simp only [State.vatPart, hid, hj]
  have hafter : (s.advance n).jobOf v = some { j with beat := j.beat + n } := by
    rw [hpart] at hhold hdiv
    refine State.jobOf_of_find (s := s.advance n) (id := id) hid ((State.find_advance_job hj n).trans ?_)
    rw [hhold, hdiv, Job.advanced_undivided hrun hsub]
  exact State.jobBeat_some hafter

end Time

theorem State.advance_leaves (s : State) (n : Nat) : s.Leaves (s.advance n) := ⟨rfl, rfl, rfl, rfl⟩

theorem State.overrun_leaves (s : State) (v n : Nat) : s.Leaves (s.overrun v n) := by
  obtain ⟨_, _, _, _, _, _, h⟩ := s.overrun_only v n
  rw [h]
  exact ⟨rfl, rfl, rfl, rfl⟩

theorem State.overrun_beat (s : State) (v n : Nat) : (s.overrun v n).tmb.beat = s.tmb.beat := by
  obtain ⟨_, _, _, _, _, _, h⟩ := s.overrun_only v n
  rw [h]

/-- A SEND that nothing keeps back. -/
def State.sendFree (s : State) (v : Nat) (x : Xfer) : Prop :=
  x.kind = .send ∧ x.departed = none ∧ (s.port (x.route / 4096)).state = .up ∧ (s.vat v).sendBlocked s x = false ∧
    ¬(s.inHold (s.part (s.vatPart v)).swarm.toNat = true ∧ (x.beat.isSome = true ∨ (!s.vatLc v) = true))

section Row
variable {s : State} {v : Fin 128} {k : Fin 8} {x : Xfer} {n late : Nat} (hl : s.live) (hx : tabFind (s.vat v).xfers k = some x)
  (hfree : s.sendFree v x)
include hl hx hfree

theorem sendDepart_inTime (htime : s.departTime v x = (0, s.advance n)) :
    Runs (.sendDepart v k) s ((s.advance n).departs v k x (s.part (s.vatPart v)).swarm.toNat) := by
  obtain ⟨hkind, hnew, hup, hfirst, hhold⟩ := hfree
  refine runs_leaves hl rfl ((State.depart_leaves hx hkind hnew hup hfirst hhold).trans ?_)
    ((s.advance_leaves n).trans (State.departs_leaves ..))
  rw [htime]
  exact if_pos rfl

theorem sendDepart_late (htime : s.departTime v x = (late, s.advance n)) (hlate : late ≠ 0) :
    Runs (.sendDepart v k) s (((s.advance n).departs v k x (s.part (s.vatPart v)).swarm.toNat).overrun v late) := by
  obtain ⟨hkind, hnew, hup, hfirst, hhold⟩ := hfree
  refine runs_leaves hl rfl ((State.depart_leaves hx hkind hnew hup hfirst hhold).trans ?_)
    (((s.advance_leaves n).trans (State.departs_leaves ..)).trans (State.overrun_leaves ..))
  rw [htime]
  exact if_neg hlate

end Row

/-- Settles O22: an SST is written and done; a SEND leaves at the beat that its departure takes. -/
theorem transfersLeave : Obligations.TransfersLeave := by
  unfold Obligations.TransfersLeave
  refine ⟨?_, ?_⟩
  · intro s v k errs x hl hx hkind c n u y dpa
    have row : Row c s errs fun s => s.sstComplete v k := .inl rfl
    have hstack : StackOnly (s.told errs) u := State.sstWrite_stackOnly _ _ _
    refine ⟨?_, fun hfree hb hrun halign hin hlen => ?_⟩
    · rintro (h | h)
      · exact row.idle hl (State.sstComplete_waits (s := s.told errs) hx h)
      · cases hfree : s.sstBlocked v x with
        | true => exact row.idle hl (State.sstComplete_waits (s := s.told errs) hx hfree)
        | false =>
          refine runs_blocked (f := fun s => s.sstComplete v k) hl rfl ?_
          rw [State.sstComplete_writes (s := s.told errs) hx hkind hfree, State.xferDone_blocked, State.setFlagAt_blocked]
          exact h
    · have hbytes : (sstBytes x).length = 2048 * x.data.length := length_sstBytes x
      have hwin : x.addr + (sstBytes x).length ≤ (s.part n).winSize := by
        rw [hbytes]
        exact of_decide_eq_true (Bool.and_eq_true_iff.1 hin).1
      have hshort : (sstBytes x).length ≤ 2 ^ 28 := by omega
      have hlines : 64 ∣ x.addr ∧ 64 ∣ (sstBytes x).length := by omega
      have hm : (s.told errs).mem.wf = true := hl.2.1
      have heffect : (s.told errs).sstComplete v k = (u.setFlagAt x.flag).xferDone v k :=
        State.sstComplete_writes (s := s.told errs) hx hkind hfree
      have hruns := row.runs hl (by rw [heffect, State.xferDone_blocked, State.setFlagAt_blocked]; exact hb)
      rw [heffect] at hruns
      refine ⟨fun i d hi hd => ?_, fun a ha => ?_, ?_, ?_, fun hflag => ⟨_, hruns, ?_⟩, fun a b hflag ha _ _ hidle => ⟨_, hruns, ?_⟩⟩
      · exact (State.winWrite_byte (s := s.told errs) hm hwin hshort hlines.1 hlines.2 (by omega) hd).trans (sstBytes_getElem hi)
      · refine State.winWrite_byte_outside (s := s.told errs) hm hwin hshort hlines.1 hlines.2 fun i hi => ?_
        exact ha i (by omega)
      · exact (State.winWrite_lines (s := s.told errs) hm hwin hshort hlines.1 hlines.2).1
      · exact hstack.told_after hl.2.2.1
      · exact State.sstDone_unflagged (s := s) (hstack.vat v) hrun hflag
      · obtain ⟨honly, hvat⟩ := State.sstDone_flagged (s := s) (k := k) (hstack.vat v) hrun hflag hidle
        refine ⟨honly, ?_, ?_⟩
        · rw [hvat]
        · rw [hvat]
          exact (s.vat v).word_setFlag ha b
  · intro s v k x hl hx hkind port sw free timed
    have ready (hfree : free) (hhold : ¬(s.inHold sw = true ∧ (x.beat.isSome = true ∨ (!s.vatLc v) = true))) : s.sendFree v x := by
      obtain ⟨hnew, hup, hfirst⟩ := hfree
      exact ⟨hkind, hnew, hup, hfirst, hhold⟩
    refine ⟨fun h => runs_leaves hl rfl (State.depart_waits hx h) (.refl s), fun hfree hhold hbeat => ?_,
      fun j b hfree htimed hle => ?_, fun j b hfree htimed hlt => ?_⟩
    · refine ⟨_, sendDepart_inTime hl hx (ready hfree ?_) (State.departTime_unasked hbeat), length_lineCells _, rfl⟩
      rcases hhold with h | h <;> simp [h, hbeat]
    · obtain ⟨hjob, hlc, hrun, hhold, hbeat, hdiv, hsub⟩ := htimed
      refine ⟨_, sendDepart_inTime hl hx (ready hfree (by simp [hhold])) (State.departTime_timely hbeat hjob hdiv hsub hle),
        ?_, ?_, State.departs_pwr .., ?_⟩
      · rw [State.departs_tmb, State.advance_beat]
      · rw [State.departs_jobBeat, State.jobBeat_advance hjob hrun hhold hdiv hsub, Nat.add_sub_of_le hle]
      · rw [State.departs_xfer, State.departs_tmb]
    · obtain ⟨hjob, hlc, hrun, hhold, hbeat, hdiv, hsub⟩ := htimed
      have hlate : (s.advance 1).jobBeat v - b ≠ 0 := by
        rw [State.jobBeat_advance hjob hrun hhold hdiv hsub]
        omega
      refine ⟨_, sendDepart_late hl hx (ready hfree (by simp [hhold])) (State.departTime_late hbeat hjob hdiv hsub hlt) hlate,
        ?_, ?_, ?_⟩
      · rw [State.overrun_beat, State.departs_tmb, State.advance_beat]
      · rw [State.overrun_pwr, State.departs_pwr]
        rfl
      · rw [State.overrun_vat, State.departs_xfer, State.overrun_beat, State.departs_tmb]
        rfl

end Sys2Proof.Machine
end
section
/-! The statement on weight loads (R177, R178, R190, R193, R237, R246; log 16, log 22, log 24). -/

namespace Sys2Proof.Machine

/-! ### The weight port (R193) -/

/-- Elements that reach the weight port in two parts reach it as one. -/
theorem ArrayUnit.feed_feed (u : ArrayUnit) (ws ws' : List Half) : (u.feed ws).feed ws' = u.feed (ws ++ ws') := by
  unfold ArrayUnit.feed
  dsimp only
  rw [← List.append_assoc, List.length_append, List.length_take, List.append_assoc]
  generalize u.waiting ++ ws = all
  generalize hroom : cfgSetSize u.cfgNext - u.shadow.length = room
  rcases Nat.le_total all.length room with h | h
  · rw [show cfgSetSize u.cfgNext - (u.shadow.length + min room all.length) = room - all.length by omega, List.take_of_length_le h,
      List.drop_of_length_le h, List.nil_append, List.take_append, List.drop_append, List.take_of_length_le h,
      List.drop_of_length_le h, List.nil_append]
  · rw [show cfgSetSize u.cfgNext - (u.shadow.length + min room all.length) = 0 by omega, List.take_zero, List.drop_zero,
      List.append_nil, List.take_append_of_le_length h, List.drop_append_of_le_length h]

/-- Raw elements of a stream: each in its own 16 bits. -/
def rawElems (w stream n : Nat) : List Half := (List.range n).map fun i => BitVec.ofNat 16 ((stream >>> (w * i)) % 2 ^ w)

theorem length_rawElems (w stream n : Nat) : (rawElems w stream n).length = n := by
  rw [rawElems, List.length_map, List.length_range]

theorem rawElems_append (w stream n m : Nat) :
    rawElems w stream n ++ rawElems w (stream >>> (w * n)) m = rawElems w stream (n + m) := by
  simp only [rawElems, List.range_add, List.map_append, List.map_map, Function.comp_def, ← Nat.shiftRight_add, Nat.mul_add]

/-- Bits of an element are bits of the stream, in ascending order. -/
theorem rawElems_bit {w stream n i b : Nat} (hi : i < n) (hb : b < 16) :
    ((rawElems w stream n).getD i 0).getLsbD b = (decide (b < w) && stream.testBit (w * i + b)) := by
  rw [rawElems, List.getD_eq_getElem?_getD, List.getElem?_map, List.getElem?_range hi, Option.map_some, Option.getD_some,
    BitVec.getLsbD_ofNat, decide_eq_true hb, Bool.true_and, Nat.testBit_mod_two_pow, Nat.testBit_shiftRight]

/-- The bits of lines that follow one another. -/
theorem testBit_lines {W : Nat} (hW : 0 < W) (ls : List (BitVec W)) (n : Nat) :
    (ls.foldr (fun (l : BitVec W) n => l.toNat + 2 ^ W * n) 0).testBit n = (ls.getD (n / W) 0).getLsbD (n % W) := by
  induction ls generalizing n with
  | nil => simp
  | cons l ls ih =>
    rw [List.foldr_cons, Nat.add_comm, Nat.testBit_two_pow_mul_add _ l.isLt]
    by_cases h : n < W
    · rw [if_pos h, Nat.div_eq_of_lt h, Nat.mod_eq_of_lt h]
      rfl
    · rw [if_neg h, ih, Nat.div_eq_sub_div hW (Nat.le_of_not_lt h), Nat.mod_eq_sub_mod (Nat.le_of_not_lt h)]
      rfl

/-! ### Raw tiles (R237; log 24) -/

theorem cfgSetSize_ge (c : CfgArgs) : 1024 ≤ cfgSetSize c := by
  unfold cfgSetSize
  split <;> decide

theorem Vat.modArray_only (x : Vat) (k : Nat) (f : ArrayUnit → ArrayUnit) :
    x.modArray k f = { x with arrays := (x.modArray k f).arrays } := rfl

/-- Tiles for one array are the elements of the stream. -/
theorem dealTiles_one {k w : Nat} (hw : w ≠ 0) {fuel stream left j : Nat} {x : Vat}
    (hwidth : fmtWidth (x.array k).cfgNext.wfmt.toNat = w) (hfuel : left / w ≤ 1024 * fuel) :
    dealTiles [k] stream fuel left j x = { x with arrays := (dealTiles [k] stream fuel left j x).arrays } ∧
      ∀ q, (dealTiles [k] stream fuel left j x).array q =
        if q = k ∧ left / w ≠ 0 then (x.array k).feed (rawElems w stream (left / w)) else x.array q := by
  induction fuel generalizing stream left j x with
  | zero =>
    have hnone : left / w = 0 := Nat.le_zero.1 hfuel
    exact ⟨rfl, fun q => (if_neg fun h => h.2 hnone).symm⟩
  | succ fuel ih =>
    have hone : [k].getD (j % [k].length) 0 = k := by simp [Nat.mod_one]
    have hsize := cfgSetSize_ge (x.array k).cfgNext
    rw [dealTiles]
    simp only [hone, hwidth]
    generalize cfgSetSize (x.array k).cfgNext = size at hsize
    by_cases hnone : left / w = 0
    · rw [if_pos (.inr (by rw [hnone, Nat.min_zero]))]
      exact ⟨rfl, fun q => (if_neg fun h => h.2 hnone).symm⟩
    · have hpos : 0 < min size (left / w) := Nat.lt_min.2 ⟨by omega, Nat.pos_of_ne_zero hnone⟩
      rw [if_neg (not_or.2 ⟨hw, Nat.ne_of_gt hpos⟩)]
      have hle : min size (left / w) ≤ left / w := Nat.min_le_right _ _
      have hleft : (left - w * min size (left / w)) / w = left / w - min size (left / w) :=
        Nat.sub_mul_div_of_le _ _ _ ((Nat.mul_le_mul_left w hle).trans (Nat.mul_div_le left w))
      have hfuel' : left / w - min size (left / w) ≤ 1024 * fuel := by
        generalize left / w = m at hfuel
        omega
      clear hsize hfuel
      generalize hn : min size (left / w) = n at *
      have hfed : (x.modArray k fun u => u.feed (rawElems w stream n)).array k = (x.array k).feed (rawElems w stream n) :=
        (Vat.array_modArray ..).trans (if_pos rfl)
      obtain ⟨honly, harray⟩ := ih (stream := stream >>> (w * n)) (left := left - w * n) (j := j + 1)
        (x := x.modArray k fun u => u.feed (rawElems w stream n)) (by rw [hfed]; exact hwidth) (hleft ▸ hfuel')
      refine ⟨honly, fun q => (harray q).trans ?_⟩
      rw [hleft, hfed, ArrayUnit.feed_feed, rawElems_append, Nat.add_sub_of_le hle, Vat.array_modArray]
      by_cases hq : q = k
      · subst hq
        rw [if_pos rfl]
        by_cases hrest : left / w - n = 0
        · rw [if_neg fun h => h.2 hrest, if_pos ⟨rfl, hnone⟩,
            show left / w = n from Nat.le_antisymm (Nat.le_of_sub_eq_zero hrest) hle]
        · rw [if_pos ⟨rfl, hrest⟩, if_pos ⟨rfl, hnone⟩]
      · rw [if_neg fun h => hq h.1, if_neg hq, if_neg fun h => hq h.1]

/-! ### A fault of an expander (R178, R246) -/

section Fault
variable {s : State} {v : Nat} {f : Vat → Vat} (hjob : (f (s.vat v)).job = (s.vat v).job)
include hjob

theorem State.vatPart_modVat : (s.modVat v f).vatPart v = s.vatPart v := by
  rw [State.vatPart, State.vat_modVat_same, hjob]
  rfl

/-- A step that faults after a change of its vat faults as it would have before. -/
theorem StepFaults.of_modVat {i : ErrInfo} {t : State} (h : StepFaults v i (s.modVat v f) t) : StepFaults v i s t := by
  have hinfo : stepInfo (s.modVat v f) v i = stepInfo s v i := by
    rw [stepInfo, State.vatPart_modVat hjob, State.jobOf_modVat hjob]
    rfl
  obtain ⟨herr, hgone, hstop⟩ := h
  rw [State.vat_modVat_same, hjob] at hgone hstop
  rw [hinfo] at herr
  exact ⟨herr, hgone, hstop⟩

theorem Traps.of_modVat {c : TrapCause} {slot : Option Nat} {imm : Word} {t : State} (hpc : (f (s.vat v)).pc = (s.vat v).pc)
    (h : Traps v c slot imm (s.modVat v f) t) : Traps v c slot imm s t := by
  have hoff : (s.modVat v f).bundleOffset v ((s.modVat v f).vat v).pc.toNat = s.bundleOffset v (s.vat v).pc.toNat := by
    rw [State.bundleOffset, State.vat_modVat_same, hjob, hpc]
    rfl
  rw [Traps, hoff] at h
  exact h.of_modVat hjob

end Fault

theorem curdReason_ne_table (b : CurdBlock) : curdReason b ≠ .table := by
  unfold curdReason
  split
  · decide
  · split <;> decide

theorem State.portFault_bad (s : State) (v : Nat) {k : CurdFault} (hk : k ≠ .table) : s.portFault v (some k) =
    s.faultVat v { code := 0x0303, severity := 1, part := 0, path := 6, unit := v, detail0 := k.detail } := by
  cases k with
  | table => exact absurd rfl hk
  | parity => rfl
  | magic => rfl
  | decode => rfl

/-! ### The expander (R237) -/

section Expander
variable {u : ArrayUnit} {l h : Line}

theorem expanderLine_waits (hhalf : u.halfBlock = none) : expanderLine u l = ({ u with halfBlock := some l }, none) := by
  simp only [expanderLine, hhalf]

section Block
variable (hhalf : u.halfBlock = some h)
include hhalf

theorem expanderLine_elems {ss : List Nat} (hexp : curdExpand u.tableFor (l ++ h) = .elems ss) :
    expanderLine u l = (({ u with halfBlock := none } : ArrayUnit).feed (ss.map (BitVec.ofNat 16)), none) := by
  have hexp' : curdExpand ({ u with halfBlock := none } : ArrayUnit).tableFor (l ++ h) = .elems ss := hexp
  simp only [expanderLine, hhalf, hexp']

theorem expanderLine_tableMissing (hexp : curdExpand u.tableFor (l ++ h) = .tableMissing) :
    expanderLine u l = ({ u with halfBlock := none }, some .table) := by
  have hexp' : curdExpand ({ u with halfBlock := none } : ArrayUnit).tableFor (l ++ h) = .tableMissing := hexp
  simp only [expanderLine, hhalf, hexp']

theorem expanderLine_bad (hexp : curdExpand u.tableFor (l ++ h) = .bad) :
    expanderLine u l = ({ u with halfBlock := none }, some (curdReason (l ++ h))) := by
  have hexp' : curdExpand ({ u with halfBlock := none } : ArrayUnit).tableFor (l ++ h) = .bad := hexp
  simp only [expanderLine, hhalf, hexp']

end Block

end Expander

/-! ### LDW (R237) -/

/-- Widths of the formats that R33 lists. -/
theorem fmtWidth_of_known {c : Nat} (hc : c < 64) (h : fmtKnown c = true) : fmtWidth c ≠ 0 ∧ fmtWidth c ≤ 80 := by
  revert h
  revert c
  decide

theorem cfgWidth {c : CfgArgs} (h : cfgPairOk c = true) : fmtWidth c.wfmt.toNat ≠ 0 ∧ fmtWidth c.wfmt.toNat ≤ 80 := by
  refine fmtWidth_of_known c.wfmt.isLt ?_
  simp only [cfgPairOk, pairOk, Bool.and_eq_true] at h
  exact h.1.1.1

section Ldw
variable {x : Vat} {a : PortArgs}

theorem checkPort_lines_pass (h : ∀ i, i ≤ a.count.toNat → portAddr x a i < 3 * 2 ^ 22 ∧ portAddr x a i % 2048 = 0) :
    checkPort x a false true = none := by
  rw [checkPort_lines, need_eq_none, List.all_eq_true]
  intro i hi
  obtain ⟨hplain, halign⟩ := h i (Nat.le_of_lt_succ (List.mem_range.1 hi))
  refine (lineAddrOk_iff _).2 ⟨hplain, ?_⟩
  unfold portAddr at halign
  omega

theorem checkLdw_eq_none : checkLdw x a = none ↔ (∀ k ∈ bitsSet a.amask, cfgPairOk (x.array k).cfgNext = true) ∧
    ((∀ k ∈ bitsSet a.amask, (x.array k).cfgNext.raw = true) ∨ (bitsSet a.amask).length = 1) := by
  rw [checkLdw, need_eq_none]
  simp

theorem checkLdw_fails (h : checkLdw x a ≠ none) : checkLdw x a = some .bundleFormat := (need_cases _ _).resolve_left h

theorem Vat.array_increment (x x0 : Vat) (a : PortArgs) (k : Nat) : (x.increment x0 a).array k = x.array k := by
  obtain ⟨regs, h⟩ := Vat.increment_only x x0 a
  rw [h]
  rfl

theorem length_portLines : (portLines x a).length = a.count.toNat + 1 := by rw [portLines, List.length_map, List.length_range]

theorem portLines_getD {i : Nat} (hi : i ≤ a.count.toNat) : (portLines x a).getD i 0 = x.line (spdLine (portAddr x a i)) := by
  rw [portLines, List.getD_eq_getElem?_getD, List.getElem?_map, List.getElem?_range (by omega)]
  rfl

/-- The lines of an LDW as one number. -/
def ldwStream (x : Vat) (a : PortArgs) : Nat := (portLines x a).foldr (fun l n => l.toNat + 2 ^ 16384 * n) 0

theorem ldwStream_bit {n : Nat} (hn : n < 16384 * (a.count.toNat + 1)) :
    (ldwStream x a).testBit n = (x.line (spdLine (portAddr x a (n / 16384)))).getLsbD (n % 16384) := by
  rw [ldwStream, testBit_lines (by decide), portLines_getD (Nat.le_of_lt_succ (Nat.div_lt_of_lt_mul hn))]

theorem portLdw_none (h : bitsSet a.amask = []) : portLdw a x x = { vat := x.increment x a } := by
  simp only [portLdw, h]
  rfl

theorem portLdw_raw (hraw : ∀ k ∈ bitsSet a.amask, (x.array k).cfgNext.raw = true) (hsome : bitsSet a.amask ≠ []) :
    portLdw a x x =
      { vat := dealTiles (bitsSet a.amask) (ldwStream x a) 256 (16384 * (a.count.toNat + 1)) 0 (x.increment x a) } := by
  have hany : (bitsSet a.amask).any (fun k => !(x.array k).cfgNext.raw) = false := by
    rw [List.any_eq_false]
    intro k hk
    rw [hraw k hk]
    decide
  have hempty : (bitsSet a.amask).isEmpty = false := by rwa [List.isEmpty_eq_false_iff]
  simp only [portLdw, Vat.array_increment, hany, hempty, length_portLines, Bool.false_eq_true, if_false]
  rfl

theorem portLdw_curd {k : Nat} (hmask : bitsSet a.amask = [k]) (hraw : (x.array k).cfgNext.raw = false) :
    portLdw a x x = { vat := (x.increment x a).modArray k fun _ => (expanderLines (x.array k) (portLines x a)).1,
                      fault := (expanderLines (x.array k) (portLines x a)).2 } := by
  have hany : ([k] : List Nat).any (fun k => !(x.array k).cfgNext.raw) = true := by simp [hraw]
  simp only [portLdw, Vat.array_increment, hmask, hany, if_true]
  rfl

end Ldw

section Row
variable {s : State} {v : Fin 128} {a : PortArgs} (hl : s.live)

/-- What LDW checks. -/
def ldwCheck (a : PortArgs) (x : Vat) : Option TrapCause := (checkPort x a false true).or (checkLdw x a)

include hl in
theorem ldw_runs (hcheck : ldwCheck a (s.vat v) = none) :
    Runs (.ldw v a false) s (s.after ((s.modVat v fun _ => (portLdw a (s.vat v) (s.vat v)).vat).portFault v
      (portLdw a (s.vat v) (s.vat v)).fault)) := by
  have hrow : portRow v false (ldwCheck a) (fun x => portLdw a x x) s =
      (s.modVat v fun _ => (portLdw a (s.vat v) (s.vat v)).vat).portFault v (portLdw a (s.vat v) (s.vat v)).fault := by
    rw [portRow, whenRunning_on hl.1]
    simp only [hcheck]
    rfl
  rw [← hrow]
  exact act_next ..

include hl in
theorem ldw_passes {y : Vat} (hcheck : ldwCheck a (s.vat v) = none) (hldw : portLdw a (s.vat v) (s.vat v) = { vat := y }) :
    ∃ t, Runs (.ldw v a false) s t ∧ VatBecomes v y s t := by
  obtain ⟨t, hruns, honly, hvat⟩ := portRow_passes (c := .ldw v a false) (check := ldwCheck a) (f := fun x => portLdw a x x) hl rfl
    hcheck (by rw [hldw])
  rw [hldw] at hvat
  exact ⟨t, hruns, honly, hvat⟩

/-- One array changes, and the base register. -/
theorem portToArray {k : Nat} {u : ArrayUnit} {t : State} (hmask : bitsSet a.amask = [k]) (honly : OnlyVat v s t)
    (hvat : t.vat v = { (s.vat v).increment (s.vat v) a with arrays := (t.vat v).arrays })
    (harray : ∀ q, (t.vat v).array q = if q = k then u else (s.vat v).array q) : PortToArrays v a (fun _ => u) s t := by
  obtain ⟨regs, hregs⟩ := Vat.increment_only (s.vat v) (s.vat v) a
  refine ⟨honly, ?_, fun q => (harray q).trans (if_congr ?_ rfl rfl), fun r => ?_⟩
  · rw [hvat, hregs]
  · rw [← mem_bitsSet_lt, hmask, List.mem_singleton]
  · have hsreg : (t.vat v).sreg r = ((s.vat v).increment (s.vat v) a).sreg r := by
      rw [hvat]
      rfl
    rw [hsreg, Vat.sreg_increment fun _ => rfl]

end Row

/-- Settles O12: a row whose check passes deals the stream out, or leaves it to the expander of its array. -/
theorem weightLoads : Obligations.WeightLoads := by
  unfold Obligations.WeightLoads
  refine ⟨?_, ?_⟩
  · intro s v a k hl hk hmask x u addr line w bit feeds haddr hpair
    have harrays : bitsSet a.amask = [k] := by rw [hmask, bitsSet_one hk]
    have hcheck : ldwCheck a x = none := by
      rw [ldwCheck, checkPort_lines_pass haddr, Option.none_or, checkLdw_eq_none, harrays]
      exact ⟨fun q hq => List.mem_singleton.1 hq ▸ hpair, .inr rfl⟩
    have curd (hraw : u.cfgNext.raw = false) {u' : ArrayUnit} (h : expanderLines u (portLines x a) = (u', none)) : feeds u' := by
      have hldw := portLdw_curd (x := x) harrays hraw
      have hexp : expanderLines (x.array k) (portLines x a) = (u', none) := h
      rw [hexp] at hldw
      obtain ⟨t, hruns, honly, hvat⟩ := ldw_passes hl hcheck hldw
      refine ⟨t, hruns, portToArray harrays honly ?_ fun q => ?_⟩
      · rw [hvat]
        rfl
      · rw [hvat, Vat.array_modArray, Vat.array_increment]
    have one (hcount : a.count = 0) : portLines x a = [line 0] := by
      rw [portLines, hcount]
      rfl
    have faults (hraw : u.cfgNext.raw = false) (hcount : a.count = 0) {u' : ArrayUnit} {f : CurdFault}
        (h : expanderLine u (line 0) = (u', some f)) : ∃ y : Vat, y.job = x.job ∧ y.pc = x.pc ∧
          Runs (.ldw v a false) s (s.after ((s.modVat v fun _ => y).portFault v (some f))) := by
      have hldw := portLdw_curd (x := x) harrays hraw
      have hexp : expanderLine (x.array k) (line 0) = (u', some f) := h
      obtain ⟨regs, hregs⟩ := Vat.increment_only x x a
      refine ⟨(x.increment x a).modArray k fun _ => u', by rw [hregs]; rfl, by rw [hregs]; rfl, ?_⟩
      have hruns := ldw_runs hl hcheck
      simp only [one hcount, expanderLines, hexp] at hldw
      rwa [hldw] at hruns
    refine ⟨fun hraw => ?_, fun hraw hcount hhalf => ?_, fun hraw hcount h ss hhalf hexp => ?_, fun hraw hcount h hhalf hexp => ?_,
      fun hraw hcount h hhalf hexp => ?_, fun hraw u' hexp => ?_⟩
    · obtain ⟨hw, hw80⟩ := cfgWidth hpair
      have hall : ∀ q ∈ bitsSet a.amask, (x.array q).cfgNext.raw = true := fun q hq => by
        rw [harrays, List.mem_singleton] at hq
        exact hq ▸ hraw
      have hsome : bitsSet a.amask ≠ [] := harrays ▸ List.cons_ne_nil k []
      obtain ⟨t, hruns, honly, hvat⟩ := ldw_passes hl hcheck (portLdw_raw hall hsome)
      have hcount := a.count.isLt
      have htotal : 16384 * (a.count.toNat + 1) / w ≠ 0 := Nat.ne_of_gt (Nat.div_pos (by omega) (Nat.pos_of_ne_zero hw))
      obtain ⟨hrest, harray⟩ := dealTiles_one (k := k) hw (fuel := 256) (stream := ldwStream x a)
        (left := 16384 * (a.count.toNat + 1)) (j := 0) (x := x.increment x a) (by rw [Vat.array_increment])
        ((Nat.div_le_self _ _).trans (by omega))
      rw [harrays] at hvat
      refine ⟨rawElems w (ldwStream x a) (16384 * (a.count.toNat + 1) / w), ⟨t, hruns, portToArray harrays honly ?_ fun q => ?_⟩,
        length_rawElems _ _ _, fun i b hi hb => ?_⟩
      · rw [hvat]
        exact hrest
      · rw [hvat, harray q, Vat.array_increment, Vat.array_increment]
        exact if_congr (and_iff_left htotal) rfl rfl
      · rw [length_rawElems] at hi
        rw [rawElems_bit hi hb]
        by_cases hbw : b < w
        · have hn : w * i + b < 16384 * (a.count.toNat + 1) := calc
            w * i + b < w * (i + 1) := by rw [Nat.mul_add_one]; omega
            _ ≤ w * (16384 * (a.count.toNat + 1) / w) := Nat.mul_le_mul_left w hi
            _ ≤ 16384 * (a.count.toNat + 1) := Nat.mul_div_le _ _
          rw [ldwStream_bit hn]
          rfl
        · rw [decide_eq_false hbw, Bool.false_and, Bool.false_and]
    · refine curd hraw ?_
      rw [one hcount]
      simp only [expanderLines, expanderLine_waits hhalf]
    · refine curd hraw ?_
      rw [one hcount]
      simp only [expanderLines, expanderLine_elems hhalf hexp]
    · obtain ⟨y, hjob, hpc, hruns⟩ := faults hraw hcount (expanderLine_tableMissing hhalf hexp)
      exact ⟨_, hruns, (State.vatTrap_traps _ v .tableMissing (some 2) 0).of_modVat (f := fun _ => y) hjob hpc⟩
    · obtain ⟨y, hjob, -, hruns⟩ := faults hraw hcount (expanderLine_bad hhalf hexp)
      rw [State.portFault_bad _ _ (curdReason_ne_table _)] at hruns
      exact ⟨_, hruns, StepFaults.of_modVat (f := fun _ => y) hjob (State.faultVat_spec _ v rfl rfl rfl).1⟩
    · exact curd hraw hexp
  · intro s v a p hl x arrays addr stream haddr
    have hport : checkPort x a false true = none := checkPort_lines_pass haddr
    refine ⟨fun hall hsome => ?_, fun hnone => ?_, fun hbad => ?_⟩
    · refine ldw_passes hl ?_ (portLdw_raw (fun k hk => (hall k hk).2) hsome)
      rw [ldwCheck, hport, Option.none_or, checkLdw_eq_none]
      exact ⟨fun k hk => (hall k hk).1, .inl fun k hk => (hall k hk).2⟩
    · refine ldw_passes hl ?_ (portLdw_none hnone)
      rw [ldwCheck, hport, Option.none_or, checkLdw_eq_none, show bitsSet a.amask = [] from hnone]
      exact ⟨fun k hk => absurd hk List.not_mem_nil, .inl fun k hk => absurd hk List.not_mem_nil⟩
    · refine portRow_traps (c := .ldw v a p) (check := ldwCheck a) hl rfl ?_
      rw [ldwCheck, hport, Option.none_or]
      refine checkLdw_fails fun hpass => ?_
      obtain ⟨hpairs, hraws⟩ := checkLdw_eq_none.1 hpass
      rcases hbad with ⟨k, hk, hpair⟩ | ⟨⟨k, hk, hraw⟩, hmany⟩
      · exact Bool.false_ne_true (hpair.symm.trans (hpairs k hk))
      · rcases hraws with hall | hone
        · exact Bool.false_ne_true (hraw.symm.trans (hall k hk))
        · exact absurd hone (Nat.ne_of_gt hmany)

end Sys2Proof.Machine
end

section
/-! The statements on the invariant of every step and on the state after reset (R264 to R266, R586, R604; log 8, log 110). -/

namespace Sys2Proof.Machine

/-! ### What a step leaves -/

/-- Whatever an effect does, what its command leaves has memory in canonical form. -/
theorem State.after_memOk (s t : State) : (s.after t).memOk := t.mem.canon_wf

/-- Whatever an effect does, its command is over. -/
theorem State.after_quiet (s t : State) : (s.after t).quiet := ⟨rfl, rfl⟩

/-- Every row carries its effect out through `act` or `actOn`: what a command answers is what `State.after` leaves of some
effect. -/
theorem exec_answers_after (c : Instr) (s : State) : ∃ t, exec c s = .next (s.after t) := by
  cases c <;> exact ⟨_, rfl⟩

/-- A beat touches the timebase and the jobs alone: stack memory is as before. -/
@[simp] theorem State.tick_mem (s : State) : s.tick.mem = s.mem := by
  unfold State.tick
  split <;> rfl

@[simp] theorem State.tick_errs (s : State) : s.tick.errs = s.errs := by
  unfold State.tick
  split <;> rfl

@[simp] theorem State.tick_blocked (s : State) : s.tick.blocked = s.blocked := by
  unfold State.tick
  split <;> rfl

/-- Settles O4: a beat of an empty queue leaves memory and the told errors as they were, and a command ends in
`State.after`, which puts memory in its canonical form and ends the command. -/
theorem stepKeepsMemoryCanonical : Obligations.StepKeepsMemoryCanonical := by
  intro s t hmem hquiet hstep
  cases hpending : s.pending with
  | nil =>
    have htick : s.tick = t := by simpa only [step, hpending, Host.Outcome.next.injEq] using hstep
    subst htick
    exact ⟨by rwa [State.memOk, State.tick_mem], by rwa [State.quiet, State.tick_errs, State.tick_blocked]⟩
  | cons c rest =>
    rw [stepRunsFrontCommand s c rest hpending] at hstep
    obtain ⟨u, hexec⟩ := exec_answers_after c { s with pending := rest }
    obtain rfl := Host.Outcome.next.inj (hexec.symm.trans hstep)
    exact ⟨State.after_memOk _ u, State.after_quiet _ u⟩

/-! ### Reset (R279, R445, R491, R586, R604) -/

/-- After reset every table is empty, so that each of its entries is the one that its reader names. -/
theorem State.reset_part (n : Nat) : State.reset.part n = {} := rfl

theorem State.reset_ring (n r : Nat) : State.reset.ring n r = {} := rfl

theorem State.reset_vat (v : Nat) : State.reset.vat v = {} := rfl

theorem State.reset_port (p : Nat) : State.reset.port p = {} := rfl

/-- Unwritten stack memory has its canonical form. -/
theorem State.reset_memOk : State.reset.memOk := rfl

/-- A scalar register of a vat that nothing has written reads 0. -/
theorem Vat.sreg_default (r : Fin 32) : ({} : Vat).sreg r = 0 := ite_self _

/-- Settles O59: each register by its reset value, and each partition, ring, vat and port by the entry of an empty table. -/
theorem resetState : Obligations.ResetState := by
  refine ⟨State.reset_memOk, rfl, rfl, rfl, rfl, rfl, rfl, rfl, rfl, rfl, rfl, rfl, rfl, rfl, rfl, rfl, rfl, rfl, rfl,
    fun n => ?_, fun n r => ?_, fun v r => ?_, fun p => ?_⟩
  · rw [State.reset_part]
    exact ⟨rfl, rfl⟩
  · rw [State.reset_ring]
  · rw [State.reset_vat]
    exact Vat.sreg_default r
  · rw [State.reset_port]

end Sys2Proof.Machine
end
section
/-! The rules of near-bank jobs: how a job leaves, how its fault ends, and how its record is read and queued (R222, R289, R290,
R310, R328; log 36, log 83, log 122). -/

namespace Sys2Proof.Machine

/-! ### Tables without an entry -/

theorem tabFind_eq_none {β : Type} {t : Tab β} {k : Nat} : tabFind t k = none ↔ ∀ x ∈ t, x.1 ≠ k := by
  induction t with
  | nil => simp
  | cons x t ih =>
    rw [tabFind_cons, List.forall_mem_cons, ← ih]
    by_cases h : x.1 = k <;> simp [h]

theorem tabFind_none_of_subset {β : Type} {t t' : Tab β} {k : Nat} (h : tabFind t k = none) (hsub : t' ⊆ t) :
    tabFind t' k = none :=
  tabFind_eq_none.2 fun x hx => tabFind_eq_none.1 h x (hsub hx)

/-! ### Near-bank jobs through the end of a job (R24, R457, R461) -/

theorem JobsOnly.nbeJobs {s t : State} (h : JobsOnly s t) : t.nbeJobs = s.nbeJobs := by
  obtain ⟨⟨_, _, _, rfl⟩, -⟩ := h
  rfl

theorem JobsOnly.leaves {s t : State} (h : JobsOnly s t) : s.Leaves t := by
  obtain ⟨⟨_, _, _, rfl⟩, -⟩ := h
  exact ⟨rfl, rfl, rfl, rfl⟩

theorem RingOnly.nbeJobs {s t : State} (h : RingOnly s t) : t.nbeJobs = s.nbeJobs := by
  obtain ⟨_, _, _, rfl⟩ := h
  rfl

theorem LogOnly.nbeJobs {s t : State} (h : LogOnly s t) : t.nbeJobs = s.nbeJobs := by
  obtain ⟨_, _, _, _, rfl⟩ := h
  rfl

theorem FloodOnly.nbeJobs {s t : State} (h : FloodOnly s t) : t.nbeJobs = s.nbeJobs := by
  obtain ⟨_, _, _, rfl⟩ := h
  rfl

/-- The end of a job offers no near-bank job. -/
theorem State.endJob_nbeJobs (s : State) (id : Nat) (run : RunState) (e : Ending) : (s.endJob id run e).nbeJobs ⊆ s.nbeJobs := by
  cases h : tabFind s.jobs id with
  | none =>
    have hnone : s.endJob id run e = s := by simp only [State.endJob, h]
    rw [hnone]
    exact List.Subset.refl _
  | some j =>
    obtain ⟨m, v, hstop⟩ := s.stopVats_only j run (e.status == statusOk)
    simp only [State.endJob, h, hstop]
    rw [(State.settleJobs_jobsOnly _ _).nbeJobs]
    split
    · rw [State.modSrv, (State.idleIslands_jobsOnly _ j).nbeJobs]
      exact List.filter_subset_self _
    · rw [(State.complete_ringOnly _ _ _ _ _).nbeJobs, (State.idleIslands_jobsOnly _ j).nbeJobs]
      exact List.filter_subset_self _

theorem State.faultJob_nbeJobs (s : State) (id : Nat) (i : ErrInfo) : (s.faultJob id i).nbeJobs ⊆ s.nbeJobs := by
  unfold State.faultJob
  split
  · exact List.Subset.refl _
  · dsimp only
    rw [(State.floodFor_floodOnly _ _ _).nbeJobs, ← (s.logError_logOnly _).nbeJobs]
    exact State.endJob_nbeJobs _ _ _ _

theorem State.faultVat_nbeJobs (s : State) (v : Nat) (i : ErrInfo) : (s.faultVat v i).nbeJobs ⊆ s.nbeJobs := by
  have hlog (u : State) (i : ErrInfo) : (u.log i).nbeJobs ⊆ u.nbeJobs := by
    rw [(u.log_logOnly i).nbeJobs]
    exact List.Subset.refl _
  unfold State.faultVat
  dsimp only
  split
  · split
    · exact State.faultJob_nbeJobs (s.modVat v fun x => { x with run := .stopped }) _ _
    · exact hlog (s.modVat v fun x => { x with run := .stopped }) _
  · exact hlog (s.modVat v fun x => { x with run := .stopped }) _

/-! ### A job that leaves -/

theorem State.find_nbeGone_same (s : State) (id : Nat) : tabFind (s.nbeGone id).nbeJobs id = none := tabFind_erase_same _ _

theorem State.find_nbeGone_ne (s : State) {id i : Nat} (h : i ≠ id) : tabFind (s.nbeGone id).nbeJobs i = tabFind s.nbeJobs i :=
  tabFind_erase_ne h _

/-- An NBE once job `id` is in its queue no more. -/
def Nbe.without (e : Nbe) (id : Nat) : Nbe := { e with queue := e.queue.filter fun i => i != id }

theorem State.nbe_nbeGone (s : State) (id u : Nat) :
    (s.nbeGone id).nbe u = (s.nbe u).without id := by
  have hfind : tabFind (s.nbeGone id).nbes u = (tabFind s.nbes u).map fun e => e.without id :=
    tabFind_map (fun _ e => Nbe.without e id) s.nbes u
  unfold State.nbe tabGet
  rw [hfind]
  cases tabFind s.nbes u <;> rfl

theorem State.nbeGone_leaves (s : State) (id : Nat) : s.Leaves (s.nbeGone id) := ⟨rfl, rfl, rfl, rfl⟩

/-! ### A job that faults the step that issued it (R24, R310) -/

/-- A record of a step's fault that names neither a TAG nor a ring yet. -/
def ErrInfo.ofStep (i : ErrInfo) : Prop := i.severity = 1 ∧ i.tag = 0 ∧ i.ring = ringNone

theorem NbeStop.info_ofStep (e : NbeStop) (k : NbeJob) (n : Nat) : (e.info k n).ofStep := by
  cases e <;> exact ⟨rfl, rfl, rfl⟩

section Faults
variable (s : State) (id : Nat) {k : NbeJob} {i : ErrInfo}

theorem State.nbeFaults_issuer {v : Nat} (hv : k.issuer = some v) (hi : i.ofStep) :
    StepFaults v i s (s.nbeFaults id k i) ∧ tabFind (s.nbeFaults id k i).nbeJobs id = none ∧
      (s.nbeFaults id k i).blocked = s.blocked := by
  have hf : s.nbeFaults id k i = (s.nbeGone id).faultVat v i := by simp only [State.nbeFaults, hv]
  obtain ⟨hsev, htag, hring⟩ := hi
  obtain ⟨hfaults, hblocked⟩ := (s.nbeGone id).faultVat_spec v hsev htag hring
  rw [hf]
  exact ⟨hfaults, tabFind_none_of_subset (s.find_nbeGone_same id) (State.faultVat_nbeJobs _ v i), hblocked⟩

/-- A job of the serving engine that belongs to no job of the device. -/
theorem State.nbeFaults_alone (hv : k.issuer = none) (hj : k.job = none) :
    LogOnly (s.nbeGone id) (s.nbeFaults id k i) ∧ (s.nbeFaults id k i).err = s.recorded i := by
  have hf : s.nbeFaults id k i = (s.nbeGone id).log i := by simp only [State.nbeFaults, hv, hj]
  rw [hf]
  exact ⟨State.log_logOnly _ i, State.log_err _ i⟩

theorem State.nbeFaults_job {j : Nat} {x : Job} (hv : k.issuer = none) (hj : k.job = some j) (hx : tabFind s.jobs j = some x)
    (hi : i.ofStep) :
    tabFind (s.nbeFaults id k i).nbeJobs id = none ∧ tabFind (s.nbeFaults id k i).jobs j = none ∧
      (s.nbeFaults id k i).err =
        s.recorded { i with part := x.part, tag := x.tag, ring := if x.serving then ringNone else x.ring } ∧
      (s.nbeFaults id k i).blocked = s.blocked := by
  have hf : s.nbeFaults id k i = (s.nbeGone id).faultJob j i := by simp only [State.nbeFaults, hv, hj]
  obtain ⟨hgone, herr, hblocked⟩ := State.faultJob_spec (s := s.nbeGone id) hx i
  rw [hf]
  refine ⟨tabFind_none_of_subset (s.find_nbeGone_same id) (State.faultJob_nbeJobs _ j i), hgone, ?_, hblocked⟩
  rw [← hi.1] at herr
  exact herr

end Faults

/-! ### The record is read (R328) -/

/-- The record of a vat's job as it stands in the window. -/
def NbeJob.withRecord (k : NbeJob) (bs : List Byte) : NbeJob := { k with record := BitVec.ofNat 1024 (natOfBytes bs) }

/-- The record of a near-bank job whose bytes could not be read: its NBE is the owner of the word that failed. -/
def NbeJob.unreadInfo (k : NbeJob) (f : ReadFail) : ErrInfo :=
  readInfo k.part 4 (16 * stackOf f.dpa + ownerNbe f.dpa) k.off f 0 ringNone 1

theorem NbeJob.unreadInfo_ofStep (k : NbeJob) (f : ReadFail) : (k.unreadInfo f).ofStep := ⟨rfl, rfl, rfl⟩

section Read
variable {s : State} {id : Nat} {k : NbeJob}

theorem State.nbeRead_engine (h : k.issuer = none) : s.nbeRead id k = (some k, s) := by
  rw [State.nbeRead, h]
  rfl

variable (h : k.issuer ≠ none)
include h

theorem State.nbeRead_fails {f : ReadFail} (hf : (s.winRead k.part k.off 128).1.fail = some f) :
    s.nbeRead id k = (none, (s.winRead k.part k.off 128).2.nbeFaults id k (k.unreadInfo f)) := by
  simp only [State.nbeRead, if_neg (mt Option.isNone_iff_eq_none.1 h), hf]
  rfl

theorem State.nbeRead_reads (hf : (s.winRead k.part k.off 128).1.fail = none) :
    s.nbeRead id k = (some (k.withRecord (s.winRead k.part k.off 128).1.bytes), (s.winRead k.part k.off 128).2) := by
  simp only [State.nbeRead, if_neg (mt Option.isNone_iff_eq_none.1 h), hf]
  rfl

end Read

/-! ### The queues (R222, R290) -/

/-- A job joins the queues of some NBEs, behind what is there. -/
def State.joinQueues (s : State) (id : Nat) (us : List Nat) : State :=
  forAll us (fun u s => s.modNbe u fun e => { e with queue := e.queue ++ [id] }) s

theorem State.joinQueues_only (s : State) (id : Nat) (us : List Nat) : ∃ e, s.joinQueues id us = { s with nbes := e } := by
  induction us generalizing s with
  | nil => exact ⟨s.nbes, rfl⟩
  | cons u us ih =>
    obtain ⟨e, h⟩ := ih (s.modNbe u fun e => { e with queue := e.queue ++ [id] })
    exact ⟨e, h⟩

theorem State.nbe_joinQueues {us : List Nat} (hd : us.Nodup) (s : State) (id u : Nat) :
    (s.joinQueues id us).nbe u = if u ∈ us then { s.nbe u with queue := (s.nbe u).queue ++ [id] } else s.nbe u :=
  foldl_places (get := State.nbe) (upd := fun s u => s.modNbe u fun e => { e with queue := e.queue ++ [id] })
    (g := fun _ e => { e with queue := e.queue ++ [id] }) (fun s k q => s.nbe_modNbe k q _) hd s u

/-- The NBEs that a job names, as the device numbers them. -/
def NbeJob.units (k : NbeJob) : List Nat := k.named.map k.unit

theorem NbeJob.nodup_units (k : NbeJob) : k.units.Nodup :=
  (List.nodup_range.filter _).map fun a b h => by
    unfold NbeJob.unit at h
    omega

theorem State.joinQueues_units (s : State) (id : Nat) (k : NbeJob) :
    forAll k.named (fun n s => s.modNbe (k.unit n) fun e => { e with queue := e.queue ++ [id] }) s = s.joinQueues id k.units := by
  rw [State.joinQueues, NbeJob.units, forAll, forAll, List.foldl_map]

theorem NbeJob.mem_units {k : NbeJob} {u : Nat} : u ∈ k.units ↔ ∃ n ∈ k.named, u = k.unit n := by
  rw [NbeJob.units, List.mem_map]
  exact exists_congr fun n => and_congr_right fun _ => eq_comm

/-- The job is queued at the NBEs that it names, and its NBJ holds no transfer any more. -/
def State.nbeQueued (s : State) (id : Nat) (k : NbeJob) : State :=
  ({ s with nbeJobs := tabPut id { k with phase := .queued } s.nbeJobs }.nbeTaken id k).joinQueues id k.units

/-- A vat once the NBJ of job `id` holds no transfer of it. -/
def Vat.released (x : Vat) (id : Nat) : Vat := { x with xfers := x.xfers.filter fun y => y.2.nbe != some id }

theorem State.nbeTaken_only (s : State) (id : Nat) (k : NbeJob) : ∃ v, s.nbeTaken id k = { s with vats := v } := by
  unfold State.nbeTaken
  split
  · exact ⟨_, rfl⟩
  · exact ⟨s.vats, rfl⟩

theorem State.vat_nbeTaken (s : State) (id : Nat) (k : NbeJob) (v : Nat) :
    (s.nbeTaken id k).vat v = if k.issuer = some v then (s.vat v).released id else s.vat v := by
  unfold State.nbeTaken
  split
  next w hw =>
    rw [State.vat_modVat, hw]
    by_cases h : v = w
    · subst h
      rw [if_pos rfl, if_pos rfl]
      rfl
    · rw [if_neg h, if_neg fun h' => h (Option.some.inj h').symm]
  next hnone => rw [hnone, if_neg (by simp)]

section Queued
variable (s : State) (id : Nat) (k : NbeJob)

theorem State.nbeQueued_only :
    ∃ e v, s.nbeQueued id k = { s with nbeJobs := tabPut id { k with phase := .queued } s.nbeJobs, nbes := e, vats := v } := by
  obtain ⟨v, hv⟩ := State.nbeTaken_only { s with nbeJobs := tabPut id { k with phase := .queued } s.nbeJobs } id k
  obtain ⟨e, he⟩ :=
    State.joinQueues_only { s with nbeJobs := tabPut id { k with phase := .queued } s.nbeJobs, vats := v } id k.units
  exact ⟨e, v, by rw [State.nbeQueued, hv, he]⟩

theorem State.nbeQueued_nbeJobs : (s.nbeQueued id k).nbeJobs = tabPut id { k with phase := .queued } s.nbeJobs := by
  obtain ⟨_, _, h⟩ := s.nbeQueued_only id k
  rw [h]

theorem State.nbeQueued_blocked : (s.nbeQueued id k).blocked = s.blocked := by
  obtain ⟨_, _, h⟩ := s.nbeQueued_only id k
  rw [h]

theorem State.nbe_nbeQueued (u : Nat) :
    (s.nbeQueued id k).nbe u = if u ∈ k.units then { s.nbe u with queue := (s.nbe u).queue ++ [id] } else s.nbe u := by
  obtain ⟨v, hv⟩ := State.nbeTaken_only { s with nbeJobs := tabPut id { k with phase := .queued } s.nbeJobs } id k
  rw [State.nbeQueued, State.nbe_joinQueues k.nodup_units, hv]
  rfl

theorem State.vat_nbeQueued (v : Nat) :
    (s.nbeQueued id k).vat v = if k.issuer = some v then (s.vat v).released id else s.vat v := by
  obtain ⟨e, he⟩ :=
    State.joinQueues_only ({ s with nbeJobs := tabPut id { k with phase := .queued } s.nbeJobs }.nbeTaken id k) id k.units
  rw [State.nbeQueued, he]
  exact State.vat_nbeTaken _ id k v

end Queued

/-! ### NBE_JOB_ACCEPT by what the record says (R290, R310, R328) -/

section Accept
variable {s : State} {id : Nat} {k : NbeJob} (hfind : tabFind s.nbeJobs id = some k)
include hfind

theorem State.nbeAccept_idle (h : k.phase ≠ .offered) : s.nbeAccept id = s := by
  simp only [State.nbeAccept, hfind]
  exact if_pos h

variable (hoffered : k.phase = .offered)
include hoffered

theorem State.nbeAccept_unread {u : State} (h : s.nbeRead id k = (none, u)) : s.nbeAccept id = u := by
  simp only [State.nbeAccept, hfind, hoffered, ne_eq, not_true_eq_false, if_false, h]

variable {k' : NbeJob} {u : State} (hread : s.nbeRead id k = (some k', u))
include hread

theorem State.nbeAccept_stops {e : NbeStop} (h : u.nbeArrives k' = some e) :
    s.nbeAccept id = u.nbeFaults id k' (e.info k' (k'.named.headD 0)) := by
  simp only [State.nbeAccept, hfind, hoffered, ne_eq, not_true_eq_false, if_false, hread, h]

variable (harrives : u.nbeArrives k' = none)
include harrives

theorem State.nbeAccept_full (h : s.nbeRoom id k' = false) : s.nbeAccept id = s := by
  simp only [State.nbeAccept, hfind, hoffered, ne_eq, not_true_eq_false, if_false, hread, harrives, h, Bool.not_false, if_true]

theorem State.nbeAccept_queues (h : s.nbeRoom id k' = true) : s.nbeAccept id = u.nbeQueued id k' := by
  simp only [State.nbeAccept, hfind, hoffered, ne_eq, not_true_eq_false, if_false, hread, harrives, h, Bool.not_true,
    Bool.false_eq_true]
  exact State.joinQueues_units _ id k'

end Accept

/-- While a granule of the record is under re-read, the command waits (R526). -/
theorem State.nbeAccept_waits {s : State} {id v : Nat} {k : NbeJob} (hfind : tabFind s.nbeJobs id = some k)
    (hoffered : k.phase = .offered) (hv : k.issuer = some v) (hb : (s.winRead k.part k.off 128).2.blocked = true) :
    (s.nbeAccept id).blocked = true ∨ s.nbeAccept id = s := by
  have hissuer : k.issuer ≠ none := by simp [hv]
  cases hfail : (s.winRead k.part k.off 128).1.fail with
  | some f =>
    rw [State.nbeAccept_unread hfind hoffered (State.nbeRead_fails hissuer hfail)]
    exact .inl ((State.nbeFaults_issuer _ id hv (k.unreadInfo_ofStep f)).2.2.trans hb)
  | none =>
    have hread := State.nbeRead_reads (id := id) hissuer hfail
    generalize hk' : k.withRecord (s.winRead k.part k.off 128).1.bytes = k' at hread
    cases harrives : (s.winRead k.part k.off 128).2.nbeArrives k' with
    | some e =>
      have hv' : k'.issuer = some v := by rw [← hk']; exact hv
      rw [State.nbeAccept_stops hfind hoffered hread harrives]
      exact .inl ((State.nbeFaults_issuer _ id hv' (e.info_ofStep k' _)).2.2.trans hb)
    | none =>
      cases hroom : s.nbeRoom id k' with
      | false => exact .inr (State.nbeAccept_full hfind hoffered hread harrives hroom)
      | true =>
        rw [State.nbeAccept_queues hfind hoffered hread harrives hroom]
        exact .inl ((State.nbeQueued_blocked _ id k').trans hb)

end Sys2Proof.Machine
end
section
/-! The statement on near-bank jobs that are accepted, refused and completed (R222, R233, R290, R291, R310, R328). -/

namespace Sys2Proof.Machine

/-! ### What the read of a record leaves -/

/-- What a job meets when it reaches the NBE does not depend on what a command is told of the stacks. -/
theorem State.nbeArrives_told (s : State) (k : NbeJob) : (s.told []).nbeArrives k = s.nbeArrives k := rfl

/-- A read that does not wait leaves memory in its canonical form: only what the command was told is over. -/
theorem StackOnly.after_eq_told {s u : State} {errs : Errs} (h : StackOnly (s.told errs) u) (hm : u.mem.wf = true)
    (hb : u.blocked = false) : s.after u = u.told [] := by
  have hp : u.pending = s.pending := by
    obtain ⟨_, _, _, _, _, _, _, _, rfl⟩ := h
    rfl
  exact State.after_eq (t := u.told []) hp hm rfl hb

/-- What the NBEs find when a job reaches them: its record is `k'`, and the read of it leaves `u`. -/
structure NbeArrival (s : State) (errs : Errs) (id : Nat) (k : NbeJob) (base : State) (k' : NbeJob) (u : State) : Prop where
  read : (s.told errs).nbeRead id k = (some k', u)
  stack : StackOnly (s.told errs) u
  canonical : u.mem.wf = true
  blocked : u.blocked = false
  left : base = s.after u
  engine : k.issuer = none → base = s
  issuer : k'.issuer = k.issuer
  job : k'.job = k.job

theorem nbeArrival {s base : State} {errs : Errs} {k k' : NbeJob} (hl : s.live) (id : Nat)
    (h : (k.issuer = none ∧ base = s ∧ k' = k) ∨
      (k.issuer ≠ none ∧ ((s.told errs).winRead k.part k.off 128).2.blocked = false ∧
        ((s.told errs).winRead k.part k.off 128).1.fail = none ∧ base = s.after ((s.told errs).winRead k.part k.off 128).2 ∧
        k' = k.withRecord ((s.told errs).winRead k.part k.off 128).1.bytes)) :
    ∃ u, NbeArrival s errs id k base k' u := by
  obtain ⟨-, hm, hq⟩ := hl
  rcases h with ⟨hnone, rfl, rfl⟩ | ⟨hissuer, hb, hfail, rfl, rfl⟩
  · exact ⟨_, State.nbeRead_engine hnone, .refl _, hm, hq.2, ((State.Leaves.refl _).after hm hq).symm, fun _ => rfl, rfl, rfl⟩
  · exact ⟨_, State.nbeRead_reads hissuer hfail, State.winRead_stackOnly _ _ _ _, (State.winRead_grows _ _ _ _).2.1 hm, hb, rfl,
      fun hnone => absurd hnone hissuer, rfl, rfl⟩

namespace NbeArrival
variable {s base u : State} {errs : Errs} {id : Nat} {k k' : NbeJob} (a : NbeArrival s errs id k base k' u)
include a

theorem arrives : u.nbeArrives k' = base.nbeArrives k' := by
  rw [a.left, a.stack.after_eq_told a.canonical a.blocked, State.nbeArrives_told]

theorem nbeJobs : u.nbeJobs = s.nbeJobs := by
  obtain ⟨_, _, _, _, _, _, _, _, h⟩ := a.stack
  rw [h]
  rfl

theorem nbe (n : Nat) : u.nbe n = s.nbe n := by
  obtain ⟨_, _, _, _, _, _, _, _, h⟩ := a.stack
  rw [h]
  rfl

theorem jobs : u.jobs = s.jobs := by
  obtain ⟨_, _, _, _, _, _, _, _, h⟩ := a.stack
  rw [h]
  rfl

theorem recorded (hv : k.issuer = none) (i : ErrInfo) : u.recorded i = s.recorded i := by
  have h : (s.after u).recorded i = s.recorded i := by rw [← a.left, a.engine hv]
  exact h

end NbeArrival

/-! ### NBE_JOB_ACCEPT -/

theorem nbeJobAccept_row (s : State) (id : Nat) (errs : Errs) : Row (.nbeJobAccept id errs) s errs fun s => s.nbeAccept id :=
  .inl rfl

section Accept
variable {s : State} {id : Nat} {k : NbeJob} {errs : Errs} (hl : s.live) (hfind : tabFind s.nbeJobs id = some k)
  (hoffered : k.phase = .offered)
include hl hfind hoffered

/-- A record whose granule is under re-read is not yet read. -/
theorem nbeJobAccept_waits {v : Nat} (hv : k.issuer = some v) (hb : ((s.told errs).winRead k.part k.off 128).2.blocked = true) :
    Runs (.nbeJobAccept id errs) s s := by
  rcases State.nbeAccept_waits (s := s.told errs) hfind hoffered hv hb with hwait | hsame
  · exact runs_blocked (f := fun s => s.nbeAccept id) hl rfl hwait
  · exact (nbeJobAccept_row s id errs).idle hl hsame

/-- A record that cannot be read faults the step of its issuer. -/
theorem nbeJobAccept_unread {v : Nat} {f : ReadFail} (hv : k.issuer = some v)
    (hb : ((s.told errs).winRead k.part k.off 128).2.blocked = false)
    (hfail : ((s.told errs).winRead k.part k.off 128).1.fail = some f) :
    ∃ t, Runs (.nbeJobAccept id errs) s t ∧ tabFind t.nbeJobs id = none ∧
      StepFaults v (k.unreadInfo f) (s.after ((s.told errs).winRead k.part k.off 128).2) t := by
  have heffect := State.nbeAccept_unread (s := s.told errs) hfind hoffered
    (State.nbeRead_fails (id := id) (hv ▸ Option.some_ne_none v) hfail)
  obtain ⟨hfaults, hgone, hblocked⟩ :=
    ((s.told errs).winRead k.part k.off 128).2.nbeFaults_issuer id hv (k.unreadInfo_ofStep f)
  have hruns := (nbeJobAccept_row s id errs).runs hl (by rw [heffect]; exact hblocked.trans hb)
  rw [heffect] at hruns
  exact ⟨_, hruns, hgone, hfaults.after s⟩

variable {base u : State} {k' : NbeJob} (a : NbeArrival s errs id k base k' u)
include a

theorem nbeJobAccept_full (harrives : base.nbeArrives k' = none) (hroom : (s.told errs).nbeRoom id k' = false) :
    Runs (.nbeJobAccept id errs) s s :=
  (nbeJobAccept_row s id errs).idle hl
    (State.nbeAccept_full (s := s.told errs) hfind hoffered a.read (a.arrives.trans harrives) hroom)

theorem nbeJobAccept_queues (harrives : base.nbeArrives k' = none) (hroom : (s.told errs).nbeRoom id k' = true) :
    ∃ t, Runs (.nbeJobAccept id errs) s t ∧ t = { base with nbeJobs := t.nbeJobs, nbes := t.nbes, vats := t.vats } ∧
      tabFind t.nbeJobs id = some { k' with phase := .queued } ∧ (∀ i, i ≠ id → tabFind t.nbeJobs i = tabFind s.nbeJobs i) ∧
      (∀ m, t.nbe m = if m ∈ k'.units then { s.nbe m with queue := (s.nbe m).queue ++ [id] } else s.nbe m) ∧
      ∀ v, t.vat v = if k.issuer = some v then (s.vat v).released id else s.vat v := by
  have heffect := State.nbeAccept_queues (s := s.told errs) hfind hoffered a.read (a.arrives.trans harrives) hroom
  have hruns := (nbeJobAccept_row s id errs).runs hl (by rw [heffect]; exact (u.nbeQueued_blocked id k').trans a.blocked)
  rw [heffect] at hruns
  refine ⟨_, hruns, ?_, ?_, fun i hi => ?_, fun m => (u.nbe_nbeQueued id k' m).trans (by rw [a.nbe]),
    fun v => (u.vat_nbeQueued id k' v).trans (by rw [a.issuer, a.stack.vat]; rfl)⟩
  · obtain ⟨_, _, hqueued⟩ := u.nbeQueued_only id k'
    rw [hqueued, a.left]
    rfl
  · exact (congrArg (tabFind · id) (u.nbeQueued_nbeJobs id k')).trans (tabFind_put_same _ _ _)
  · exact (congrArg (tabFind · i) (u.nbeQueued_nbeJobs id k')).trans ((tabFind_put_ne hi _ _).trans (by rw [a.nbeJobs]))

section Stops
variable {e : NbeStop} (harrives : base.nbeArrives k' = some e) {i : ErrInfo} (hi : i = e.info k' (k'.named.headD 0))
include harrives hi

theorem nbeJobAccept_stops (hb : (u.nbeFaults id k' i).blocked = u.blocked) :
    Runs (.nbeJobAccept id errs) s (s.after (u.nbeFaults id k' i)) := by
  have heffect := State.nbeAccept_stops (s := s.told errs) hfind hoffered a.read (a.arrives.trans harrives)
  rw [← hi] at heffect
  have hruns := (nbeJobAccept_row s id errs).runs hl (by rw [heffect]; exact hb.trans a.blocked)
  rwa [heffect] at hruns

/-- A refused record faults the step that issued it (R310). -/
theorem nbeJobAccept_faults {v : Nat} (hv : k.issuer = some v) :
    ∃ t, Runs (.nbeJobAccept id errs) s t ∧ tabFind t.nbeJobs id = none ∧ StepFaults v i base t := by
  obtain ⟨hfaults, hgone, hblocked⟩ := u.nbeFaults_issuer id (a.issuer.trans hv) (hi ▸ e.info_ofStep k' _ : i.ofStep)
  refine ⟨_, nbeJobAccept_stops hl hfind hoffered a harrives hi hblocked, hgone, ?_⟩
  rw [a.left]
  exact hfaults.after s

/-- With no step to fault, its error is recorded (log 83). -/
theorem nbeJobAccept_logs (hv : k.issuer = none) (hj : k.job = none) :
    ∃ t, Runs (.nbeJobAccept id errs) s t ∧
      (tabFind t.nbeJobs id = none ∧ ∀ m, m ≠ id → tabFind t.nbeJobs m = tabFind s.nbeJobs m) ∧ t.err = s.recorded i := by
  obtain ⟨hlog, herr⟩ := u.nbeFaults_alone id (i := i) (a.issuer.trans hv) (a.job.trans hj)
  have hjobs : (u.nbeFaults id k' i).nbeJobs = tabErase id s.nbeJobs := by
    rw [hlog.nbeJobs, ← a.nbeJobs]
    rfl
  refine ⟨_, nbeJobAccept_stops hl hfind hoffered a harrives hi hlog.blocked, ⟨?_, fun m hm => ?_⟩, herr.trans (a.recorded hv i)⟩
  · exact (congrArg (tabFind · id) hjobs).trans (tabFind_erase_same _ _)
  · exact (congrArg (tabFind · m) hjobs).trans (tabFind_erase_ne hm _)

/-- A record of the serving engine ends the step's job with the fault. -/
theorem nbeJobAccept_endsJob {j : Nat} {x : Job} (hv : k.issuer = none) (hj : k.job = some j) (hx : tabFind s.jobs j = some x) :
    ∃ t, Runs (.nbeJobAccept id errs) s t ∧ tabFind t.nbeJobs id = none ∧ tabFind t.jobs j = none ∧
      t.err = s.recorded { i with part := x.part, tag := x.tag, ring := if x.serving then ringNone else x.ring } := by
  obtain ⟨hgone, hended, herr, hblocked⟩ := u.nbeFaults_job id (a.issuer.trans hv) (a.job.trans hj) (a.jobs ▸ hx)
    (hi ▸ e.info_ofStep k' _ : i.ofStep)
  exact ⟨_, nbeJobAccept_stops hl hfind hoffered a harrives hi hblocked, hgone, hended, herr.trans (a.recorded hv _)⟩

end Stops
end Accept

/-! ### NBE_JOB_COMPLETE (R233, R291) -/

/-- No job of a partition waits for its footprint or stands preempted. -/
def State.noneWait (s : State) (n : Nat) : Prop := ∀ x ∈ s.jobs, x.2.part = n → x.2.isWaiting = false ∧ x.2.isPreempted = false

section NoneWait
variable {s : State} {n : Nat} (h : s.noneWait n)
include h

theorem State.noneWait.filter_eq_nil {p : Job → Bool} (hp : ∀ j, p j = true → j.isWaiting = true ∨ j.isPreempted = true) :
    ((s.jobs.map (·.2)).filter fun j => j.part == n).filter p = [] := by
  rw [List.filter_eq_nil_iff]
  intro j hj hpj
  obtain ⟨hmem, hpart⟩ := List.mem_filter.1 hj
  obtain ⟨x, hx, rfl⟩ := List.mem_map.1 hmem
  obtain ⟨hwait, hpre⟩ := h x hx (beq_iff_eq.1 hpart)
  rcases hp _ hpj with hw | hw
  · exact Bool.false_ne_true (hwait.symm.trans hw)
  · exact Bool.false_ne_true (hpre.symm.trans hw)

theorem State.noneWait.startOrder : s.startOrder n = [] := by
  have hwaiting (b : Job → Bool) : ((s.jobs.map (·.2)).filter fun j => j.part == n).filter (fun j => j.isWaiting && b j) = [] :=
    h.filter_eq_nil fun j hj => .inl (Bool.and_eq_true_iff.1 hj).1
  simp only [State.startOrder]
  rw [hwaiting, hwaiting, h.filter_eq_nil fun j hj => .inr hj]
  rfl

/-- Nobody's footprint changes hands. -/
theorem State.noneWait.settleJobs : s.settleJobs n = s := by
  have hurgent : (s.jobs.map (·.2)).filter (fun k => k.part == n && k.lc && k.isWaiting) = [] := by
    have hnil := h.filter_eq_nil (p := fun j => j.lc && j.isWaiting) fun j hj => .inl (Bool.and_eq_true_iff.1 hj).2
    rw [List.filter_filter] at hnil
    rw [← hnil]
    exact List.filter_congr fun j _ => by rw [Bool.and_comm _ (j.part == n), Bool.and_assoc]
  have hstart : startWaiting n (s.jobs.length + 1) s = s := by
    unfold startWaiting
    rw [h.startOrder]
    rfl
  simp only [State.settleJobs, hurgent]
  exact hstart

end NoneWait

theorem State.finishEnd_running {s : State} {v : Nat} (h : (s.vat v).run ≠ .ending) : s.finishEnd v = s := by
  unfold State.finishEnd
  exact if_neg fun hend => h hend.1

section Complete
variable {s : State} {id : Nat} {k : NbeJob} (hfind : tabFind s.nbeJobs id = some k)
include hfind

theorem State.nbeComplete_idle (h : k.phase ≠ .worked ∨ s.nbeWaits id = true) : s.nbeComplete id = s := by
  simp only [State.nbeComplete, hfind]
  exact if_pos h

variable (hworked : k.phase = .worked) (hports : s.nbeWaits id = false)
include hworked hports

theorem State.nbeComplete_engine (hv : k.issuer = none) (hflag : k.flag = none) :
    s.nbeComplete id = (s.nbeGone id).settleJobs k.part := by
  simp only [State.nbeComplete, hfind, hworked, hports, hv, hflag, ne_eq, not_true_eq_false, Bool.false_eq_true, or_self, if_false]
  rfl

theorem State.nbeComplete_issuer {v : Nat} (hv : k.issuer = some v) :
    s.nbeComplete id = ((s.nbeGone id).setFlagAt k.flag).finishEnd v := by
  simp only [State.nbeComplete, hfind, hworked, hports, hv, ne_eq, not_true_eq_false, Bool.false_eq_true, or_self, if_false]

end Complete

/-- The flag of a job whose issuer neither waits in END nor watches a word. -/
theorem State.flagged_running {s : State} {v a b : Nat} (hrun : (s.vat v).run ≠ .ending)
    (hidle : ∀ e m k d, (s.vat v).run ≠ .waitf e m k d) :
    (s.setFlagAt (some (v, a, b))).finishEnd v = s.modVat v fun x => x.setFlag a b := by
  have hset : s.setFlagAt (some (v, a, b)) = s.modVat v fun x => x.setFlag a b := by
    refine State.waitfTest_idle ?_
    rw [State.vat_modVat_same]
    exact hidle
  rw [hset]
  refine State.finishEnd_running ?_
  rw [State.vat_modVat_same]
  exact hrun

/-- A vat whose only near-bank job has left waits for none. -/
theorem State.nbeBusy_nbeGone {s : State} {id v : Nat} (h : ∀ x ∈ s.nbeJobs, x.1 ≠ id → x.2.issuer ≠ some v) :
    (s.nbeGone id).nbeBusy v = false := by
  refine List.any_eq_false.2 fun x hx hissuer => ?_
  exact h x (mem_tabErase hx) (tabFind_eq_none.1 (s.find_nbeGone_same id) x hx) (beq_iff_eq.1 hissuer)

/-- Job `id` has left the device, and every queue. -/
def NbeLeft (id : Nat) (s t : State) : Prop :=
  (tabFind t.nbeJobs id = none ∧ ∀ i, i ≠ id → tabFind t.nbeJobs i = tabFind s.nbeJobs i) ∧ ∀ u, t.nbe u = (s.nbe u).without id

theorem nbeLeft {s t : State} {id : Nat} (hjobs : t.nbeJobs = (s.nbeGone id).nbeJobs) (hnbes : t.nbes = (s.nbeGone id).nbes) :
    NbeLeft id s t := by
  refine ⟨⟨?_, fun i hi => ?_⟩, fun u => ?_⟩
  · rw [hjobs, State.find_nbeGone_same]
  · rw [hjobs, State.find_nbeGone_ne s hi]
  · rw [State.nbe, hnbes]
    exact s.nbe_nbeGone id u

theorem nbeJobComplete_exec (s : State) (id : Nat) :
    exec (.nbeJobComplete id) s = act (whenRunning fun s => s.nbeComplete id) s := rfl

section CompleteRow
variable {s : State} {id : Nat} {k : NbeJob} (hl : s.live) (hfind : tabFind s.nbeJobs id = some k) (hworked : k.phase = .worked)
  (hports : s.nbeWaits id = false)
include hl hfind hworked hports

/-- A job of the serving engine leaves, and a step program that waited for it may start (R396). -/
theorem nbeJobComplete_engine (hflag : k.flag = none) (hv : k.issuer = none) :
    ∃ t, Runs (.nbeJobComplete id) s t ∧ NbeLeft id s t ∧
      (s.noneWait k.part → t = s.nbeGone id) := by
  have hsettled := (s.nbeGone id).settleJobs_jobsOnly k.part
  have hruns := runs_leaves hl (nbeJobComplete_exec s id) (State.nbeComplete_engine hfind hworked hports hv hflag)
    ((s.nbeGone_leaves id).trans hsettled.leaves)
  refine ⟨_, hruns, ?_, fun hnone => State.noneWait.settleJobs (s := s.nbeGone id) hnone⟩
  obtain ⟨⟨_, _, _, h⟩, -⟩ := hsettled
  exact nbeLeft (by rw [h]) (by rw [h])

section Issued
variable {v : Nat} (hv : k.issuer = some v)
include hv

/-- Where no END waits, the job leaves alone. -/
theorem nbeJobComplete_running (hflag : k.flag = none) (hrun : (s.vat v).run ≠ .ending) :
    Runs (.nbeJobComplete id) s (s.nbeGone id) := by
  refine runs_leaves hl (nbeJobComplete_exec s id) ?_ (s.nbeGone_leaves id)
  rw [State.nbeComplete_issuer hfind hworked hports hv, hflag]
  exact State.finishEnd_running (s := s.nbeGone id) hrun

/-- An END that waited for this job alone is over (R233). -/
theorem nbeJobComplete_ending (hflag : k.flag = none) (hrun : (s.vat v).run = .ending) (hx : (s.vat v).xfers = [])
    (hjob : s.jobOf v = none) (hothers : ∀ x ∈ s.nbeJobs, x.1 ≠ id → x.2.issuer ≠ some v) :
    Runs (.nbeJobComplete id) s ((s.nbeGone id).modVat v fun x => { x with run := .ended }) := by
  refine runs_leaves hl (nbeJobComplete_exec s id) ?_ (State.nbeGone_leaves s id)
  rw [State.nbeComplete_issuer hfind hworked hports hv, hflag]
  exact State.finishEnd_alone (s := s.nbeGone id) hrun hx (State.nbeBusy_nbeGone hothers) hjob

/-- The flag of the job is set (R291). -/
theorem nbeJobComplete_flagged {a b : Nat} (hflag : k.flag = some (v, a, b)) (hrun : (s.vat v).run ≠ .ending)
    (hidle : ∀ e m k d, (s.vat v).run ≠ .waitf e m k d) :
    Runs (.nbeJobComplete id) s ((s.nbeGone id).modVat v fun x => x.setFlag a b) := by
  refine runs_leaves hl (nbeJobComplete_exec s id) ?_ (State.nbeGone_leaves s id)
  rw [State.nbeComplete_issuer hfind hworked hports hv, hflag]
  exact State.flagged_running (s := s.nbeGone id) hrun hidle

end Issued
end CompleteRow

/-- Settles O34: an accept by what the read of the record gives and by what the NBEs find of it; a completion is `nbeGone`,
then the flag, then the END that waited. -/
theorem nbeJobsQueue : Obligations.NbeJobsQueue := by
  intro s id k errs hl hfind c read gone
  refine ⟨fun h => (nbeJobAccept_row s id errs).idle hl (State.nbeAccept_idle (s := s.told errs) hfind h),
    fun v hoffered hv => ⟨nbeJobAccept_waits hl hfind hoffered hv, fun f => nbeJobAccept_unread hl hfind hoffered hv⟩,
    fun base k' hoffered h => ?_, ?_⟩
  · obtain ⟨u, a⟩ := nbeArrival hl id h
    intro room
    refine ⟨nbeJobAccept_full hl hfind hoffered a, fun harrives hroom => ?_, fun e harrives =>
      ⟨fun v => nbeJobAccept_faults hl hfind hoffered a harrives rfl, nbeJobAccept_logs hl hfind hoffered a harrives rfl,
        fun j x => nbeJobAccept_endsJob hl hfind hoffered a harrives rfl⟩⟩
    obtain ⟨t, hruns, honly, hjob, hothers, hnbe, hvat⟩ := nbeJobAccept_queues hl hfind hoffered a harrives hroom
    refine ⟨t, hruns, honly, hjob, hothers, fun n hn => ?_, fun m hm => ?_, hvat⟩
    · rw [hnbe, if_pos (NbeJob.mem_units.2 ⟨n, hn, rfl⟩)]
    · rw [hnbe, if_neg fun h => (NbeJob.mem_units.1 h).elim fun n hn => hm n hn.1 hn.2]
  · intro c left only
    refine ⟨fun h => runs_leaves hl (nbeJobComplete_exec s id) (State.nbeComplete_idle hfind h) (.refl s),
      fun hworked hports => ⟨fun hflag hv => ?_, fun v hv => ⟨fun hflag hrun => ?_, fun hflag hrun hx hjob hothers => ?_,
        fun a b hflag ha _ _ hrun hidle => ?_⟩⟩⟩
    · obtain ⟨t, hruns, hleft, honly⟩ := nbeJobComplete_engine hl hfind hworked hports hflag hv
      refine ⟨t, hruns, hleft, fun hnone => ⟨hleft, ?_⟩⟩
      rw [honly hnone]
      rfl
    · exact ⟨_, nbeJobComplete_running hl hfind hworked hports hv hflag hrun, nbeLeft rfl rfl, rfl⟩
    · exact ⟨_, nbeJobComplete_ending hl hfind hworked hports hv hflag hrun hx hjob hothers, nbeLeft rfl rfl,
        by rw [State.vat_modVat_same]⟩
    · refine ⟨_, nbeJobComplete_flagged hl hfind hworked hports hv hflag hrun hidle, nbeLeft rfl rfl,
        (s.nbeGone id).modVat_onlyVat v _, ?_⟩
      rw [State.vat_modVat_same]
      exact (s.vat v).word_setFlag ha b

end Sys2Proof.Machine
end
